-- ==== Sys2Proof/Word.lean ====
section
/-! DEFINITION. The word types and the maps that registers and memories are kept in. -/

namespace Sys2Proof

abbrev Byte := BitVec 8
abbrev W32 := BitVec 32
abbrev W64 := BitVec 64
abbrev W512 := BitVec 512
/-- The 1,024 data bits of a 128-byte line (R208). -/
abbrev Line := BitVec 1024
/-- The 128 check bits of a line (R208). -/
abbrev Chk := BitVec 128

/-- A sparse map by number: pairs of key and value, keys rising. -/
abbrev SMap (α : Type) := List (Nat × α)

end Sys2Proof
end

