-- ==== Sys2Proof/Machine/Maps.lean ====
section
/-! DEFINITION. Reading and writing the sparse maps, and the canonical form of a memory. -/

namespace Sys2Proof

/-- The value at a key, or d when the key is not listed. -/
def SMap.get {α : Type} (d : α) : SMap α → Nat → α
  | [], _ => d
  | (k, v) :: r, n => if k = n then v else SMap.get d r n

/-- The value at a key, if listed. -/
def SMap.find {α : Type} : SMap α → Nat → Option α
  | [], _ => none
  | (k, v) :: r, n => if k = n then some v else SMap.find r n

/-- List a value at a key, keeping keys rising. -/
def SMap.put {α : Type} : SMap α → Nat → α → SMap α
  | [], n, x => [(n, x)]
  | (k, v) :: r, n, x =>
    if k = n then (n, x) :: r else if n < k then (n, x) :: (k, v) :: r else (k, v) :: SMap.put r n x

/-- Take a key out. -/
def SMap.del {α : Type} (m : SMap α) (n : Nat) : SMap α := m.filter (fun p => p.1 != n)

/-- A memory: bytes by address. An unlisted address reads 0 (log entry 3). -/
abbrev Memory := SMap Byte

/-- The byte at an address. -/
def Memory.read (m : Memory) (a : Nat) : Byte := SMap.get 0 m a

/-- The listed entries of bytes from an address: the value an unlisted address reads as is never listed. -/
def Memory.listed (a : Nat) : List Byte → Memory
  | [] => []
  | b :: r => if b = 0 then Memory.listed (a + 1) r else (a, b) :: Memory.listed (a + 1) r

/-- Store bytes from an address. -/
def Memory.store (m : Memory) (a : Nat) (bs : List Byte) : Memory :=
  m.filter (fun c => decide (c.1 < a)) ++ (Memory.listed a bs ++ m.filter (fun c => decide (a + bs.length ≤ c.1)))

/-- The n bytes from an address. -/
def Memory.bytes (m : Memory) (a n : Nat) : List Byte :=
  let near := m.filter (fun c => decide (a ≤ c.1) && decide (c.1 < a + n))
  if near.isEmpty then List.replicate n 0 else (List.range n).map fun i => Memory.read near (a + i)

/-- Keys strictly rising. -/
def SMap.rising {α : Type} : SMap α → Bool
  | [] => true
  | [_] => true
  | a :: b :: r => decide (a.1 < b.1) && SMap.rising (b :: r)

/-- The canonical form of a memory: addresses strictly rising, and no entry that an unlisted address reads as. -/
def Memory.wf (m : Memory) : Bool := SMap.rising m && m.all (fun c => c.2 != 0)

end Sys2Proof
end

