-- ==== Sys2Proof/Machine/Bits.lean ====
section
/-! DEFINITION. Bit fields, sign extension and byte order. -/

namespace Sys2Proof

/-- Field hi:lo of a number (R4). -/
def fld (x hi lo : Nat) : Nat := (x >>> lo) % 2 ^ (hi + 1 - lo)

/-- Bit i of a number, as 0 or 1. -/
def bitN (x i : Nat) : Nat := (x >>> i) % 2

/-- Bit i of a number. -/
def tst (x i : Nat) : Bool := bitN x i == 1

/-- The signed value of the low n bits. -/
def sgn (x n : Nat) : Int :=
  let y := x % 2 ^ n
  if n = 0 then 0 else if y < 2 ^ (n - 1) then (y : Int) else (y : Int) - (2 ^ n : Nat)

/-- A signed value taken modulo 2^n. -/
def wrapI (x : Int) (n : Nat) : Nat := (x % ((2 ^ n : Nat) : Int)).toNat

/-- 64 bits of an integer. -/
def w64I (x : Int) : W64 := BitVec.ofNat 64 (wrapI x 64)

/-- 64 bits of a natural number. -/
def w64 (x : Nat) : W64 := BitVec.ofNat 64 x

/-- 512 bits of a natural number. -/
def w512 (x : Nat) : W512 := BitVec.ofNat 512 x

/-- 0 or 1. -/
def b2n (b : Bool) : Nat := if b then 1 else 0

/-- Lane j of w bits of a number (R151). -/
def laneN (x w j : Nat) : Nat := (x >>> (w * j)) % 2 ^ w

/-- The number whose lanes of w bits are given, lane 0 lowest. -/
def packLanes (w : Nat) : List Nat → Nat
  | [] => 0
  | x :: r => x % 2 ^ w + 2 ^ w * packLanes w r

/-- The lanes of w bits, n of them. -/
def lanesOf (x w n : Nat) : List Nat := (List.range n).map (laneN x w)

/-- The list with its k-th entry replaced by v. -/
def setAt {α : Type} (l : List α) (k : Nat) (v : α) : List α := l.set k v

/-- Replace lane j of w bits. -/
def setLane (x w j v : Nat) : Nat :=
  x - laneN x w j <<< (w * j) + (v % 2 ^ w) <<< (w * j)

/-- Tick E reached at tick now (R24). -/
def reached (now e : BitVec 48) : Bool := decide ((now - e).toNat < 2 ^ 47)

/-- Bytes of a number, n of them, little-endian (R4). -/
def bytesOf (x : Nat) : Nat → List Byte
  | 0 => []
  | n + 1 => BitVec.ofNat 8 x :: bytesOf (x / 256) n

/-- A number from its bytes, little-endian (R4). -/
def ofBytes : List Byte → Nat
  | [] => 0
  | b :: r => b.toNat + 256 * ofBytes r

/-- 2^n − 1. -/
def mask (n : Nat) : Nat := 2 ^ n - 1

/-- The number of one bits among the low n. -/
def popN (x : Nat) : Nat → Nat
  | 0 => 0
  | n + 1 => x % 2 + popN (x / 2) n

/-- The count of a field saturated at n bits. -/
def satN (x n : Nat) : Nat := min x (mask n)

/-- The ceiling of a / b. -/
def ceilDiv (a b : Nat) : Nat := (a + b - 1) / b

end Sys2Proof
end

