-- ==== Sys2Proof/Syntax.lean ====
section
/-! DEFINITION. The steps of the machine (spec/opcode_table.json): the operands of a move slot, the operands of the
events, and the one inductive of instructions. -/

namespace Sys2Proof

/-- The read-only specials (R36). -/
inductive Special where
  | ctx | rank | die | ndie | tick | cycle | slen | lstat
  deriving DecidableEq, Repr

/-- The sources of a move slot (R35). -/
inductive Src where
  /-- g0 to g127 -/
  | g (n : Fin 128)
  /-- v0 to v31 -/
  | v (n : Fin 32)
  /-- p0 to p7 -/
  | p (n : Fin 8)
  /-- bypass latches q0 to q18 (R46) -/
  | q (n : Fin 19)
  /-- literal l0 to l14 -/
  | lit (k : Fin 15)
  /-- literal pair l(2k+1):l(2k) -/
  | pair (k : Fin 7)
  /-- index registers i0 to i7 -/
  | i (n : Fin 8)
  /-- read-only specials (R36) -/
  | special (s : Special)
  /-- short immediate, 9 bits -/
  | imm (v : BitVec 9)
  deriving DecidableEq, Repr

/-- The destinations of a data move (R37).  `p 0` is named only to be refused by `Instr.wf`. -/
inductive Dst where
  | g (n : Fin 128)
  | v (n : Fin 32)
  | p (n : Fin 8)
  /-- operand port a, b or c (k = 0, 1, 2) of unit f -/
  | port (f : Fin 16) (k : Fin 3)
  deriving DecidableEq, Repr

/-- A guard: the invert bit and a predicate (R33). -/
structure Guard where
  inv : Bool
  p : Fin 8
  deriving DecidableEq, Repr

/-- The guard and the source (the trigger operand) of a trigger move (R32). -/
structure Trig where
  guard : Guard
  src : Src
  deriving DecidableEq, Repr

/-- What the self-tests and image checks of a boot found (R17 to R19, R406): which C-dies, which O-dies and whether
the H-die passed the self-test, which ring stops pass traffic through, which firmware images verify under ECDSA and under
LMS and are not below the rollback counter (those of the C-dies, from 16 on of the O-dies, and 24 of the H-die), and the
fused policy. -/
structure BootResult where
  cpass : BitVec 16
  opass : BitVec 8
  hpass : Bool
  ring : BitVec 16
  ecdsa : BitVec 25
  lms : BitVec 25
  fresh : BitVec 25
  policy : BitVec 4
  erased : Bool
  deriving DecidableEq, Repr, Inhabited

/-- A host access to package memory (R390): a read of n bytes, or a write of the given bytes, at a physical address,
under a legend (the spec names none for the host, so it is the host's choice; R370). -/
inductive HostAccess where
  | read (pa : Nat) (legend : Fin 10) (n : Nat)
  | write (pa : Nat) (legend : Fin 10) (bytes : List (BitVec 8))
  deriving DecidableEq, Repr

/-- The engines that take job cards (R353). -/
inductive Engine where
  | copy | coll
  deriving DecidableEq, Repr

/-- What a message between routers carries (R279 to R288). -/
inductive NtBody where
  /-- an interest or a refresh: name, end, hops travelled -/
  | interest (name : BitVec 64) (e : BitVec 48) (hops : Nat)
  /-- a tile: name, its lines (1,024 data bits and a HIGH and a LOW mark each), served-from code, hops -/
  | tile (name : BitVec 64) (lines : List (BitVec 1024 × Bool × Bool)) (served : Nat) (hops : Nat)
  /-- a refusal or an answer: name and status -/
  | answer (name : BitVec 64) (status : BitVec 64)
  deriving DecidableEq, Repr

/-- A message that reaches a router: the k-th message on its way inside the package, or one that a peer package sends
on a Rhavor face (8 to 15) of a ring stop (R279). -/
inductive NtArrival where
  | queued (k : Nat)
  | peer (r : Fin 16) (face : Fin 8) (b : NtBody)
  deriving DecidableEq, Repr

/-- A collective packet (R361, R362): identifier, generation, digest, sequence number, the operation's shape
(op, bytes, redop, fmt, root), the sending member's rank, and its source bytes with the byte ranges read with HIGH
severity. -/
structure CollPacket where
  g : Nat
  gen : Nat
  digest : BitVec 64
  seq : Nat
  shape : List Nat
  rank : Nat
  /-- the sender's entry in its own member list -/
  member : BitVec 64
  bytes : List (BitVec 8)
  high : List (Nat × Nat)
  deriving DecidableEq, Repr

/-- A collective packet that reaches a die: the k-th on its way inside the package, the k-th of a die's hold buffer
judged again, or one that a peer package sends on a Rhavor link to a die. -/
inductive CollArrival where
  | queued (k : Nat)
  | held (d : Fin 16) (k : Nat)
  | peer (l : Fin 128) (d : Fin 16) (p : CollPacket)
  deriving DecidableEq, Repr

/-- A link of the ring (between Cn and C(n+1)) or a hub link (R402). -/
inductive RingLink where
  | ring (n : Fin 16)
  | hub (n : Fin 16)
  deriving DecidableEq, Repr

/-- What raised the security alarm (R407). -/
inductive Alarm where
  | tamper | glitch
  deriving DecidableEq, Repr

/-- The atomic operations (R218), with their width in bytes. -/
inductive AtomOp where
  | add | min (u : Bool) | max (u : Bool) | and | or | xchg | cas | fadd
  deriving DecidableEq, Repr

/-- What a peer package asks through a kind-2 handle (R215): its handle index on this package, an offset, and a read of
n bytes, a write of bytes or an atomic with its operands. -/
inductive PeerOp where
  | read (n : Nat)
  | write (bytes : List (BitVec 8))
  | atomic (op : AtomOp) (w : Nat) (a b : BitVec 64)
  deriving DecidableEq, Repr

/-- A request of a peer package that arrives on a link, for the die that owns the link (R215, R273 row). -/
structure PeerRequest where
  rh : Nat
  off : Nat
  op : PeerOp
  deriving DecidableEq, Repr

/-- The rows of spec/opcode_table.json: 79 events, the data move and the 194 trigger operations of R52. -/
inductive Instr where
  /-- The package tick counter increments every 1,024 cycles, and its copies agree within 4 cycles. (R22) -/
  | tickIncrement
  /-- When a launch's charge reaches a further multiple of its budget, its class is lowered by one. (R93) -/
  | energyDemotion (d : Fin 16) (l : Nat)
  /-- At every tick that is a multiple of 2,197, each die writes a telemetry record. (R405) -/
  | telemetryRecord (d : Fin 16)
  /-- The core fetches and checks the next bundle and issues it, so that all its enabled slots act in one cycle. (R41) -/
  | bundleIssue (d : Fin 16) (r : Fin 192)
  /-- An operation's result lands in its bypass latch at its due cycle, or later if it arrives late. (R49) -/
  | latchResultLand (d : Fin 16) (r : Fin 192) (x : Fin 4) (q : Fin 19)
  /-- A bundle that has waited more than 64 cycles on a late latch becomes a context-switch point. (R106) -/
  | lateLatchSwitch (d : Fin 16) (r : Fin 192)
  /-- A blocked context becomes ready again when the condition that blocked it clears. (R106) -/
  | contextReady (d : Fin 16) (r : Fin 192) (x : Fin 4)
  /-- A bounded wait whose deadline is reached while its condition still fails raises WAIT_TIMEOUT. (R334) -/
  | waitTimeout (d : Fin 16) (r : Fin 192) (x : Fin 4)
  /-- When the bundle count is about to pass wd.limit, the context raises STALL_WATCHDOG instead of issuing. (R338) -/
  | stallWatchdog (d : Fin 16) (r : Fin 192)
  /-- At an eligible bundle boundary the core stops the context, switches to the shadow bank and starts at uivec. (R121) -/
  | userInterruptTake (d : Fin 16) (r : Fin 192)
  /-- The dispatcher pre-empts a task: the context is stopped, any lease is spilled, the frame is written and the context is freed. (R118) -/
  | preemption (d : Fin 16) (r : Fin 192) (x : Fin 4)
  /-- When a page arrives, tasks waiting on it resume under R116 with no handler change. (R119) -/
  | pageFaultResume (d : Fin 16) (f : Fin 3072)
  /-- Every 110 ticks the dispatcher reassigns the 64 hardware queue slots by effective class and round robin. (R91) -/
  | quantumBoundary (d : Fin 16)
  /-- A queue that has had work for 10 ms without a slot has its effective class raised by one. (R92) -/
  | queueAgeing (d : Fin 16) (q : Fin 1024)
  /-- A task that has run 110 ticks while an equal or higher class task waits for its core is pre-empted. (R94) -/
  | quantumPreemption (d : Fin 16) (r : Fin 192) (x : Fin 4)
  /-- The walker reads and checks the record at a queue's head and accepts it, or halts the queue with a cause. (R85) -/
  | launchRecordAdmit (d : Fin 16) (q : Fin 1024)
  /-- Once its edges are clear and an eligible core exists, the walker translates, places and preloads one task. (R88) -/
  | taskPlacement (d : Fin 16) (q : Fin 1024)
  /-- Once G cores are eligible and a membership set is free, the walker places every member of a gang in one step. (R88) -/
  | gangPlacement (d : Fin 16) (q : Fin 1024)
  /-- After a halt, once its stores are acknowledged and its L1 is written back, the task ends and its resources are freed. (R127) -/
  | taskEnd (d : Fin 16) (f : Fin 3072)
  /-- A completion word on an absent page is written once the page arrives, and the launch then completes. (R96) -/
  | deferredCompletionWrite (d : Fin 16) (l : Nat)
  /-- A core that holds no task writes back and invalidates its L1, zeroes the upper scratchpad and adopts the new split. (R178) -/
  | splitAdopt (d : Fin 16) (r : Fin 192)
  /-- The migration engine moves one page: it marks it absent, flushes the L1s, copies it, remaps it and resumes waiters. (R222) -/
  | migrationPage (d : Fin 16)
  /-- The L1 writes back a dirty sector to its home slice, on eviction or within 4,096 cycles. (R189) -/
  | l1SectorWriteback (d : Fin 16) (r : Fin 192) (tag : Nat)
  /-- The L1 invalidates a clean sector of G or P memory within 4,096 cycles after filling it. (R306) -/
  | l1CleanExpiry (d : Fin 16) (r : Fin 192) (tag : Nat)
  /-- The L2 evicts a line and writes it back whole when it holds a dirty sector. (R217) -/
  | l2Eviction (line : Nat)
  /-- A store's home acknowledges it, and the context's unacknowledged count for that class falls. (R311) -/
  | storeAcknowledgement (d : Fin 16) (r : Fin 192) (x : Fin 4) (k : Nat)
  /-- A free array grants its lease to the next asking task in frame order and restores its spill or gives the initial state. (R230) -/
  | leaseGrant (d : Fin 16) (a : Fin 8)
  /-- A grant ends after 64 commands or 2^20 cycles, and it either renews or leads to a spill for another asking task. (R230) -/
  | grantEnd (d : Fin 16) (a : Fin 8)
  /-- At the next checkpoint the array writes the holder's state to its spill slot and suspends the lease. (R247) -/
  | arraySpill (d : Fin 16) (a : Fin 8)
  /-- After release or halt, once every queued command has completed, the array discards its state and frees the lease. (R232) -/
  | leaseFree (d : Fin 16) (a : Fin 8)
  /-- An edge load reads its rows and scales, converts with auto-shift, fills the back bank and sets its fresh bit. (R262) -/
  | arrayLoad (d : Fin 16) (a : Fin 8) (k : Fin 16)
  /-- A quiet array's start is made once the current-rise spacing allows it. (R249) -/
  | arrayStart (d : Fin 16) (a : Fin 8)
  /-- A pass starts, swaps fresh banks and fixes its L and seeds. (R238) -/
  | arrayPassStart (d : Fin 16) (a : Fin 8)
  /-- One generator step adds counter changes for every running row and evaluates early stop. (R238) -/
  | arrayPassStep (d : Fin 16) (a : Fin 8)
  /-- Promotion adds each output's estimate to its FP32 accumulator and clears the promoted rows' counter state. (R78) -/
  | arrayPromotion (d : Fin 16) (a : Fin 8)
  /-- A drain writes the accumulators of the active outputs, converted, to the destination. (R263) -/
  | arrayDrain (d : Fin 16) (a : Fin 8) (k : Fin 16)
  /-- A clear resets the counter state of the active rows and optionally their accumulators. (R265) -/
  | arrayClear (d : Fin 16) (a : Fin 8)
  /-- An sq.cfg command sets the mode, extents, rule, designated set and margin when it executes. (R260) -/
  | arrayCfgApply (d : Fin 16) (a : Fin 8)
  /-- An sq.bar starts once every earlier access of the named streams has taken effect. (R244) -/
  | arrayBarrier (d : Fin 16) (a : Fin 8)
  /-- An sq.rdc or sq.stat reads the array state once it has settled. (R266) -/
  | arrayRead (d : Fin 16) (a : Fin 8)
  /-- A face record or local entry whose end is reached is dropped, and a local token completes with NT_EXPIRED. (R283) -/
  | ntRecordExpiry (r : Fin 17)
  /-- A blocked gs.flgw rereads its word after each store to it and at least once per tick. (R349) -/
  | flagWaitReread (d : Fin 16) (r : Fin 192) (x : Fin 4)
  /-- A data move copies its source to its destination register or port. (R32) -/
  | dataMove (g : Guard) (dst : Dst) (src : Src)
  /-- Adds a and t modulo 2^64. (R142) -/
  | ixAdd (u : Fin 3) (t : Trig)
  /-- Subtracts t from a modulo 2^64. (R142) -/
  | ixSub (u : Fin 3) (t : Trig)
  /-- Adds in 32 bits and sign-extends the result. (R142) -/
  | ixAddw (u : Fin 3) (t : Trig)
  /-- Subtracts in 32 bits and sign-extends the result. (R142) -/
  | ixSubw (u : Fin 3) (t : Trig)
  /-- Bitwise AND of a and t. (R142) -/
  | ixAnd (u : Fin 3) (t : Trig)
  /-- Bitwise OR of a and t. (R142) -/
  | ixOr (u : Fin 3) (t : Trig)
  /-- Bitwise XOR of a and t. (R142) -/
  | ixXor (u : Fin 3) (t : Trig)
  /-- a AND NOT t. (R142) -/
  | ixAndn (u : Fin 3) (t : Trig)
  /-- Shifts a left by t[5:0]. (R143) -/
  | ixShl (u : Fin 3) (t : Trig)
  /-- Shifts a right logically by t[5:0]. (R143) -/
  | ixShr (u : Fin 3) (t : Trig)
  /-- Shifts a right arithmetically by t[5:0]. (R143) -/
  | ixSha (u : Fin 3) (t : Trig)
  /-- Rotates a left by t[5:0]. (R143) -/
  | ixRotl (u : Fin 3) (t : Trig)
  /-- Delivers 1 when a equals t. (R144) -/
  | ixCeq (u : Fin 3) (t : Trig)
  /-- Delivers 1 when a differs from t. (R144) -/
  | ixCne (u : Fin 3) (t : Trig)
  /-- Delivers 1 when a is signed less than t. (R144) -/
  | ixClt (u : Fin 3) (t : Trig)
  /-- Delivers 1 when a is unsigned less than t. (R144) -/
  | ixCltu (u : Fin 3) (t : Trig)
  /-- Delivers 1 when a is signed less than or equal to t. (R144) -/
  | ixCle (u : Fin 3) (t : Trig)
  /-- Delivers 1 when a is unsigned less than or equal to t. (R144) -/
  | ixCleu (u : Fin 3) (t : Trig)
  /-- Signed minimum of a and t. (R145) -/
  | ixMin (u : Fin 3) (t : Trig)
  /-- Signed maximum of a and t. (R145) -/
  | ixMax (u : Fin 3) (t : Trig)
  /-- Unsigned minimum of a and t. (R145) -/
  | ixMinu (u : Fin 3) (t : Trig)
  /-- Unsigned maximum of a and t. (R145) -/
  | ixMaxu (u : Fin 3) (t : Trig)
  /-- Delivers a if t is nonzero, otherwise b. (R145) -/
  | ixSel (u : Fin 3) (t : Trig)
  /-- Low 64 bits of the product of a and t. (R146) -/
  | ixMul (u : Fin 3) (t : Trig)
  /-- High 64 bits of the signed product. (R146) -/
  | ixMulh (u : Fin 3) (t : Trig)
  /-- High 64 bits of the unsigned product. (R146) -/
  | ixMulhu (u : Fin 3) (t : Trig)
  /-- Counts the leading zero bits of t. (R147) -/
  | ixClz (u : Fin 3) (t : Trig)
  /-- Counts the one bits of t. (R147) -/
  | ixPopc (u : Fin 3) (t : Trig)
  /-- Extracts a bit field of a, zero-extended. (R148) -/
  | ixBext (u : Fin 3) (t : Trig)
  /-- Inserts the low bits of b into a as a bit field. (R148) -/
  | ixBins (u : Fin 3) (t : Trig)
  /-- Sign-extends a from n bits. (R149) -/
  | ixSext (u : Fin 3) (t : Trig)
  /-- Zero-extends a from n bits. (R149) -/
  | ixZext (u : Fin 3) (t : Trig)
  /-- Adds a signed offset within the offset field of a generic address. (R194) -/
  | agAdda (t : Trig)
  /-- Builds an L address. (R195) -/
  | agMkl (t : Trig)
  /-- Builds a C address from a rank and an offset. (R195) -/
  | agMkc (t : Trig)
  /-- Builds a P address from a handle index and an offset. (R195) -/
  | agMkp (t : Trig)
  /-- Replaces the alias class of an address. (R194) -/
  | agTag (t : Trig)
  /-- Classifies an address without accessing it. (R196) -/
  | agTsta (t : Trig)
  /-- Converts an L address to the C address of the same byte. (R197) -/
  | agCvtc (t : Trig)
  /-- Looks a G address up in the task's extent table. (R198) -/
  | agXlk (t : Trig)
  /-- Loads a byte, sign-extended. (R201) -/
  | lsLdb (u : Fin 2) (t : Trig)
  /-- Loads a byte, zero-extended. (R201) -/
  | lsLdbu (u : Fin 2) (t : Trig)
  /-- Loads a halfword, sign-extended. (R201) -/
  | lsLdh (u : Fin 2) (t : Trig)
  /-- Loads a halfword, zero-extended. (R201) -/
  | lsLdhu (u : Fin 2) (t : Trig)
  /-- Loads a word, sign-extended. (R201) -/
  | lsLdw (u : Fin 2) (t : Trig)
  /-- Loads a word, zero-extended. (R201) -/
  | lsLdwu (u : Fin 2) (t : Trig)
  /-- Loads a doubleword. (R201) -/
  | lsLdd (u : Fin 2) (t : Trig)
  /-- Loads 64 bytes into the 512-bit latch. (R201) -/
  | lsLdv (u : Fin 2) (t : Trig)
  /-- Stores a byte from port a. (R201) -/
  | lsStb (u : Fin 2) (t : Trig)
  /-- Stores a halfword from port a. (R201) -/
  | lsSth (u : Fin 2) (t : Trig)
  /-- Stores a word from port a. (R201) -/
  | lsStw (u : Fin 2) (t : Trig)
  /-- Stores a doubleword from port a. (R201) -/
  | lsStd (u : Fin 2) (t : Trig)
  /-- Stores 64 bytes from port a. (R201) -/
  | lsStv (u : Fin 2) (t : Trig)
  /-- Loads a doubleword and delivers the post-incremented address. (R202) -/
  | lsLddi (u : Fin 2) (t : Trig)
  /-- Loads 64 bytes and delivers the post-incremented address. (R202) -/
  | lsLdvi (u : Fin 2) (t : Trig)
  /-- Stores a doubleword and delivers the post-incremented address. (R202) -/
  | lsStdi (u : Fin 2) (t : Trig)
  /-- Stores 64 bytes and delivers the post-incremented address. (R202) -/
  | lsStvi (u : Fin 2) (t : Trig)
  /-- Gathers 16 elements at signed offsets into one part of the latch. (R203) -/
  | lsGath (u : Fin 2) (t : Trig)
  /-- Scatters 16 elements to signed offsets. (R203) -/
  | lsScat (u : Fin 2) (t : Trig)
  /-- Loads a doubleword with die-scope acquire. (R204) -/
  | lsLdaq (u : Fin 2) (t : Trig)
  /-- Stores a doubleword with die-scope release. (R204) -/
  | lsStrl (u : Fin 2) (t : Trig)
  /-- Starts filling a line into the L1. (R205) -/
  | lsPref (u : Fin 2) (t : Trig)
  /-- Writes back the dirty sectors of a line. (R205) -/
  | lsWbk (u : Fin 2) (t : Trig)
  /-- Writes back and then invalidates a line. (R205) -/
  | lsInv (u : Fin 2) (t : Trig)
  /-- Atomic add at the home slice, returning the old value. (R219) -/
  | lsAadd (u : Fin 2) (t : Trig)
  /-- Atomic minimum at the home slice. (R219) -/
  | lsAmin (u : Fin 2) (t : Trig)
  /-- Atomic maximum at the home slice. (R219) -/
  | lsAmax (u : Fin 2) (t : Trig)
  /-- Atomic AND at the home slice. (R219) -/
  | lsAand (u : Fin 2) (t : Trig)
  /-- Atomic OR at the home slice. (R219) -/
  | lsAor (u : Fin 2) (t : Trig)
  /-- Atomic exchange at the home slice. (R219) -/
  | lsAxch (u : Fin 2) (t : Trig)
  /-- Atomic compare-and-swap at the home slice. (R219) -/
  | lsAcas (u : Fin 2) (t : Trig)
  /-- Atomic FP32 add at the home slice. (R219) -/
  | lsAfadd (u : Fin 2) (t : Trig)
  /-- Lane-wise addition. (R159) -/
  | vxVadd (u : Fin 2) (t : Trig)
  /-- Lane-wise subtraction. (R159) -/
  | vxVsub (u : Fin 2) (t : Trig)
  /-- Lane-wise multiplication. (R159) -/
  | vxVmul (u : Fin 2) (t : Trig)
  /-- Lane-wise fused multiply-add. (R159) -/
  | vxVfma (u : Fin 2) (t : Trig)
  /-- Lane-wise maximum. (R160) -/
  | vxVmax (u : Fin 2) (t : Trig)
  /-- Lane-wise minimum. (R160) -/
  | vxVmin (u : Fin 2) (t : Trig)
  /-- Lane-wise absolute value. (R160) -/
  | vxVabs (u : Fin 2) (t : Trig)
  /-- Lane-wise negation. (R160) -/
  | vxVneg (u : Fin 2) (t : Trig)
  /-- Lane-wise equality mask. (R161) -/
  | vxVceq (u : Fin 2) (t : Trig)
  /-- Lane-wise less-than mask. (R161) -/
  | vxVclt (u : Fin 2) (t : Trig)
  /-- Lane-wise less-or-equal mask. (R161) -/
  | vxVcle (u : Fin 2) (t : Trig)
  /-- Lane-wise select by mask. (R162) -/
  | vxVsel (u : Fin 2) (t : Trig)
  /-- 512-bit AND. (R162) -/
  | vxVand (u : Fin 2) (t : Trig)
  /-- 512-bit OR. (R162) -/
  | vxVor (u : Fin 2) (t : Trig)
  /-- 512-bit XOR. (R162) -/
  | vxVxor (u : Fin 2) (t : Trig)
  /-- Lane-wise left shift. (R162) -/
  | vxVshl (u : Fin 2) (t : Trig)
  /-- Lane-wise logical right shift. (R162) -/
  | vxVshr (u : Fin 2) (t : Trig)
  /-- Lane-wise arithmetic right shift. (R162) -/
  | vxVsha (u : Fin 2) (t : Trig)
  /-- Broadcasts a lane value to every lane. (R163) -/
  | vxVbc (u : Fin 2) (t : Trig)
  /-- Extracts one lane. (R163) -/
  | vxVext (u : Fin 2) (t : Trig)
  /-- Inserts a value into one lane. (R163) -/
  | vxVins (u : Fin 2) (t : Trig)
  /-- Shuffles lanes by index bytes. (R163) -/
  | vxVshf (u : Fin 2) (t : Trig)
  /-- Sums the lanes along the fixed pairwise tree. (R164) -/
  | vxVrsum (u : Fin 2) (t : Trig)
  /-- Reduces the lanes to their maximum. (R164) -/
  | vxVrmax (u : Fin 2) (t : Trig)
  /-- Reduces the lanes to their minimum. (R164) -/
  | vxVrmin (u : Fin 2) (t : Trig)
  /-- Correctly rounded reciprocal of each lane. (R166) -/
  | vxVrcp (u : Fin 2) (t : Trig)
  /-- Correctly rounded reciprocal square root of each lane. (R166) -/
  | vxVrsq (u : Fin 2) (t : Trig)
  /-- Correctly rounded exponential of each lane. (R166) -/
  | vxVexp (u : Fin 2) (t : Trig)
  /-- Correctly rounded natural logarithm of each lane. (R166) -/
  | vxVlog (u : Fin 2) (t : Trig)
  /-- Dot product of a and t along the fixed tree. (R165) -/
  | vxVdot (u : Fin 2) (t : Trig)
  /-- Converts lanes between formats. (R168) -/
  | vsVcvt (t : Trig)
  /-- Scales FP32 lanes and quantises them to a target format. (R169) -/
  | vsVqnt (t : Trig)
  /-- Dequantises lanes to FP32 with a scale. (R169) -/
  | vsVdq (t : Trig)
  /-- Narrows two integer registers into one. (R171) -/
  | vsVpk (t : Trig)
  /-- Widens integer lanes into two latches. (R171) -/
  | vsVupk (t : Trig)
  /-- Lists the true and false lanes of a mask. (R172) -/
  | vsPart (t : Trig)
  /-- Counts the true lanes of a mask. (R172) -/
  | vsPcnt (t : Trig)
  /-- Compacts the selected lanes. (R172) -/
  | vsVcmp (t : Trig)
  /-- Expands compacted lanes back into place. (R172) -/
  | vsVexd (t : Trig)
  /-- Computes a power-of-two quantisation scale. (R170) -/
  | vsVmxe (t : Trig)
  /-- Delivers counter-based random doublewords. (R174) -/
  | vsRand (t : Trig)
  /-- Delivers normal deviates in FP32. (R175) -/
  | vsNorm (t : Trig)
  /-- Relative branch after one delay bundle. (R125) -/
  | brBr (t : Trig)
  /-- Absolute branch after one delay bundle. (R125) -/
  | brBra (t : Trig)
  /-- Relative call that delivers the link in br.q. (R125) -/
  | brCall (t : Trig)
  /-- Absolute call that delivers the link in br.q. (R125) -/
  | brCalla (t : Trig)
  /-- Return, which behaves as an absolute branch. (R125) -/
  | brRet (t : Trig)
  /-- Raises USER_TRAP, with the trap slot counted as done. (R126) -/
  | brTrap (t : Trig)
  /-- Halts the task after its bundle. (R127) -/
  | brHalt (t : Trig)
  /-- Yields issue to other contexts. (R128) -/
  | brYield (t : Trig)
  /-- Returns from a user interrupt (operand 0) or from a trap (operand 1). (R130) -/
  | brUiret (t : Trig)
  /-- Waits until an absolute tick or a pending user interrupt. (R129) -/
  | brWait (t : Trig)
  /-- Requests the array lease. (R257) -/
  | sqLease (t : Trig)
  /-- Gives up the array lease. (R258) -/
  | sqRels (t : Trig)
  /-- Queues a configuration of mode, extents and early-stop rule. (R259) -/
  | sqCfg (t : Trig)
  /-- Sets the stream length k. (R254) -/
  | sqLen (t : Trig)
  /-- Sets the A-side seed. (R254) -/
  | sqSeeda (t : Trig)
  /-- Sets the B-side seed. (R254) -/
  | sqSeedb (t : Trig)
  /-- Queues a load of the A back bank. (R261) -/
  | sqLda (t : Trig)
  /-- Queues a load of the B back bank. (R261) -/
  | sqLdb (t : Trig)
  /-- Queues a pass. (R264) -/
  | sqRun (t : Trig)
  /-- Queues a pass with early stop. (R264) -/
  | sqRunc (t : Trig)
  /-- Queues a macro of loads, passes and promotions over K chunks. (R270) -/
  | sqTile (t : Trig)
  /-- Queues a clear of the counter state. (R265) -/
  | sqClr (t : Trig)
  /-- Queues a promotion. (R265) -/
  | sqPromo (t : Trig)
  /-- Queues a drain of the accumulators. (R263) -/
  | sqDrain (t : Trig)
  /-- Reads one counter, accumulator or step count. (R266) -/
  | sqRdc (t : Trig)
  /-- Reads array status. (R267) -/
  | sqStat (t : Trig)
  /-- Queues a stream barrier. (R268) -/
  | sqBar (t : Trig)
  /-- Waits on an array token. (R269) -/
  | sqWait (t : Trig)
  /-- Binds a tensor id from a descriptor. (R293) -/
  | ntDefn (t : Trig)
  /-- Announces a tile by name. (R294) -/
  | ntAnn (t : Trig)
  /-- Expresses an interest in a tile by name. (R295) -/
  | ntInt (t : Trig)
  /-- Cancels an unclaimed interest. (R297) -/
  | ntCanc (t : Trig)
  /-- Retires iterations, or unbinds a tensor. (R298) -/
  | ntRet (t : Trig)
  /-- Writes a Gazetteer route. (R299) -/
  | ntRout (t : Trig)
  /-- Pins a Sconce copy. (R300) -/
  | ntPin (t : Trig)
  /-- Unpins a Sconce copy. (R300) -/
  | ntUnpn (t : Trig)
  /-- Probes a router's state for a name. (R300) -/
  | ntProb (t : Trig)
  /-- Reads a router's use and event counts. (R301) -/
  | ntStat (t : Trig)
  /-- Waits on a named-tile token. (R302) -/
  | ntWait (t : Trig)
  /-- Launches a record into a device queue. (R99) -/
  | eqLnch (t : Trig)
  /-- Pops an item from a hardware work queue. (R100) -/
  | eqPop (t : Trig)
  /-- Pushes an item to a hardware work queue. (R101) -/
  | eqPush (t : Trig)
  /-- Closes a hardware work queue. (R102) -/
  | eqQcls (t : Trig)
  /-- Submits a copy job card. (R357) -/
  | eqCpy (t : Trig)
  /-- Submits a fill job card. (R357) -/
  | eqFill (t : Trig)
  /-- Submits a page migration. (R224) -/
  | eqMig (t : Trig)
  /-- Reads migration status. (R224) -/
  | eqMigs (t : Trig)
  /-- Opens a collective group identifier. (R360) -/
  | eqCopn (t : Trig)
  /-- Submits a collective reduction. (R363) -/
  | eqCred (t : Trig)
  /-- Submits a collective multicast. (R364) -/
  | eqCmc (t : Trig)
  /-- Submits a collective parity operation. (R365) -/
  | eqCxp (t : Trig)
  /-- Closes a collective group identifier. (R366) -/
  | eqCcls (t : Trig)
  /-- Reads a CSR. (R131) -/
  | syCsrr (t : Trig)
  /-- Writes a CSR and delivers its old value. (R131) -/
  | syCsrw (t : Trig)
  /-- Fence with acquire and release parts at context, core or die scope. (R317) -/
  | syFnc (t : Trig)
  /-- Orders earlier stores before later engine and array commands. (R318) -/
  | syFncx (t : Trig)
  /-- Package-scope fence. (R319) -/
  | syFncp (t : Trig)
  /-- Declares the legend of scratchpad regions. (R381) -/
  | syLayo (t : Trig)
  /-- Sets the vector format and rounding mode. (R156) -/
  | sySetv (t : Trig)
  /-- Raises a flare. (R409) -/
  | syFlar (t : Trig)
  /-- Sets the user-interrupt enable, mask and vector. (R131) -/
  | syUie (t : Trig)
  /-- Sets the random generator's key and counter. (R156) -/
  | sySeed (t : Trig)
  /-- Copies an event record to scratchpad. (R394) -/
  | syEvr (t : Trig)
  /-- Compares 64 bits, and a mismatch traps or rewinds. (R385) -/
  | ckCmp (t : Trig)
  /-- Compares 512 bits. (R385) -/
  | ckCmpv (t : Trig)
  /-- Compares predicate bits. (R385) -/
  | ckCmpp (t : Trig)
  /-- Folds a value into a signature. (R385) -/
  | ckSig (t : Trig)
  /-- Folds a value into a signature and checks it against an expected value. (R385) -/
  | ckSigc (t : Trig)
  /-- Injects a memory bit flip, an arming or a parity error. (R387) -/
  | ckInj (t : Trig)
  /-- Joins or creates a membership set. (R345) -/
  | gsJoin (t : Trig)
  /-- Leaves a membership set. (R345) -/
  | gsLeav (t : Trig)
  /-- Reads a set's phase and member count. (R345) -/
  | gsMemb (t : Trig)
  /-- Arrives at a barrier, optionally waiting for the phase. (R346) -/
  | gsBarr (t : Trig)
  /-- Waits for a barrier phase to complete. (R346) -/
  | gsBarw (t : Trig)
  /-- Arrives at a rendezvous slot and waits for the round. (R347) -/
  | gsRdv (t : Trig)
  /-- Opens a static schedule segment. (R348) -/
  | gsSegb (t : Trig)
  /-- Commits a segment's held stores. (R348) -/
  | gsSegc (t : Trig)
  /-- Waits until a memory word satisfies a relation. (R349) -/
  | gsFlgw (t : Trig)
  /-- Waits on a token of any kind. (R350) -/
  | gsTokw (t : Trig)
  /-- Sets the wait time-out. (R351) -/
  | gsWto (t : Trig)
  /-- Module reset puts every register field at its reset value and starts boot. (R8) -/
  | moduleReset (b : BootResult)
  /-- A UCIe host port trains its modules and runs on those that trained. (R389) -/
  | hostPortTraining (port : Fin 2) (mods : BitVec 4)
  /-- A host write of lq.ctl sets the queue's fields, and re-enabling a halted queue resumes it at or after the halted record. (R82) -/
  | lqCtlWrite (d : Fin 16) (q : Fin 1024) (v : BitVec 64)
  /-- A host write of lq.tail publishes records, and an overrun halts the queue with cause 5. (R82) -/
  | lqTailWrite (d : Fin 16) (q : Fin 1024) (v : BitVec 64)
  /-- A host write of lq.base takes effect unless the queue has work, in which case the queue halts with cause 5. (R82) -/
  | lqBaseWrite (d : Fin 16) (q : Fin 1024) (v : BitVec 64)
  /-- A host write of sram.split.l1 requests a new split of L1 and scratchpad for every core of the die. (R177) -/
  | sramSplitWrite (d : Fin 16) (v : BitVec 64)
  /-- A write of pt.wake rereads the leaf, rewrites the extent entries of the page and resumes tasks waiting on it. (R212) -/
  | ptWake (d : Fin 16) (v : BitVec 64)
  /-- A host write of task.rst with go set ends the task in the named frame as a supervisor br.halt does. (R392) -/
  | taskRst (d : Fin 16) (v : BitVec 64)
  /-- A write of lk.stat.retrain retrains the link and brings into service the lanes of every lit fibre. (R398) -/
  | lkStatRetrain (l : Fin 128) (v : BitVec 64) (lit : BitVec 4)
  /-- A host write to a window register that has no row of its own sets its fields under R8. (R390) -/
  | hostRegisterWrite (d : Fin 16) (off : BitVec 18) (v : BitVec 64)
  /-- The host reads or writes package memory at its home slices with system scope. (R390) -/
  | hostMemoryAccess (a : HostAccess)
  /-- A peer package's refusal of a kind-2 store takes the place of its acknowledgement and is raised at the next package or engine fence. (R215) -/
  | peerRefusal (d : Fin 16) (r : Fin 192) (x : Fin 4) (k : Nat)
  /-- A router handles an arriving interest or refresh by answering, serving, merging or forwarding it. (R281) -/
  | ntInterestArrival (m : NtArrival)
  /-- A tile reaching a router is sent on every live face record, the entry is freed, and a Sconce copy may be kept. (R282) -/
  | ntTileArrival (m : NtArrival)
  /-- A refusal or an NT_NEVER answer on an entry's upstream face answers every face record and frees the entry. (R284) -/
  | ntAnswerArrival (m : NtArrival)
  /-- After the release, the producer's ring stop reads the source, stores the origin copy, completes the token and serves waiting entries. (R287) -/
  | ntAnnounceStore (d : Fin 16) (k : Nat)
  /-- A router applies a retirement, answers entries with NT_NEVER and drops Sconce copies of the retired names. (R288) -/
  | ntRetirementApply (k : Nat)
  /-- A binding is added to every router's copy of the table, and the token then completes. (R293) -/
  | ntBindingApply (k : Nat)
  /-- A route is written at its router, and the token then completes. (R299) -/
  | ntRouteApply (k : Nat)
  /-- The walker admits an accepted job card once it depends on no in-flight entry. (R355) -/
  | jobCardAdmit (d : Fin 16) (e : Engine)
  /-- The copy engine copies or fills bytes at the homes under the destination's legend. (R356) -/
  | copyExecute (d : Fin 16) (k : Nat) (line : Nat)
  /-- A job's token completes once every destination byte has been acknowledged at its home. (R357) -/
  | engineTokenComplete (d : Fin 16) (e : Engine) (k : Nat) (refused : Bool)
  /-- The collective engine starts a group operation at the next tick boundary. (R367) -/
  | collOpStart (d : Fin 16)
  /-- A die accepts, holds or drops an arriving collective packet according to its identifier state, generation and digest. (R361) -/
  | collPacketArrival (p : CollArrival)
  /-- A closing identifier becomes free once its packets have all been acknowledged or dropped. (R366) -/
  | collIdFree (d : Fin 16) (g : Fin 256)
  /-- The receiver checks a data flit's CRC and sequence, accepts it in order, or discards it and sends a NAK. (R397) -/
  | rhavorDataFlit (l : Fin 128) (flit : BitVec 256) (crc : BitVec 32)
  /-- An ACK frees every flit before the sequence number it names from the replay buffer. (R397) -/
  | rhavorAck (l : Fin 128) (n : BitVec 16)
  /-- A NAK makes the sender resend from the named flit, and 16 consecutive NAKs retrain the link. (R397) -/
  | rhavorNak (l : Fin 128) (n : BitVec 16)
  /-- An idle control flit is received and carries no data. (R397) -/
  | rhavorIdle (l : Fin 128)
  /-- A lane-map flit makes the sender restripe over the surviving lanes and resend from the oldest unacknowledged flit. (R398) -/
  | rhavorLaneMap (l : Fin 128) (mask : BitVec 16)
  /-- The receiver sends an acknowledgement after at most 64 flits or 1 µs. (R397) -/
  | rhavorAckTimer (l : Fin 128)
  /-- The receiver detects loss of light on a fibre, stops accepting flits, sends lane maps and writes type 0x20 records. (R398) -/
  | lossOfLight (l : Fin 128) (fibre : Fin 4)
  /-- A ring or hub link that fails training or CRC is marked failed, and traffic is re-routed through the detour channel. (R402) -/
  | ringLinkFailure (k : RingLink)
  /-- A tamper or glitch detector raises the alarm, which acts under the fused policy after a type 0x30 record. (R407) -/
  | securityAlarm (a : Alarm)
  /-- A domain's supply falling below droop.th samples every core's issuing bundle and writes a type 0x31 record. (R411) -/
  | droop (d : Fin 16) (dom : Fin 4) (depth : BitVec 64)
  /-- A Rhavor link's training ends. Its state leaves training for up or down, with the lanes of the fibres then lit, and traffic held at the ring stop for a down link resumes. (R398) -/
  | rhavorLinkTrained (l : Fin 128) (lit : BitVec 4)
  /-- A read, write or atomic request through a kind-2 handle arrives from a peer package over a Rhavor link. It is checked against this package's handle rh and offset, performed at the home slice, and answered with a response, an acknowledgement or a refusal. (R215) -/
  | peerPackageRequest (l : Fin 128) (q : PeerRequest)
  deriving DecidableEq, Repr

end Sys2Proof
end

