-- ==== Sys2Proof/Decode.lean ====
section
/-! DEFINITION. The decoder of move slots and bundles (R26 to R37, R52), total on any bits, and the encoder. -/

namespace Sys2Proof

/-- The special of a code 0x108 + k (R36). -/
def decodeSpecial (k : Nat) : Option Special :=
  match k with
  | 0 => some .ctx | 1 => some .rank | 2 => some .die | 3 => some .ndie
  | 4 => some .tick | 5 => some .cycle | 6 => some .slen | 7 => some .lstat
  | _ => none

/-- The number n as an index below b, or none. -/
def below (b n : Nat) : Option (Fin b) := if h : n < b then some (Fin.mk n h) else none

/-- Source codes of 10 bits (R35); none is a reserved code. -/
def decodeSrc (c : Nat) : Option Src :=
  if c < 0x080 then (below 128 c).map .g
  else if c < 0x0A0 then (below 32 (c - 0x080)).map .v
  else if c < 0x0A8 then (below 8 (c - 0x0A0)).map .p
  else if c < 0x0C0 then none
  else if c < 0x0D3 then (below 19 (c - 0x0C0)).map .q
  else if c < 0x0E0 then none
  else if c < 0x0EF then (below 15 (c - 0x0E0)).map .lit
  else if c < 0x0F0 then none
  else if c < 0x0F7 then (below 7 (c - 0x0F0)).map .pair
  else if c < 0x100 then none
  else if c < 0x108 then (below 8 (c - 0x100)).map .i
  else if c < 0x110 then (decodeSpecial (c - 0x108)).map .special
  else if c < 0x200 then none
  else if c < 0x400 then some (.imm (BitVec.ofNat 9 c))
  else none

/-- Destination codes of 9 bits (R37); none is a reserved code. -/
def decodeDst (c : Nat) : Option Dst :=
  if c < 0x080 then (below 128 c).map .g
  else if c < 0x0A0 then (below 32 (c - 0x080)).map .v
  else if c = 0x0A0 then none
  else if c < 0x0A8 then (below 8 (c - 0x0A0)).map .p
  else if c < 0x100 then none
  else if c < 0x140 then
    match below 16 ((c - 0x100) / 4), below 3 (c % 4) with
    | some f, some k => some (.port f k)
    | _, _ => none
  else none

/-- The guard of bits 22:19 (R33). -/
def decodeGuard (x : Nat) : Guard := ⟨tst x 3, Fin.mk (x % 8) (Nat.mod_lt _ (by decide))⟩

/-- The operations of ix (R52); none is a reserved cell. -/
def ixOp (u : Fin 3) (opcode : Nat) (t : Trig) : Option Instr :=
  match opcode with
  | 0 => some (.ixAdd u t)
  | 1 => some (.ixSub u t)
  | 2 => some (.ixAddw u t)
  | 3 => some (.ixSubw u t)
  | 4 => some (.ixAnd u t)
  | 5 => some (.ixOr u t)
  | 6 => some (.ixXor u t)
  | 7 => some (.ixAndn u t)
  | 8 => some (.ixShl u t)
  | 9 => some (.ixShr u t)
  | 10 => some (.ixSha u t)
  | 11 => some (.ixRotl u t)
  | 12 => some (.ixCeq u t)
  | 13 => some (.ixCne u t)
  | 14 => some (.ixClt u t)
  | 15 => some (.ixCltu u t)
  | 16 => some (.ixCle u t)
  | 17 => some (.ixCleu u t)
  | 18 => some (.ixMin u t)
  | 19 => some (.ixMax u t)
  | 20 => some (.ixMinu u t)
  | 21 => some (.ixMaxu u t)
  | 22 => some (.ixSel u t)
  | 23 => some (.ixMul u t)
  | 24 => some (.ixMulh u t)
  | 25 => some (.ixMulhu u t)
  | 26 => some (.ixClz u t)
  | 27 => some (.ixPopc u t)
  | 28 => some (.ixBext u t)
  | 29 => some (.ixBins u t)
  | 30 => some (.ixSext u t)
  | 31 => some (.ixZext u t)
  | _ => none

/-- The operations of ag (R52); none is a reserved cell. -/
def agOp (opcode : Nat) (t : Trig) : Option Instr :=
  match opcode with
  | 0 => some (.agAdda t)
  | 1 => some (.agMkl t)
  | 2 => some (.agMkc t)
  | 3 => some (.agMkp t)
  | 4 => some (.agTag t)
  | 5 => some (.agTsta t)
  | 6 => some (.agCvtc t)
  | 7 => some (.agXlk t)
  | _ => none

/-- The operations of ls (R52); none is a reserved cell. -/
def lsOp (u : Fin 2) (opcode : Nat) (t : Trig) : Option Instr :=
  match opcode with
  | 0 => some (.lsLdb u t)
  | 1 => some (.lsLdbu u t)
  | 2 => some (.lsLdh u t)
  | 3 => some (.lsLdhu u t)
  | 4 => some (.lsLdw u t)
  | 5 => some (.lsLdwu u t)
  | 6 => some (.lsLdd u t)
  | 7 => some (.lsLdv u t)
  | 8 => some (.lsStb u t)
  | 9 => some (.lsSth u t)
  | 10 => some (.lsStw u t)
  | 11 => some (.lsStd u t)
  | 12 => some (.lsStv u t)
  | 13 => some (.lsLddi u t)
  | 14 => some (.lsLdvi u t)
  | 15 => some (.lsStdi u t)
  | 16 => some (.lsStvi u t)
  | 17 => some (.lsGath u t)
  | 18 => some (.lsScat u t)
  | 19 => some (.lsLdaq u t)
  | 20 => some (.lsStrl u t)
  | 21 => some (.lsPref u t)
  | 22 => some (.lsWbk u t)
  | 23 => some (.lsInv u t)
  | 24 => some (.lsAadd u t)
  | 25 => some (.lsAmin u t)
  | 26 => some (.lsAmax u t)
  | 27 => some (.lsAand u t)
  | 28 => some (.lsAor u t)
  | 29 => some (.lsAxch u t)
  | 30 => some (.lsAcas u t)
  | 31 => some (.lsAfadd u t)
  | _ => none

/-- The operations of vx (R52); none is a reserved cell. -/
def vxOp (u : Fin 2) (opcode : Nat) (t : Trig) : Option Instr :=
  match opcode with
  | 0 => some (.vxVadd u t)
  | 1 => some (.vxVsub u t)
  | 2 => some (.vxVmul u t)
  | 3 => some (.vxVfma u t)
  | 4 => some (.vxVmax u t)
  | 5 => some (.vxVmin u t)
  | 6 => some (.vxVabs u t)
  | 7 => some (.vxVneg u t)
  | 8 => some (.vxVceq u t)
  | 9 => some (.vxVclt u t)
  | 10 => some (.vxVcle u t)
  | 11 => some (.vxVsel u t)
  | 12 => some (.vxVand u t)
  | 13 => some (.vxVor u t)
  | 14 => some (.vxVxor u t)
  | 15 => some (.vxVshl u t)
  | 16 => some (.vxVshr u t)
  | 17 => some (.vxVsha u t)
  | 18 => some (.vxVbc u t)
  | 19 => some (.vxVext u t)
  | 20 => some (.vxVins u t)
  | 21 => some (.vxVshf u t)
  | 22 => some (.vxVrsum u t)
  | 23 => some (.vxVrmax u t)
  | 24 => some (.vxVrmin u t)
  | 25 => some (.vxVrcp u t)
  | 26 => some (.vxVrsq u t)
  | 27 => some (.vxVexp u t)
  | 28 => some (.vxVlog u t)
  | 29 => some (.vxVdot u t)
  | _ => none

/-- The operations of vs (R52); none is a reserved cell. -/
def vsOp (opcode : Nat) (t : Trig) : Option Instr :=
  match opcode with
  | 0 => some (.vsVcvt t)
  | 1 => some (.vsVqnt t)
  | 2 => some (.vsVdq t)
  | 3 => some (.vsVpk t)
  | 4 => some (.vsVupk t)
  | 5 => some (.vsPart t)
  | 6 => some (.vsPcnt t)
  | 7 => some (.vsVcmp t)
  | 8 => some (.vsVexd t)
  | 9 => some (.vsVmxe t)
  | 10 => some (.vsRand t)
  | 11 => some (.vsNorm t)
  | _ => none

/-- The operations of br (R52); none is a reserved cell. -/
def brOp (opcode : Nat) (t : Trig) : Option Instr :=
  match opcode with
  | 0 => some (.brBr t)
  | 1 => some (.brBra t)
  | 2 => some (.brCall t)
  | 3 => some (.brCalla t)
  | 4 => some (.brRet t)
  | 5 => some (.brTrap t)
  | 6 => some (.brHalt t)
  | 7 => some (.brYield t)
  | 8 => some (.brUiret t)
  | 9 => some (.brWait t)
  | _ => none

/-- The operations of sq (R52); none is a reserved cell. -/
def sqOp (opcode : Nat) (t : Trig) : Option Instr :=
  match opcode with
  | 0 => some (.sqLease t)
  | 1 => some (.sqRels t)
  | 2 => some (.sqCfg t)
  | 3 => some (.sqLen t)
  | 4 => some (.sqSeeda t)
  | 5 => some (.sqSeedb t)
  | 6 => some (.sqLda t)
  | 7 => some (.sqLdb t)
  | 8 => some (.sqRun t)
  | 9 => some (.sqRunc t)
  | 10 => some (.sqTile t)
  | 11 => some (.sqClr t)
  | 12 => some (.sqPromo t)
  | 13 => some (.sqDrain t)
  | 14 => some (.sqRdc t)
  | 15 => some (.sqStat t)
  | 16 => some (.sqBar t)
  | 17 => some (.sqWait t)
  | _ => none

/-- The operations of nt (R52); none is a reserved cell. -/
def ntOp (opcode : Nat) (t : Trig) : Option Instr :=
  match opcode with
  | 0 => some (.ntDefn t)
  | 1 => some (.ntAnn t)
  | 2 => some (.ntInt t)
  | 3 => some (.ntCanc t)
  | 4 => some (.ntRet t)
  | 5 => some (.ntRout t)
  | 6 => some (.ntPin t)
  | 7 => some (.ntUnpn t)
  | 8 => some (.ntProb t)
  | 9 => some (.ntStat t)
  | 10 => some (.ntWait t)
  | _ => none

/-- The operations of eq (R52); none is a reserved cell. -/
def eqOp (opcode : Nat) (t : Trig) : Option Instr :=
  match opcode with
  | 0 => some (.eqLnch t)
  | 1 => some (.eqPop t)
  | 2 => some (.eqPush t)
  | 3 => some (.eqQcls t)
  | 4 => some (.eqCpy t)
  | 5 => some (.eqFill t)
  | 6 => some (.eqMig t)
  | 7 => some (.eqMigs t)
  | 8 => some (.eqCopn t)
  | 9 => some (.eqCred t)
  | 10 => some (.eqCmc t)
  | 11 => some (.eqCxp t)
  | 12 => some (.eqCcls t)
  | _ => none

/-- The operations of sy (R52); none is a reserved cell. -/
def syOp (opcode : Nat) (t : Trig) : Option Instr :=
  match opcode with
  | 0 => some (.syCsrr t)
  | 1 => some (.syCsrw t)
  | 2 => some (.syFnc t)
  | 3 => some (.syFncx t)
  | 4 => some (.syFncp t)
  | 5 => some (.syLayo t)
  | 6 => some (.sySetv t)
  | 7 => some (.syFlar t)
  | 8 => some (.syUie t)
  | 9 => some (.sySeed t)
  | 10 => some (.syEvr t)
  | _ => none

/-- The operations of ck (R52); none is a reserved cell. -/
def ckOp (opcode : Nat) (t : Trig) : Option Instr :=
  match opcode with
  | 0 => some (.ckCmp t)
  | 1 => some (.ckCmpv t)
  | 2 => some (.ckCmpp t)
  | 3 => some (.ckSig t)
  | 4 => some (.ckSigc t)
  | 5 => some (.ckInj t)
  | _ => none

/-- The operations of gs (R52); none is a reserved cell. -/
def gsOp (opcode : Nat) (t : Trig) : Option Instr :=
  match opcode with
  | 0 => some (.gsJoin t)
  | 1 => some (.gsLeav t)
  | 2 => some (.gsMemb t)
  | 3 => some (.gsBarr t)
  | 4 => some (.gsBarw t)
  | 5 => some (.gsRdv t)
  | 6 => some (.gsSegb t)
  | 7 => some (.gsSegc t)
  | 8 => some (.gsFlgw t)
  | 9 => some (.gsTokw t)
  | 10 => some (.gsWto t)
  | _ => none

/-- The operation that a unit number and an opcode name (R52). -/
def opOf (unit opcode : Nat) (t : Trig) : Option Instr :=
  match unit with
  | 0 => ixOp 0 opcode t
  | 1 => ixOp 1 opcode t
  | 2 => ixOp 2 opcode t
  | 3 => agOp opcode t
  | 4 => lsOp 0 opcode t
  | 5 => lsOp 1 opcode t
  | 6 => vxOp 0 opcode t
  | 7 => vxOp 1 opcode t
  | 8 => vsOp opcode t
  | 9 => brOp opcode t
  | 10 => sqOp opcode t
  | 11 => ntOp opcode t
  | 12 => eqOp opcode t
  | 13 => syOp opcode t
  | 14 => ckOp opcode t
  | 15 => gsOp opcode t
  | _ => none

/-- One 24-bit move slot (R32): a data move or a trigger move; none when a code of it is reserved. -/
def decodeSlot (w : BitVec 24) : Option Instr :=
  let x := w.toNat
  let g := decodeGuard (fld x 22 19)
  match decodeSrc (fld x 9 0) with
  | none => none
  | some src =>
    if tst x 23 then opOf (fld x 18 15) (fld x 14 10) ⟨g, src⟩
    else (decodeDst (fld x 18 10)).map fun d => .dataMove g d src

/-- The guard of a slot, which stands whether or not its codes are reserved (R33, R34). -/
def slotGuard (w : BitVec 24) : Guard := decodeGuard (fld w.toNat 22 19)

/-- What a header says (R27): the number of extension blocks and the static stall; none is ILLEGAL_BUNDLE. -/
def decodeHeader (h : W32) : Option (Nat × Nat) :=
  let x := h.toNat
  if fld x 31 30 = 2 ∧ fld x 29 28 ≠ 3 ∧ fld x 23 0 = 0 then some (fld x 29 28, fld x 27 24) else none

/-- The eight slots of a base block (R29). -/
def slotsOf (base : BitVec 256) : List (BitVec 24) :=
  (List.range 8).map fun i => BitVec.ofNat 24 (base.toNat >>> (32 + 24 * i))

/-- Word k of a 32-byte block. -/
def blockWord (b : BitVec 256) (k : Nat) : W32 := BitVec.ofNat 32 (b.toNat >>> (32 * k))

/-- The literal pool of the base block and its extension blocks (R30). -/
def litsOf (base : BitVec 256) (ext : List (BitVec 256)) : List W32 :=
  blockWord base 7 :: ext.flatMap fun e => (List.range 7).map fun k => blockWord e (k + 1)

/-! ### The encoder -/

/-- The code of a special (R36). -/
def encodeSpecial (s : Special) : Nat :=
  match s with
  | .ctx => 0 | .rank => 1 | .die => 2 | .ndie => 3 | .tick => 4 | .cycle => 5 | .slen => 6 | .lstat => 7

/-- The 10-bit code of a source (R35). -/
def encodeSrc (s : Src) : Nat :=
  match s with
  | .g n => n.val
  | .v n => 0x080 + n.val
  | .p n => 0x0A0 + n.val
  | .q n => 0x0C0 + n.val
  | .lit k => 0x0E0 + k.val
  | .pair k => 0x0F0 + k.val
  | .i n => 0x100 + n.val
  | .special s => 0x108 + encodeSpecial s
  | .imm v => 0x200 + v.toNat

/-- The 9-bit code of a destination (R37). -/
def encodeDst (d : Dst) : Nat :=
  match d with
  | .g n => n.val
  | .v n => 0x080 + n.val
  | .p n => 0x0A0 + n.val
  | .port f k => 0x100 + 4 * f.val + k.val

/-- The 4-bit guard (R33). -/
def encodeGuard (g : Guard) : Nat := 8 * b2n g.inv + g.p.val

/-- The number of a slot from its fields: format bit and guard, the middle nine bits, and the source code (R32). -/
def slotNat (f : Nat) (g : Guard) (mid src : Nat) : Nat :=
  f * 2 ^ 23 + encodeGuard g * 2 ^ 19 + mid * 2 ^ 10 + src

/-- Unit number, opcode and trigger of a trigger operation (R52), none for an event or a data move. -/
def opCode (i : Instr) : Option (Nat × Nat × Trig) :=
  match i with
  | .moduleReset _ => none
  | .hostPortTraining _ _ => none
  | .tickIncrement => none
  | .energyDemotion _ _ => none
  | .telemetryRecord _ => none
  | .bundleIssue _ _ => none
  | .latchResultLand _ _ _ _ => none
  | .lateLatchSwitch _ _ => none
  | .contextReady _ _ _ => none
  | .waitTimeout _ _ _ => none
  | .stallWatchdog _ _ => none
  | .userInterruptTake _ _ => none
  | .preemption _ _ _ => none
  | .pageFaultResume _ _ => none
  | .quantumBoundary _ => none
  | .queueAgeing _ _ => none
  | .quantumPreemption _ _ _ => none
  | .launchRecordAdmit _ _ => none
  | .taskPlacement _ _ => none
  | .gangPlacement _ _ => none
  | .taskEnd _ _ => none
  | .deferredCompletionWrite _ _ => none
  | .lqCtlWrite _ _ _ => none
  | .lqTailWrite _ _ _ => none
  | .lqBaseWrite _ _ _ => none
  | .sramSplitWrite _ _ => none
  | .splitAdopt _ _ => none
  | .ptWake _ _ => none
  | .taskRst _ _ => none
  | .lkStatRetrain _ _ _ => none
  | .hostRegisterWrite _ _ _ => none
  | .hostMemoryAccess _ => none
  | .migrationPage _ => none
  | .l1SectorWriteback _ _ _ => none
  | .l1CleanExpiry _ _ _ => none
  | .l2Eviction _ => none
  | .storeAcknowledgement _ _ _ _ => none
  | .peerRefusal _ _ _ _ => none
  | .leaseGrant _ _ => none
  | .grantEnd _ _ => none
  | .arraySpill _ _ => none
  | .leaseFree _ _ => none
  | .arrayLoad _ _ _ => none
  | .arrayStart _ _ => none
  | .arrayPassStart _ _ => none
  | .arrayPassStep _ _ => none
  | .arrayPromotion _ _ => none
  | .arrayDrain _ _ _ => none
  | .arrayClear _ _ => none
  | .arrayCfgApply _ _ => none
  | .arrayBarrier _ _ => none
  | .arrayRead _ _ => none
  | .ntInterestArrival _ => none
  | .ntTileArrival _ => none
  | .ntAnswerArrival _ => none
  | .ntRecordExpiry _ => none
  | .ntAnnounceStore _ _ => none
  | .ntRetirementApply _ => none
  | .ntBindingApply _ => none
  | .ntRouteApply _ => none
  | .jobCardAdmit _ _ => none
  | .copyExecute _ _ _ => none
  | .engineTokenComplete _ _ _ _ => none
  | .collOpStart _ => none
  | .collPacketArrival _ => none
  | .collIdFree _ _ => none
  | .flagWaitReread _ _ _ => none
  | .rhavorDataFlit _ _ _ => none
  | .rhavorAck _ _ => none
  | .rhavorNak _ _ => none
  | .rhavorIdle _ => none
  | .rhavorLaneMap _ _ => none
  | .rhavorAckTimer _ => none
  | .lossOfLight _ _ => none
  | .ringLinkFailure _ => none
  | .securityAlarm _ => none
  | .droop _ _ _ => none
  | .rhavorLinkTrained _ _ => none
  | .peerPackageRequest _ _ => none
  | .dataMove _ _ _ => none
  | .ixAdd u t => some (u.val, 0, t)
  | .ixSub u t => some (u.val, 1, t)
  | .ixAddw u t => some (u.val, 2, t)
  | .ixSubw u t => some (u.val, 3, t)
  | .ixAnd u t => some (u.val, 4, t)
  | .ixOr u t => some (u.val, 5, t)
  | .ixXor u t => some (u.val, 6, t)
  | .ixAndn u t => some (u.val, 7, t)
  | .ixShl u t => some (u.val, 8, t)
  | .ixShr u t => some (u.val, 9, t)
  | .ixSha u t => some (u.val, 10, t)
  | .ixRotl u t => some (u.val, 11, t)
  | .ixCeq u t => some (u.val, 12, t)
  | .ixCne u t => some (u.val, 13, t)
  | .ixClt u t => some (u.val, 14, t)
  | .ixCltu u t => some (u.val, 15, t)
  | .ixCle u t => some (u.val, 16, t)
  | .ixCleu u t => some (u.val, 17, t)
  | .ixMin u t => some (u.val, 18, t)
  | .ixMax u t => some (u.val, 19, t)
  | .ixMinu u t => some (u.val, 20, t)
  | .ixMaxu u t => some (u.val, 21, t)
  | .ixSel u t => some (u.val, 22, t)
  | .ixMul u t => some (u.val, 23, t)
  | .ixMulh u t => some (u.val, 24, t)
  | .ixMulhu u t => some (u.val, 25, t)
  | .ixClz u t => some (u.val, 26, t)
  | .ixPopc u t => some (u.val, 27, t)
  | .ixBext u t => some (u.val, 28, t)
  | .ixBins u t => some (u.val, 29, t)
  | .ixSext u t => some (u.val, 30, t)
  | .ixZext u t => some (u.val, 31, t)
  | .agAdda t => some (3, 0, t)
  | .agMkl t => some (3, 1, t)
  | .agMkc t => some (3, 2, t)
  | .agMkp t => some (3, 3, t)
  | .agTag t => some (3, 4, t)
  | .agTsta t => some (3, 5, t)
  | .agCvtc t => some (3, 6, t)
  | .agXlk t => some (3, 7, t)
  | .lsLdb u t => some (4 + u.val, 0, t)
  | .lsLdbu u t => some (4 + u.val, 1, t)
  | .lsLdh u t => some (4 + u.val, 2, t)
  | .lsLdhu u t => some (4 + u.val, 3, t)
  | .lsLdw u t => some (4 + u.val, 4, t)
  | .lsLdwu u t => some (4 + u.val, 5, t)
  | .lsLdd u t => some (4 + u.val, 6, t)
  | .lsLdv u t => some (4 + u.val, 7, t)
  | .lsStb u t => some (4 + u.val, 8, t)
  | .lsSth u t => some (4 + u.val, 9, t)
  | .lsStw u t => some (4 + u.val, 10, t)
  | .lsStd u t => some (4 + u.val, 11, t)
  | .lsStv u t => some (4 + u.val, 12, t)
  | .lsLddi u t => some (4 + u.val, 13, t)
  | .lsLdvi u t => some (4 + u.val, 14, t)
  | .lsStdi u t => some (4 + u.val, 15, t)
  | .lsStvi u t => some (4 + u.val, 16, t)
  | .lsGath u t => some (4 + u.val, 17, t)
  | .lsScat u t => some (4 + u.val, 18, t)
  | .lsLdaq u t => some (4 + u.val, 19, t)
  | .lsStrl u t => some (4 + u.val, 20, t)
  | .lsPref u t => some (4 + u.val, 21, t)
  | .lsWbk u t => some (4 + u.val, 22, t)
  | .lsInv u t => some (4 + u.val, 23, t)
  | .lsAadd u t => some (4 + u.val, 24, t)
  | .lsAmin u t => some (4 + u.val, 25, t)
  | .lsAmax u t => some (4 + u.val, 26, t)
  | .lsAand u t => some (4 + u.val, 27, t)
  | .lsAor u t => some (4 + u.val, 28, t)
  | .lsAxch u t => some (4 + u.val, 29, t)
  | .lsAcas u t => some (4 + u.val, 30, t)
  | .lsAfadd u t => some (4 + u.val, 31, t)
  | .vxVadd u t => some (6 + u.val, 0, t)
  | .vxVsub u t => some (6 + u.val, 1, t)
  | .vxVmul u t => some (6 + u.val, 2, t)
  | .vxVfma u t => some (6 + u.val, 3, t)
  | .vxVmax u t => some (6 + u.val, 4, t)
  | .vxVmin u t => some (6 + u.val, 5, t)
  | .vxVabs u t => some (6 + u.val, 6, t)
  | .vxVneg u t => some (6 + u.val, 7, t)
  | .vxVceq u t => some (6 + u.val, 8, t)
  | .vxVclt u t => some (6 + u.val, 9, t)
  | .vxVcle u t => some (6 + u.val, 10, t)
  | .vxVsel u t => some (6 + u.val, 11, t)
  | .vxVand u t => some (6 + u.val, 12, t)
  | .vxVor u t => some (6 + u.val, 13, t)
  | .vxVxor u t => some (6 + u.val, 14, t)
  | .vxVshl u t => some (6 + u.val, 15, t)
  | .vxVshr u t => some (6 + u.val, 16, t)
  | .vxVsha u t => some (6 + u.val, 17, t)
  | .vxVbc u t => some (6 + u.val, 18, t)
  | .vxVext u t => some (6 + u.val, 19, t)
  | .vxVins u t => some (6 + u.val, 20, t)
  | .vxVshf u t => some (6 + u.val, 21, t)
  | .vxVrsum u t => some (6 + u.val, 22, t)
  | .vxVrmax u t => some (6 + u.val, 23, t)
  | .vxVrmin u t => some (6 + u.val, 24, t)
  | .vxVrcp u t => some (6 + u.val, 25, t)
  | .vxVrsq u t => some (6 + u.val, 26, t)
  | .vxVexp u t => some (6 + u.val, 27, t)
  | .vxVlog u t => some (6 + u.val, 28, t)
  | .vxVdot u t => some (6 + u.val, 29, t)
  | .vsVcvt t => some (8, 0, t)
  | .vsVqnt t => some (8, 1, t)
  | .vsVdq t => some (8, 2, t)
  | .vsVpk t => some (8, 3, t)
  | .vsVupk t => some (8, 4, t)
  | .vsPart t => some (8, 5, t)
  | .vsPcnt t => some (8, 6, t)
  | .vsVcmp t => some (8, 7, t)
  | .vsVexd t => some (8, 8, t)
  | .vsVmxe t => some (8, 9, t)
  | .vsRand t => some (8, 10, t)
  | .vsNorm t => some (8, 11, t)
  | .brBr t => some (9, 0, t)
  | .brBra t => some (9, 1, t)
  | .brCall t => some (9, 2, t)
  | .brCalla t => some (9, 3, t)
  | .brRet t => some (9, 4, t)
  | .brTrap t => some (9, 5, t)
  | .brHalt t => some (9, 6, t)
  | .brYield t => some (9, 7, t)
  | .brUiret t => some (9, 8, t)
  | .brWait t => some (9, 9, t)
  | .sqLease t => some (10, 0, t)
  | .sqRels t => some (10, 1, t)
  | .sqCfg t => some (10, 2, t)
  | .sqLen t => some (10, 3, t)
  | .sqSeeda t => some (10, 4, t)
  | .sqSeedb t => some (10, 5, t)
  | .sqLda t => some (10, 6, t)
  | .sqLdb t => some (10, 7, t)
  | .sqRun t => some (10, 8, t)
  | .sqRunc t => some (10, 9, t)
  | .sqTile t => some (10, 10, t)
  | .sqClr t => some (10, 11, t)
  | .sqPromo t => some (10, 12, t)
  | .sqDrain t => some (10, 13, t)
  | .sqRdc t => some (10, 14, t)
  | .sqStat t => some (10, 15, t)
  | .sqBar t => some (10, 16, t)
  | .sqWait t => some (10, 17, t)
  | .ntDefn t => some (11, 0, t)
  | .ntAnn t => some (11, 1, t)
  | .ntInt t => some (11, 2, t)
  | .ntCanc t => some (11, 3, t)
  | .ntRet t => some (11, 4, t)
  | .ntRout t => some (11, 5, t)
  | .ntPin t => some (11, 6, t)
  | .ntUnpn t => some (11, 7, t)
  | .ntProb t => some (11, 8, t)
  | .ntStat t => some (11, 9, t)
  | .ntWait t => some (11, 10, t)
  | .eqLnch t => some (12, 0, t)
  | .eqPop t => some (12, 1, t)
  | .eqPush t => some (12, 2, t)
  | .eqQcls t => some (12, 3, t)
  | .eqCpy t => some (12, 4, t)
  | .eqFill t => some (12, 5, t)
  | .eqMig t => some (12, 6, t)
  | .eqMigs t => some (12, 7, t)
  | .eqCopn t => some (12, 8, t)
  | .eqCred t => some (12, 9, t)
  | .eqCmc t => some (12, 10, t)
  | .eqCxp t => some (12, 11, t)
  | .eqCcls t => some (12, 12, t)
  | .syCsrr t => some (13, 0, t)
  | .syCsrw t => some (13, 1, t)
  | .syFnc t => some (13, 2, t)
  | .syFncx t => some (13, 3, t)
  | .syFncp t => some (13, 4, t)
  | .syLayo t => some (13, 5, t)
  | .sySetv t => some (13, 6, t)
  | .syFlar t => some (13, 7, t)
  | .syUie t => some (13, 8, t)
  | .sySeed t => some (13, 9, t)
  | .syEvr t => some (13, 10, t)
  | .ckCmp t => some (14, 0, t)
  | .ckCmpv t => some (14, 1, t)
  | .ckCmpp t => some (14, 2, t)
  | .ckSig t => some (14, 3, t)
  | .ckSigc t => some (14, 4, t)
  | .ckInj t => some (14, 5, t)
  | .gsJoin t => some (15, 0, t)
  | .gsLeav t => some (15, 1, t)
  | .gsMemb t => some (15, 2, t)
  | .gsBarr t => some (15, 3, t)
  | .gsBarw t => some (15, 4, t)
  | .gsRdv t => some (15, 5, t)
  | .gsSegb t => some (15, 6, t)
  | .gsSegc t => some (15, 7, t)
  | .gsFlgw t => some (15, 8, t)
  | .gsTokw t => some (15, 9, t)
  | .gsWto t => some (15, 10, t)

/-- The 24-bit word of a move slot (R32); an event has none. -/
def encode (i : Instr) : Option (BitVec 24) :=
  match i with
  | .dataMove g d s => some (BitVec.ofNat 24 (slotNat 0 g (encodeDst d) (encodeSrc s)))
  | i =>
    match opCode i with
    | some (u, o, t) => some (BitVec.ofNat 24 (slotNat 1 t.guard (u * 2 ^ 5 + o) (encodeSrc t.src)))
    | none => none

/-- The instruction of a row's bits: the rows that have an encoding are move slots of 24 bits (R32). -/
def decodeTableWord (nbits w : Nat) : Option Instr :=
  if nbits ≤ 24 then decodeSlot (BitVec.ofNat 24 w) else none

end Sys2Proof
end

