-- ==== Sys2Proof/Config.lean ====
section
/-! DEFINITION. What the spec leaves open: free values, which no proof can evaluate (log entries 4 and 5). -/

namespace Sys2Proof

/-- The steps whose time the spec leaves open that come about in a core cycle, in their order: arrivals, write-backs,
engine and router steps, host and environment actions (log entry 4).  A step whose conditions do not hold changes
nothing. -/
opaque Config.arrivals : Nat → List Instr

/-- The n-th free 64-bit value: measured values, snapshot contents, header flits (log entry 5). -/
opaque Config.freeWord : Nat → W64

/-- The n-th free 128-byte line: data that a peer package's memory holds (log entry 6). -/
opaque Config.freeLine : Nat → Line

/-- The die, the number of its job and the line of that job which a flit from a peer package acknowledges, if it is such an
acknowledgement: the layout of a header flit is open (R357, R427; log entry 6). -/
opaque Config.acknowledges : BitVec 256 → Option (Nat × Nat × Nat)

/-- Whether the peer package refuses the n-th access of a kind-2 handle that delivers a result (log entry 6). -/
opaque Config.peerRefuses : Nat → Bool

/-- Whether the n-th fetch that finds an older copy in the bundle buffer uses it (R214; log entry 7). -/
opaque Config.fetchOld : Nat → Bool

/-- The 64-bit digest of a member list (R361; log entry 5). -/
opaque Config.memberDigest : List (BitVec 64) → W64

/-- What the boot after the n-th reset by the security alarm finds (R407; log entry 5). -/
opaque Config.bootFinds : Nat → BootResult

/-- The bits in which a droop sample holds a bundle address and a context, whose places the spec leaves open (R411; log
entry 5). -/
opaque Config.droopSample : BitVec 64 → Nat → W64

/-- The snapshot registers in the window area from 0x20000, by flare and window offset (R408; log entry 5). -/
opaque Config.snapshot : Nat → Nat → W64

/-- Within how many cycles the n-th store that sets out is performed: in a finite time (R306; log entry 5). -/
opaque Config.storeTime : Nat → Nat

/-- Which bytes of the n-th store that sets out a load of another alias class sees before it is performed, by the class
(R307, R312; log entry 5). -/
opaque Config.storeSeen : Nat → Nat → W64

/-- Which of the granted choices the n-th free choice takes (log entry 5). -/
opaque Config.freeChoice : Nat → Nat

end Sys2Proof
end

