-- ==== Sys2Proof/Machine/State.lean ====
section
/-! DEFINITION. Everything the spec gives the machine, as plain data, and the state right after module reset. -/

namespace Sys2Proof.Machine

/-- Why the machine stops. -/
inductive Fault where
  /-- Raised by HOST_MEMORY_ACCESS at a physical address that R207 calls unbacked: no such byte exists (log entry 99).
  Safe: the run stops where the spec gives no effect. -/
  | unbacked
  deriving DecidableEq, Repr

/-- Why a step has no meaning. -/
inductive Refusal where
  /-- An instruction that exec does not model, by its mnemonic.  Safe. -/
  | notModelled (mnemonic : String)
  /-- Raised by step at a term that is no step of the table (Instr.wf fails), such as a data move to p0 in the
  agenda.  Safe: no hardware step is such a term. -/
  | illFormed
  deriving DecidableEq, Repr

/-! ### Boot and clock -/

/-- What boot found (R17 to R20); it changes only at module reset. -/
structure Boot where
  /-- `die.count.active` (R20) -/
  active : BitVec 16
  /-- O-dies in service (R18) -/
  odies : BitVec 8
  /-- ring stops of fenced dies that pass traffic through (R17) -/
  ringPass : BitVec 16
  /-- boot failure: no task runs (R19) -/
  failed : Bool
  deriving DecidableEq, Repr

/-- The core cycle counter (R36) and the package tick counter (R22). -/
structure Clock where
  cycle : Nat
  tick : BitVec 48
  deriving DecidableEq, Repr

/-! ### Contexts -/

/-- Where a store goes (R182 to R185, R207). -/
inductive Loc where
  /-- scratchpad byte: core number within the package, physical offset -/
  | spad (core off : Nat)
  /-- physical address -/
  | phys (pa : Nat)
  /-- peer package bytes: package, its handle, offset, and the local handle index that tags L1 lines (R185) -/
  | peer (pkg rh off h : Nat)
  deriving DecidableEq, Repr

/-- The destination classes of R311. -/
inductive HomeClass where
  | bank | own | far
  deriving DecidableEq, Repr

/-- A store issued and not yet acknowledged at its home (R311), or held in a segment (R340). -/
structure PStore where
  id : Nat
  loc : Loc
  bytes : List Byte
  cls : HomeClass
  /-- alias class of the address (R182, R187) -/
  acls : Nat
  /-- the generic address -/
  gaddr : W64
  legend : Nat
  buf : Nat
  /-- the bytes left in the write-back of an L1 sector, which has been counted (R225) -/
  wb : Bool := false
  /-- the cycle in which it set out, and its number among the free values: by when it is performed (R306), and which loads
  see it before that (R307, R312) -/
  sent : Nat := 0
  no : Nat := 0
  deriving DecidableEq, Repr

/-- Why a result that is due has not landed (R49). -/
inductive ResWait where
  /-- it lands when due -/
  | none
  /-- its data has not arrived -/
  | data
  /-- it waits for the fence of that number (R316) -/
  | fence (id : Nat)
  /-- it waits for the array read with that number (R266, R267) -/
  | arr (id : Nat)
  deriving DecidableEq, Repr

/-- A result in flight to a latch (R47 to R49). -/
structure Res where
  latch : Nat
  value : W512
  due : Nat
  wait : ResWait
  /-- for a load of G or P memory, the access counter buffers it is charged to (R225) -/
  buf : List Nat
  deriving DecidableEq, Repr

/-- Kinds of fence in force (R205, R317 to R319, R381). -/
inductive FenceKind where
  | fnc (scope : Nat) (acq rel : Bool)
  | fncx | fncp
  /-- a region declaration, until the cycle in which it is done (R381) -/
  | layo (till : Nat)
  /-- a line operation, until the write-backs that it has sent, by context and store number, are acknowledged (R205) -/
  | line (sent : List (Nat × Nat))
  deriving DecidableEq, Repr

/-- A fence in force: its number and the first store number it does not cover. -/
structure Fence where
  id : Nat
  kind : FenceKind
  upto : Nat
  deriving DecidableEq, Repr

/-- What a blocked bundle waits for (R106). -/
inductive Wait where
  /-- gs.tokw, sq.wait, nt.wait: a token handle -/
  | token (h : W64)
  /-- gs.flgw: address, compare value, mask, control -/
  | flag (t a b c : W64)
  /-- a barrier phase of a set -/
  | phase (handle ph : Nat)
  /-- a barrier phase in which the context has arrived (R346) -/
  | barrier (handle ph : Nat)
  /-- eligibility in the next phase of a set -/
  | arrive (handle : Nat)
  /-- a rendezvous round -/
  | round (handle slot no : Nat)
  /-- the array lease -/
  | lease
  /-- a full array queue -/
  | arrFull
  /-- a token limit of a kind (R333) -/
  | tokens (kind : Nat)
  /-- an item in a work queue, or its closing -/
  | pop (w : Nat)
  /-- room in a work queue, or its closing -/
  | push (w : Nat)
  /-- room in a launch ring -/
  | ring (q : Nat)
  /-- room in the migration queue -/
  | mig
  /-- room in an engine's card queue -/
  | card (e : Engine)
  /-- a closing collective identifier -/
  | closing (g : Nat)
  /-- n entries of the segment store queue -/
  | seg (n : Nat)
  /-- an absolute tick, or a user interrupt -/
  | tick (e : BitVec 48)
  deriving DecidableEq, Repr

/-- A blocked bundle: what it waits for, the slot and its trigger operand, and whether wait.to bounds it (R334). -/
structure Block where
  wait : Wait
  slot : Nat
  operand : W64
  bounded : Bool
  deriving DecidableEq, Repr

/-- A pending arrival at a barrier or a rendezvous slot (R346, R347). -/
structure PendArr where
  handle : Nat
  /-- the rendezvous slot, or 64 for the barrier -/
  slot : Nat
  no : Nat
  deriving DecidableEq, Repr

/-- The context-scope CSRs (R122, R123, R152, R253, R275, R336). -/
structure Csrs where
  uien : Bool := false
  uimask : BitVec 6 := 0
  inui : Bool := false
  uiovf : Bool := false
  uivec : BitVec 48 := 0
  uiepc : BitVec 48 := 0
  fmt : Nat := 0
  seed : W32 := 0
  mode : Nat := 0
  rctr : BitVec 40 := 0
  sqlen : Nat := 6
  seedA : W32 := 0
  seedB : W32 := 0
  waitTo : W32 := 16384
  wdLimit : W32 := 0
  spadBase : Nat := 0
  spadSize : Nat := 0
  ntrange : W64 := 0
  intrap : Bool := false
  ppriv : Bool := false
  priv : Bool := false
  tbundle : W64 := 0
  tslot : Nat := 0
  tdone : BitVec 8 := 0
  tcause : BitVec 8 := 0
  tval : W64 := 0
  tscr0 : W64 := 0
  tscr1 : W64 := 0
  tscr2 : W64 := 0
  tscr3 : W64 := 0
  deriving DecidableEq, Repr

/-- An open segment (R339): entries reserved, held stores, snapshot and rewind count. -/
structure Seg where
  /-- opened by a trap handler, whose operations alone it governs (R340 to R343; log entry 63) -/
  handler : Bool
  n : Nat
  used : Nat
  held : List PStore
  g : SMap W64
  shadow : SMap W64
  v : SMap W512
  p : BitVec 8
  rctr : BitVec 40
  addr : W64
  rewinds : Nat
  /-- rewound, and its first bundle has still to issue again (R342) -/
  again : Bool
  deriving DecidableEq, Repr

/-- The operand of a trigger that blocked, as its bundle first read it from a latch: its slot, the latch's value and parity
mark (R50). -/
structure Kept where
  slot : Nat
  value : W512
  bad : Bool
  deriving DecidableEq, Repr

/-- What a resumed bundle re-issues with (R45, R116): the slots that count as done, the start predicates, the snapshots
of the sources, whether the bundle had issued, and what its done slots have set going: a transfer (R51), a return, a
yield, the format, key and mode at the original issue (R154), the counter that its other operations go on from where a
counter write stands (R155, R176), the CSRs from before a CSR write of its own (R131), where a pending transfer comes
from and whether that transfer is a return (R51, R130), what its done slots have moved to ports and put on the way to
latches, with due cycles counted from the issue, and whether a block since has lost these (R50, R119), and, for a bundle that
has blocked, its deadline (R334) and the operands of its blocked triggers (R50). -/
structure Resume where
  done : BitVec 8
  preds : BitVec 8
  snaps : List W512
  issued : Bool
  pend : Option W64
  link : Bool
  ret : Nat
  yield_ : Bool
  fmt : Option (Nat × W32 × Nat)
  rctr : Option (BitVec 40)
  csr : Option Csrs
  /-- the bundle of the pending transfer that this bundle is the delay bundle of (R31) -/
  psrc : W64
  retPend : Nat
  deadline : Option (BitVec 48)
  /-- the wait of the bundle that had not come about at its deadline, and whether an interrupt ended its br.wait -/
  timedOut : Option Block
  woken : Bool
  kept : List Kept
  moves : SMap W512
  own : List Res
  lost : Bool
  deriving DecidableEq, Repr

/-- A resumption of nothing: no slot is done and nothing has been set going. -/
def Resume.plain : Resume :=
  { done := 0, preds := 1, snaps := [], issued := false, pend := none, link := false, ret := 0, yield_ := false,
    fmt := none, rctr := none, csr := none, psrc := 0, retPend := 0, deadline := none, timedOut := none, woken := false,
    kept := [], moves := [], own := [], lost := false }

/-- What a user interrupt handler leaves alone of the bundle that it came before: its deadline (R334) and the operands of
its blocked triggers (R50). -/
structure Under where
  deadline : Option (BitVec 48)
  timedOut : Option Block
  kept : List Kept
  deriving DecidableEq, Repr

/-- What a context is doing. -/
inductive CtxSt where
  | free | ready
  | blocked (b : Block)
  /-- switched out after more than 64 cycles on a late latch, or on accesses that a fence holds (R49, R106, R317) -/
  | late (fence : Bool)
  /-- waits in place for an absent page (R109, R119) -/
  | page
  /-- frozen (R117) -/
  | frozen
  /-- halted, its end not yet reached (R127) -/
  | halted
  deriving DecidableEq, Repr

/-- One hardware context (R104). -/
structure Ctx where
  st : CtxSt := .free
  /-- frame index of the task it holds (R109) -/
  frame : Nat := 0
  pc : W64 := 0
  /-- the bundle whose transfer or fall-through leads to the next fetch (R31) -/
  src : W64 := BitVec.allOnes 64
  pend : Option W64 := none
  /-- the bundle that made the pending transfer (R31) -/
  psrc : W64 := 0
  /-- a call's link has not been formed: it is the address after the next bundle (R125) -/
  link : Bool := false
  haltPend : Bool := false
  /-- return to take after the delay bundle: 1 user interrupt, 2 trap (R130) -/
  retPend : Nat := 0
  resume : Option Resume := none
  /-- what the interrupted bundle's done slots have set going, while a trap handler runs or the task is off (R116) -/
  hid : Option Resume := none
  /-- ports, latches and results have still to be restored from the pipeline extension when it next issues (R113) -/
  restore : Bool := false
  g : SMap W64 := []
  shadow : SMap W64 := []
  v : SMap W512 := []
  p : BitVec 8 := 1
  i : SMap W64 := []
  ports : SMap W512 := []
  latches : SMap W512 := []
  res : List Res := []
  /-- items with bad parity (R382, R386): source codes, 0xB0 + n for the shadow copy of g112 + n, and 0x1000 +
  destination code for ports -/
  bad : List Nat := []
  lastIssue : Nat := 0
  notBefore : Nat := 0
  /-- whether the next bundle's static stall has been served (R113) -/
  stallServed : Bool := false
  lateSince : Option Nat := none
  csr : Csrs := {}
  uiq : List (W64 × W64) := []
  wdCount : Nat := 0
  seg : Option Seg := none
  armed : Bool := false
  stq : List PStore := []
  nextStore : Nat := 0
  fences : List Fence := []
  nextFence : Nat := 0
  /-- earliest refused kind-2 store not yet raised: its store number and generic address (R215) -/
  refusals : List (Nat × W64) := []
  deadline : Option (BitVec 48) := none
  /-- the wait that had not come about when its deadline was reached (R334) -/
  timedOut : Option Block := none
  /-- woken from br.wait by a user interrupt: its bundle issues before the interrupt is taken (R129) -/
  woken : Bool := false
  /-- what the blocked triggers of a bundle have as their operands when it issues again (R50) -/
  kept : List Kept := []
  /-- what a running user interrupt handler has put aside (R50, R334) -/
  under : Option Under := none
  pendArr : Option PendArr := none
  deriving DecidableEq, Repr

/-! ### Cores -/

/-- A valid 16-byte L1 sector (R188, R189): its data and their parity by byte (R369), whether it is dirty, whether its fill
was HIGH, the cycle it was filled and the cycle it first became dirty (R306), its legend, the memory it holds, access
counter buffer and frame, and for peer bytes the stores it holds (context, generic address, store number). -/
structure Sector where
  data : BitVec 128
  par : BitVec 16
  dirty : Bool
  bad : Bool
  filled : Nat
  since : Nat
  loc : Loc
  cls : HomeClass
  legend : Nat
  buf : Nat
  frame : Nat
  stores : List (Nat × W64 × Nat)
  deriving DecidableEq, Repr

/-- One core. -/
structure Core where
  /-- adopted L1 split code, and the number of the write of `sram.split` that it comes from (R177, R178) -/
  l1 : Nat := 2
  splitNo : Nat := 0
  cur : Option Nat := none
  last : Nat := 0
  notBefore : Nat := 0
  sectors : SMap Sector := []
  /-- legend of each 64 KiB region (R381), RAW when not listed -/
  regions : SMap Nat := []
  /-- segment store queue reservations: context and entries (R339) -/
  segs : List (Nat × Nat) := []
  /-- contexts that ask for segment entries, in request order (R339) -/
  segAsk : List Nat := []
  /-- bundle buffer: 32-byte blocks by virtual address (R214) -/
  fetchBuf : SMap (BitVec 256) := []
  deriving DecidableEq, Repr

/-! ### Tasks -/

/-- What an extent entry records of one page (R87, R212). -/
structure PageRec where
  vpage : Nat
  pa : Nat
  pr : Bool
  rd : Bool
  w : Bool
  legend : Nat
  valid : Bool
  deriving DecidableEq, Repr

/-- An extent table entry (R87). -/
structure Extent where
  va : Nat
  len : Nat
  access : Nat
  acls : Nat
  buf : Nat
  pages : List PageRec
  deriving DecidableEq, Repr

/-- A token of a task (R332, R333): kind, sequence number, the kind's operation count at its issue, its completion
value once complete, and the name of an interest. -/
structure Tok where
  kind : Nat
  seq : Nat
  ord : Nat
  done : Option W64
  name : Option W64
  deriving DecidableEq, Repr

/-- Lease states (R229). -/
inductive Lease where
  | none | held | suspended
  deriving DecidableEq, Repr

/-- What a task is doing. -/
inductive TaskSt where
  | free
  /-- on the context of that number -/
  | running (x : Nat)
  /-- pre-empted, or suspended at an absent page that has arrived: waits for a free context -/
  | suspended
  /-- suspended at an absent page (R119) -/
  | waitPage
  /-- spill restore failed (R248) -/
  | frozen
  /-- ended by the host while on no context (R392), its end not yet reached -/
  | halted
  deriving DecidableEq, Repr

/-- One task, by its frame (R109). -/
structure Task where
  st : TaskSt := .free
  launch : Nat := 0
  member : Nat := 0
  entry : Nat := 0
  extents : List Extent := []
  toks : List Tok := []
  /-- token-bearing operations issued, by kind; key 9 counts array commands (R269) -/
  seqs : SMap Nat := []
  /-- results of array reads that have come back, by read number (R112, R266) -/
  reads : SMap W64 := []
  sets : List Nat := []
  lease : Lease := .none
  asking : Bool := false
  /-- cycle-class counts of sq.stat selectors 8 to 12 (R267) -/
  classes : SMap W64 := []
  /-- handles of the collective identifiers that the task opened (R366) -/
  groups : List Nat := []
  spadBase : Nat := 0
  granules : Nat := 0
  page : Option Nat := none
  /-- the context's state beyond what the frame holds, while no context holds the task (R118) -/
  saved : Ctx := {}
  startTick : BitVec 48 := 0
  /-- charges of this tick in units of 0.1 fJ (R403) -/
  energy : Nat := 0
  deriving DecidableEq, Repr

/-! ### Dispatch -/

/-- One software launch queue (R81, R82, R275). -/
structure Lq where
  base : Nat := 0
  dev : Bool := false
  lsize : Nat := 0
  en : Bool := false
  head : W32 := 0
  tail : W32 := 0
  halted : Bool := false
  cause : Nat := 0
  ntr : W64 := 0
  off : Bool := false
  /-- tick since which it has had work without a slot (R92) -/
  since : Option (BitVec 48) := none
  boost : Nat := 0
  /-- launch whose iterations are being admitted -/
  lid : Option Nat := none
  /-- launch of the halted record at the head, some of whose iterations have been admitted (R85) -/
  part : Option Nat := none
  /-- tracking-table numbers of the admitted iteration (or gang) that waits to be placed -/
  wait : List Nat := []
  /-- tokens of eq.lnch by ring position: issuing task and sequence number (R99) -/
  toks : List (Nat × Nat × Nat) := []
  /-- absent page of the record at the head, until pt.wake names it (R85) -/
  page : Option Nat := none
  deriving DecidableEq, Repr

/-- A footprint of a launch record (R84). -/
structure Foot where
  base : Nat
  extent : Nat
  buf : Nat
  coef : List Int
  cs : Nat
  access : Nat
  acls : Nat
  deriving DecidableEq, Repr

/-- A launch: an accepted record until it completes (R83, R96). -/
structure Launch where
  live : Bool := false
  die : Nat := 0
  queue : Nat := 0
  kind : Nat := 0
  cls : Nat := 0
  domain : Nat := 0
  affinity : Nat := 0
  hwq : Nat := 0
  evt : Bool := false
  entry : Nat := 0
  count : Nat := 0
  spad : Nat := 0
  budget : Nat := 0
  token : Nat := 0
  /-- (bound, step, order) of loops 0 to depth -/
  loops : List (Nat × Int × Nat) := []
  consts : List W64 := []
  foots : List Foot := []
  next : Nat := 0
  total : Nat := 0
  admitted : Bool := false
  running : Nat := 0
  jobs : Nat := 0
  demotions : Nat := 0
  /-- energy charged, in units of 0.1 fJ (R93, R403) -/
  charge : Nat := 0
  tok : Option (Nat × Nat) := none
  /-- gang: the set handle that its footprints were translated with (R86) -/
  gset : Nat := 0
  /-- completion tick, while its word waits for an absent page (R96) -/
  deferred : Option (BitVec 48) := none
  deriving DecidableEq, Repr

/-- A tracking-table entry (R87, R90): its admission number, domain, physical ranges with a write mark, the gang it
belongs to, whether it is placed or accepted, the extents it was translated to, its launch and iteration. -/
structure Entry where
  no : Nat
  dom : Nat
  ranges : List (Nat × Nat × Bool)
  gang : Option Nat
  placed : Bool
  extents : List Extent
  launch : Nat
  iter : Nat
  deriving DecidableEq, Repr

/-- Work queue states (R97). -/
inductive HwqSt where
  | free | opened | closed
  deriving DecidableEq, Repr

/-- A hardware work queue (R97). -/
structure Hwq where
  st : HwqSt := .free
  items : List (BitVec 63) := []
  launch : Nat := 0
  deriving DecidableEq, Repr

/-! ### Groups and engines -/

/-- A membership set (R327 to R331). Members are frame numbers. -/
structure MSet where
  used : Bool := false
  gen : Nat := 0
  gang : Bool := false
  members : List Nat := []
  phase : W32 := 0
  /-- members that the current phase expects and that have not arrived -/
  awaited : List Nat := []
  /-- members whose arrival in the next phase is pending (R329, R346) -/
  next : List Nat := []
  rounds : SMap W32 := []
  /-- arrivals of the current rounds: slot and frame -/
  arrived : List (Nat × Nat) := []
  deriving DecidableEq, Repr

/-- A job card accepted by an engine (R353, R355), until its token completes. -/
structure Job where
  op : Nat
  dom : Nat
  buf : Nat
  redop : Nat
  fmt : Nat
  nodst : Bool
  root : Nat
  n : Nat
  src : W64
  dst : W64
  pattern : W64
  /-- the issuing task's key, token kind and sequence number, and launch -/
  task : Nat
  kind : Nat
  seq : Nat
  launch : Nat
  /-- extents of the issuing task at acceptance, its core and scratchpad run -/
  extents : List Extent
  core : Nat
  /-- number of the issuing task's entry, and the card's own once the tracking table holds it (R90, R313) -/
  taskEntry : Nat
  entry : Option Nat
  /-- own-die physical ranges with a write mark (R355) -/
  ranges : List (Nat × Nat × Bool)
  admitted : Bool
  started : Bool
  /-- destination lines written, and source lines counted in high and low -/
  doneLines : List Nat
  /-- destination lines sent to a peer package (R357) -/
  peerLines : List Nat
  seen : List Nat
  high : Nat
  low : Nat
  /-- collective: identifier, generation, sequence number in its use; disagreement -/
  g : Nat
  gen : Nat
  opno : Nat
  disagree : Bool
  written : Bool
  /-- its number among the die's admissions, taken at acceptance (R355) -/
  no : Nat
  deriving DecidableEq, Repr

/-- A migration (R221 to R224). -/
structure Mig where
  va : Nat
  n : Nat
  toHost : Bool
  deadline : BitVec 48
  task : Nat
  seq : Nat
  launch : Nat
  next : Nat
  moved : Nat
  late : Nat
  worst : Nat
  deriving DecidableEq, Repr

/-- States of a collective identifier (R359). -/
inductive GrpSt where
  | free | opened | closing
  deriving DecidableEq, Repr

/-- A collective packet on its way: the die it comes from, or 16 and the link, the die it goes to, and whether it has found
the hold buffer full (R361). -/
structure CollMsg where
  src : Nat
  dst : Nat
  pkt : CollPacket
  waits : Bool := false
  deriving DecidableEq, Repr

/-- A collective group identifier (R359 to R362). -/
structure Grp where
  st : GrpSt := .free
  gen : Nat := 0
  rank : Nat := 0
  members : List W64 := []
  nextOp : Nat := 1
  /-- accepted packets of operations not yet complete -/
  pkts : List CollPacket := []
  /-- packets dropped in this use: operation and the sender's entry in its member list (R361, R366) -/
  dropped : List (Nat × W64) := []
  deriving DecidableEq, Repr

/-! ### Stream arrays -/

/-- Configuration of an array (R227, R259). -/
structure ArrCfg where
  mode : Nat := 0
  m : Nat := 128
  k : Nat := 128
  n : Nat := 128
  rule : Nat := 0
  cols : List Nat := []
  margin : Nat := 0
  deriving DecidableEq, Repr

/-- One edge bank (R227): its rows of elements (m for A, k for B; sign above 12 bits of q), scales, shifts, invalid marks
and status counts. -/
structure Bank where
  rows : SMap (List (BitVec 13)) := []
  scale : SMap W32 := []
  shift : SMap Int := []
  inv : BitVec 128 := 0
  under : Nat := 0
  bad : Nat := 0
  /-- lines pinned for the bank (R235) -/
  pins : List Nat := []
  deriving DecidableEq, Repr

/-- Progress of a queued command. -/
inductive CmdPhase where
  | queued | started
  deriving DecidableEq, Repr

/-- A queued array command (R231, R247, R255): opcode, operands, its token, L and seeds at issue, the configuration
in force, and for sq.tile the descriptor words and the steps made. -/
structure Cmd where
  op : Nat
  addr : W64
  t : W64
  a : W64
  b : W64
  c : W64
  tok : Nat
  k : Nat
  seedA : W32
  seedB : W32
  cfg : ArrCfg
  phase : CmdPhase
  desc : List W64
  chunk : Nat
  /-- bit 0 B load done, 1 A load done, 2 pass started, 3 pass completed; bits 4 and 5 the loads of the next chunk
  (R271) -/
  prog : Nat
  /-- result number of an sq.rdc or sq.stat -/
  rid : Nat
  /-- completion value gathered so far -/
  val : Nat
  deriving DecidableEq, Repr

/-- A pass in progress (R238). -/
structure Pass where
  k : Nat
  seedA : W32
  seedB : W32
  runc : Bool
  step : Nat
  deriving DecidableEq, Repr

/-- A stream array (R226 to R230, R249). -/
structure Arr where
  holder : Option Nat := none
  prev : Nat := 3071
  start : Nat := 0
  cmds : Nat := 0
  /-- release or halt pending (R232) -/
  leaving : Bool := false
  /-- a spill is asked for: pre-emption of the holder (R118) -/
  spill : Bool := false
  queue : List Cmd := []
  aF : Bank := {}
  aB : Bank := {}
  bF : Bank := {}
  bB : Bank := {}
  freshA : Bool := false
  freshB : Bool := false
  cfg : ArrCfg := {}
  /-- configuration of the last accepted sq.cfg (R255) -/
  issueCfg : ArrCfg := {}
  /-- counters and accumulators, by row -/
  cnt : SMap (List Int) := []
  steps : SMap Nat := []
  stop : SMap Nat := []
  stopped : BitVec 128 := 0
  ovf : BitVec 128 := 0
  rowInv : BitVec 128 := 0
  colInv : BitVec 128 := 0
  acc : SMap (List W32) := []
  pass : Option Pass := none
  /-- cycle of the last step, none after reset (R249) -/
  lastStep : Option Nat := none
  /-- a start has been granted and its step is still to come (R249) -/
  startOk : Bool := false
  /-- bundle address of the last command accepted (R251) -/
  lastAddr : W64 := 0
  /-- the class of R251 that trace mode 3 is counting, the address charged, and its cycles so far (R410) -/
  run : Option (Nat × W64 × Nat) := none
  deriving DecidableEq, Repr

/-- A spilled queue and the configuration at issue, which the slot layout leaves no room for (R247). -/
structure SpillRest where
  queue : List Cmd
  issueCfg : ArrCfg
  deriving DecidableEq, Repr

/-! ### Named tiles -/

/-- A binding (R276). -/
structure Binding where
  id : Nat
  size : Nat
  rows : Nat
  cols : Nat
  base : Nat
  win : Nat
  legend : Nat
  buf : Nat
  hub : Bool
  transit : Bool
  cons : Bool
  deriving DecidableEq, Repr

/-- A Gazetteer route (R279, R299). -/
structure Route where
  lo : Nat
  hi : Nat
  rowEn : Bool
  rlo : Nat
  rhi : Nat
  face : Nat
  deriving DecidableEq, Repr

/-- A local entry (R280): name, destination, task key and token, end, and the issuing core for its destination. -/
structure LocalEntry where
  name : W64
  dst : W64
  task : Nat
  seq : Nat
  e : BitVec 48
  core : Nat
  extents : List Extent
  deriving DecidableEq, Repr

/-- A transit entry (R280): name, face records, upstream face (none at the terminal), overflow mark, and the hops its
interest had travelled. -/
structure TransitEntry where
  name : W64
  recs : List (Nat × BitVec 48)
  up : Option Nat
  ended : Bool
  hops : Nat
  deriving DecidableEq, Repr

/-- A Sconce copy (R285, R286): lines with their check bits. -/
structure Copy where
  name : W64
  lines : List (Line × Chk)
  legend : Nat
  origin : Bool
  pinned : Bool
  used : Nat
  deriving DecidableEq, Repr

/-- One router: ring stops 0 to 15 and the hub 16 (R278). -/
structure Router where
  binds : List Binding := []
  routes : SMap Route := []
  locals : List LocalEntry := []
  transits : List TransitEntry := []
  copies : List Copy := []
  /-- counts of nt.stat selectors 3 to 7 (R301) -/
  stats : SMap W64 := []
  deriving DecidableEq, Repr

/-- A message on its way to a router: the router, the face it arrives on, its content. -/
structure NtMsg where
  to_ : Nat
  face : Nat
  body : NtBody
  deriving DecidableEq, Repr

/-- A change on its way to the routers (R288, R293, R299): routers still to reach, hub first. -/
inductive NtChange where
  | bind (b : Binding)
  | retire (id iter : Nat) (unbind : Bool)
  | route (r idx : Nat) (rt : Option Route)
  deriving DecidableEq, Repr

/-- A pending change with its token (task key, sequence), the routers it has still to reach and the value its token
gets. -/
structure NtPending where
  chg : NtChange
  task : Nat
  seq : Nat
  todo : List Nat
  value : W64
  deriving DecidableEq, Repr

/-- An announcement on its way (R287): name, source, pin flag, token, issuing task, its launch, core and extents. -/
structure Ann where
  die : Nat
  name : W64
  src : W64
  pin : Bool
  task : Nat
  seq : Nat
  launch : Nat
  core : Nat
  extents : List Extent
  deriving DecidableEq, Repr

/-- A claimed delivery whose destination page is absent (R295): entry, lines, completion value. -/
structure Claim where
  ent : LocalEntry
  lines : List (Line × Bool × Bool)
  legend : Nat
  buf : Nat
  value : W64
  deriving DecidableEq, Repr

/-! ### Links -/

/-- A control flit sent (R397): kind and number or mask. -/
structure Ctl where
  kind : Nat
  val : Nat
  deriving DecidableEq, Repr

/-- What a packet on its way is part of: a job whose token waits for it (R357), an operation of a use of a collective
identifier (R366), or a tile that a router sends (R286). -/
inductive TxTag where
  | none
  | job (task kind seq : Nat)
  | coll (d g gen : Nat)
  | tile (r : Nat) (name : W64)
  deriving DecidableEq, Repr

/-- The packet that a flit belongs to: the die that sends it, the package that it is routed to (none on a face of a
router), whether its data is poisoned (R356; log entry 82), and what it is part of. -/
structure TxInfo where
  die : Nat := 0
  pkg : Option Nat := none
  poison : Bool := false
  tag : TxTag := .none
  deriving DecidableEq, Repr

/-- A data flit to be sent: its bits, and whether it is the header of its packet (R427). -/
structure TxFlit where
  bits : BitVec 256
  head : Bool
  info : TxInfo
  deriving DecidableEq, Repr

/-- A lane change whose record waits until the flits sent again have left (R398, R423): the masks, one past the last of
those flits, how many have left, and the tick at which the change was found. -/
structure LaneChange where
  old : BitVec 16
  new : BitVec 16
  upto : Nat
  count : Nat
  tick : BitVec 48
  deriving DecidableEq, Repr

/-- One Rhavor link, this package's end (R395 to R399). -/
structure Link where
  lanes : BitVec 16 := 0
  lit : BitVec 4 := 0
  state : Nat := 0
  crc : Nat := 0
  replay : Nat := 0
  /-- number of the oldest unacknowledged flit and the flits of the window (R397) -/
  old : Nat := 0
  win : List TxFlit := []
  /-- flits of the window that have been sent since the last resend point -/
  sent : Nat := 0
  /-- flits waiting for room or for the link -/
  txq : List TxFlit := []
  /-- next number the receiver expects; flits received since the last ACK -/
  rx : Nat := 0
  since : Nat := 0
  /-- last flit a NAK named, and how many in a row -/
  nakNo : Nat := 0
  naks : Nat := 0
  /-- receiver holds off flits after loss of light -/
  hold : Bool := false
  /-- number of the data flit that arrives next, as the sender counts, and the numbers that NAKs have named and from which
  the sender has still to send again (R397) -/
  far : Nat := 0
  backs : List Nat := []
  /-- the lane change that has still to be recorded (R398) -/
  change : Option LaneChange := none
  /-- the transmit lanes that a training which no host write has asked for may leave in service (R398) -/
  may : Option (BitVec 16) := none
  inbox : List (BitVec 256) := []
  ctl : List Ctl := []
  deriving DecidableEq, Repr

/-! ### Dies -/

/-- A ring that the die writes, or a migration ring (R81, R221, R391). -/
structure Ring where
  base : Nat := 0
  dev : Bool := false
  lsize : Nat := 0
  en : Bool := false
  lost : Bool := false
  head : W32 := 0
  tail : W32 := 0
  deriving DecidableEq, Repr

/-- An event record: type, 64 bytes (R393). -/
structure EvRec where
  type : Nat
  data : W512
  deriving DecidableEq, Repr

/-- One C-die's registers and units. -/
structure Die where
  sramL1 : Nat := 2
  /-- writes of `sram.split`, each of which every core takes (R178) -/
  splitNo : Nat := 0
  ptRoot : Nat := 0
  ihBase : Nat := 0
  ihCount : Nat := 0
  poolBase : Nat := 0
  poolRows : Nat := 0
  mfdie : Ring := {}
  mfhost : Ring := {}
  mrel : Ring := {}
  ev : Ring := {}
  tel : Ring := {}
  trc : Ring := {}
  saSpill : Nat := 0
  collStale : Nat := 0
  lgHigh : Nat := 0
  lgLow : Nat := 0
  lgCorr : Nat := 0
  trcCtl : Nat := 0
  /-- cycle of the last trace record (R410) -/
  trcLast : Nat := 0
  /-- records of array cycle classes that wait for room in the ring, bit 8 of trc.ctl being set (R410; log entry 85) -/
  trcWait : List (Nat × Nat) := []
  trcBundles : Nat := 0
  trcStop : Bool := false
  rstFrame : Nat := 0
  pkgSelf : Nat := 0
  pkgRoute : Nat := 0
  policy : BitVec 4 := 0
  erased : Bool := false
  glitch : Bool := false
  tamper : Bool := false
  sigfail : Bool := false
  droopTh : Nat := 0
  droopNo : Nat := 0
  hostMem : Nat := 0
  tvec : BitVec 48 := 0
  frameBase : Nat := 0
  didt : Nat := 40
  slipLate : Nat := 0
  slipWorst : Nat := 0
  flFired : Bool := false
  flTag : Nat := 0
  flSource : Nat := 0
  flOn : Nat := 0
  flTstop : Bool := false
  flUser : Bool := false
  flArm : Bool := false
  evCount : W32 := 0
  /-- newest first -/
  evStore : List EvRec := []
  /-- records that wait to be placed in the event ring: found while another was being written (R380, R393) -/
  evWait : List W512 := []
  /-- the last flare whose snapshot the window area of R408 holds -/
  flSnap : Option Nat := none
  /-- droop samples by window offset (R411) -/
  window : SMap W64 := []
  slots : SMap (Option Nat) := []
  /-- last queue of each class that held a slot, plus one (R91) -/
  lastQ : SMap Nat := []
  /-- last slot served in each class, plus one (R92) -/
  lastSlot : SMap Nat := []
  lastRank : Nat := 191
  entries : List Entry := []
  nextEntry : Nat := 0
  copyQ : List Job := []
  collQ : List Job := []
  migQ : List Mig := []
  migOld : List Mig := []
  hold : List CollPacket := []
  lastStart : Option Nat := none
  /-- requests for a start: the cycle and the array, in the order in which they are served (R249) -/
  startAsk : List (Nat × Nat) := []
  startDelays : Nat := 0
  /-- energy charged to tasks in the telemetry period, 0.1 fJ units -/
  telCharge : Nat := 0
  deriving DecidableEq, Repr

/-- An L2 line (R217, R370): data, check bits, legend of the tag, dirty sectors, number of pins, and the task that wrote
it last with the number of its entry (R403). -/
structure L2Line where
  data : Line
  chk : Chk
  legend : Nat
  dirty : BitVec 8
  pins : Nat
  by_ : Option (Nat × Nat) := none
  deriving DecidableEq, Repr

/-! ### The bundle being issued -/

/-- How the issue of a bundle stands. -/
inductive Outcome where
  | going
  /-- a slot blocked: the bundle does not issue (R106) -/
  | blocked (b : Block)
  /-- a trap, page fault, mismatch or rewind has been taken -/
  | stopped
  deriving DecidableEq, Repr

/-- A CSR write that acts for the bundles after the one at issue (R131): number, value, and whether an operation of its own
makes it, which any privilege may (R131, R254, R351). -/
structure CsrWrite where
  n : Nat
  v : Nat
  own : Bool
  deriving DecidableEq, Repr

/-- A move slot as it was read: its 24 bits, and its instruction unless a code is reserved (R32, R35, R37, R52). -/
structure SlotRec where
  raw : BitVec 24
  instr : Option Instr
  deriving DecidableEq, Repr

/-- The bundle being issued (R41 to R45). -/
structure Issue where
  d : Nat := 0
  r : Nat := 0
  x : Nat := 0
  addr : W64 := 0
  lx : Nat := 0
  lits : List W32 := []
  slots : List SlotRec := []
  slot : Nat := 0
  /-- the 24 bits of the slot that acts -/
  raw : BitVec 24 := 0
  /-- ports that the bundle's moves write -/
  moved : List Nat := []
  /-- results in flight before the bundle's own -/
  base : Nat := 0
  /-- units that a trigger of the bundle has named -/
  units : List Nat := []
  /-- the context at the start of the issue cycle (R42) -/
  start : Ctx := {}
  /-- ports with every port move of the bundle made (R43) -/
  ports : SMap W512 := []
  /-- slots that count as done when the bundle resumed (R116) -/
  done : BitVec 8 := 0
  preds : BitVec 8 := 1
  snaps : Option (List W512) := none
  /-- the transfer that this bundle makes, and whether it is a call's -/
  pend : Option W64 := none
  link : Bool := false
  ret : Nat := 0
  halt : Bool := false
  yield_ : Bool := false
  /-- write of the rounding counter by sy.seed or sy.csrw, which acts after the bundle's advances (R155) -/
  rctr : Option (BitVec 40) := none
  /-- the CSR writes that act for the bundles that issue after this one, in slot order (R131) -/
  newCsr : List CsrWrite := []
  /-- the CSRs from before a CSR write of this bundle that has taken effect at a stop (R131, R176) -/
  oldCsr : Option Csrs := none
  /-- lstat at the start of the issue cycle (R42, R229) -/
  lstat : W64 := 0
  /-- format, key and mode that the bundle's operations use (R154) -/
  fmt : Nat := 0
  mode : Nat := 0
  key : W32 := 0
  /-- format, mode and key after the bundle (R154) -/
  newFmt : Option Nat := none
  newMode : Option Nat := none
  newSeed : Option W32 := none
  out : Outcome := .going
  deriving DecidableEq, Repr

/-! ### The whole -/

/-- Everything that a step may change, beside boot and clock. -/
structure Mach where
  agenda : List Instr := []
  seed : Nat := 0
  /-- home lines that a write has reached in this cycle, scratchpad lines from 2^44 on (R349) -/
  touched : List Nat := []
  issue : Issue := {}
  mem : Memory := []
  memChk : Memory := []
  l2 : SMap L2Line := []
  spad : Memory := []
  spadChk : Memory := []
  ctxs : SMap Ctx := []
  cores : SMap Core := []
  tasks : SMap Task := []
  dies : SMap Die := []
  lqs : SMap Lq := []
  launches : SMap Launch := []
  nextLaunch : Nat := 0
  hwqs : SMap Hwq := []
  sets : SMap MSet := []
  grps : SMap Grp := []
  arrs : SMap Arr := []
  spills : SMap SpillRest := []
  nextRead : Nat := 0
  routers : SMap Router := []
  msgs : List NtMsg := []
  changes : List NtPending := []
  anns : List Ann := []
  claims : List Claim := []
  colls : List CollMsg := []
  links : SMap Link := []
  ringFail : BitVec 16 := 0
  hubFail : BitVec 16 := 0
  hot : SMap W64 := []
  hostPort : SMap (BitVec 4) := []
  deriving DecidableEq, Repr

end Sys2Proof.Machine

namespace Sys2Proof.Machine

/-- The state of the package. -/
structure State where
  boot : Boot
  clk : Clock
  m : Mach
  deriving DecidableEq, Repr

/-- The firmware images that verify: under both schemes, and not below the rollback counter (R406). -/
def bootImages (b : BootResult) : BitVec 25 := b.ecdsa &&& b.lms &&& b.fresh

/-- A die right after reset (R8): frame.base as boot writes it (R123), the fused and boot-set fields of sec.stat. -/
def Die.reset (d : Nat) (b : BootResult) : Die :=
  { frameBase := d * 2 ^ 40 + 0x17_FA00_0000, policy := b.policy, erased := b.erased, sigfail := bootImages b != BitVec.allOnes 25 }

/-- What a boot brings into service (R406): a C-die or O-die whose self-test and image check passed, and the H-die, without
which boot fails (R17 to R19). -/
def Boot.of (b : BootResult) : Boot :=
  let active := b.cpass &&& (bootImages b).setWidth 16
  { active := active, odies := b.opass &&& (bootImages b >>> 16).setWidth 8, ringPass := b.ring,
    failed := !(b.hpass && (bootImages b).getLsbD 24 && (active.getLsbD 0 || active.getLsbD 8)) }

/-- The ring links that boot marks as failed (R17): both of each fenced die whose ring stop has failed its test.  Link n
joins stop n to stop n + 1. -/
def Boot.ringFail (b : Boot) : BitVec 16 :=
  let out : BitVec 16 := ~~~(b.active ||| b.ringPass)
  out ||| out.rotateRight 1

/-- The machine after the reset and boot that found b (R8, R17 to R20, R22).  The ring links that boot marks as failed lead to
no event records (log entry 101). -/
def State.afterBoot (b : BootResult) (seed : Nat) : State :=
  { boot := Boot.of b
    clk := { cycle := 0, tick := 0 }
    m := { seed := seed
           ringFail := (Boot.of b).ringFail
           dies := (List.range 16).map fun d => (d, Die.reset d b)
           hostPort := [(0, 0xF), (1, 0xF)] } }

/-- Every die passes its test (log entry 1). -/
def BootResult.full : BootResult :=
  { cpass := 0xFFFF, opass := 0xFF, hpass := true, ring := 0xFFFF, ecdsa := BitVec.allOnes 25,
    lms := BitVec.allOnes 25, fresh := BitVec.allOnes 25, policy := 0, erased := false }

/-- The machine right after module reset: everything at its reset value, no agenda, nothing in memory. -/
def State.reset : State := State.afterBoot BootResult.full 0

end Sys2Proof.Machine
end

