-- ==== Sys2Proof/Machine/Base.lean ====
section
/-! DEFINITION. The monad of the meanings, keys, and reading and updating the parts of the machine. -/

namespace Sys2Proof.Machine

/-- What a step may read and never writes: the boot outcome and the clock. -/
structure Env where
  boot : Boot
  clk : Clock

/-- Why a slot, or a fetch, stops. -/
inductive Stop where
  /-- a trap: cause (R115) and tval -/
  | trap (cause : Nat) (tval : W64)
  /-- USER_TRAP, whose slot counts as done (R126) -/
  | userTrap (tval : W64)
  /-- an access to an absent page: the generic address (R119) -/
  | page (tval : W64)
  /-- a mismatch or consumed parity error (R386) -/
  | mismatch (tval : W64)
  /-- the bundle blocks (R106) -/
  | block (w : Wait) (operand : W64) (bounded : Bool)
  deriving DecidableEq, Repr

/-- A meaning: it reads the environment, changes the machine, and may stop; what it changed before a stop stays. -/
abbrev M := ReaderT Env (EStateM Stop Mach)

/-- Carry out a meaning that cannot stop, or whose stop is of no account. -/
def runM (a : M Unit) (e : Env) (m : Mach) : Mach :=
  match a e m with
  | .ok _ m => m
  | .error _ m => m

/-- Trap causes (R115). -/
def Cause.illegalSlot : Nat := 1
def Cause.illegalBundle : Nat := 2
def Cause.misalignedTarget : Nat := 3
def Cause.extBlockTarget : Nat := 4
def Cause.aperture : Nat := 5
def Cause.undeclared : Nat := 6
def Cause.align : Nat := 7
def Cause.priv : Nat := 8
def Cause.poison : Nat := 9
def Cause.checkMismatch : Nat := 10
def Cause.lease : Nat := 11
def Cause.orphanWait : Nat := 12
def Cause.waitTimeout : Nat := 13
def Cause.stallWatchdog : Nat := 14
def Cause.segOverflow : Nat := 15
def Cause.ntNever : Nat := 16
def Cause.ntRange : Nat := 17

/-- Raise a trap. -/
def trap {α : Type} (cause : Nat) (tval : W64) : M α := throw (.trap cause tval)

/-- Block the bundle. -/
def block {α : Type} (w : Wait) (operand : W64) (bounded : Bool) : M α := throw (.block w operand bounded)

/-- The statuses EMPTY, TERM and FULL (R98). -/
def statusEmpty : W64 := 0x8000000000000001
def statusTerm : W64 := 0x8000000000000002
def statusFull : W64 := 0x8000000000000003

/-! ### Keys -/

def coreKey (d r : Nat) : Nat := d * 192 + r
def ctxKey (d r x : Nat) : Nat := coreKey d r * 4 + x
/-- A task's key from its die and frame number 16 × rank + index (R109). -/
def taskKey (d f : Nat) : Nat := d * 3072 + f
def lqKey (d q : Nat) : Nat := d * 1024 + q
def setKey (d n : Nat) : Nat := d * 256 + n
def hwqKey (d w : Nat) : Nat := d * 256 + w
def grpKey (d g : Nat) : Nat := d * 256 + g
def arrKey (d a : Nat) : Nat := d * 8 + a
def hotKey (d n : Nat) : Nat := d * 512 + n

/-! ### Parts -/

def Mach.ctx (m : Mach) (k : Nat) : Ctx := m.ctxs.get {} k
def Mach.setCtx (m : Mach) (k : Nat) (c : Ctx) : Mach := { m with ctxs := m.ctxs.put k c }
def Mach.modCtx (m : Mach) (k : Nat) (f : Ctx → Ctx) : Mach := m.setCtx k (f (m.ctx k))

def Mach.core (m : Mach) (k : Nat) : Core := m.cores.get {} k
def Mach.setCore (m : Mach) (k : Nat) (c : Core) : Mach := { m with cores := m.cores.put k c }
def Mach.modCore (m : Mach) (k : Nat) (f : Core → Core) : Mach := m.setCore k (f (m.core k))

def Mach.task (m : Mach) (k : Nat) : Task := m.tasks.get {} k
def Mach.setTask (m : Mach) (k : Nat) (t : Task) : Mach := { m with tasks := m.tasks.put k t }
def Mach.modTask (m : Mach) (k : Nat) (f : Task → Task) : Mach := m.setTask k (f (m.task k))

def Mach.die (m : Mach) (d : Nat) : Die := m.dies.get {} d
def Mach.setDie (m : Mach) (d : Nat) (x : Die) : Mach := { m with dies := m.dies.put d x }
def Mach.modDie (m : Mach) (d : Nat) (f : Die → Die) : Mach := m.setDie d (f (m.die d))

def Mach.lq (m : Mach) (k : Nat) : Lq := m.lqs.get {} k
def Mach.modLq (m : Mach) (k : Nat) (f : Lq → Lq) : Mach := { m with lqs := m.lqs.put k (f (m.lq k)) }

def Mach.launch (m : Mach) (k : Nat) : Launch := m.launches.get {} k
def Mach.modLaunch (m : Mach) (k : Nat) (f : Launch → Launch) : Mach :=
  { m with launches := m.launches.put k (f (m.launch k)) }

def Mach.hwq (m : Mach) (k : Nat) : Hwq := m.hwqs.get {} k
def Mach.modHwq (m : Mach) (k : Nat) (f : Hwq → Hwq) : Mach := { m with hwqs := m.hwqs.put k (f (m.hwq k)) }

def Mach.mset (m : Mach) (k : Nat) : MSet := m.sets.get {} k
def Mach.setMset (m : Mach) (k : Nat) (x : MSet) : Mach := { m with sets := m.sets.put k x }

def Mach.grp (m : Mach) (k : Nat) : Grp := m.grps.get {} k
def Mach.modGrp (m : Mach) (k : Nat) (f : Grp → Grp) : Mach := { m with grps := m.grps.put k (f (m.grp k)) }

def Mach.arr (m : Mach) (k : Nat) : Arr := m.arrs.get {} k
def Mach.modArr (m : Mach) (k : Nat) (f : Arr → Arr) : Mach := { m with arrs := m.arrs.put k (f (m.arr k)) }

def Mach.router (m : Mach) (k : Nat) : Router := m.routers.get {} k
def Mach.modRouter (m : Mach) (k : Nat) (f : Router → Router) : Mach :=
  { m with routers := m.routers.put k (f (m.router k)) }

def Mach.link (m : Mach) (k : Nat) : Link := m.links.get {} k
def Mach.modLink (m : Mach) (k : Nat) (f : Link → Link) : Mach := { m with links := m.links.put k (f (m.link k)) }

/-- Take the next free 64-bit value (log entry 5). -/
def Mach.fresh (m : Mach) : W64 × Mach := (Config.freeWord m.seed, { m with seed := m.seed + 1 })

/-- Is die d active (R20)? -/
def Env.live (e : Env) (d : Nat) : Bool := decide (d < 16) && e.boot.active.getLsbD d

/-- The active die count (R20). -/
def Env.dieCount (e : Env) : Nat := popN e.boot.active.toNat 16

/-- The active dies in ascending order. -/
def Env.dieList (e : Env) : List Nat := (List.range 16).filter e.live

/-! ### The context of the bundle being issued -/

def Issue.ck (i : Issue) : Nat := ctxKey i.d i.r i.x
def Issue.core (i : Issue) : Nat := coreKey i.d i.r
def Mach.ick (m : Mach) : Nat := m.issue.ck
/-- The context that issues. -/
def Mach.cur (m : Mach) : Ctx := m.ctx m.issue.ck
def Mach.modCur (m : Mach) (f : Ctx → Ctx) : Mach := m.modCtx m.issue.ck f
/-- The key of the task that issues. -/
def Mach.tkey (m : Mach) : Nat := taskKey m.issue.d m.cur.frame
def Mach.curTask (m : Mach) : Task := m.task m.tkey
def Mach.modCurTask (m : Mach) (f : Task → Task) : Mach := m.modTask m.tkey f
def Mach.modIssue (m : Mach) (f : Issue → Issue) : Mach := { m with issue := f m.issue }

/-- Does the issuing context run at user privilege (R105)? -/
def Mach.user (m : Mach) : Bool := !m.cur.csr.priv

/-- Charge energy to a task, in units of 0.1 fJ (R403). -/
def Mach.charge (m : Mach) (tk units : Nat) : Mach :=
  if (m.task tk).st = .free then m else m.modTask tk fun t => { t with energy := t.energy + units }

/-- Add to an access counter (R225), modulo 2^64. -/
def Mach.addHot (m : Mach) (d n bytes : Nat) : Mach :=
  if bytes = 0 then m else { m with hot := m.hot.put (hotKey d n) (m.hot.get 0 (hotKey d n) + w64 bytes) }

end Sys2Proof.Machine
end

