-- ==== Sys2Proof/Machine/Ecc.lean ====
section
/-! DEFINITION. Check bits and planes: encoding a line under a legend, and decoding a stored copy to a severity
(R369 to R376). Lines and check fields are numbers of 1,024 and 128 bits. -/

namespace Sys2Proof.Machine

/-! ### Planes (R371) -/

/-- A legend's row in R371: element width, high and middle plane bits per element, and t.  RAW has t = 0. -/
structure Planes where
  w : Nat
  h : Nat
  m : Nat
  t : Nat
  deriving DecidableEq, Repr

/-- The planes of a legend code (R211, R371). -/
def planesOf (legend : Nat) : Planes :=
  match legend with
  | 1 => ⟨32, 9, 7, 9⟩
  | 2 => ⟨16, 9, 3, 9⟩
  | 3 => ⟨16, 6, 5, 7⟩
  | 4 => ⟨8, 5, 1, 10⟩
  | 5 => ⟨8, 3, 2, 8⟩
  | 6 => ⟨4, 2, 1, 8⟩
  | 7 => ⟨4, 3, 1, 8⟩
  | 8 => ⟨1024, 1024, 0, 11⟩
  | 9 => ⟨1024, 1024, 0, 11⟩
  | _ => ⟨1024, 0, 0, 0⟩

/-- Elements of a line. -/
def Planes.n (p : Planes) : Nat := 1024 / p.w

/-- Bits lo and upwards of every element, k of them, packed. -/
def planeBits (p : Planes) (line lo k : Nat) : Nat :=
  packLanes k ((lanesOf line p.w p.n).map fun e => (e >>> lo) % 2 ^ k)

/-- The high plane. -/
def highPlane (p : Planes) (line : Nat) : Nat := planeBits p line (p.w - p.h) p.h

/-- The middle plane. -/
def midPlane (p : Planes) (line : Nat) : Nat := planeBits p line (p.w - p.h - p.m) p.m

/-- The line with its high plane replaced. -/
def withHigh (p : Planes) (line high : Nat) : Nat :=
  packLanes p.w ((List.range p.n).map fun e =>
    laneN line p.w e % 2 ^ (p.w - p.h) + laneN high p.h e * 2 ^ (p.w - p.h))

/-- The XOR of the low 2^k bits. -/
def parityN (x : Nat) : Nat → Nat
  | 0 => x % 2
  | k + 1 => parityN ((x ^^^ (x >>> 2 ^ k)) % 2 ^ 2 ^ k) k

/-- The XOR of all bits of a number of at most 2,048 bits. -/
def parity (x : Nat) : Nat := parityN x 11

/-! ### The field GF(2^11) and the BCH code (R372) -/

/-- The product in GF(2^11), a, b below 2^11; the second factor's bits are taken from the top. -/
def gfMulAux (a b : Nat) : Nat → Nat
  | 0 => 0
  | k + 1 =>
    let r := gfMulAux a (b / 2) k * 2
    let r := if r ≥ 2048 then r ^^^ 0x805 else r
    if b % 2 = 1 then r ^^^ a else r

def gfMul (a b : Nat) : Nat := gfMulAux a b 11

/-- a^n. -/
def gfPow (a : Nat) : Nat → Nat
  | 0 => 1
  | n + 1 => gfMul a (gfPow a n)

/-- The inverse of a nonzero element, a^(2^11 − 2). -/
def gfInv (a : Nat) : Nat :=
  let sq (x : Nat) := gfMul x x
  ((List.range 10).foldl (fun (p : Nat × Nat) _ => (sq p.1, gfMul p.2 (sq p.1))) (a, 1)).2

/-- The minimal polynomials of α, α^3, …, α^21. -/
def minPolys : List Nat :=
  [0x805, 0x925, 0x88d, 0x82d, 0xc0d, 0xf0b, 0x863, 0x973, 0x82b, 0xa13, 0xb93]

/-- The product of binary polynomials, a of at most n bits. -/
def clMul (a b : Nat) : Nat → Nat
  | 0 => 0
  | n + 1 => (if a % 2 = 1 then b else 0) ^^^ 2 * clMul (a / 2) b n

/-- The generator of the code that corrects t errors. -/
def bchGen (t : Nat) : Nat := (minPolys.take t).foldl (fun g p => clMul p g 12) 1

/-- The remainder of x (of n bits) times x^d, where g has degree d, taken modulo g. -/
def clMod (g d : Nat) (x : Nat) (n : Nat) : Nat :=
  (List.range (n + d)).foldl (fun r i =>
    let r := 2 * r + (if i < n then bitN x (n - 1 - i) else 0)
    if tst r d then r ^^^ g else r) 0

/-- High-plane bits of a line. -/
def Planes.high (p : Planes) : Nat := p.h * p.n

/-- The BCH part and the overall parity of a high plane (R372). -/
def bchOf (p : Planes) (high : Nat) : Nat :=
  if high = 0 then 0 else
  let c := clMod (bchGen p.t) (11 * p.t) high p.high
  c + (parity high ^^^ parity c) * 2 ^ (11 * p.t)

/-- The middle parity bits: one for each eight middle-plane bits (R372). -/
def midParity (p : Planes) (line : Nat) : Nat :=
  if p.m = 0 then 0 else
  packLanes 1 ((lanesOf (midPlane p line) 8 (p.m * p.n / 8)).map fun g => parityN g 3)

/-! ### RAW: SEC-DED on each 64-bit word (R373) -/

/-- Data bits that check bit j covers: those whose Hamming position has bit j set. -/
def hamMasks : List Nat :=
  [0xab55555556aaad5b, 0xcd9999999b33366d, 0xf1e1e1e1e3c3c78e, 0x01fe01fe03fc07f0, 0x01fffe0003fff800,
   0x01fffffffc000000, 0xfe00000000000000]

/-- The Hamming positions of the data bits 0 to 63. -/
def hamPos : List Nat := (List.range 72).filter fun p => !([0, 1, 2, 4, 8, 16, 32, 64].contains p)

/-- The parity of a 64-bit number. -/
def par64 (x : Nat) : Nat := parityN x 6

/-- Check bits 6:0 of a word. -/
def ham7 (x : Nat) : Nat := packLanes 1 (hamMasks.map fun k => par64 (x &&& k))

/-- The eight check bits of a 64-bit word. -/
def rawCheck (x : Nat) : Nat :=
  if x = 0 then 0 else
  let c := ham7 x
  c + (par64 c ^^^ par64 x) * 128

/-- A read word: the delivered data and check bits, and 0 clean, 1 corrected, 3 HIGH. -/
def rawDecode (x c : Nat) : Nat × Nat :=
  if c = rawCheck x then (x, 0) else
  let syn := ham7 x ^^^ (c % 128)
  let odd := par64 x ^^^ par64 c
  if odd = 0 then (x, 3)
  else if syn = 0 then (x, 1)
  else if syn > 71 then (x, 3)
  else
    match hamPos.findIdx? (· == syn) with
    | some d => (x ^^^ 2 ^ d, 1)
    | none => (x, 1)

/-! ### Encoding -/

/-- The check field of a line under a legend (R372, R373). -/
def checkBits (legend line : Nat) : Nat :=
  if line = 0 then 0 else
  let p := planesOf legend
  if p.t = 0 then packLanes 8 ((lanesOf line 64 16).map rawCheck)
  else bchOf p (highPlane p line) + midParity p line * 2 ^ (11 * p.t + 1)

/-- The check field of a poisoned copy, whose data are zero (R374). -/
def poisonChk : Nat := mask 128

/-- Is a copy poisoned (R374)? -/
def poisoned (line chk : Nat) : Bool := line == 0 && chk == poisonChk

/-! ### Bounded-distance decoding -/

/-- The syndromes S_1 to S_n of an error remainder of d bits. -/
def syndromes (e d n : Nat) : List Nat :=
  (List.range n).map fun j =>
    let b := gfPow 2 (j + 1)
    (List.range d).foldl (fun s i => gfMul s b ^^^ bitN e (d - 1 - i)) 0

/-- Coefficient i of a polynomial over the field. -/
def coef (c : List Nat) (i : Nat) : Nat := c.getD i 0

/-- The state of the shortest-register search of Berlekamp and Massey. -/
structure Bm where
  c : List Nat
  b : List Nat
  l : Nat
  gap : Nat
  d : Nat

/-- One step of the search on syndrome n. -/
def Bm.next (s : List Nat) (k : Bm) (n : Nat) : Bm :=
  let d := (List.range (k.l + 1)).foldl (fun a i => a ^^^ gfMul (coef k.c i) (coef s (n - i))) 0
  if d = 0 then { k with gap := k.gap + 1 }
  else
    let f := gfMul d (gfInv k.d)
    let c := (List.range (max k.c.length (k.b.length + k.gap))).map fun i =>
      coef k.c i ^^^ (if i < k.gap then 0 else gfMul f (coef k.b (i - k.gap)))
    if 2 * k.l ≤ n then { c := c, b := k.c, l := n + 1 - k.l, gap := 1, d := d }
    else { k with c := c, gap := k.gap + 1 }

/-- The error locator of a list of syndromes, with its length. -/
def locator (s : List Nat) : List Nat × Nat :=
  let k := (List.range s.length).foldl (Bm.next s) { c := [1], b := [1], l := 0, gap := 1, d := 1 }
  (k.c, k.l)

/-- The value of a polynomial at x. -/
def polyAt (c : List Nat) (x : Nat) : Nat := c.foldr (fun a r => gfMul r x ^^^ a) 0

/-- The positions below n at which the locator says an error lies: those p with a root at α^(−p). -/
def errorPositions (c : List Nat) (n : Nat) : List Nat :=
  let ai := gfInv 2
  ((List.range n).foldl (fun (st : Nat × List Nat) p =>
    (gfMul st.1 ai, if polyAt c st.1 = 0 then p :: st.2 else st.2)) (1, [])).2

/-- The corrected high plane and the number of corrected high-plane bits, when at most t errors among the high plane
and c[11t:0] explain the received bits (R375); the third part counts all corrected bits. -/
def bchDecode (p : Planes) (high chk : Nat) : Option (Nat × Nat × Nat) :=
  let d := 11 * p.t
  let want := bchOf p high
  if chk % 2 ^ (d + 1) = want then some (high, 0, 0) else
  let e := (want ^^^ chk) % 2 ^ d
  let odd := (parity high + parity (chk % 2 ^ (d + 1))) % 2
  if e = 0 then some (high, 0, 1)
  else
    let (c, l) := locator (syndromes e d (2 * p.t))
    let ps := errorPositions c (d + p.high)
    let hp := (ps.filter fun q => decide (d ≤ q)).map fun q => q - d
    let total := ps.length + (if ps.length % 2 = odd then 0 else 1)
    if ps.length = l ∧ total ≤ p.t then some (hp.foldl (fun h q => h ^^^ 2 ^ q) high, hp.length, total)
    else none

/-! ### Reading a copy (R375, R376) -/

/-- What a read of a stored copy finds: severity (0 CLEAN, 1 CORRECTED, 2 LOW, 3 HIGH), whether HIGH was known, the
data delivered, the data and check field that the copy holds afterwards, and what an error record tells (R380). -/
structure Reading where
  sev : Nat
  known : Bool
  data : Nat
  newData : Nat
  newChk : Nat
  elems : Nat
  eb : Int
  ones : Bool
  fixed : Nat
  deriving DecidableEq, Repr

/-- Bits and bias of a legend's exponent field, 0 bits for the integer ones. -/
def expField (legend : Nat) : Nat × Nat :=
  match legend with
  | 1 => (8, 127) | 2 => (8, 127) | 3 => (5, 15) | 4 => (4, 7) | 7 => (2, 1)
  | _ => (0, 0)

/-- The elements of the failed middle parity groups (R380). -/
def groupElems (p : Planes) (failed : Nat) : List Nat :=
  (List.range p.n).filter fun e =>
    (List.range (p.m * p.n / 8)).any fun j =>
      tst failed j && decide (p.m * e ≤ 8 * j + 7) && decide (8 * j ≤ p.m * e + p.m - 1)

/-- The exponent bound Eb and the all-ones mark of an error record (R380). -/
def errorBound (legend : Nat) (p : Planes) (line : Nat) (es : List Nat) : Int × Bool :=
  if legend = 5 then (5, false)
  else if legend = 6 then (2, false)
  else
    let (eb, bias) := expField legend
    let xs := es.map fun e => fld (laneN line p.w e) (p.w - 2) (p.w - 1 - eb)
    let fin := xs.filter fun x => x != mask eb
    let top := fin.foldl (fun a x => max a (max x 1)) 0
    (if fin.isEmpty then 0 else (top : Int) - (bias : Int), decide (fin.length < xs.length))

/-- Decode a stored copy (R374 to R376). -/
def decodeCopy (legend line chk : Nat) : Reading :=
  let clean : Reading :=
    { sev := 0, known := false, data := line, newData := line, newChk := chk, elems := 0, eb := 0, ones := false,
      fixed := 0 }
  let high : Reading := { clean with sev := 3, newData := 0, newChk := poisonChk }
  if poisoned line chk then { high with known := true }
  else if chk = checkBits legend line then clean
  else
    let p := planesOf legend
    if p.t = 0 then
      let ws := (List.range 16).map fun u => rawDecode (laneN line 64 u) (laneN chk 8 u)
      if ws.any fun w => w.2 == 3 then high
      else
        let d := packLanes 64 (ws.map (·.1))
        { clean with sev := 1, data := d, newData := d, newChk := checkBits legend d }
    else
      match bchDecode p (highPlane p line) chk with
      | none => high
      | some (hi, nh, total) =>
        let d := withHigh p line hi
        let failed := midParity p d ^^^ ((chk >>> (11 * p.t + 1)) % 2 ^ (p.m * p.n / 8))
        let fresh := checkBits legend d
        if failed ≠ 0 then
          let es := groupElems p failed
          let (eb, ones) := errorBound legend p d es
          { sev := 2, known := false, data := d, newData := d, newChk := fresh,
            elems := es.foldl (fun a e => a + 2 ^ e) 0, eb := eb, ones := ones, fixed := nh }
        else if total > 0 then { clean with sev := 1, data := d, newData := d, newChk := fresh, fixed := nh }
        else clean

end Sys2Proof.Machine
end

