-- ==== Sys2Proof/Machine/Home.lean ====
section
/-! DEFINITION. The homes of bytes: memory lines behind the L2, scratchpad lines, the error and event records that
accesses write, and the page-table walk (R207 to R217, R369 to R380, R391, R393). -/

namespace Sys2Proof.Machine

/-- Who makes an access: agent code of R380, the die charged, and the frame number or 0xFFFF. -/
structure Agent where
  code : Nat
  die : Nat
  frame : Nat
  deriving DecidableEq, Repr

/-- No frame (R380). -/
def noFrame : Nat := 0xFFFF

/-- The size of a die's memory, 96 GiB (R207). -/
def dieBytes : Nat := 96 * 2 ^ 30

/-- Is a physical address backed, as die d sees it (R207)? -/
def backed (e : Env) (m : Mach) (d pa : Nat) : Bool :=
  if pa / 2 ^ 44 = 0 then e.live (pa / 2 ^ 40) && decide (pa % 2 ^ 40 < dieBytes)
  else decide (pa / 2 ^ 40 = 16) && decide (pa % 2 ^ 40 < (m.die d).hostMem)

/-- Does an address lie in the memory of die d or in host memory, backed (R210)? -/
def ownBacked (e : Env) (m : Mach) (d pa : Nat) : Bool :=
  backed e m d pa && (decide (pa / 2 ^ 44 = 1) || decide (pa / 2 ^ 40 = d))

/-! ### Flares and event records -/

/-- What a flare does on one die: the snapshot registers of every block are latched, with free contents, and trace may
stop (R408). -/
def flareDie (tag src d : Nat) (m : Mach) : Mach :=
  { m with seed := m.seed + 1 }.modDie d fun x =>
    { x with flFired := true, flTag := tag, flSource := src, flSnap := some m.seed, trcStop := x.trcStop || x.flTstop }

/-- A flare that arises on die d (R408): none while fired is set there, or while it is not armed. -/
def flare (e : Env) (d tag src : Nat) (m : Mach) : Mach :=
  let x := m.die d
  if x.flArm && !x.flFired then e.dieList.foldl (fun m d => flareDie tag src d m) m else m

/-- A flare on an event of flare.cfg.on: 8 mismatch, 9 HIGH discovery, 10 droop, 11 loss of light (R408). -/
def flareOn (e : Env) (d bit : Nat) (m : Mach) : Mach :=
  if tst (m.die d).flOn (bit - 8) then flare e d 0 bit m else m

/-- Number a record, stamp its tick and place it in the event store (R393). -/
def storeEvent (e : Env) (d type : Nat) (body : Nat) (m : Mach) : W512 × Mach :=
  let data := w512 (type + body + e.clk.tick.toNat * 2 ^ 128)
  (data, m.modDie d fun x =>
    { x with evCount := x.evCount + 1, evStore := ({ type := type, data := data } :: x.evStore).take 256 })

/-- How an access writes an event record: die, type, and the bits beside type and tick. -/
abbrev Recorder := Env → Nat → Nat → Nat → Mach → Mach

/-! ### Memory lines and the L2 -/

/-- The data bits of a memory line in its channel (R208). -/
def memData (m : Mach) (la : Nat) : Nat := ofBytes (m.mem.bytes (la * 128) 128)

/-- The check bits of a memory line (R208). -/
def memCheck (m : Mach) (la : Nat) : Nat := ofBytes (m.memChk.bytes (la * 16) 16)

/-- Write a whole memory line with its check bits. -/
def setMemLine (la data chk : Nat) (m : Mach) : Mach :=
  { m with mem := m.mem.store (la * 128) (bytesOf data 128), memChk := m.memChk.store (la * 16) (bytesOf chk 16) }

/-- The home slice of a line (R217). -/
def l2Slice (la : Nat) : Nat :=
  fld la 7 0 ^^^ fld la 15 8 ^^^ fld la 23 16 ^^^ fld la 31 24 ^^^ fld la 39 32 ^^^ bitN la 40

/-- The set of a line in its slice (R217). -/
def l2Set (la : Nat) : Nat := fld la 18 8

/-- The lines that the L2 holds in the set of a line (R217). -/
def l2Ways (m : Mach) (la : Nat) : List (Nat × L2Line) :=
  m.l2.filter fun p => decide (l2Slice p.1 = l2Slice la) && decide (l2Set p.1 = l2Set la)

/-- Are all 16 ways of a line's set pinned (R217)? -/
def l2AllPinned (m : Mach) (la : Nat) : Bool :=
  decide (16 ≤ ((l2Ways m la).filter fun p => decide (0 < p.2.pins)).length)

/-- The bits of an error record (R380). -/
def errorBits (ag : Agent) (leg copy addr : Nat) (r : Reading) : Nat :=
  r.sev * 2 ^ 8 + leg * 2 ^ 12 + copy * 2 ^ 16 + ag.code * 2 ^ 20 + ag.die * 2 ^ 24 + b2n r.ones * 2 ^ 28
    + addr * 2 ^ 64 + r.elems * 2 ^ 192 + wrapI r.eb 16 * 2 ^ 448 + r.fixed * 2 ^ 464
    + (if ag.code ≤ 2 then ag.frame else noFrame) * 2 ^ 472

/-- Count a discovery, record it when LOW or HIGH, and raise the flare of a HIGH one (R376, R379, R380, R408). -/
def discovery (rec_ : Recorder) (e : Env) (ag : Agent) (leg copy addr : Nat) (r : Reading) (m : Mach) : Mach :=
  if r.sev = 0 || r.known then m
  else
    let m := m.modDie ag.die fun x =>
      if r.sev = 1 then { x with lgCorr := satN (x.lgCorr + 1) 32 }
      else if r.sev = 2 then { x with lgLow := satN (x.lgLow + 1) 16 }
      else { x with lgHigh := satN (x.lgHigh + 1) 16 }
    let m := if r.sev ≥ 2 then rec_ e ag.die 0x10 (errorBits ag leg copy addr r) m else m
    if r.sev = 3 then flareOn e ag.die 9 m else m

/-- What a read of a line delivers: its data and severity (0 CLEAN, 1 CORRECTED, 2 LOW, 3 HIGH). -/
structure Got where
  data : Nat
  sev : Nat
  deriving DecidableEq, Repr

/-! ### Paths over the ring and the hub, and what bytes on them cost (R13, R402, R403; log entry 16) -/

/-- The ring links from stop a upwards to stop b. -/
def ringUp (a b : Nat) : List Nat := (List.range ((b + 16 - a) % 16)).map fun k => (a + k) % 16

/-- How many ring links a packet from stop a to stop b crosses: the shorter way round, upwards where both are as long,
the other way round where a link of that way has failed, and none where each way has a failed link (R402). -/
def ringPath (m : Mach) (a b : Nat) : Option Nat :=
  let up := ringUp a b
  let down := ringUp b a
  let whole (ls : List Nat) : Bool := ls.all fun n => !(m.ringFail.getLsbD n)
  let near := if up.length ≤ down.length then up else down
  let far := if up.length ≤ down.length then down else up
  if whole near then some near.length else if whole far then some far.length else none

/-- Does die d's hub link work? -/
def hubWorks (e : Env) (m : Mach) (d : Nat) : Bool := e.live d && !(m.hubFail.getLsbD d)

/-- How many links a packet crosses between die d and the hub: its hub link, or the way to the nearer ring neighbour whose
hub link works, upwards where both are as near (R402). -/
def hubLinks (e : Env) (m : Mach) (d : Nat) : Nat :=
  if hubWorks e m d then 1
  else
    let ways := ((List.range 9).flatMap fun k => [(d + k) % 16, (d + 16 - k) % 16]).filterMap fun n =>
      if hubWorks e m n then ringPath m d n else none
    match ways with
    | n :: _ => n + 1
    | [] => 1

/-- How many links a packet on the ring from stop a to stop b crosses: over the hub where each way round has a failed link
(log entry 16). -/
def ringLinks (e : Env) (m : Mach) (a b : Nat) : Nat := (ringPath m a b).getD (hubLinks e m a + hubLinks e m b)

/-- The distance of two stops on the ring, the shorter way round. -/
def ringDistance (a b : Nat) : Nat := min (ringUp a b).length (ringUp b a).length

/-- How many links a packet crosses between dies a and b: the ring's where their stops lie at most two links apart, and
else the hub's (R402; log entry 16). -/
def pathLinks (e : Env) (m : Mach) (a b : Nat) : Nat :=
  if a = b then 0
  else if ringDistance a b ≤ 2 then ringLinks e m a b
  else hubLinks e m a + hubLinks e m b

/-- Does the host port on die 0 or 8 carry traffic: its die is active and a module of it has trained (R13, R389)? -/
def portWorks (e : Env) (m : Mach) (d : Nat) : Bool := e.live d && m.hostPort.get 0 (d / 8) != 0

/-- The die whose host port carries the host traffic of die d (R13, R389). -/
def portDie (e : Env) (m : Mach) (d : Nat) : Nat :=
  let own := if 4 ≤ d ∧ d ≤ 11 then 8 else 0
  if portWorks e m own then own else 8 - own

/-- The energy of a byte over each die-to-die link, over a Rhavor link, and to or from LPDDR-6, in units of 0.1 fJ. -/
def linkUnits : Nat := 12000
def rhavorUnits : Nat := 40000
def dramUnits : Nat := 280000

/-- The energy of bytes between the L2, which lies on the H-die, and the memory of a line: host memory's travel over the
hub link of the die that they are for, and on the ring between that die and the host port that carries its traffic
(R13). -/
def memEnergy (e : Env) (m : Mach) (d la bytes : Nat) : Nat :=
  if la / 2 ^ 37 = 0 then bytes * (dramUnits + linkUnits * hubLinks e m (la / 2 ^ 33))
  else
    let port := portDie e m d
    bytes * (linkUnits * ((if port = d then 0 else ringLinks e m port d) + hubLinks e m d))

/-- Charge the task that an agent acts for with the bytes of a line that move between the L2 and memory. -/
def chargeMem (e : Env) (ag : Agent) (la : Nat) (m : Mach) : Mach :=
  if ag.frame = noFrame then m else m.charge (taskKey ag.die ag.frame) (memEnergy e m ag.die la 128)

/-- The task that an agent acts for, with the number of its entry. -/
def Agent.task (ag : Agent) (m : Mach) : Option (Nat × Nat) :=
  if ag.frame = noFrame then none
  else some (taskKey ag.die ag.frame, (m.task (taskKey ag.die ag.frame)).entry)

/-- What a read of a peer package's line delivers: free data with a free severity (log entry 6). -/
def peerGot (m : Mach) : Got × Mach :=
  (⟨(Config.freeLine m.seed).toNat, Config.freeChoice m.seed % 4⟩, { m with seed := m.seed + 1 })

/-- The die whose memory holds a line (R379); for host memory, the lowest active one. -/
def lineDie (e : Env) (la : Nat) : Nat := if la / 2 ^ 37 = 0 then la / 2 ^ 33 else e.dieList.headD 0

/-- A line leaves the L2, unless a tile fetch pins it; with a dirty sector it is written back whole, encoded under its tag
(R217, R376). -/
def l2EvictWith (rec_ : Recorder) (e : Env) (la : Nat) (m : Mach) : Mach :=
  match m.l2.find la with
  | none => m
  | some l =>
    if l.pins ≠ 0 then m
    else
      let m := { m with l2 := m.l2.del la }
      if l.dirty = 0 then m
      else
        let m := match l.by_ with
          | some (tk, no) => if (m.task tk).entry = no then m.charge tk (memEnergy e m (tk / 3072) la 128) else m
          | none => m
        let r := decodeCopy l.legend l.data.toNat l.chk.toNat
        discovery rec_ e ⟨8, lineDie e la, noFrame⟩ l.legend 1 (la * 128) r (setMemLine la r.newData r.newChk m)

/-- Put a line into the L2 that it does not hold: where its set has more than 16 ways then, another line of the set that is
not pinned leaves, by a free choice (R14, R25, R217; log entry 12). -/
def l2Insert (rec_ : Recorder) (e : Env) (la : Nat) (l : L2Line) (m : Mach) : Mach :=
  let m := { m with l2 := m.l2.put la l }
  let ways := l2Ways m la
  let out := ways.filter fun p => p.1 != la && decide (p.2.pins = 0)
  if ways.length ≤ 16 then m
  else
    match out[Config.freeChoice m.seed % out.length]? with
    | some p => l2EvictWith rec_ e p.1 { m with seed := m.seed + 1 }
    | none => m

/-- Read a physical line at its home slice (R217, R370, R375, R376): the L2's copy under its tag, else memory's copy
under the legend of the access, which fills the L2 unless every way is pinned. -/
def homeReadWith (rec_ : Recorder) (e : Env) (ag : Agent) (leg la : Nat) (m : Mach) : Got × Mach :=
  match m.l2.find la with
  | some l =>
    let r := decodeCopy l.legend l.data.toNat l.chk.toNat
    let m := if r.sev = 0 then m else
      { m with l2 := m.l2.put la { l with data := BitVec.ofNat 1024 r.newData, chk := BitVec.ofNat 128 r.newChk } }
    (⟨r.data, r.sev⟩, discovery rec_ e ag l.legend 1 (la * 128) r m)
  | none =>
    let r := decodeCopy leg (memData m la) (memCheck m la)
    let m := if r.sev = 0 then m else setMemLine la r.newData r.newChk m
    let l : L2Line :=
      { data := BitVec.ofNat 1024 r.newData, chk := BitVec.ofNat 128 r.newChk, legend := leg,
        dirty := if r.sev = 1 || r.sev = 2 then 0xFF else 0, pins := 0, by_ := ag.task m }
    let m := chargeMem e ag la m
    let m := if l2AllPinned m la then m else l2Insert rec_ e la l m
    (⟨r.data, r.sev⟩, discovery rec_ e ag leg 0 (la * 128) r m)

/-- A write has reached a home line (R349). -/
def Mach.touch (k : Nat) (m : Mach) : Mach := { m with touched := k :: m.touched }

/-- Is a line one of host memory (R207)? -/
def hostLine (la : Nat) : Bool := decide (la / 2 ^ 37 = 1)

/-- Write a whole line at its home under a legend (R217, R377).  A write to a host memory line reaches host memory before
it is acknowledged, so that the line stays clean (R304). -/
def homePutWith (rec_ : Recorder) (e : Env) (ag : Agent) (leg la data chk : Nat) (dirty : BitVec 8) (m : Mach) : Mach :=
  let m := m.touch la
  let host := hostLine la
  let m := if host then chargeMem e ag la (setMemLine la data chk m) else m
  let old := m.l2.find la
  let l : L2Line :=
    { data := BitVec.ofNat 1024 data, chk := BitVec.ofNat 128 chk, legend := leg,
      dirty := if host then 0 else ((old.map (·.dirty)).getD 0) ||| dirty, pins := (old.map (·.pins)).getD 0,
      by_ := if host then none else ag.task m }
  match old with
  | some _ => { m with l2 := m.l2.put la l }
  | none =>
    if !(l2AllPinned m la) then l2Insert rec_ e la l m
    else if host then m
    else chargeMem e ag la (setMemLine la data chk m)

/-- Replace bytes of a line's data from offset o. -/
def mergeBytes (line o : Nat) (bs : List Byte) : Nat :=
  let n := 8 * bs.length
  line % 2 ^ (8 * o) + ofBytes bs * 2 ^ (8 * o) + line / 2 ^ (8 * o + n) * 2 ^ (8 * o + n)

/-- The dirty marks of bytes o to o + n − 1 of a line. -/
def dirtyMask (o n : Nat) : BitVec 8 := BitVec.ofNat 8 (mask (ceilDiv (o + n) 16) - mask (o / 16))

/-- The L2's copy of a line, when the sectors of n bytes at o are dirty there, so that a write of them need not read the
line (R378; log entry 68). -/
def dirtyCopy (m : Mach) (la o n : Nat) : Option L2Line :=
  (m.l2.find la).filter fun l => l.dirty &&& dirtyMask o n == dirtyMask o n

/-- Is a copy the poison pattern (R374)? -/
def L2Line.poisoned (l : L2Line) : Bool := l.data == 0 && l.chk.toNat == poisonChk

/-- Write bytes within one line at the home slice (R378): a whole line clears poison; a part is merged into a line that
is read first, unless its sectors are dirty in the L2, and nothing is written when the line is HIGH.  Answers whether the
bytes were written. -/
def homeWriteWith (rec_ : Recorder) (e : Env) (ag : Agent) (leg pa : Nat) (bs : List Byte) (m : Mach) : Bool × Mach :=
  let la := pa / 128
  if bs.length = 128 then
    let data := ofBytes bs
    (true, homePutWith rec_ e ag leg la data (checkBits leg data) 0xFF m)
  else
  match dirtyCopy m la (pa % 128) bs.length with
  | some l =>
    if l.poisoned then (false, m)
    else
      let data := mergeBytes l.data.toNat (pa % 128) bs
      (true, homePutWith rec_ e ag leg la data (checkBits leg data) (dirtyMask (pa % 128) bs.length) m)
  | none =>
    let (g, m) := homeReadWith rec_ e ag leg la m
    if g.sev = 3 then (false, m)
    else
      let data := mergeBytes g.data (pa % 128) bs
      (true, homePutWith rec_ e ag leg la data (checkBits leg data) (dirtyMask (pa % 128) bs.length) m)

/-! ### Page tables -/

/-- A valid leaf (R210). -/
structure Leaf where
  legend : Nat
  pa : Nat
  x : Bool
  w : Bool
  rd : Bool
  pr : Bool
  deriving DecidableEq, Repr

/-- An 8-byte entry of a table or ring, with the severity of its line. -/
def entryAt (rec_ : Recorder) (e : Env) (ag : Agent) (leg pa : Nat) (m : Mach) : Nat × Nat × Mach :=
  let (g, m) := homeReadWith rec_ e ag leg (pa / 128) m
  ((g.data / 2 ^ (8 * (pa % 128))) % 2 ^ 64, g.sev, m)

/-- The address in a level-0 or level-1 entry, if it is valid (R209, R210). -/
def nextTable (e : Env) (m : Mach) (d x sev : Nat) : Option Nat :=
  let pa := fld x 47 12 * 4096
  if sev = 3 || !(tst x 0) || fld x 63 48 != 0 || fld x 11 1 != 0 || !(ownBacked e m d pa) then none else some pa

/-- The leaf of an entry, if it is valid (R210): every byte of its page is backed, so that no translation delivers an
unbacked address (R207; log entry 69). -/
def leafOf (e : Env) (m : Mach) (d x sev : Nat) : Option Leaf :=
  let pa := fld x 47 21 * 2 ^ 21
  if sev = 3 || !(tst x 0) || fld x 59 48 != 0 || fld x 20 5 != 0 || decide (9 < fld x 63 60)
      || !(ownBacked e m d pa) || !(ownBacked e m d (pa + (2 ^ 21 - 1))) then none
  else some { legend := fld x 63 60, pa := pa, x := tst x 4, w := tst x 3, rd := tst x 2, pr := tst x 1 }

/-- Walk the page tables of die d for a virtual address (R209): the physical address of its level-2 entry and the leaf,
none when an entry on the way is invalid, or pt.root names no backed memory of the die (log entry 97).  Tables are decoded
under RAW (log entry 8). -/
def walkWith (rec_ : Recorder) (e : Env) (d va : Nat) (m : Mach) : Option (Nat × Leaf) × Mach :=
  let ag : Agent := ⟨7, d, noFrame⟩
  let root := (m.die d).ptRoot
  if !(ownBacked e m d root) then (none, m) else
  let (x0, s0, m) := entryAt rec_ e ag 0 (root + 8 * fld va 47 39) m
  match nextTable e m d x0 s0 with
  | none => (none, m)
  | some t1 =>
    let (x1, s1, m) := entryAt rec_ e ag 0 (t1 + 8 * fld va 38 30) m
    match nextTable e m d x1 s1 with
    | none => (none, m)
    | some t2 =>
      let at_ := t2 + 8 * fld va 29 21
      let (x2, s2, m) := entryAt rec_ e ag 0 at_ m
      ((leafOf e m d x2 s2).map fun l => (at_, l), m)

/-! ### Rings that a die writes (R391) -/

/-- Records that a ring of that lsize holds, as a power of two. -/
def ringLog (lsize : Nat) : Nat := if lsize = 0 then 16 else max 4 lsize

/-- Is a ring full? -/
def Ring.full (r : Ring) : Bool := decide (2 ^ ringLog r.lsize ≤ (r.tail - r.head).toNat)

/-- Write a record at a ring's tail through the page tables; none when its page cannot be written (R391). -/
def ringWriteWith (rec_ : Recorder) (e : Env) (d : Nat) (r : Ring) (bs : List Byte) (m : Mach) : Bool × Mach :=
  let va := r.base + r.tail.toNat % 2 ^ ringLog r.lsize * bs.length
  let (l, m) := walkWith rec_ e d va m
  match l with
  | some (_, l) =>
    if l.w && l.pr then homeWriteWith rec_ e ⟨7, d, noFrame⟩ l.legend (l.pa + va % 2 ^ 21) bs m else (false, m)
  | none => (false, m)

/-- A record enters the event store, and while the event ring is enabled it waits to be placed there (R393). -/
def noteEvent : Recorder := fun e d type body m =>
  let (data, m) := storeEvent e d type body m
  if (m.die d).ev.en then m.modDie d fun x => { x with evWait := x.evWait ++ [data] } else m

/-- Place a record in the event ring while it is enabled (R391); what is found on the way is recorded after it (R380). -/
def ringEvent (e : Env) (d : Nat) (data : W512) (m : Mach) : Mach :=
  let r := (m.die d).ev
  if !r.en then m
  else if r.full then m.modDie d fun x => { x with ev := { x.ev with lost := true } }
  else
    let (ok, m) := ringWriteWith noteEvent e d r (bytesOf data.toNat 64) m
    m.modDie d fun x =>
      { x with ev := if ok then { x.ev with tail := x.ev.tail + 1 } else { x.ev with lost := true } }

/-- Place the records that wait for a die's event ring, oldest first: at most n, the others in the next cycle (log
entry 8). -/
def drainEvents (n : Nat) (e : Env) (d : Nat) (m : Mach) : Mach :=
  match n, (m.die d).evWait with
  | n + 1, x :: _ => drainEvents n e d (ringEvent e d x (m.modDie d fun y => { y with evWait := y.evWait.drop 1 }))
  | _, _ => m

/-- Write an event record (R393): body holds the bits beside type and tick. -/
def event : Recorder := fun e d type body m =>
  let m := noteEvent e d type body m
  if (m.die d).ev.en then drainEvents 8 e d m else m

/-- A read at the home slice. -/
def homeRead := homeReadWith event

/-- A write at the home slice. -/
def homeWrite := homeWriteWith event

/-- A write of a whole line with its check bits at the home slice. -/
def homePut := homePutWith event

/-- Make a home line poisoned (R374). -/
def homePoison (e : Env) (ag : Agent) (leg la : Nat) (m : Mach) : Mach := homePut e ag leg la 0 poisonChk 0xFF m

/-- The page-table walk. -/
def walk := walkWith event

/-! ### The route table and the energy of an access (R400, R403) -/

/-- The link that a byte of the route table names. -/
def routeByte (data sev pa : Nat) : Option Nat :=
  let b := laneN data 8 (pa % 128)
  if sev = 3 || b ≥ 128 then none else some b

/-- The address of a package's byte in die d's table, none where the table does not lie in memory. -/
def routeAddr (m : Mach) (d pkg : Nat) : Option Nat :=
  let off := (m.die d).pkgRoute
  if dieBytes < off + 65536 || 65536 ≤ pkg then none else some (d * 2 ^ 40 + off + pkg)

/-- The link that leads from die d to a package, read from the die's table (R400). -/
def routeOf (e : Env) (d pkg : Nat) (m : Mach) : Option Nat × Mach :=
  match routeAddr m d pkg with
  | none => (none, m)
  | some pa =>
    let (g, m) := homeRead e ⟨7, d, noFrame⟩ 0 (pa / 128) m
    (routeByte g.data g.sev pa, m)

/-- The link to a package as the table stands, for the energy of an access that has read it. -/
def routeSeen (m : Mach) (d pkg : Nat) : Option Nat :=
  (routeAddr m d pkg).bind fun pa =>
    let r := match m.l2.find (pa / 128) with
      | some l => decodeCopy l.legend l.data.toNat l.chk.toNat
      | none => decodeCopy 0 (memData m (pa / 128)) (memCheck m (pa / 128))
    routeByte r.data r.sev pa

/-- The energy of bytes between die d and a location: each link to the hub for a physical address, and the links to the
ring stop that owns the Rhavor link, and that link, for a peer package's (R403; log entry 16). -/
def linkEnergy (e : Env) (m : Mach) (d : Nat) (l : Loc) (bytes : Nat) : Nat :=
  match l with
  | .spad _ _ => 0
  | .phys _ => bytes * (linkUnits * hubLinks e m d)
  | .peer pkg _ _ _ =>
    let stop := match routeSeen m d pkg with | some l => l / 8 | none => d
    bytes * (rhavorUnits + linkUnits * pathLinks e m d stop)

/-- Charge the task that an agent acts for with bytes between its die and the L2 (R403). -/
def chargeHub (e : Env) (ag : Agent) (bytes : Nat) (m : Mach) : Mach :=
  if ag.frame = noFrame then m
  else m.charge (taskKey ag.die ag.frame) (bytes * (linkUnits * hubLinks e m ag.die))

/-- Write a record of a telemetry ring: a full ring overwrites its oldest record (R391). -/
def telemetryPut (e : Env) (d : Nat) (bs : List Byte) (m : Mach) : Mach :=
  let r := (m.die d).tel
  if !r.en then m else
  let m := if r.full then m.modDie d fun x => { x with tel := { x.tel with lost := true, head := x.tel.head + 1 } } else m
  let (ok, m) := ringWriteWith event e d (m.die d).tel bs m
  m.modDie d fun x =>
    { x with tel := if ok then { x.tel with tail := x.tel.tail + 1 } else { x.tel with lost := true } }

/-- Write a record of the trace ring (R391, R410): a full ring drops it, or stalls issue beforehand. -/
def tracePut (e : Env) (d : Nat) (bs : List Byte) (m : Mach) : Mach :=
  let r := (m.die d).trc
  if !r.en then m
  else if r.full then m.modDie d fun x => { x with trc := { x.trc with lost := true } }
  else
    let (ok, m) := ringWriteWith event e d r bs m
    m.modDie d fun x =>
      { x with trc := if ok then { x.trc with tail := x.trc.tail + 1 } else { x.trc with lost := true } }

/-- Is a frame traced on a die (R410)? -/
def traced (x : Die) (frame : Nat) : Bool :=
  x.trcCtl % 4 != 0 && !x.trcStop && (!(tst x.trcCtl 28) || fld x.trcCtl 27 16 == frame)

/-- Write a trace record of two doublewords (R410). -/
def traceWrite (e : Env) (d word cycles : Nat) (m : Mach) : Mach :=
  tracePut e d (bytesOf word 8 ++ bytesOf cycles 8) (m.modDie d fun x => { x with trcLast := e.clk.cycle })

/-- The records of array cycle classes that wait for room in the ring are written, oldest first, while it has room. -/
def traceWaiting (e : Env) (d : Nat) (m : Mach) : Mach :=
  (m.die d).trcWait.foldl (fun m p =>
    if (m.die d).trc.en && (m.die d).trc.full then m
    else traceWrite e d p.1 p.2 (m.modDie d fun x => { x with trcWait := x.trcWait.drop 1 })) m

/-- A record that an array's cycle writes (R410): where bit 8 asks for none to be dropped, it waits while the ring is
full, which also holds the issue of bundles (log entry 85). -/
def traceLater (e : Env) (d word cycles : Nat) (m : Mach) : Mach :=
  let x := m.die d
  if tst x.trcCtl 8 && x.trc.en && (x.trc.full || !x.trcWait.isEmpty) then
    m.modDie d fun x => { x with trcWait := x.trcWait ++ [(word, cycles)] }
  else traceWrite e d word cycles m

/-! ### Scratchpad lines -/

/-- The number of a core's byte in the scratchpad memories. -/
def spadAddr (core off : Nat) : Nat := core * 2 ^ 22 + off

/-- The size of a core's scratchpad (R177): 2,560 KiB less its L1. -/
def spadBytes (l1 : Nat) : Nat :=
  2560 * 1024 - (match l1 with | 0 => 0 | 1 => 128 | 2 => 256 | _ => 512) * 1024

/-- The legend of a scratchpad byte's region (R370, R381). -/
def spadLegend (m : Mach) (core off : Nat) : Nat := (m.core core).regions.get 0 (off / 65536)

/-- Write a whole scratchpad line with its check bits; a is the line number of `spadAddr`. -/
def setSpadLine (la data chk : Nat) (m : Mach) : Mach :=
  { m with spad := m.spad.store (la * 128) (bytesOf data 128), spadChk := m.spadChk.store (la * 16) (bytesOf chk 16) }

/-- Read the scratchpad line that holds a byte (R370, R375, R376). -/
def spadRead (e : Env) (ag : Agent) (core off : Nat) (m : Mach) : Got × Mach :=
  let la := spadAddr core off / 128
  let leg := spadLegend m core off
  let r := decodeCopy leg (ofBytes (m.spad.bytes (la * 128) 128)) (ofBytes (m.spadChk.bytes (la * 16) 16))
  let m := if r.sev = 0 then m else setSpadLine la r.newData r.newChk m
  (⟨r.data, r.sev⟩,
    discovery event e ag leg 3 (core % 192 * 2 ^ 48 + off / 128 * 128) r m)

/-- The number by which `Mach.touched` knows a home line: a bank's line or a memory line (R349). -/
def homeKey (l : Loc) : Option Nat :=
  match l with
  | .spad c o => some (2 ^ 44 + spadAddr c o / 128)
  | .phys pa => some (pa / 128)
  | .peer _ _ _ _ => none

/-- Write bytes within one scratchpad line (R378). -/
def spadWrite (e : Env) (ag : Agent) (core off : Nat) (bs : List Byte) (m : Mach) : Bool × Mach :=
  let m := m.touch (2 ^ 44 + spadAddr core off / 128)
  let la := spadAddr core off / 128
  let leg := spadLegend m core off
  if bs.length = 128 then
    let data := ofBytes bs
    (true, setSpadLine la data (checkBits leg data) m)
  else
    let (g, m) := spadRead e ag core off m
    if g.sev = 3 then (false, m)
    else
      let data := mergeBytes g.data (off % 128) bs
      (true, setSpadLine la data (checkBits leg data) m)

/-- Make a scratchpad line poisoned (R374). -/
def spadPoison (core off : Nat) (m : Mach) : Mach :=
  setSpadLine (spadAddr core off / 128) 0 poisonChk (m.touch (2 ^ 44 + spadAddr core off / 128))

end Sys2Proof.Machine
end

