-- ==== Sys2Proof/Machine/Wire.lean ====
section
/-! DEFINITION. Rhavor links: the CRC, the sender's window and the receiver, packets on their way to a peer package, and
the ring and hub links (R18, R395 to R402, R427). -/

namespace Sys2Proof.Machine

/-! ### Flits (R396, R427) -/

/-- One step of the bit-reflected CRC-32C. -/
def crcBit (crc : Nat) (b : Bool) : Nat := if tst crc 0 != b then crc / 2 ^^^ 0x82F63B78 else crc / 2

/-- CRC-32C over the 256 bits of a flit, from an initial value (R396). -/
def flitCrc (start : Nat) (flit : BitVec 256) : Nat :=
  (List.range 256).foldl (fun c i => crcBit c (flit.getLsbD i)) start ^^^ 0xFFFFFFFF

/-- The kinds of a flit that its CRC can check as. -/
inductive FlitKind where
  | data | control | bad
  deriving DecidableEq, Repr

/-- The kind of a received flit (R396). -/
def flitKind (flit : BitVec 256) (crc : BitVec 32) : FlitKind :=
  if flitCrc 0xFFFFFFFF flit = crc.toNat then .data else if flitCrc 0 flit = crc.toNat then .control else .bad

/-- The bit and lane of a flit's bit b on the wire: the lane that carries it and its place there (R396). -/
def stripe (active b : Nat) : Nat × Nat := (b % active, b / active)

/-- The payload flits of a packet's bytes (R427). -/
def payload (bs : List Byte) : List (BitVec 256) :=
  (List.range (ceilDiv bs.length 32)).map fun k => BitVec.ofNat 256 (ofBytes ((bs.drop (32 * k)).take 32))

/-! ### One link (R395, R397 to R399) -/

/-- The lanes that the lit fibres feed (R395). -/
def lanesOfFibres (lit : BitVec 4) : BitVec 16 :=
  (List.range 16).foldl (fun (v : BitVec 16) l => if lit.getLsbD (l / 4) then v ||| (1#16 <<< l) else v) 0

/-- Is a Rhavor link down for good: its C-die or O-die is fenced (R18)? -/
def linkGone (e : Env) (n : Nat) : Bool := !(e.live (n / 8)) || !(e.boot.odies.getLsbD (n / 16))

/-- The flits of the window, whose oldest has number base, that go before the end of a lane change's resending. -/
def LaneChange.place (base : Nat) (c : LaneChange) : Nat :=
  let k := (c.upto + 65536 - base) % 65536
  if k ≤ 4096 then k else 0

/-- n flits leave from place sent of the window on: those sent again for a lane change are counted. -/
def LaneChange.left (base sent n : Nat) (c : LaneChange) : LaneChange :=
  { c with count := c.count + min n (c.place base - sent) }

/-- Up to n flits leave, while the link is up and has lanes: those of the window that are sent again, then those of the queue
for which the replay buffer has room (R397, R398). -/
def Link.pump (n : Nat) (x : Link) : Link :=
  if x.state != 2 || x.lanes == 0 then x
  else
    let old := min n (x.win.length - x.sent)
    let new := min (n - old) (min x.txq.length (4096 - x.win.length))
    { x with replay := satN (x.replay + old) 16, change := x.change.map (LaneChange.left x.old x.sent old), win := x.win ++ x.txq.take new, txq := x.txq.drop new,
             sent := x.sent + old + new }

/-- The window is sent again from its k-th flit on (R397). -/
def Link.resend (k : Nat) (x : Link) : Link := { x with sent := min x.sent k }

/-- The place in the window of flit number n, one past its end included, none when n lies outside it (R397). -/
def Link.place (x : Link) (n : Nat) : Option Nat :=
  let k := (n + 65536 - x.old) % 65536
  if k ≤ x.win.length then some k else none

/-- A control flit leaves (R397). -/
def Link.control (kind val : Nat) (x : Link) : Link := { x with ctl := x.ctl ++ [⟨kind, val⟩] }

/-- An ACK leaves: it names the next data flit expected (R397). -/
def Link.ack (x : Link) : Link := { x.control 1 x.rx with since := 0 }

/-- A data flit is accepted (R397): an ACK leaves at least every 64 flits. -/
def Link.accept (flit : BitVec 256) (x : Link) : Link :=
  let x := { x with rx := (x.rx + 1) % 65536, since := x.since + 1, inbox := x.inbox ++ [flit] }
  if 64 ≤ x.since then x.ack else x

/-- A flit is discarded, and a NAK names the flit expected (R397), from which the sender will send again: one that fails
both CRCs counts (R399), one that arrives out of order does not. -/
def Link.discard (bad : Bool) (x : Link) : Link :=
  { x with crc := if bad then satN (x.crc + 1) 16 else x.crc, backs := x.backs ++ [x.rx] }.control 2 x.rx

/-- The sender has gone back for the first k of the NAKs on their way to it. -/
def Link.back (k : Nat) (x : Link) : Link :=
  if k = 0 then x else { x with far := x.backs.getD (k - 1) x.far, backs := x.backs.drop k }

/-- The sender sends again from its oldest flit that is not acknowledged, n before the one expected: at most 4,096 are
(R397, R398). -/
def Link.restart (n : Nat) (x : Link) : Link := { x with far := (x.rx + 65536 - n % 4097) % 65536, backs := [] }

/-- A data flit comes in: it is accepted if it is the one expected (R397). -/
def Link.take (flit : BitVec 256) (x : Link) : Link :=
  let y := { x with far := (x.far + 1) % 65536 }
  if x.far = x.rx then y.accept flit else y.discard false

/-- The lane change record of type 0x20, with the tick of its detection (R393). -/
def laneRecord (e : Env) (n : Nat) (c : LaneChange) (m : Mach) : Mach :=
  event e (n / 8) 0x20
    (n % 8 * 2 ^ 8 + (c.old.toNat + c.new.toNat * 2 ^ 16 + c.count % 2 ^ 16 * 2 ^ 32) * 2 ^ 64
      + c.tick.toNat * 2 ^ 192) m

/-- Write the record of a lane change that waits, now or once the flits sent again for it have left or been acknowledged
(R398, R423). -/
def settleChange (e : Env) (l : Nat) (now : Bool) (m : Mach) : Mach :=
  let x := m.link l
  match x.change with
  | none => m
  | some c =>
    if now || decide (c.place x.old ≤ x.sent) then laneRecord e l c (m.modLink l fun x => { x with change := none }) else m

/-- An ACK arrives (R397): the flits before the one it names leave the replay buffer. It also acknowledges a lane map,
so that the receiver accepts flits again (R398; log entry 30). -/
def Link.acked (n : Nat) (x : Link) : Link :=
  match x.place n with
  | none => x
  | some k =>
    { x with old := (x.old + k) % 65536, win := x.win.drop k, sent := x.sent - k, hold := false,
             naks := if k = 0 then x.naks else 0 }

/-- An ACK arrives, and with it may come what waited for it: a lane change's record, and flits from the sender's oldest
one on, when it acknowledges a lane map (R397, R398). -/
def ackArrives (e : Env) (l n : Nat) (m : Mach) : Mach :=
  let x := m.link l
  let y := x.acked n
  let m := settleChange e l false (m.modLink l fun _ => y)
  if x.hold && !y.hold then
    { m with seed := m.seed + 1 }.modLink l (Link.restart (Config.freeChoice m.seed))
  else m

/-- A NAK arrives (R397): the sender resends from the named flit; after 16 in a row for one flit the link retrains, with
no other lanes than it has (R398). -/
def nakArrives (e : Env) (l n : Nat) (m : Mach) : Mach :=
  let x := m.link l
  match x.place n with
  | none => m
  | some k =>
    let naks := if x.nakNo = n && 0 < x.naks then x.naks + 1 else 1
    let y := { x with nakNo := n, naks := naks }.resend k
    if naks < 16 then m.modLink l fun _ => y
    else
      laneRecord e l ⟨x.lanes, x.lanes, 0, x.sent - k, e.clk.tick⟩
        (settleChange e l true (m.modLink l fun _ => { y with naks := 0, state := 1, may := some x.lanes }))

/-- A lane map arrives (R398): the sender restripes over the surviving lanes and resends from the oldest unacknowledged
flit; the map is acknowledged, and the owning die writes a record once the flits sent again have left, at once where none
can.  A map that it has obeyed already is only acknowledged: it is sent until then. -/
def laneMapArrives (e : Env) (l : Nat) (mask : BitVec 16) (m : Mach) : Mach :=
  let new := (m.link l).lanes &&& mask
  if new = (m.link l).lanes then m.modLink l Link.ack
  else
    let m := settleChange e l true m
    let x := m.link l
    let c : LaneChange := ⟨x.lanes, new, (x.old + x.sent) % 65536, 0, e.clk.tick⟩
    let y := ({ x with lanes := new, state := if new = 0 then 0 else x.state, change := some c }.resend 0).ack
    settleChange e l (new == 0) (m.modLink l fun _ => y)

/-- A control flit arrives (R397). -/
def controlArrives (e : Env) (l kind val : Nat) (m : Mach) : Mach :=
  match kind with
  | 1 => ackArrives e l val m
  | 2 => nakArrives e l val m
  | 4 => laneMapArrives e l (BitVec.ofNat 16 val) m
  | _ => m

/-- May a link carry flits towards this package: it is not down for good, it is not being trained, and some fibre of that
direction is lit (R18, R398)? -/
def receives (e : Env) (m : Mach) (l : Nat) : Bool :=
  !(linkGone e l) && (m.link l).state != 1 && (m.link l).lit != 0

/-- A data flit whose CRC fits arrives (R397): the receiver accepts it in order only.  Which of the NAKs on their way the
sender has gone back for is a free choice (log entry 32). -/
def dataArrives (l : Nat) (flit : BitVec 256) (m : Mach) : Mach :=
  let x := m.link l
  if x.hold then m
  else if x.backs.isEmpty then m.modLink l (Link.take flit)
  else
    { m with seed := m.seed + 1 }.modLink l fun x =>
      (x.back (Config.freeChoice m.seed % (x.backs.length + 1))).take flit

/-- A flit that fails both CRCs arrives (R397, R399): free choices say for which NAKs the sender has gone back, and whether it
is a data flit, which the sender counts. -/
def badArrives (l : Nat) (m : Mach) : Mach :=
  if (m.link l).hold then m
  else
    { m with seed := m.seed + 2 }.modLink l fun x =>
      let y := x.back (Config.freeChoice m.seed % (x.backs.length + 1))
      { y with far := (y.far + Config.freeChoice (m.seed + 1) % 2) % 65536 }.discard true

/-- A flit arrives with its CRC (R396, R397): of a control flit, whose other bits are zero, the kind and the number count,
and the other bits are ignored (log entry 89). -/
def flitArrives (e : Env) (l : Nat) (flit : BitVec 256) (crc : BitVec 32) (m : Mach) : Mach :=
  if !(receives e m l) then m
  else
    match flitKind flit crc with
    | .data => dataArrives l flit m
    | .control => controlArrives e l (fld flit.toNat 3 0) (fld flit.toNat 19 4) m
    | .bad => badArrives l m

/-- The receiver loses the light of a fibre (R398): it stops accepting flits, sends a lane map and writes a record; it sends
the map again until it is acknowledged. -/
def lightLost (e : Env) (l f : Nat) (m : Mach) : Mach :=
  let x := m.link l
  if linkGone e l || !(x.lit.getLsbD f) then m
  else
    let lit := x.lit &&& ~~~(1#4 <<< f)
    let y := { x with lit := lit, hold := true }.control 4 (lanesOfFibres lit).toNat
    let m := laneRecord e l ⟨lanesOfFibres x.lit, lanesOfFibres lit, 0, 0, e.clk.tick⟩ (m.modLink l fun _ => y)
    flareOn e (l / 8) 11 m

/-- A retraining starts at the host's word (R398): the lanes of every transmit fibre that is lit come into service. -/
def retrain (lit : BitVec 4) (x : Link) : Link := { x with state := 1, lanes := lanesOfFibres lit, may := none }

/-- A training ends (R398).  This end's own leaves its link up or down with the lanes of the transmit fibres lit, and what
is not acknowledged is sent again; one that no host write has asked for brings no lane back (log entry 34).  While this end
does not train, it is the far end's, after which the receive fibres are those lit, and flits are accepted again.  Either way
the far end sends again from its n-th flit before the one expected (log entry 81). -/
def trained (lit : BitVec 4) (n : Nat) (x : Link) : Link :=
  if x.state = 1 then
    let lanes := lanesOfFibres lit &&& x.may.getD (BitVec.allOnes 16)
    ({ x with state := if lanes = 0 then 0 else 2, lanes := lanes, may := none, naks := 0 }.resend 0).restart n
  else { x with lit := lit, hold := false }.restart n

/-- `lk.stat` of a link (R399). -/
def Link.stat (x : Link) : W64 :=
  w64 (popN x.lanes.toNat 16 + x.state * 2 ^ 8 + x.lanes.toNat * 2 ^ 16 + x.replay * 2 ^ 32 + x.crc * 2 ^ 48)

/-! ### Packets to peer packages (R400, R427) -/

/-- Send a packet: a header flit, whose layout the spec leaves open, and its payload (R427). -/
def sendPacket (e : Env) (l : Nat) (i : TxInfo) (bs : List Byte) (m : Mach) : Mach :=
  if linkGone e l then m
  else
    let header := BitVec.ofNat 256 (Config.freeLine m.seed).toNat
    { m with seed := m.seed + 1 }.modLink l fun x =>
      { x with txq := x.txq ++ TxFlit.mk header true i :: (payload bs).map fun b => TxFlit.mk b false i }

/-- Send a packet from its die to its package: a read request has no bytes (R427). -/
def toPackage (e : Env) (i : TxInfo) (bs : List Byte) (m : Mach) : Mach :=
  match i.pkg with
  | none => m
  | some pkg =>
    let (l, m) := routeOf e i.die pkg m
    match l with
    | some l => sendPacket e l i bs m
    | none => m

/-- Send what an access of a location puts on a link: nothing unless the location is a peer package's. -/
def toPeer (e : Env) (d : Nat) (l : Loc) (bs : List Byte) (m : Mach) : Mach :=
  match l with
  | .peer pkg _ _ _ => toPackage e { die := d, pkg := some pkg } bs m
  | _ => m

/-- Is some flit of packets that f selects still to be sent or acknowledged? -/
def inTransit (m : Mach) (f : TxInfo → Bool) : Bool :=
  m.links.any fun (p : Nat × Link) => (p.2.win ++ p.2.txq).any fun x => f x.info

/-- The packets of a queue, flits of a packet that has begun to leave standing first by themselves. -/
def packetsOf : List TxFlit → List (List TxFlit)
  | [] => []
  | x :: xs =>
    match packetsOf xs with
    | (y :: p) :: ps => if y.head then [x] :: (y :: p) :: ps else (x :: y :: p) :: ps
    | ps => [x] :: ps

/-- A packet that waits for a link that is down goes to the link to which its route has changed (R398). -/
def reroute (e : Env) (l : Nat) (m : Mach) : Mach :=
  if (m.link l).state != 0 then m
  else
    (packetsOf (m.link l).txq).foldl (fun m p =>
      let stay (m : Mach) : Mach := m.modLink l fun x => { x with txq := x.txq ++ p }
      match p.head?.filter TxFlit.head, p.head?.bind fun x => x.info.pkg with
      | some x, some pkg =>
        let (r, m) := routeOf e x.info.die pkg m
        match r with
        | some n => if n = l || linkGone e n then stay m else m.modLink n fun y => { y with txq := y.txq ++ p }
        | none => stay m
      | _, _ => stay m) (m.modLink l fun x => { x with txq := [] })

/-- A cycle of a link: packets that wait for it while it is down may go elsewhere, a lane map is sent again until it is
acknowledged, and as many flits leave as a free choice says (R398; log entry 4). -/
def linkCycle (e : Env) (l : Nat) (m : Mach) : Mach :=
  let m := reroute e l m
  let m := if (m.link l).hold && (m.link l).state == 2 then
      m.modLink l fun x => x.control 4 (lanesOfFibres x.lit).toNat
    else m
  let x := m.link l
  if x.txq.isEmpty && x.win.length ≤ x.sent then m
  else settleChange e l false ({ m with seed := m.seed + 1 }.modLink l (Link.pump (Config.freeChoice m.seed)))

/-! ### Ring and hub links (R402) -/

/-- A ring or hub link fails: it is marked, and the die at each end writes a type 0x21 record with its face. -/
def ringFails (e : Env) (k : RingLink) (m : Mach) : Mach :=
  let record (d face : Nat) (m : Mach) : Mach := if e.live d then event e d 0x21 (face * 2 ^ 8) m else m
  match k with
  | .ring n =>
    if m.ringFail.getLsbD n.val then m
    else record ((n.val + 1) % 16) 2 (record n.val 1 { m with ringFail := m.ringFail ||| (1#16 <<< n.val) })
  | .hub n =>
    if m.hubFail.getLsbD n.val then m else record n.val 3 { m with hubFail := m.hubFail ||| (1#16 <<< n.val) }

end Sys2Proof.Machine
end

