-- ==== Sys2Proof/Machine/Mem.lean ====
section
/-! DEFINITION. Paths of a core's loads and stores: the L1, the stores on their way, acquire, release and fences
(R187 to R191, R304 to R320). -/

namespace Sys2Proof.Machine

/-- Where an access goes and how it is accounted for: location, destination class, legend and buffer number. -/
structure Acc where
  loc : Loc
  cls : HomeClass
  legend : Nat
  buf : Nat
  /-- the generic address, and its alias class -/
  gaddr : W64
  acls : Nat
  deriving DecidableEq, Repr

def ctxDie (ck : Nat) : Nat := ck / 768
def ctxCore (ck : Nat) : Nat := ck / 4
def coreDie (c : Nat) : Nat := c / 192

/-- The agent of a context's loads and stores (R380). -/
def lsAgent (m : Mach) (ck : Nat) : Agent := ⟨0, ctxDie ck, (m.ctx ck).frame⟩

/-- The destination class of a physical address for a die (R311). -/
def classOf (d pa : Nat) : HomeClass := if pa / 2 ^ 40 = d then .own else .far

/-- The alias class of a generic address (R182). -/
def aliasOf (a : W64) : Nat := fld a.toNat 63 61

/-- Does a location lie in a peer package? -/
def Loc.isPeer (l : Loc) : Bool := match l with | .peer _ _ _ _ => true | _ => false

/-- Byte k onwards of a location. -/
def Loc.at_ (l : Loc) (k : Nat) : Loc :=
  match l with
  | .spad c o => .spad c (o + k)
  | .phys pa => .phys (pa + k)
  | .peer p rh o h => .peer p rh (o + k) h

/-- The distance from location a to location b, when they lie in one space (R185, R187). -/
def Loc.dist (a b : Loc) : Option Int :=
  match a, b with
  | .spad c o, .spad c' o' => if c = c' then some ((o' : Int) - o) else none
  | .phys p, .phys p' => some ((p' : Int) - p)
  | .peer p rh o _, .peer p' rh' o' _ => if p = p' ∧ rh = rh' then some ((o' : Int) - o) else none
  | _, _ => none

/-- The byte that a store gives location l, if it reaches it. -/
def PStore.byteAt (s : PStore) (l : Loc) : Option Byte :=
  match s.loc.dist l with
  | some d => if 0 ≤ d then s.bytes[d.toNat]? else none
  | none => none

/-- Do a store and n bytes at l overlap? -/
def PStore.overlaps (s : PStore) (l : Loc) (n : Nat) : Bool :=
  match s.loc.dist l with
  | some d => decide (d < (s.bytes.length : Int)) && decide (0 < d + n)
  | none => false

/-- Are accesses of these alias classes never compared (R187, R312)? -/
def racing (a b : Nat) : Bool := a != 0 && b != 0 && a != b

/-- The byte that a location names in its space. -/
def Loc.byte (l : Loc) : Nat := match l with | .spad _ o => o | .phys pa => pa | .peer _ _ o _ => o

/-- Does a load of a class see the byte of a store that lies at location l?  A store of a different nonzero alias class it
sees or not, byte by byte, as free values say, the same at every load (R187, R307, R312). -/
def PStore.seenBy (s : PStore) (cls : Nat) (l : Loc) : Bool :=
  !(racing s.acls cls) || (Config.storeSeen s.no cls).getLsbD (l.byte % 64)

/-- The bytes that a load sees over its context's own earlier stores (R187). -/
def overlay (sts : List PStore) (cls : Nat) (l : Loc) (bs : List Byte) : List Byte :=
  bs.mapIdx fun i b =>
    sts.foldl (fun b s =>
      match s.byteAt (l.at_ i) with
      | some v => if s.seenBy cls (l.at_ i) then v else b
      | none => b) b

/-! ### The L1 (R188, R189) -/

/-- The key of the sector that holds a location. -/
def sectorKey (l : Loc) : Nat :=
  match l with
  | .spad _ _ => 0
  | .phys pa => pa / 16
  | .peer _ _ o h => 2 ^ 60 + (h * 2 ^ 32 + o) / 16

/-- The location of a sector's first byte. -/
def sectorBase (l : Loc) : Loc :=
  match l with
  | .spad c o => .spad c o
  | .phys pa => .phys (pa / 16 * 16)
  | .peer p rh o h => .peer p rh (o / 16 * 16) h

/-- The parity bits of a sector's bytes (R369). -/
def sectorParity (x : BitVec 128) : BitVec 16 :=
  BitVec.ofNat 16 (packLanes 1 ((bytesOf x.toNat 16).map fun b => popN b.toNat 8))

/-- Does every byte of a sector agree with its parity bit (R369, R378)? -/
def Sector.sound (s : Sector) : Bool := s.par == sectorParity s.data

/-- Does a load of the sector raise POISON: its fill was HIGH, or it is dirty and fails its parity (R378)? -/
def Sector.poisons (s : Sector) : Bool := s.bad || (s.dirty && !s.sound)

/-- Does the sector hold bytes of a peer package? -/
def Sector.isPeer (s : Sector) : Bool := s.loc.isPeer

/-- Charge traffic between a core and the L2 or a peer package: access counter and energy (R225, R403). -/
def trafficFor (e : Env) (d frame : Nat) (l : Loc) (buf bytes : Nat) (m : Mach) : Mach :=
  let m := m.addHot d buf bytes
  m.charge (taskKey d frame) (linkEnergy e m d l bytes)

/-- The same for a context's task. -/
def traffic (e : Env) (ck : Nat) (l : Loc) (buf bytes : Nat) (m : Mach) : Mach :=
  trafficFor e (ctxDie ck) (m.ctx ck).frame l buf bytes m

/-- The sectors of an L1 line, none unless all eight are valid and sound. -/
def wholeLine (m : Mach) (core line : Nat) : Option (List Sector) :=
  (List.range 8).mapM fun i => ((m.core core).sectors.find (8 * line + i)).filter fun s => !s.bad && s.sound

/-- Count the bytes of a sector that leaves an L1: access counter and energy (R225, R403). -/
def sectorTraffic (e : Env) (core : Nat) (s : Sector) (m : Mach) : Mach :=
  (m.addHot (coreDie core) s.buf 16).charge (taskKey (coreDie core) s.frame) (linkEnergy e m (coreDie core) s.loc 16)

/-- The discovery of a parity error in a dirty L1 sector (R378, R380): HIGH, on the copy of the L1. -/
def l1Discovery (e : Env) (ag : Agent) (s : Sector) (m : Mach) : Mach :=
  let addr := match s.loc with | .phys pa => pa / 128 * 128 | .peer _ _ o _ => o / 128 * 128 | .spad _ _ => 0
  discovery event e ag s.legend 4 addr
    { sev := 3, known := false, data := 0, newData := 0, newChk := 0, elems := 0, eb := 0, ones := false, fixed := 0 } m

/-- The write-back of a full line of valid sectors, which clears poison (R377; log entry 70); the sector of the given key
has been counted. -/
def writeBackLine (e : Env) (core line key frame leg pa : Nat) (m : Mach) : Mach :=
  match wholeLine m core line with
  | none => m
  | some ss =>
    let m := (ss.filter fun s => sectorKey s.loc != key).foldl (fun m s => sectorTraffic e core s m) m
    let m := (homeWrite e ⟨8, coreDie core, frame⟩ leg (pa / 128 * 128) (ss.flatMap fun s => bytesOf s.data.toNat 16) m).2
    m.modCore core fun c =>
      { c with sectors := c.sectors.map fun p => if p.1 / 8 = line then (p.1, { p.2 with dirty := false }) else p }

/-- Write a dirty sector back to its home (R189, R378); where the home line is HIGH, a full line of valid sectors is
written whole (R377).  Peer bytes leave as stores of the contexts that wrote them, in a packet that says whether the sector
has failed its parity (R378; log entry 82). -/
def writeBack (e : Env) (core key : Nat) (m : Mach) : Mach :=
  match (m.core core).sectors.find key with
  | none => m
  | some s =>
    if !s.dirty then m
    else
      let m := m.modCore core fun c => { c with sectors := c.sectors.put key { s with dirty := false, stores := [] } }
      let m := sectorTraffic e core s m
      let ag : Agent := ⟨8, coreDie core, s.frame⟩
      let m := if s.bad || s.sound then m else l1Discovery e ag s m
      match s.loc with
      | .spad _ _ => m
      | .phys pa =>
        if s.poisons then homePoison e ag s.legend (pa / 128) m
        else
          let (ok, m) := homeWrite e ag s.legend pa (bytesOf s.data.toNat 16) m
          if ok then m else writeBackLine e core (key / 8) key s.frame s.legend pa m
      | .peer pkg _ _ _ =>
        let m := toPackage e { die := coreDie core, pkg := some pkg, poison := s.poisons } (bytesOf s.data.toNat 16) m
        s.stores.foldl (fun m p =>
          { m with seed := m.seed + 1 }.modCtx p.1 fun c =>
            let st : PStore :=
              { id := p.2.2, loc := s.loc, bytes := bytesOf s.data.toNat 16, cls := .far, acls := 0,
                gaddr := p.2.1, legend := s.legend, buf := s.buf, wb := true, sent := e.clk.cycle, no := m.seed }
            { c with stq := c.stq ++ [st] }) m

/-- Write back every dirty sector of a core's L1 that sel selects. -/
def writeBackAll (e : Env) (core : Nat) (sel : Sector → Bool) (m : Mach) : Mach :=
  ((m.core core).sectors.filter fun p => p.2.dirty && sel p.2).foldl (fun m p => writeBack e core p.1 m) m

/-- Write back every dirty sector of a core's L1 that holds peer bytes. -/
def writeBackPeers (e : Env) (core : Nat) (m : Mach) : Mach := writeBackAll e core Sector.isPeer m

/-- Invalidate every clean sector of a core's L1 that sel selects. -/
def dropClean (core : Nat) (sel : Sector → Bool) (m : Mach) : Mach :=
  m.modCore core fun c => { c with sectors := c.sectors.filter fun p => p.2.dirty || !(sel p.2) }

/-- The sets of an L1 of that split code, of eight 128-byte lines each (R177, R188). -/
def l1Sets (code : Nat) : Nat := match code with | 0 => 1 | 1 => 128 | 2 => 256 | _ => 512

/-- The other lines that an L1 holds in the set of a line (R188). -/
def rivals (k : Core) (line : Nat) : List Nat :=
  (k.sectors.map fun p => p.1 / 8).eraseDups.filter fun l => l != line && l % l1Sets k.l1 == line % l1Sets k.l1

/-- Drop a line of a core's L1, its dirty sectors written back (R189). -/
def evictLine (e : Env) (core line : Nat) (m : Mach) : Mach :=
  let m := (List.range 8).foldl (fun m i => writeBack e core (8 * line + i) m) m
  m.modCore core fun c => { c with sectors := c.sectors.filter fun p => p.1 / 8 != line }

/-- Make room for a line in its set of eight ways (R188): a free choice is the victim (log entry 12). -/
def makeRoom (e : Env) (core line : Nat) (m : Mach) : Mach :=
  let ls := rivals (m.core core) line
  if ls.length < 8 then m
  else evictLine e core (ls.getD (Config.freeChoice m.seed % ls.length) 0) { m with seed := m.seed + 1 }

/-- The class of the memory that a sector holds (R191), by its physical address: own-die memory that has been cached through a
P handle is own-die memory, on which die-scope acquires and releases act (log entry 108). -/
def memClass (d : Nat) (l : Loc) : HomeClass := match l with | .phys pa => classOf d pa | _ => .far

/-- Fill the sectors of a line that a core's L1 does not hold, all of them or only that of the access (R189); the
context's own stores on their way show in the fill (R187). -/
def fillLine (e : Env) (ck : Nat) (a : Acc) (whole : Bool) (m : Mach) : Mach :=
  let core := ctxCore ck
  let base : Loc := match a.loc with
    | .phys pa => .phys (pa / 128 * 128)
    | .peer p rh o h => .peer p rh (o / 128 * 128) h
    | l => l
  let keys := (List.range 8).filter fun i =>
    (whole || sectorKey (base.at_ (16 * i)) == sectorKey a.loc)
      && ((m.core core).sectors.find (sectorKey (base.at_ (16 * i)))).isNone
  if keys.isEmpty then m else
  let m := makeRoom e core (sectorKey base / 8) m
  let (g, m) : Got × Mach := match a.loc with
    | .phys pa => homeRead e (lsAgent m ck) a.legend (pa / 128) m
    | l =>
      let (g, m) := peerGot m
      (g, toPeer e (ctxDie ck) l [] m)
  let m := traffic e ck a.loc a.buf (16 * keys.length) m
  let sector (i : Nat) : Sector :=
    let data := BitVec.ofNat 128 (ofBytes (overlay (m.ctx ck).stq a.acls (base.at_ (16 * i))
      (bytesOf (laneN g.data 128 i) 16)))
    { data := data, par := sectorParity data, dirty := false, bad := g.sev == 3, filled := e.clk.cycle,
      since := e.clk.cycle, loc := base.at_ (16 * i), cls := memClass (ctxDie ck) a.loc, legend := a.legend, buf := a.buf,
      frame := (m.ctx ck).frame, stores := [] }
  m.modCore core fun c =>
    { c with sectors := keys.foldl (fun ss i => ss.put (sectorKey (base.at_ (16 * i))) (sector i)) c.sectors }

/-- The sectors of n bytes at a location, by their first bytes. -/
def sectorsOf (l : Loc) (n : Nat) : List Loc :=
  let lo := match l with | .phys pa => pa % 16 | .peer _ _ o _ => o % 16 | .spad _ _ => 0
  (List.range (ceilDiv (lo + n) 16)).map fun i => (sectorBase l).at_ (16 * i)

/-- The bytes that the L1 holds for a location, and whether a sector of them is bad. -/
def l1Bytes (m : Mach) (core : Nat) (l : Loc) (n : Nat) : List Byte × Bool :=
  let ss := sectorsOf l n
  let lo := match l with | .phys pa => pa % 16 | .peer _ _ o _ => o % 16 | .spad _ _ => 0
  let secs := ss.map fun b => (m.core core).sectors.find (sectorKey b)
  let all := secs.flatMap fun s => match s with
    | some s => bytesOf s.data.toNat 16
    | none => List.replicate 16 0
  ((all.drop lo).take n, secs.any fun s => match s with | some s => s.poisons | none => false)

/-- Refill the clean sectors of n bytes that fail their parity; each counts as CORRECTED.  A dirty one is found HIGH
(R378, R380). -/
def repairSectors (e : Env) (ck : Nat) (a : Acc) (n : Nat) (m : Mach) : Mach :=
  (sectorsOf a.loc n).foldl (fun m b =>
    match (m.core (ctxCore ck)).sectors.find (sectorKey b) with
    | some s =>
      if s.bad || s.sound then m
      else if s.dirty then
        (l1Discovery e (lsAgent m ck) s m).modCore (ctxCore ck) fun c =>
          { c with sectors := c.sectors.put (sectorKey b) { s with bad := true } }
      else
        let m := m.modCore (ctxCore ck) fun c => { c with sectors := c.sectors.del (sectorKey b) }
        let m := m.modDie (ctxDie ck) fun x => { x with lgCorr := satN (x.lgCorr + 1) 32 }
        fillLine e ck { a with loc := b } false m
    | none => m) m

/-- Put bytes into the valid sectors of a core's L1 that hold them; mark them dirty when asked.  A store that the L1 holds
for a peer package takes its number here (R215). -/
def l1Merge (e : Env) (core : Nat) (ck : Nat) (a : Acc) (bs : List Byte) (dirty : Bool) (m : Mach) : Mach :=
  (sectorsOf a.loc bs.length).foldl (fun m b =>
    match (m.core core).sectors.find (sectorKey b) with
    | none => m
    | some s =>
      let st : PStore :=
        { id := 0, loc := a.loc, bytes := bs, cls := a.cls, acls := 0, gaddr := a.gaddr, legend := a.legend, buf := a.buf }
      let data := ofBytes ((bytesOf s.data.toNat 16).mapIdx fun i x => (st.byteAt (b.at_ i)).getD x)
      let held := dirty && s.isPeer
      let t : Sector :=
        { s with data := BitVec.ofNat 128 data, par := sectorParity (BitVec.ofNat 128 data), dirty := s.dirty || dirty,
                 since := if dirty && !s.dirty then e.clk.cycle else s.since,
                 legend := if dirty then a.legend else s.legend,
                 frame := if dirty then (m.ctx ck).frame else s.frame,
                 stores := if held then s.stores ++ [(ck, a.gaddr, (m.ctx ck).nextStore)] else s.stores }
      let m := if held then m.modCtx ck fun c => { c with nextStore := c.nextStore + 1 } else m
      m.modCore core fun c => { c with sectors := c.sectors.put (sectorKey b) t }) m

/-! ### Stores on their way to their homes (R304, R311) -/

/-- Write the bytes of a store at their home: bank or home slice; bytes of a peer package leave this one. -/
def writeStore (e : Env) (ck : Nat) (s : PStore) (m : Mach) : Mach :=
  let ag := lsAgent m ck
  match s.loc with
  | .spad c o => (spadWrite e ag c o s.bytes m).2
  | .phys pa =>
    let m := (homeWrite e ag s.legend pa s.bytes m).2
    traffic e ck s.loc s.buf s.bytes.length m
  | .peer _ _ _ _ => if s.wb then m else traffic e ck s.loc s.buf s.bytes.length m

/-- The parts of the pending store of a number: one, but for a store that a segment has held and of which a handler has
replaced the middle. -/
def Ctx.partsOf (c : Ctx) (id : Nat) : List PStore := c.stq.filter fun p => p.id == id

/-- Perform one pending store at its home, all its parts at once (R305). -/
def performStore (e : Env) (ck : Nat) (s : PStore) (m : Mach) : Mach :=
  ((m.ctx ck).partsOf s.id).foldl (fun m p => writeStore e ck p m)
    (m.modCtx ck fun c => { c with stq := c.stq.filter fun p => p.id != s.id })

/-- May pending store s be performed: no earlier overlapping store of the context is still pending (R187)? -/
def mayPerform (c : Ctx) (s : PStore) : Bool :=
  (c.stq.takeWhile fun p => p.id != s.id).all fun p =>
    (c.partsOf s.id).all fun y => !(p.overlaps y.loc y.bytes.length) || racing p.acls y.acls

/-- Perform the pending stores that sel selects, in program order. -/
def performAll (e : Env) (ck : Nat) (sel : PStore → Bool) (m : Mach) : Mach :=
  ((m.ctx ck).stq.filter sel).foldl (fun m s => performStore e ck s m) m

/-- The peer package's answer to a store of a kind-2 handle is a refusal (R215). -/
def refuseStore (ck : Nat) (s : PStore) (m : Mach) : Mach :=
  m.modCtx ck fun c =>
    { c with stq := c.stq.filter fun p => p.id != s.id, refusals := c.refusals ++ [(s.id, s.gaddr)] }

/-- Is a store bound for a peer package? -/
def PStore.isPeer (s : PStore) : Bool := s.loc.isPeer

/-- Settle the pending stores of a context that sel selects: the peer package acknowledges or refuses its own as free
choices say (R215). -/
def settleStores (e : Env) (ck : Nat) (sel : PStore → Bool) (m : Mach) : Mach :=
  ((m.ctx ck).stq.filter sel).foldl (fun m s =>
    if s.isPeer then
      let refused := Config.peerRefuses m.seed
      let m := { m with seed := m.seed + 1 }
      if refused then refuseStore ck s m else performStore e ck s m
    else performStore e ck s m) m

/-- Settle every pending store of a context. -/
def settleAll (e : Env) (ck : Nat) (m : Mach) : Mach := settleStores e ck (fun _ => true) m

/-- Settle the pending stores of a context that are not yet performed at core scope, which a write-back from its L1 is, with
those that stand before them (R304). -/
def settleToCore (e : Env) (ck : Nat) (m : Mach) : Mach :=
  let last := ((m.ctx ck).stq.filter fun s => !s.wb).map (·.id)
  settleStores e ck (fun s => last.any fun n => decide (s.id ≤ n)) m

/-- Settle the pending stores of a context to peer packages. -/
def settlePeerStores (e : Env) (ck : Nat) (m : Mach) : Mach := settleStores e ck PStore.isPeer m

/-! ### Acquire, release and fences -/

/-- Order a context's stores that are on their way before its later accesses of every alias class (R312). -/
def orderClasses (ck upto : Nat) (m : Mach) : Mach :=
  m.modCtx ck fun c => { c with stq := c.stq.map fun s => if s.id < upto then { s with acls := 0 } else s }

/-- A die-scope release (R191, R308): the context's earlier stores, of every aperture, are performed at die scope, and
the core's dirty sectors of own-die memory are written back. -/
def releaseDie (e : Env) (ck : Nat) (m : Mach) : Mach :=
  let m := writeBackAll e (ctxCore ck) (fun s => s.cls == .own) (performAll e ck (fun s => s.cls != .far) m)
  orderClasses ck (m.ctx ck).nextStore m

/-- The release of an announcement, after which its ring stop reads the source at its home (R287, R289): the context's stores
to this package's memory, host memory too, are performed, and the core's dirty sectors of it are written back. -/
def releaseHomes (e : Env) (ck : Nat) (m : Mach) : Mach :=
  let m := writeBackAll e (ctxCore ck) (fun s => !s.isPeer) (performAll e ck (fun s => !s.isPeer) m)
  orderClasses ck (m.ctx ck).nextStore m

/-- A die-scope acquire (R191): clean sectors of own-die memory are invalidated; accesses of every class are ordered
(R312). -/
def acquireDie (ck : Nat) (m : Mach) : Mach :=
  dropClean (ctxCore ck) (fun s => s.cls == .own) (orderClasses ck (m.ctx ck).nextStore m)

/-- The acquire of a task that observes a token of a kind.  For a named tile's it discards the stale clean copies of host
memory too, which a delivery through G may have written (R289, R313, R315; log entry 110). -/
def acquireToken (ck kind : Nat) (m : Mach) : Mach :=
  let m := acquireDie ck m
  if kind = 5 then dropClean (ctxCore ck) (fun s => !s.isPeer) m else m

/-- Is it a fence of R316? -/
def FenceKind.orders (k : FenceKind) : Bool :=
  match k with
  | .layo _ => false
  | .line _ => false
  | _ => true

/-- Has a fence what it waits for (R205, R317 to R319, R381)? -/
def Fence.met (now : Nat) (f : Fence) (m : Mach) (ck : Nat) : Bool :=
  let c := m.ctx ck
  let open_ := c.stq.filter fun s => decide (s.id < f.upto)
  match f.kind with
  | .fnc scope _ rel => !rel || scope == 0 || (if scope = 2 then open_.all fun s => s.cls == .far else open_.isEmpty)
  | .layo till => decide (till ≤ now) && open_.all PStore.wb
  | .line sent => sent.all fun p => !((m.ctx p.1).stq.any fun s => s.id == p.2)
  | _ => open_.isEmpty

/-- What a fence does when it completes (R191, R317 to R319); a fence of any scope orders accesses across all alias
classes (R312). -/
def Fence.act (e : Env) (ck : Nat) (f : Fence) (m : Mach) : Mach :=
  let m := if f.kind.orders then orderClasses ck f.upto m else m
  match f.kind with
  | .fnc scope acq rel =>
    let m := if rel && scope == 2 then writeBackAll e (ctxCore ck) (fun s => s.cls == .own) m else m
    if acq && scope == 2 then acquireDie ck m else m
  | .fncx => writeBackAll e (ctxCore ck) (fun _ => true) m
  | .fncp => dropClean (ctxCore ck) (fun _ => true) (writeBackAll e (ctxCore ck) (fun _ => true) m)
  | .layo _ => m
  | .line _ => m

/-- Complete the fences of a context that have what they wait for, or all of them: each acts, and its result may land
(R316). -/
def settleFencesWith (all : Bool) (e : Env) (ck : Nat) (m : Mach) : Mach :=
  (m.ctx ck).fences.foldl (fun m f =>
    if all || f.met e.clk.cycle m ck then
      let m := f.act e ck m
      m.modCtx ck fun c =>
        { c with fences := c.fences.filter fun g => g.id != f.id,
                 res := c.res.map fun r => if r.wait = .fence f.id then { r with wait := .none } else r }
    else m) m

/-- Complete the fences of a context that have what they wait for. -/
def settleFences : Env → Nat → Mach → Mach := settleFencesWith false

/-- The write-backs that a line operation waits for are settled, in the contexts that made the stores (R205). -/
def settleSent (e : Env) (f : Fence) (m : Mach) : Mach :=
  match f.kind with
  | .line sent => sent.foldl (fun m p => settleStores e p.1 (fun s => s.id == p.2) m) m
  | _ => m

/-- Complete every fence of a context, as a stop waits for (R320). -/
def finishFences (e : Env) (ck : Nat) (m : Mach) : Mach :=
  if (m.ctx ck).fences.isEmpty then m
  else settleFencesWith true e ck ((m.ctx ck).fences.foldl (fun m f => settleSent e f m) (settleAll e ck m))

end Sys2Proof.Machine
end

