-- ==== Sys2Proof/Machine/Operands.lean ====
section
/-! DEFINITION. Operand forms: sources, ports, latches and register writes of a slot (R32 to R40, R46 to R49). -/

namespace Sys2Proof.Machine

/-! ### Registers of a context -/

/-- gn: g0 reads zero; a user interrupt handler sees its own bank of g112 to g127 (R121, R132). -/
def Ctx.readG (c : Ctx) (n : Nat) : W64 :=
  if n = 0 then 0 else if c.csr.inui && decide (112 ≤ n) then c.shadow.get 0 (n - 112) else c.g.get 0 n

/-- Write gn; a write to g0 is discarded (R37). -/
def Ctx.writeG (c : Ctx) (n : Nat) (x : W64) : Ctx :=
  if n = 0 then c
  else if c.csr.inui && decide (112 ≤ n) then { c with shadow := c.shadow.put (n - 112) x }
  else { c with g := c.g.put n x }

def Ctx.readV (c : Ctx) (n : Nat) : W512 := c.v.get 0 n
def Ctx.writeV (c : Ctx) (n : Nat) (x : W512) : Ctx := { c with v := c.v.put n x }

/-- pn; p0 always reads 1 (R33). -/
def Ctx.readP (c : Ctx) (n : Nat) : Bool := n == 0 || c.p.getLsbD n

/-- Write pn; p0 cannot be written (R37). -/
def Ctx.writeP (c : Ctx) (n : Nat) (b : Bool) : Ctx :=
  if n = 0 then c
  else { c with p := (c.p &&& ~~~(1#8 <<< n)) ||| (if b then 1#8 <<< n else 0) }

def Ctx.latch (c : Ctx) (q : Nat) : W512 := c.latches.get 0 q

/-- The parity mark of gn, its shadow copy's in a user interrupt handler (R121, R382). -/
def Ctx.markOfG (c : Ctx) (n : Nat) : Nat := if c.csr.inui && decide (112 ≤ n) then 0x0B0 + (n - 112) else n

/-! ### Latches (R46 to R49) -/

/-- Latches with a ready bit (R46). -/
def readyLatch (q : Nat) : Bool := (q ≥ 4 && q ≤ 7) || (q ≥ 13 && q ≤ 18)

/-- Has result r what it waits for, in cycle now? -/
def Res.due? (r : Res) (now : Nat) : Bool := decide (r.due ≤ now) && r.wait == .none

/-- Is a latch 512 bits wide (R46)? -/
def wideLatch (q : Nat) : Bool := q == 4 || q == 6 || (q ≥ 8 && q ≤ 11)

/-- A value cut to a latch's width (R46). -/
def latchValue (q : Nat) (v : W512) : W512 := if wideLatch q then v else (v.setWidth 64).setWidth 512

/-- Source code of a latch (R35). -/
def latchCode (q : Nat) : Nat := 0x0C0 + q

/-- The results of one latch that land by cycle now, in the order in which they land: without a ready bit by due cycle,
a tie going to the later-issued (R48); with one in issue order, up to the first that may not land yet (R49). -/
def landing (now q : Nat) (rs : List Res) : List Res :=
  if readyLatch q then rs.takeWhile (fun r => r.due? now) else rs.filter (fun r => r.due? now)

/-- Take the first n results of a latch out. -/
def dropOldest (q : Nat) : Nat → List Res → List Res
  | 0, rs => rs
  | _, [] => []
  | n + 1, r :: rs => if r.latch = q then dropOldest q n rs else r :: dropOldest q (n + 1) rs

/-- The results in flight once those of a latch that land by cycle now have landed (R48, R49). -/
def stillDue (now q : Nat) (rs : List Res) : List Res :=
  if readyLatch q then dropOldest q (landing now q (rs.filter fun r => r.latch == q)).length rs
  else rs.filter fun r => r.latch != q || !(r.due? now)

/-- The value that a latch ends with. -/
def landValue (q : Nat) (rs : List Res) (old : W512) : W512 :=
  if readyLatch q then (rs.getLast?.map (·.value)).getD old
  else (rs.foldl (fun (best : Option Res) r =>
      match best with
      | none => some r
      | some b => if b.due ≤ r.due then some r else some b) none |>.map (·.value)).getD old

/-- Land what is due on one latch. -/
def landLatch (now q : Nat) (c : Ctx) : Ctx :=
  let mine := c.res.filter fun r => r.latch == q
  let ls := landing now q mine
  if ls.isEmpty then c
  else
    { c with latches := c.latches.put q (landValue q ls (c.latch q))
             bad := c.bad.filter fun b => b != latchCode q
             res := stillDue now q c.res }

/-- Land every result that is due by cycle now (R48, R49). -/
def landDue (now : Nat) (c : Ctx) : Ctx :=
  if c.res.isEmpty then c else (List.range 19).foldl (fun c q => landLatch now q c) c

/-- Is a latch late in cycle now, once what is due has landed (R49)? -/
def lateLatch (now q : Nat) (c : Ctx) : Bool :=
  readyLatch q && c.res.any fun r => r.latch == q && decide (r.due ≤ now)

/-! ### Sources (R35, R36) -/

/-- The state word of a task's lease (R229): after sq.rels its commands and its pass show until they have completed, and
no grant counts (R258; log entry 64). -/
def lstatWord (e : Env) (m : Mach) (d r frame : Nat) : W64 :=
  let t := m.task (taskKey d frame)
  let ak := arrKey d (r / 24)
  let a := m.arr ak
  match t.lease with
  | .none =>
    if a.holder = some frame then w64 (b2n a.pass.isSome * 4 + r / 24 * 8 + a.queue.length * 2 ^ 8)
    else w64 (r / 24 * 8)
  | .held =>
    w64 (1 + b2n a.pass.isSome * 4 + r / 24 * 8 + a.queue.length * 2 ^ 8 + min a.cmds 64 * 2 ^ 13
      + min (e.clk.cycle - a.start) (2 ^ 20) * 2 ^ 20)
  | .suspended =>
    let q := match m.spills.find (taskKey d frame) with | some s => s.queue.length | none => 0
    w64 (2 + r / 24 * 8 + q * 2 ^ 8)

/-- A read-only special (R36). -/
def specialValue (e : Env) (i : Issue) (c : Ctx) (s : Special) : W64 :=
  match s with
  | .ctx => w64 i.x
  | .rank => w64 i.r
  | .die => w64 i.d
  | .ndie => w64 e.dieCount
  | .tick => e.clk.tick.setWidth 64
  | .cycle => w64 e.clk.cycle
  | .slen => w64 (2 ^ c.csr.sqlen)
  | .lstat => i.lstat

/-- The 10-bit code of a source, as parity marks use it (R382, R386). -/
def srcCode (s : Src) : Nat :=
  match s with
  | .g n => n.val
  | .v n => 0x080 + n.val
  | .p n => 0x0A0 + n.val
  | .q n => 0x0C0 + n.val
  | .lit k => 0x0E0 + k.val
  | .pair k => 0x0F0 + k.val
  | .i n => 0x100 + n.val
  | .special _ => 0x108
  | .imm v => 0x200 + v.toNat

/-- A source as it stood at the start of the issue cycle (R42), none for a literal outside the pool (R35). -/
def sourceAt (e : Env) (i : Issue) (s : Src) : Option W512 :=
  let c := i.start
  match s with
  | .g n => some ((c.readG n.val).setWidth 512)
  | .v n => some (c.readV n.val)
  | .p n => some (w512 (b2n (c.readP n.val)))
  | .q n => some (c.latch n.val)
  | .lit k => i.lits[k.val]?.map fun x => (x.signExtend 64).setWidth 512
  | .pair k =>
    match i.lits[2 * k.val]?, i.lits[2 * k.val + 1]? with
    | some lo, some hi => some (w512 (hi.toNat * 2 ^ 32 + lo.toNat))
    | _, _ => none
  | .i n => some ((c.i.get 0 n.val).setWidth 512)
  | .special s => some ((specialValue e i c s).setWidth 512)
  | .imm v => some ((v.signExtend 64).setWidth 512)

/-- What a slot's trigger that had blocked has as its operand (R50). -/
def Ctx.keptFor (c : Ctx) (k : Nat) : Option Kept := c.kept.find? fun x => x.slot == k

/-- The value that slot number k reads: its snapshot when the bundle resumes (R45, R116), the operand with which it had
blocked (R50), else the source. -/
def slotSource (e : Env) (m : Mach) (k : Nat) (s : Src) : Option W512 :=
  match m.issue.snaps with
  | some l => (sourceAt e m.issue s).map fun _ => l.getD k 0
  | none =>
    match m.issue.start.keptFor k with
    | some x => some x.value
    | none => sourceAt e m.issue s

/-- Has a source bad parity in a context (R382)? -/
def Ctx.badSrc (c : Ctx) (s : Src) : Bool :=
  match s with
  | .g n => c.bad.contains (c.markOfG n.val)
  | _ => c.bad.contains (srcCode s)

/-- Has the operand of slot number k bad parity (R382), the operand with which it had blocked included (R50)? -/
def badOperand (m : Mach) (k : Nat) (s : Src) : Bool :=
  m.issue.snaps.isNone
    && match m.issue.start.keptFor k with
      | some x => x.bad
      | none => m.issue.start.badSrc s

/-- The trap of a form error: tval is the slot's encoding (R426). -/
def illegalForm {α : Type} : M α := do
  trap Cause.illegalSlot ((← get).issue.raw.setWidth 64)

/-- Read a slot's source: a literal outside the pool is illegal (R35), an item with bad parity is a mismatch (R382). -/
def operand (s : Src) : M W512 := do
  let m ← get
  match slotSource (← read) m m.issue.slot s with
  | none => illegalForm
  | some v =>
    if badOperand m m.issue.slot s then
      throw (.mismatch (0x8000000000000000 + w64 (srcCode s)))
    else pure v

/-- The low 64 bits of a slot's source. -/
def operand64 (s : Src) : M W64 := do pure ((← operand s).setWidth 64)

/-- Is a slot of that guard enabled, judged on the predicates at the start of the bundle (R33)? -/
def enabled (m : Mach) (g : Guard) : Bool :=
  (g.p.val == 0 || m.issue.preds.getLsbD g.p.val) != g.inv

/-! ### Ports (R39, R40, R43) -/

/-- The destination code of port k of unit f (R37). -/
def portCode (f k : Nat) : Nat := 0x100 + 4 * f + k

/-- Is port k of unit f 512 bits wide (R39)? -/
def widePort (f k : Nat) : Bool :=
  if k = 2 then f ≥ 6 && f ≤ 8 else (f ≥ 4 && f ≤ 8) || f == 14

/-- A value cut to a port's width (R38). -/
def portValue (f k : Nat) (v : W512) : W512 := if widePort f k then v else (v.setWidth 64).setWidth 512

/-- Read port k of unit f as the bundle's triggers see it (R43); bad parity is a mismatch (R382, R386). -/
def port (f k : Nat) : M W512 := do
  let m ← get
  let code := portCode f k
  if m.issue.start.bad.contains (0x1000 + code) && !(m.issue.moved.contains code) then
    throw (.mismatch (0x8000000000000000 + 0x1000 + w64 code))
  else pure (m.issue.ports.get 0 code)

/-- A port as 64 bits. -/
def port64 (f k : Nat) : M W64 := do pure ((← port f k).setWidth 64)

/-! ### Writes -/

/-- Write a destination at the end of the issue cycle (R37, R38, R42); a write clears bad parity (R382). -/
def Ctx.writeDst (c : Ctx) (d : Dst) (v : W512) : Ctx :=
  match d with
  | .g n => { c.writeG n.val (v.setWidth 64) with bad := c.bad.filter fun b => b != c.markOfG n.val }
  | .v n => { c.writeV n.val v with bad := c.bad.filter fun b => b != 0x080 + n.val }
  | .p n => { c.writeP n.val (v.getLsbD 0) with bad := c.bad.filter fun b => b != 0x0A0 + n.val }
  | .port f k =>
    { c with ports := c.ports.put (portCode f.val k.val) (portValue f.val k.val v)
             bad := c.bad.filter fun b => b != 0x1000 + portCode f.val k.val }

/-- Put a result on its way to a latch of the issuing context, due lat cycles after issue (R47). -/
def resultWith (q lat : Nat) (v : W512) (w : ResWait) (buf : List Nat) : M Unit := do
  let now := (← read).clk.cycle
  modify fun m => m.modCur fun c =>
    { c with res := c.res ++ [{ latch := q, value := v, due := now + lat, wait := w, buf := buf }] }

/-- A result that lands when it is due. -/
def result (q lat : Nat) (v : W512) : M Unit := resultWith q lat v .none []

/-- A 64-bit result that lands when it is due. -/
def result64 (q lat : Nat) (v : W64) : M Unit := result q lat (v.setWidth 512)

/-- Raise ILLEGAL_SLOT when a condition on an operand's value fails (R54). -/
def require (ok : Bool) (cause : Nat) (tval : W64) : M Unit :=
  if ok then pure () else trap cause tval

end Sys2Proof.Machine
end

