-- ==== Sys2Proof/Machine/Ops.lean ====
section
/-! DEFINITION. The named operations on contexts: frames, stopping and restoring (R109 to R113), switching (R106, R107),
taking a trap, a page fault, a double fault or a rewind (R114 to R119, R342, R386), and the returns (R116, R130). -/

namespace Sys2Proof.Machine

/-! ### Frames (R109 to R111) -/

/-- The physical address of a frame. -/
def frameAddr (m : Mach) (d f : Nat) : Nat := (m.die d).frameBase + f * 32768

/-- The reset of the user interrupt status word (R123). -/
def Ctx.uistat (c : Ctx) : W64 :=
  w64 (b2n c.csr.uien + c.csr.uimask.toNat * 2 + b2n c.csr.inui * 2 ^ 7 + b2n c.csr.uiovf * 2 ^ 15
    + c.uiq.length * 2 ^ 16)

/-- The trap status word (R123). -/
def Csrs.tstat (x : Csrs) : W64 := w64 (b2n x.priv + b2n x.ppriv * 2 + b2n x.intrap * 4)

/-- vfmt and rmode (R152). -/
def Csrs.vfmt (x : Csrs) : W64 := w64 (x.fmt + x.seed.toNat * 2 ^ 32)
def Csrs.rmode (x : Csrs) : W64 := w64 (x.mode + x.rctr.toNat * 2 ^ 24)

/-- The context-scope CSRs in the order of the CSR number table (R110, R122). -/
def Ctx.csrWords (c : Ctx) : List W64 :=
  let x := c.csr
  [c.uistat, x.uivec.setWidth 64, x.uiepc.setWidth 64, x.vfmt, x.rmode, w64 x.sqlen, x.seedA.setWidth 64,
   x.seedB.setWidth 64, x.waitTo.setWidth 64, x.wdLimit.setWidth 64, w64 x.spadBase, w64 x.spadSize, x.ntrange,
   x.tstat, x.tbundle, w64 x.tslot, x.tdone.setWidth 64, x.tcause.setWidth 64, x.tval, x.tscr0, x.tscr1, x.tscr2,
   x.tscr3]

/-- The CSRs that 23 words say. -/
def csrsOf (ws : List Nat) : Csrs :=
  let w (k : Nat) : Nat := ws.getD k 0
  { uien := tst (w 0) 0, uimask := BitVec.ofNat 6 (fld (w 0) 6 1), inui := tst (w 0) 7, uiovf := tst (w 0) 15
    uivec := BitVec.ofNat 48 (w 1), uiepc := BitVec.ofNat 48 (w 2)
    fmt := fld (w 3) 3 0, seed := BitVec.ofNat 32 (w 3 >>> 32)
    mode := fld (w 4) 2 0, rctr := BitVec.ofNat 40 (w 4 >>> 24)
    sqlen := fld (w 5) 3 0, seedA := BitVec.ofNat 32 (w 6), seedB := BitVec.ofNat 32 (w 7)
    waitTo := BitVec.ofNat 32 (w 8), wdLimit := BitVec.ofNat 32 (w 9), spadBase := w 10 / 16384 * 16384
    spadSize := w 11 / 16384 * 16384
    ntrange := w64 (fld (w 12) 63 24 * 2 ^ 24 + w 12 % 4), intrap := tst (w 13) 2, ppriv := tst (w 13) 1, priv := tst (w 13) 0
    tbundle := w64 (w 14), tslot := fld (w 15) 3 0, tdone := BitVec.ofNat 8 (w 16), tcause := BitVec.ofNat 8 (w 17)
    tval := w64 (w 18), tscr0 := w64 (w 19), tscr1 := w64 (w 20), tscr2 := w64 (w 21), tscr3 := w64 (w 22) }

/-- The last 128-byte line of registers and fields: resume address, done mask and marks, pending target, predicates,
index registers and the first four CSRs (R110). -/
def Ctx.fieldBytes (c : Ctx) (resumeAt : W64) (done : BitVec 8) (reason : Nat) (pend : Option W64) (preds : BitVec 8) :
    List Byte :=
  bytesOf resumeAt.toNat 8
  ++ bytesOf (done.toNat + reason * 2 ^ 8 + b2n pend.isSome * 2 ^ 16 + b2n c.haltPend * 2 ^ 17
      + b2n c.link * 2 ^ 18) 8
  ++ bytesOf (pend.getD 0).toNat 8
  ++ bytesOf ((c.p ||| 1).toNat + (preds ||| 1).toNat * 2 ^ 8) 8
  ++ (List.range 8).flatMap (fun k => bytesOf (c.i.get 0 k).toNat 8)
  ++ (c.csrWords.take 4).flatMap fun x => bytesOf x.toNat 8

/-- The bytes of a whole context frame (R110). -/
def Ctx.frameBytes (c : Ctx) (resumeAt : W64) (done : BitVec 8) (reason : Nat) (pend : Option W64) (preds : BitVec 8) :
    List Byte :=
  (List.range 128).flatMap (fun k => bytesOf (if k = 0 then 0 else (c.g.get 0 k).toNat) 8)
  ++ (List.range 32).flatMap (fun k => bytesOf (c.v.get 0 k).toNat 64)
  ++ c.fieldBytes resumeAt done reason pend preds
  ++ (c.csrWords.drop 4).flatMap (fun x => bytesOf x.toNat 8) ++ List.replicate (256 - 8 * 23) 0
  ++ (List.range 16).flatMap (fun k => bytesOf (c.shadow.get 0 k).toNat 8)
  ++ (List.range 16).flatMap (fun k =>
      match c.uiq[k]? with
      | some (h, v) => bytesOf h.toNat 8 ++ bytesOf v.toNat 8
      | none => List.replicate 16 0)
  ++ List.replicate 288 0

/-- A shadow entry (R111, R112): 80 bytes.  A read of an array that is pending has its number, plus 1, where a token handle
would stand (log entry 93). -/
def shadowBytes (cs : Nat) (r : Res) : List Byte :=
  let tok := match r.wait with | .arr id => id + 1 | _ => 0
  bytesOf r.value.toNat 64 ++ [BitVec.ofNat 8 (128 + r.latch), BitVec.ofNat 8 (b2n (tok != 0))]
  ++ bytesOf (r.due - cs) 2 ++ List.replicate 4 0 ++ bytesOf tok 8

/-- The bytes of an extension: ports, latches, shadow entries and snapshots (R111). -/
def Ctx.extensionBytes (c : Ctx) (cs : Nat) (snaps : List W512) : List Byte :=
  (List.range 16).flatMap (fun f =>
    (List.range 4).flatMap fun k => bytesOf (if k = 3 then 0 else (c.ports.get 0 (portCode f k)).toNat) 64)
  ++ (List.range 32).flatMap (fun q => bytesOf (if q < 19 then (c.latch q).toNat else 0) 64)
  ++ (List.range 48).flatMap (fun k =>
      match c.res[k]? with
      | some r => shadowBytes cs r
      | none => List.replicate 80 0)
  ++ (List.range 8).flatMap fun s => bytesOf (snaps.getD s 0).toNat 64

/-- The frame offset of an item with bad parity: in the context frame, p0 to p7 and the shadow bank among it, and in an
extension at x (R382). -/
def badOffset (x code : Nat) : Nat :=
  if code < 0x080 then 8 * code
  else if code < 0x0A0 then 0x400 + 64 * (code - 0x080)
  else if code < 0x0B0 then 0xC18
  else if code < 0x0C0 then 0xD60 + 8 * (code - 0x0B0)
  else if code < 0x1000 then x + 0x1000 + 64 * (code - 0x0C0)
  else x + 64 * (code - 0x1100)

/-- Write bytes into a frame line by line from the start of one; a line that holds an item of bad parity is poisoned.
The bytes are charged to the task (R403). -/
def writeFrame (e : Env) (d f off : Nat) (bs : List Byte) (bad : List Nat) (m : Mach) : Mach :=
  let base := frameAddr m d f + off
  (List.range (ceilDiv bs.length 128)).foldl (fun m k =>
    if bad.any fun b => decide (off + 128 * k ≤ b) && decide (b < off + 128 * k + 128) then
      homePoison e ⟨0, d, f⟩ 0 ((base + 128 * k) / 128) m
    else (homeWrite e ⟨0, d, f⟩ 0 (base + 128 * k) ((bs.drop (128 * k)).take 128) m).2)
    (chargeHub e ⟨0, d, f⟩ bs.length m)

/-- Read n bytes of a frame, with the line offsets that were read with HIGH severity: what such a line delivers is a free
value (log entry 5).  The bytes are charged to the task (R403). -/
def readFrame (e : Env) (d f off n : Nat) (m : Mach) : List Byte × List Nat × Mach :=
  let base := frameAddr m d f + off
  (List.range (ceilDiv n 128)).foldl (fun (bs, bad, m) k =>
    let (g, m) := homeRead e ⟨0, d, f⟩ 0 ((base + 128 * k) / 128) m
    if g.sev = 3 then
      (bs ++ bytesOf (Config.freeLine m.seed).toNat 128, bad ++ [off + 128 * k], { m with seed := m.seed + 1 })
    else (bs ++ bytesOf g.data 128, bad, m))
    ([], [], chargeHub e ⟨0, d, f⟩ n m)

/-- The n-byte field at an offset of a byte list. -/
def fieldAt (bs : List Byte) (off n : Nat) : Nat := ofBytes ((bs.drop off).take n)

/-! ### Stopping and restoring (R112, R113) -/

/-- Finish what a stop waits for: fences complete (R320) and data arrive (R112). -/
def settleForStop (e : Env) (ck : Nat) (m : Mach) : Mach :=
  (finishFences e ck m).modCtx ck fun c =>
    { c with res := c.res.map fun r => if r.wait = .data then { r with wait := .none } else r }

/-- Stop a context into an extension at offset x (0x1000 or 0x4000), cs being the cycle in which the resume bundle would
first issue: what was due before it lands, what is waited for comes (R320), ports, latches, shadow entries and snapshots
are written, and the context loses them. -/
def stopInto (e : Env) (ck x cs : Nat) (snaps : List W512) (m : Mach) : Mach :=
  let m := settleForStop e ck (m.modCtx ck (landDue (cs - 1)))
  let m := m.modCore (ctxCore ck) fun k => { k with segAsk := k.segAsk.filter fun x => x != ck % 4 }
  let c := m.ctx ck
  let m := writeFrame e (ctxDie ck) c.frame x (c.extensionBytes cs snaps) ((c.bad.filter fun b => b ≥ 0x0C0).map (badOffset x)) m
  m.modCtx ck fun c =>
    { c with ports := [], latches := [], res := [], bad := c.bad.filter fun b => decide (b < 0x0C0), lateSince := none }

/-- The shadow entries of an extension, as results due from cycle t on; reserved bytes and bits of an entry are ignored (log
entry 87). -/
def shadowOf (t : Nat) (reads : SMap W64) (bs : List Byte) : List Res :=
  (List.range 48).filterMap fun k =>
    let b := bs.drop (80 * k)
    let tag := fieldAt b 64 1
    if tst tag 7 then
      let tok := fieldAt b 72 8
      let pending := tst (fieldAt b 65 1) 0
      let back := if pending then reads.find (tok - 1) else none
      some { latch := tag % 32
             value := latchValue (tag % 32) (w512 (match back with | some v => v.toNat | none => fieldAt b 0 64))
             due := t + fieldAt b 66 2, wait := if pending && back.isNone then .arr (tok - 1) else .none, buf := [] }
    else none

/-- Restore ports, latches and results from the extension at x, at cycle t; items of a line read with HIGH severity
have bad parity (R113, R377, R382). -/
def restoreFrom (e : Env) (ck x t : Nat) (m : Mach) : Mach :=
  let c := m.ctx ck
  let d := ctxDie ck
  let (bs, high, m) := readFrame e d c.frame x 0x2900 m
  let reads := (m.task (taskKey d c.frame)).reads
  let ports : SMap W512 := (List.range 48).filterMap fun j =>
    let v := fieldAt bs (256 * (j / 3) + 64 * (j % 3)) 64
    if v = 0 then none else some (portCode (j / 3) (j % 3), portValue (j / 3) (j % 3) (w512 v))
  let latches : SMap W512 := (List.range 19).filterMap fun q =>
    let v := fieldAt bs (0x1000 + 64 * q) 64
    if v = 0 then none else some (q, latchValue q (w512 v))
  let codes := (List.range 19).map latchCode ++ (List.range 48).map fun j => 0x1000 + portCode (j / 3) (j % 3)
  let bad := codes.filter fun k => high.contains (badOffset x k / 128 * 128)
  m.modCtx ck fun c =>
    { c with ports := ports, latches := latches, res := shadowOf t reads (bs.drop 0x1800),
             bad := (c.bad.filter fun b => decide (b < 0x0C0)) ++ bad }

/-! ### Switching (R50, R106, R107) -/

/-- The ready contexts of a core in the order of R107, starting after the one that stopped. -/
def rotation (last : Nat) : List Nat := (List.range 4).map fun k => (last + 1 + k) % 4

/-- The context stops issuing: the core chooses another, whose first bundle issues no earlier than the third cycle after
the last bundle of this one (R107); the count of the watchdog restarts (R338). -/
def leaveCore (ck : Nat) (m : Mach) : Mach :=
  let c := m.ctx ck
  (m.modCore (ctxCore ck) fun k => { k with cur := none, last := ck % 4, notBefore := c.lastIssue + 3 }).modCtx ck
    fun c => { c with wdCount := 0 }

/-- Lose ports and latches at a block switch, with the results of all latches but those that keepRes selects (R50). -/
def Ctx.lose (c : Ctx) (keepRes : Nat → Bool) : Ctx :=
  { c with ports := [], latches := [], res := c.res.filter (fun r => keepRes r.latch),
           bad := c.bad.filter fun b => decide (b < 0x0C0)
           resume := c.resume.map fun r => { r with lost := true } }

/-! ### Segments (R339 to R343) -/

/-- A bundle that had blocked issues: the operands kept for it go (R50), and its deadline is cleared (R334). -/
def Ctx.unblock (c : Ctx) : Ctx := { c with kept := [], deadline := none, timedOut := none, woken := false }

/-- Free a context's reservation of the segment store queue. -/
def freeReservation (ck : Nat) (m : Mach) : Mach :=
  m.modCore (ctxCore ck) fun k => { k with segs := k.segs.filter fun p => p.1 != ck % 4 }

/-- Rewind an open segment (R342): held stores and results go, the snapshot returns, ports and latches are zero, what
the extension holds included, and the first bundle issues again no earlier than the third cycle.  A fetch fault on it has
all ones as its tval, as a fetch has that no transfer led to (R31; log entry 65). -/
def rewindCtx (now : Nat) (s : Seg) (c : Ctx) : Ctx :=
  { c with g := s.g, shadow := s.shadow, v := s.v, p := s.p, csr := { c.csr with rctr := s.rctr }, ports := [], latches := [], res := [],
           bad := [], pc := s.addr, src := BitVec.allOnes 64, pend := none, link := false, resume := none,
           notBefore := now + 3, stallServed := false, restore := false, kept := [], deadline := none, timedOut := none,
           woken := false, lateSince := none,
           seg := some { s with used := 0, held := [], rewinds := s.rewinds + 1, again := true } }

/-- Discard an open segment with its held stores, and free its reservation (R343). -/
def discardSegment (ck : Nat) (m : Mach) : Mach :=
  match (m.ctx ck).seg with
  | none => m
  | some _ => freeReservation ck (m.modCtx ck fun c => { c with seg := none })

/-- Rewind and free the reservation, so that the segment opens again when the task resumes (R343). -/
def dropSegment (now ck : Nat) (m : Mach) : Mach :=
  match (m.ctx ck).seg with
  | none => m
  | some s => freeReservation ck ((m.modCtx ck (rewindCtx now s)).modCtx ck fun c => { c with seg := none })

/-! ### Freezing (R117) -/

/-- A double fault: the context freezes and a type 0x03 record names it. -/
def doubleFault (e : Env) (ck cause : Nat) (tval bundle : W64) (m : Mach) : Mach :=
  let m := m.modCtx ck fun c => { c with st := .frozen }
  let m := event e (ctxDie ck) 0x03
    (cause * 2 ^ 8 + (m.ctx ck).frame * 2 ^ 64 + tval.toNat * 2 ^ 192 + bundle.toNat % 2 ^ 48 * 2 ^ 256) m
  leaveCore ck m

/-! ### Taking an exception -/

/-- What an exception needs of the bundle it struck: its address, the cycle in which it first issues or would have
(R112), the slot (8 for a fetch), the done slots, whether the bundle had issued, the sources of its slots, and its
predicates at the start. -/
structure Struck where
  addr : W64
  cs : Nat
  slot : Nat
  done : BitVec 8
  issued : Bool
  snaps : List W512
  preds : BitVec 8

/-- What the done slots of the bundle at issue have moved to ports (R43), those of a former issue included. -/
def doneMoves (e : Env) (m : Mach) (done : BitVec 8) : SMap W512 :=
  m.issue.slots.zipIdx.foldl (fun ps p =>
    match p.1.instr with
    | some (.dataMove g (.port f k) s) =>
      if m.issue.done.getLsbD p.2 || !(done.getLsbD p.2) || !(enabled m g) then ps
      else ps.put (portCode f.val k.val) (portValue f.val k.val ((slotSource e m p.2 s).getD 0))
    | _ => ps) ((m.issue.start.resume.map (·.moves)).getD [])

/-- The results that the bundle at issue has put on their way, with due cycles counted from its issue, those of a former
issue's done slots first; a stop has waited for their data (R112). -/
def ownResults (e : Env) (i : Issue) (c : Ctx) : List Res :=
  let settled (w : ResWait) : ResWait := match w with | .arr id => .arr id | _ => .none
  ((i.start.resume.map (·.own)).getD [])
    ++ (c.res.drop i.base).map fun r => { r with due := r.due - e.clk.cycle, wait := settled r.wait }

/-- What the done slots of the bundle at issue have set going (R45, R51, R131, R154, R155), and what the context keeps
for its re-issue (R50, R119, R130, R334). -/
def hiddenOf (e : Env) (m : Mach) (b : Struck) (c : Ctx) : Resume :=
  let i := m.issue
  let issued := b.issued
  { done := 0, preds := 1, snaps := [], issued := issued, pend := i.pend, link := i.link, ret := i.ret, yield_ := i.yield_,
    fmt := if issued then some (i.fmt, i.key, i.mode) else none, rctr := i.rctr.map fun _ => c.csr.rctr,
    csr := i.oldCsr, psrc := i.start.psrc, retPend := c.retPend, deadline := c.deadline, timedOut := i.start.timedOut, woken := i.start.woken, kept := c.kept,
    moves := doneMoves e m b.done, own := ownResults e i c, lost := false }

/-- A counter write of a done slot stands when the bundle stops (R176). -/
def standCounter (ck : Nat) (m : Mach) : Mach :=
  m.modCtx ck fun c => { c with csr := { c.csr with rctr := m.issue.rctr.getD c.csr.rctr } }

/-- The CSRs that follow the first line of the frame's fields, in their place (R110). -/
def Ctx.csrRest (c : Ctx) : List Byte := (c.csrWords.drop 4).flatMap (fun x => bytesOf x.toNat 8)

/-- Save the stopped context's pipeline, and the frame's fields with the CSRs (R112, R114, R176): reason 1 trap, 3 page
fault. -/
def saveStruck (e : Env) (ck : Nat) (b : Struck) (reason : Nat) (m : Mach) : Mach :=
  let m := standCounter ck (m.modCtx ck fun c => { c with haltPend := c.haltPend || m.issue.halt })
  let m := stopInto e ck 0x1000 b.cs b.snaps m
  let c := m.ctx ck
  writeFrame e (ctxDie ck) c.frame 0xC00 (c.fieldBytes b.addr b.done reason c.pend b.preds ++ c.csrRest)
    ((c.bad.filter fun b => decide (0x0A0 ≤ b) && decide (b < 0x0B0)).map (badOffset 0)) m

/-- Take a trap (R31, R114): the pipeline and the frame's fields are saved, tbundle, tslot, tdone, tcause and tval are
set, the privilege becomes supervisor with intrap, and the context starts at tvec.  While intrap is 1 it is a double
fault (R117). -/
def takeTrap (e : Env) (ck cause : Nat) (tval : W64) (b : Struck) (m : Mach) : Mach :=
  let m := if cause = Cause.checkMismatch then flareOn e (ctxDie ck) 8 m else m
  if (m.ctx ck).csr.intrap then doubleFault e ck cause tval b.addr m
  else
    let hid := hiddenOf e m b (m.ctx ck)
    let m := saveStruck e ck b 1 m
    let tvec := (m.die (ctxDie ck)).tvec
    m.modCtx ck fun c =>
      { c with
        pc := tvec.setWidth 64, src := BitVec.allOnes 64, pend := none, link := false, haltPend := false, retPend := 0,
        resume := none, hid := some hid, lastIssue := e.clk.cycle, stallServed := false, wdCount := 0,
        deadline := none, timedOut := none, woken := false, kept := [],
        csr := { c.csr with
          tbundle := b.addr, tslot := b.slot, tdone := b.done, tcause := BitVec.ofNat 8 cause, tval := tval,
          ppriv := c.csr.priv, priv := true, intrap := true } }

/-- Tasks that a core holds (R109). -/
def coreTasks (m : Mach) (core : Nat) : List (Nat × Task) :=
  m.tasks.filter fun p => p.1 / 3072 == core / 192 && p.1 % 3072 / 16 == core % 192 && p.2.st != .free

/-- Write the whole context frame (R118). -/
def saveFrame (e : Env) (ck : Nat) (resumeAt : W64) (done : BitVec 8) (reason : Nat) (pend : Option W64)
    (preds : BitVec 8) (m : Mach) : Mach :=
  let c := m.ctx ck
  writeFrame e (ctxDie ck) c.frame 0 (c.frameBytes resumeAt done reason pend preds)
    ((c.bad.filter fun b => decide (b < 0x0C0)).map (badOffset 0)) m

/-- Free a context whose task is saved in its frame: what the frame does not hold stays with the task (R118). -/
def freeContext (e : Env) (ck : Nat) (st : TaskSt) (m : Mach) : Mach :=
  let m := settleAll e ck (writeBackPeers e (ctxCore ck) m)
  let c := m.ctx ck
  let m := m.modTask (taskKey (ctxDie ck) c.frame) fun t =>
    { t with st := st, saved := { c with g := [], v := [], i := [], shadow := [], ports := [], latches := [], res := [],
                                         armed := false, wdCount := 0 } }
  let m := if (m.core (ctxCore ck)).cur = some (ck % 4) then leaveCore ck m else m
  m.setCtx ck { lastIssue := c.lastIssue, csr := { wdLimit := c.csr.wdLimit } }

/-- Take a page fault on the page of a generic address (R119): the task gives up its context when its core holds fewer
than 16 tasks, and waits in place otherwise.  In a handler it is a double fault with cause 0 (R117). -/
def takePageFault (e : Env) (ck : Nat) (gaddr : W64) (b : Struck) (m : Mach) : Mach :=
  if (m.ctx ck).csr.intrap then doubleFault e ck 0 gaddr b.addr m
  else
    let hid := hiddenOf e m b (m.ctx ck)
    let page := fld gaddr.toNat 47 21
    let tk := taskKey (ctxDie ck) (m.ctx ck).frame
    let m := m.modTask tk fun t => { t with page := some page }
    let frees := decide ((coreTasks m (ctxCore ck)).length < 16)
    match (m.ctx ck).seg, frees with
    | some s, true =>
      let m := dropSegment e.clk.cycle ck m
      let m := stopInto e ck 0x1000 b.cs [] m
      let m := saveFrame e ck s.addr 0 3 none 1 m
      freeContext e ck .waitPage m
    | _, _ =>
      let m := saveStruck e ck b 3 m
      let m := m.modCtx ck fun c => { c with hid := some hid, resume := none }
      if frees then freeContext e ck .waitPage (saveFrame e ck b.addr b.done 3 (m.ctx ck).pend b.preds m)
      else leaveCore ck (m.modCtx ck fun c => { c with st := .page })

/-- Handle a consumed mismatch (R386): rewind inside a segment up to its third event, else CHECK_MISMATCH.  The bundle has
issued, and the watchdog counts it (R338). -/
def takeMismatch (e : Env) (ck : Nat) (v : W64) (b : Struck) (m : Mach) : Mach :=
  match (m.ctx ck).seg with
  | some s =>
    if s.rewinds < 3 && s.handler == (m.ctx ck).csr.intrap then
      m.modCtx ck fun c => { rewindCtx e.clk.cycle s c with wdCount := c.wdCount + b2n !c.csr.priv }
    else takeTrap e ck Cause.checkMismatch v b m
  | none => takeTrap e ck Cause.checkMismatch v b m

/-! ### Returning -/

/-- The snapshots in the pipeline extension (R111). -/
def snapshots (bs : List Byte) : List W512 := (List.range 8).map fun s => w512 (fieldAt bs (0x2700 + 64 * s) 64)

/-- The parity marks of p1 to p7 (R382). -/
def badPreds : List Nat := (List.range 7).map fun k => 0x0A1 + k

/-- Set a context to go on from the resume fields of its frame, with ports, latches and results restored when it next
issues (R113, R116). -/
def resumeFields (e : Env) (ck : Nat) (m : Mach) : Mach :=
  let d := ctxDie ck
  let f := (m.ctx ck).frame
  let (bs, high, m) := readFrame e d f 0xC00 128 m
  let (xs, _, m) := readFrame e d f 0x1000 0x2900 m
  let word := fieldAt bs 8 8
  m.modCtx ck fun c =>
    let h : Resume := c.hid.getD { Resume.plain with psrc := c.psrc }
    { c with
      pc := w64 (fieldAt bs 0 8), src := BitVec.allOnes 64,
      pend := if tst word 16 then some (w64 (fieldAt bs 16 8)) else none,
      psrc := h.psrc, retPend := if tst word 16 then h.retPend else 0, haltPend := tst word 17, link := tst word 18,
      deadline := h.deadline, kept := h.kept, timedOut := h.timedOut, woken := h.woken,
      bad := if high.isEmpty then c.bad else c.bad ++ badPreds,
      resume := some { h with done := BitVec.ofNat 8 word, preds := BitVec.ofNat 8 (fieldAt bs 25 1) ||| 1,
                              snaps := snapshots xs },
      hid := none, restore := true, stallServed := h.issued }

/-- The return from a trap (R116), made after the delay bundle: privilege and intrap return, and the resume bundle goes
on from the frame at cycle t. -/
def returnFromTrap (e : Env) (ck : Nat) (m : Mach) : Mach :=
  let m := m.modCtx ck fun c =>
    { c with csr := { c.csr with priv := c.csr.ppriv, intrap := false }, wdCount := 0, pend := none,
             lastIssue := e.clk.cycle }
  resumeFields e ck m

/-- Take a user interrupt (R121): stop into the interrupt extension, save p1 to p7, switch g112 to g127, and start at
uivec with the oldest entry in g112 and g113.  Observing the entry's token acquires at die scope (R289, R308, R313, R315).
Byte 0x6700 of the frame has pn in bit n, and the 127 bytes after it are zero (R111; log entry 66). -/
def takeInterrupt (e : Env) (ck : Nat) (m : Mach) : Mach :=
  let c := m.ctx ck
  match c.uiq with
  | [] => m
  | (h, v) :: rest =>
    let f := c.frame
    let m := stopInto e ck 0x4000 (c.lastIssue + 1) [] m
    let m := writeFrame e (ctxDie ck) f 0x6700 (bytesOf c.p.toNat 1 ++ List.replicate 127 0)
      (if c.bad.any fun b => badPreds.contains b then [0x6700] else []) m
    (acquireToken ck (fld h.toNat 55 52) m).modCtx ck fun c =>
      { c with
        under := some { deadline := c.deadline, timedOut := c.timedOut, kept := c.kept }, deadline := none,
        timedOut := none, kept := [],
        bad := c.bad.filter fun b => b != 0x0B0 && b != 0x0B1
        csr := { c.csr with uiepc := c.pc.setWidth 48, inui := true }, uiq := rest,
        shadow := (c.shadow.put 0 h).put 1 v, pc := c.csr.uivec.setWidth 64, src := BitVec.allOnes 64,
        lastIssue := e.clk.cycle, stallServed := false, wdCount := 0 }

/-- The return from a user interrupt (R130), made after the delay bundle: the main bank and p1 to p7 return, and the
interrupted code goes on at the target of the return, its uiepc, at cycle t. -/
def returnFromInterrupt (e : Env) (ck t : Nat) (target : W64) (m : Mach) : Mach :=
  let c := m.ctx ck
  let (bs, high, m) := readFrame e (ctxDie ck) c.frame 0x6700 128 m
  let m := m.modCtx ck fun c =>
    { c with
      csr := { c.csr with inui := false }, p := BitVec.ofNat 8 (fieldAt bs 0 1) ||| 1,
      bad := (c.bad.filter fun b => !(badPreds.contains b)) ++ (if high.isEmpty then [] else badPreds),
      deadline := c.under.bind (·.deadline), timedOut := c.under.bind (·.timedOut), kept := (c.under.map (·.kept)).getD [], under := none,
      pc := target, src := BitVec.allOnes 64, pend := none, lastIssue := t - 1, stallServed := false }
  restoreFrom e ck 0x4000 t m

end Sys2Proof.Machine
end

