-- ==== Sys2Proof/Machine/Slot.lean ====
section
/-! DEFINITION. One slot of the bundle being issued: guard, order, form errors, and what its stop leads to
(R33, R34, R44, R45, R340). -/

namespace Sys2Proof.Machine

/-- The outcome of a step. -/
abbrev Out := Host.Outcome State Fault Refusal

/-- Is a static schedule segment open that governs the running code (R339, R340, R343)? A trap handler is governed by
the one that it has opened itself, and not by the one that it interrupted (log entry 63). -/
def Ctx.inSegment (c : Ctx) : Bool :=
  match c.seg with
  | some s => s.handler == c.csr.intrap
  | none => false

/-- Does the issuing context run inside a segment? -/
def inSegment (m : Mach) : Bool := m.cur.inSegment

/-- Operations that raise ILLEGAL_SLOT inside an open segment (R340), by unit and opcode. -/
def segmentForbids (unit opcode : Nat) : Bool :=
  if unit = 4 || unit = 5 then opcode == 19 || opcode == 20 || opcode ≥ 22
  else if unit = 9 then opcode ≥ 5
  else if unit ≥ 10 && unit ≤ 13 then true
  else unit == 15 && opcode != 6 && opcode != 7

/-- What an exception needs to know of the slot that acts (R45, R114).  The slots that the resumed bundle counted as done go on
to, those above the slot that faults too (log entry 102). -/
def struckNow (e : Env) (m : Mach) (done : Nat) : Struck :=
  let i := m.issue
  { addr := i.addr, cs := e.clk.cycle, slot := i.slot, done := i.done ||| BitVec.ofNat 8 (mask done), issued := true, preds := i.preds
    snaps := (List.range 8).map fun k =>
      if k < i.slot then 0
      else
        match i.slots[k]?.bind fun r => decodeSrc (r.raw.toNat % 2 ^ 10) with
        | some s => (slotSource e m k s).getD 0
        | none => 0 }

/-! ### CSR writes (R8, R122, R123, R131) -/

/-- May `frame.base` be moved to that address: its 96 MiB lie in the die's own memory and the die holds no task (R123)? -/
def frameBaseFits (m : Mach) (d v : Nat) : Bool :=
  let v := fld v 47 15 * 2 ^ 15
  decide (v / 2 ^ 40 = d) && decide (v % 2 ^ 40 + 96 * 2 ^ 20 ≤ dieBytes)
    && m.tasks.all fun p => p.1 / 3072 != d || p.2.st == .free

/-- A supervisor's write of a die-scope CSR (R123, R223, R404, R408). -/
def writeDieCsr (m : Mach) (d n v : Nat) (x : Die) : Die :=
  match n with
  | 0x106 => { x with tvec := BitVec.ofNat 48 v }
  | 0x107 => if frameBaseFits m d v then { x with frameBase := fld v 47 15 * 2 ^ 15 } else x
  | 0x201 => { x with didt := v % 2 ^ 16 }
  | 0x202 => { x with slipLate := fld v 63 32, slipWorst := v % 2 ^ 32 }
  | 0x203 =>
    { x with flFired := x.flFired && !(tst v 32), flOn := fld v 11 8, flTstop := tst v 2, flUser := tst v 1,
             flArm := tst v 0 }
  | _ => x

/-- A supervisor's write of a context-scope CSR (R123, R152, R253, R275, R336); the settings of R154 apart. -/
def writeCtxCsr (n v : Nat) (x : Csrs) : Csrs :=
  match n with
  | 0x000 => { x with uien := tst v 0, uimask := BitVec.ofNat 6 (v / 2) }
  | 0x001 => { x with uivec := BitVec.ofNat 48 v }
  | 0x002 => { x with uiepc := BitVec.ofNat 48 v }
  | 0x020 => { x with sqlen := v % 16 }
  | 0x021 => { x with seedA := BitVec.ofNat 32 v }
  | 0x022 => { x with seedB := BitVec.ofNat 32 v }
  | 0x030 => if v % 2 ^ 32 = 0 then x else { x with waitTo := BitVec.ofNat 32 v }
  | 0x031 => { x with wdLimit := BitVec.ofNat 32 v }
  | 0x042 => { x with ntrange := w64 (fld v 63 24 * 2 ^ 24 + v % 4) }
  | 0x100 => { x with ppriv := tst v 1 }
  | 0x101 => { x with tbundle := w64 v }
  | 0x102 => { x with tslot := v % 16 }
  | 0x103 => { x with tdone := BitVec.ofNat 8 v }
  | 0x104 => { x with tcause := BitVec.ofNat 8 v }
  | 0x105 => { x with tval := w64 v }
  | 0x108 => { x with tscr0 := w64 v }
  | 0x109 => { x with tscr1 := w64 v }
  | 0x10A => { x with tscr2 := w64 v }
  | 0x10B => { x with tscr3 := w64 v }
  | _ => x

/-- WriteByFields (R131) of a CSR whose write acts at once after its bundle: fields read-only at the writer's privilege
keep their value. -/
def writeCsrNow (n v : Nat) (m : Mach) : Mach :=
  let m := if n = 0x000 ∧ tst v 15 then m.modCur fun c => { c with csr := { c.csr with uiovf := false } } else m
  if m.user then m
  else if 0x600 ≤ n then { m with hot := m.hot.put (hotKey m.issue.d (n - 0x600)) (w64 v) }
  else
    let d := m.issue.d
    let x := writeDieCsr m d n v (m.die d)
    (m.setDie d x).modCur fun c => { c with csr := writeCtxCsr n v c.csr }

/-- A CSR write of the bundle at issue (R131): an operation's own write of a context-scope CSR is made at any privilege. -/
def applyWrite (w : CsrWrite) (m : Mach) : Mach :=
  if w.own then m.modCur fun c => { c with csr := writeCtxCsr w.n w.v c.csr } else writeCsrNow w.n w.v m

/-- Ask for a CSR write, which acts for the bundles that issue after this one (R131, R254, R351). -/
def requestCsr (n v : Nat) (own : Bool) (m : Mach) : Mach :=
  m.modIssue fun i => { i with newCsr := i.newCsr ++ [⟨n, v, own⟩] }

/-- What the bundle's operations have asked of settings and CSRs takes effect in slot order, for the bundles that issue
after this one (R131, R154). -/
def applySettings (m : Mach) : Mach :=
  let i := m.issue
  let m := m.modCur fun c =>
    { c with csr := { c.csr with fmt := i.newFmt.getD c.csr.fmt, mode := i.newMode.getD c.csr.mode,
                                 seed := i.newSeed.getD c.csr.seed } }
  let m := i.newCsr.foldl (fun m w => applyWrite w m) m
  m.modIssue fun i =>
    { i with newFmt := none, newMode := none, newSeed := none, newCsr := [],
             oldCsr := if i.newCsr.isEmpty then i.oldCsr else some i.start.csr }

/-- What a slot's stop leads to: a trap, a page fault, a mismatch, or a blocked bundle. -/
def stopSlot (e : Env) (st : Stop) (m : Mach) : Mach :=
  let ck := m.issue.ck
  let stopped (m : Mach) : Mach := m.modIssue fun i => { i with out := .stopped }
  let m := match st with
    | .block _ _ _ => m
    | _ => applySettings m
  match st with
  | .trap c v => stopped (takeTrap e ck c v (struckNow e m m.issue.slot) m)
  | .userTrap v => stopped (takeTrap e ck 18 v (struckNow e m (m.issue.slot + 1)) m)
  | .page v => stopped (takePageFault e ck v (struckNow e m m.issue.slot) m)
  | .mismatch v => stopped (takeMismatch e ck v (struckNow e m m.issue.slot) m)
  | .block w op b => m.modIssue fun i => { i with out := .blocked ⟨w, i.slot, op, b⟩ }

/-- The checks of an enabled trigger's form: a second trigger to a unit of the bundle is illegal (R44), and so is an
operation that a segment forbids (R340). -/
def checkTrigger (unit opcode : Nat) (t : Trig) : M Unit := do
  if (← get).issue.units.contains unit then illegalForm else
  modify fun m => m.modIssue fun i => { i with units := unit :: i.units }
  if inSegment (← get) && segmentForbids unit opcode then
    trap Cause.illegalSlot (← operand64 t.src)
  else pure ()

/-- Carry out one slot: nothing when an earlier slot has stopped the bundle or the guard is false (R34). -/
def runSlot (e : Env) (i : Instr) (g : Guard) (body : M Unit) (m : Mach) : Mach :=
  if m.issue.out = .going && enabled m g then
    let m := m.modIssue fun x => { x with raw := (encode i).getD 0 }
    let act : M Unit := do
      match opCode i with
      | some (u, o, t) => checkTrigger u o t
      | none => pure ()
      body
    match act e m with
    | .ok _ m => m
    | .error st m => stopSlot e st m
  else m

/-- A slot operation as a step of its own: it acts in the bundle being issued. -/
def slotStep (i : Instr) (g : Guard) (body : M Unit) (s : State) : Out :=
  .next { s with m := runSlot ⟨s.boot, s.clk⟩ i g body s.m }

/-- An event as a step of its own: it changes the machine, and nothing when its conditions do not hold. -/
def eventStep (f : Env → Mach → Mach) (s : State) : Out := .next { s with m := f ⟨s.boot, s.clk⟩ s.m }

/-! ### Data moves (R32, R37, R38) -/

/-- The effect of a data move. -/
def slotDataMove (d : Dst) (src : Src) : M Unit := do
  match d with
  | .p n => if n.val = 0 then illegalForm else pure ()
  | _ => pure ()
  let v ← operand src
  modify fun m => m.modCur fun c => c.writeDst d v

/-- DATA_MOVE: copies its source to its destination (R32). -/
def execDataMove (g : Guard) (d : Dst) (src : Src) (s : State) : Out :=
  slotStep (.dataMove g d src) g (slotDataMove d src) s

end Sys2Proof.Machine
end

