-- ==== Sys2Proof/Machine/Branch.lean ====
section
/-! DEFINITION. The branch unit (R51, R124 to R130). -/

namespace Sys2Proof.Machine

/-- Deliver to br.q, due one cycle later (R124). -/
def brResult (v : W64) : M Unit := result64 12 1 v

/-- Is the bundle being issued the delay bundle of a control transfer, a return among them (R51)? -/
def inDelay (m : Mach) : Bool := m.issue.start.pend.isSome || m.issue.start.retPend != 0

/-- A control transfer in a delay bundle is illegal (R51, R426). -/
def notInDelay : M Unit := do
  if inDelay (← get) then illegalForm else pure ()

/-- Make the transfer of the bundle, a call or not (R125): the target's bits 63:48 must be zero. -/
def transfer (target : W64) (call : Bool) : M Unit := do
  notInDelay
  require (fld target.toNat 63 48 == 0) Cause.aperture target
  modify fun m => m.modIssue fun i => { i with pend := some target, link := call }

/-- R125: a signed byte offset from the bundle. -/
def slotBrBr (t : Trig) : M Unit := do
  let x ← operand64 t.src
  transfer ((← get).issue.addr + x) false

/-- R125 -/
def slotBrBra (t : Trig) : M Unit := do transfer (← operand64 t.src) false

/-- R125: br.q receives the address after the delay bundle, formed when that bundle is fetched. -/
def slotBrCall (t : Trig) : M Unit := do
  let x ← operand64 t.src
  transfer ((← get).issue.addr + x) true

/-- R125 -/
def slotBrCalla (t : Trig) : M Unit := do transfer (← operand64 t.src) true

/-- R125: a return behaves as br.bra. -/
def slotBrRet (t : Trig) : M Unit := do transfer (← operand64 t.src) false

/-- R126: USER_TRAP, whose slot counts as done. -/
def slotBrTrap (t : Trig) : M Unit := do throw (.userTrap (← operand64 t.src))

/-- R127: the operand is ignored. -/
def slotBrHalt (t : Trig) : M Unit := do
  let _ ← operand64 t.src
  modify fun m => m.modIssue fun i => { i with halt := true }

/-- R128: the operand is ignored. -/
def slotBrYield (t : Trig) : M Unit := do
  let _ ← operand64 t.src
  modify fun m => m.modIssue fun i => { i with yield_ := true }

/-- R130, R116: operand 0 returns from a user interrupt, operand 1 from a trap, after the delay bundle.  The return from
an interrupt is a pending transfer to uiepc (R51; log entry 67). -/
def slotBrUiret (t : Trig) : M Unit := do
  let x ← operand64 t.src
  notInDelay
  let c := (← get).cur.csr
  if x = 0 then
    require c.inui Cause.illegalSlot x
    modify fun m => m.modIssue fun i => { i with ret := 1, pend := some (c.uiepc.setWidth 64) }
  else if x = 1 then
    require c.priv Cause.priv x
    require c.intrap Cause.illegalSlot x
    modify fun m => m.modIssue fun i => { i with ret := 2 }
  else trap Cause.illegalSlot x

/-- R129: waits for a tick, or for a user interrupt while they are enabled; a context that an interrupt has woken takes the
interrupt's branch, whatever the tick is by then. -/
def slotBrWait (t : Trig) : M Unit := do
  let x ← operand64 t.src
  let m ← get
  let until_ : BitVec 48 := x.setWidth 48
  if m.issue.start.woken then brResult 1
  else if reached (← read).clk.tick until_ then brResult 0
  else if !m.cur.uiq.isEmpty && m.issue.start.csr.uien then brResult 1
  else block (.tick until_) x false

/-- BR_BR: Relative branch after one delay bundle. (R125) -/
def execBrBr (t : Trig) (s : State) : Out :=
  slotStep (.brBr t) t.guard (slotBrBr t) s

/-- BR_BRA: Absolute branch after one delay bundle. (R125) -/
def execBrBra (t : Trig) (s : State) : Out :=
  slotStep (.brBra t) t.guard (slotBrBra t) s

/-- BR_CALL: Relative call that delivers the link in br.q. (R125) -/
def execBrCall (t : Trig) (s : State) : Out :=
  slotStep (.brCall t) t.guard (slotBrCall t) s

/-- BR_CALLA: Absolute call that delivers the link in br.q. (R125) -/
def execBrCalla (t : Trig) (s : State) : Out :=
  slotStep (.brCalla t) t.guard (slotBrCalla t) s

/-- BR_RET: Return, which behaves as an absolute branch. (R125) -/
def execBrRet (t : Trig) (s : State) : Out :=
  slotStep (.brRet t) t.guard (slotBrRet t) s

/-- BR_TRAP: Raises USER_TRAP, with the trap slot counted as done. (R126) -/
def execBrTrap (t : Trig) (s : State) : Out :=
  slotStep (.brTrap t) t.guard (slotBrTrap t) s

/-- BR_HALT: Halts the task after its bundle. (R127) -/
def execBrHalt (t : Trig) (s : State) : Out :=
  slotStep (.brHalt t) t.guard (slotBrHalt t) s

/-- BR_YIELD: Yields issue to other contexts. (R128) -/
def execBrYield (t : Trig) (s : State) : Out :=
  slotStep (.brYield t) t.guard (slotBrYield t) s

/-- BR_UIRET: Returns from a user interrupt (operand 0) or from a trap (operand 1). (R130) -/
def execBrUiret (t : Trig) (s : State) : Out :=
  slotStep (.brUiret t) t.guard (slotBrUiret t) s

/-- BR_WAIT: Waits until an absolute tick or a pending user interrupt. (R129) -/
def execBrWait (t : Trig) (s : State) : Out :=
  slotStep (.brWait t) t.guard (slotBrWait t) s
end Sys2Proof.Machine
end

