-- ==== Sys2Proof/Machine/Addr.lean ====
section
/-! DEFINITION. Generic addresses and their translation (R182 to R187, R213 to R216, R400), and the address unit ag
(R193 to R198). -/

namespace Sys2Proof.Machine

/-! ### Fields of a generic address (R182) -/

/-- The aperture code: 0 G, 1 L, 2 C, 3 P. -/
def apOf (a : W64) : Nat := fld a.toNat 60 58

/-- Step 1 of R186: a known aperture, and its must-be-zero bits are zero. -/
def wellFormedAddr (a : W64) : Bool :=
  match apOf a with
  | 0 => fld a.toNat 57 48 == 0
  | 1 => fld a.toNat 57 22 == 0
  | 2 => fld a.toNat 57 30 == 0
  | 3 => fld a.toNat 57 48 == 0
  | _ => false

/-- The width of the offset field of an aperture (R194). -/
def offWidth (ap : Nat) : Nat :=
  match ap with
  | 0 => 48 | 1 => 22 | 2 => 22 | 3 => 32 | _ => 58

/-- AddA: a signed offset added within the offset field (R194). -/
def addA (a t : W64) : W64 :=
  let w := offWidth (apOf a)
  w64 (a.toNat / 2 ^ w * 2 ^ w + (a.toNat + t.toNat) % 2 ^ w)

/-! ### Checks and translation -/

/-- The kind of an access right: read, write, or both (R213). -/
inductive Right where
  | read | write | both
  deriving DecidableEq, Repr

/-- What a check of an access finds: a fault by its cause, an absent page, or where the access goes. -/
inductive Xl where
  | fault (cause : Nat)
  | absent
  | ok (a : Acc)
  deriving DecidableEq, Repr

/-- Does an access code (1 read, 2 write, 3 both) allow a right? -/
def accessAllows (code : Nat) (k : Right) : Bool :=
  match k with
  | .read => tst code 0
  | .write => tst code 1
  | .both => code == 3

/-- The lowest-numbered extent entry that covers a virtual byte, with its index (R213). -/
def extentAt (xs : List Extent) (v : Nat) : Option (Nat × Extent) :=
  (xs.zipIdx.find? fun p => decide (p.1.va ≤ v) && decide (v < p.1.va + p.1.len)).map fun p => (p.2, p.1)

/-- Translate a G byte through a task's extents (R213). -/
def checkG (xs : List Extent) (d : Nat) (k : Right) (gaddr : W64) : Xl :=
  let v := fld gaddr.toNat 47 0
  match extentAt xs v with
  | none => .fault Cause.undeclared
  | some (_, x) =>
    if !(accessAllows x.access k) then .fault Cause.undeclared else
    match x.pages.find? fun p => p.vpage == v / 2 ^ 21 with
    | none => .fault Cause.undeclared
    | some p =>
      if !p.valid || (k != .write && !p.rd) || (k != .read && !p.w) then .fault Cause.undeclared
      else if !p.pr then .absent
      else
        let pa := p.pa + v % 2 ^ 21
        .ok { loc := .phys pa, cls := classOf d pa, legend := p.legend, buf := x.buf, gaddr := gaddr,
              acls := aliasOf gaddr }

/-- The permutation H of R216. -/
def poolHash (u : Nat) : Nat :=
  let x := u * 0x9E37 % 2 ^ 16
  let x := x ^^^ (x >>> 7)
  let x := x * 0x6A5B % 2 ^ 16
  x ^^^ (x >>> 9)

/-- Where pool byte p lies, seen from die d (R216); none when it lies outside the pool or its die's memory. -/
def poolPlace (e : Env) (m : Mach) (d p : Nat) : Option Nat :=
  let n := p / 4096
  let w := n / 65536
  let count := e.dieCount
  let h := poolHash (n % 65536)
  let k := h * count / 2 ^ 16
  let lo := ceilDiv (k * 2 ^ 16) count
  let per := ceilDiv (2 ^ 16) count
  match e.dieList[k]? with
  | none => none
  | some die =>
    let off := (m.die die).poolBase + (w * per + h - lo) * 4096 + p % 4096
    if w < (m.die d).poolRows ∧ off < dieBytes then some (die * 2 ^ 40 + off) else none

/-- Check an access of w bytes through imported handle h at offset o (R215, R216, R400).  A table entry that R215's layout
forbids, or that lies in unbacked memory, raises APERTURE_FAULT (log entry 96). -/
def checkP (e : Env) (d frame : Nat) (k : Right) (w : Nat) (gaddr : W64) (m : Mach) : Xl × Mach :=
  let h := fld gaddr.toNat 47 32
  let o := fld gaddr.toNat 31 0
  let pa := (m.die d).ihBase + 16 * h
  if (m.die d).ihCount ≤ h || !(backed e m d pa) then (.fault Cause.aperture, m) else
  let (g, m) := homeRead e ⟨0, d, frame⟩ 0 (pa / 128) (chargeHub e ⟨0, d, frame⟩ 16 m)
  if g.sev = 3 then (.fault Cause.poison, m) else
  let lo := laneN g.data 64 (pa % 128 / 8)
  let hi := laneN g.data 64 (pa % 128 / 8 + 1)
  let kind := fld lo 62 61
  let base := fld lo 47 0
  let legend := fld lo 58 55
  let len := fld hi 20 0
  let bad := !(tst lo 63) || kind == 3 || fld lo 54 48 != 0 || fld hi 31 21 != 0 || decide (9 < legend)
    || (kind != 2 && fld hi 63 32 != 0) || (kind == 2 && base != 0) || base % 4096 != 0
    || decide (2 ^ 20 < len) || decide (4096 * len < o + w)
  if bad then (.fault Cause.aperture, m) else
  let rights := (k != .write && !(tst lo 59)) || (k != .read && !(tst lo 60))
  let at_ (pa : Nat) : Xl :=
    if rights then .fault Cause.undeclared
    else .ok { loc := .phys pa, cls := .far, legend := legend, buf := 0, gaddr := gaddr, acls := aliasOf gaddr }
  match kind with
  | 0 => (if backed e m d (base + o) then at_ (base + o) else .fault Cause.aperture, m)
  | 1 =>
    match poolPlace e m d (base + o) with
    | some pa => (at_ pa, m)
    | none => (.fault Cause.aperture, m)
  | _ =>
    let pkg := fld hi 63 48
    let (l, m) := routeOf e d pkg m
    match l with
    | none => (.fault Cause.aperture, m)
    | some l =>
      if pkg = (m.die d).pkgSelf || linkGone e l then (.fault Cause.aperture, m)
      else if rights then (.fault Cause.undeclared, m)
      else (.ok { loc := .peer pkg (fld hi 47 32) o h, cls := .far, legend := legend, buf := 0, gaddr := gaddr,
                  acls := aliasOf gaddr }, m)

/-- Who an access is made for: die, core rank, frame, extents and scratchpad run. -/
structure Who where
  die : Nat
  rank : Nat
  frame : Nat
  extents : List Extent
  spadBase : Nat
  spadSize : Nat
  deriving DecidableEq, Repr

/-- Check an access of w bytes aligned to al: steps 1 to 4 of R186. -/
def checkAcc (e : Env) (who : Who) (k : Right) (w al : Nat) (a : W64) (m : Mach) : Xl × Mach :=
  if !(wellFormedAddr a) then (.fault Cause.aperture, m)
  else if a.toNat % al ≠ 0 then (.fault Cause.align, m)
  else
    match apOf a with
    | 0 => (checkG who.extents who.die k a, m)
    | 1 =>
      let x := fld a.toNat 21 0
      if x + w ≤ who.spadSize then
        (.ok { loc := .spad (coreKey who.die who.rank) (who.spadBase + x), cls := .bank, legend := 0, buf := 0,
               gaddr := a, acls := aliasOf a }, m)
      else (.fault Cause.aperture, m)
    | 2 =>
      let c := fld a.toNat 29 22
      let x := fld a.toNat 21 0
      if c ≤ 191 ∧ x + w ≤ spadBytes (m.core (coreKey who.die c)).l1 then
        (.ok { loc := .spad (coreKey who.die c) x, cls := .bank, legend := 0, buf := 0, gaddr := a,
               acls := aliasOf a }, m)
      else (.fault Cause.aperture, m)
    | _ => checkP e who.die who.frame k w a m

/-- The issuing task. -/
def Mach.who (m : Mach) : Who :=
  { die := m.issue.d, rank := m.issue.r, frame := m.cur.frame, extents := m.curTask.extents
    spadBase := m.cur.csr.spadBase, spadSize := m.cur.csr.spadSize }

/-- Check an access of the issuing slot: the first check that fails raises its fault with tval the address (R186). -/
def check (k : Right) (w al : Nat) (a : W64) : M Acc := do
  let e ← read
  let m ← get
  let (x, m) := checkAcc e m.who k w al a m
  set m
  match x with
  | .fault c => trap c a
  | .absent => throw (.page a)
  | .ok acc => pure acc

/-! ### The address unit (R193 to R198) -/

/-- Deliver to ag.q, due one cycle later. -/
def agResult (v : W64) : M Unit := result64 3 1 v

/-- R194 -/
def slotAgAdda (t : Trig) : M Unit := do
  let x ← operand64 t.src
  agResult (addA (← port64 3 0) x)

/-- R195 -/
def slotAgMkl (t : Trig) : M Unit := do
  let x ← operand64 t.src
  let a ← port64 3 0
  agResult (w64 (a.toNat % 8 * 2 ^ 61 + 2 ^ 58 + x.toNat % 2 ^ 22))

/-- R195 -/
def slotAgMkc (t : Trig) : M Unit := do
  let x ← operand64 t.src
  let a ← port64 3 0
  let b ← port64 3 1
  agResult (w64 (a.toNat % 8 * 2 ^ 61 + 2 * 2 ^ 58 + b.toNat % 2 ^ 8 * 2 ^ 22 + x.toNat % 2 ^ 22))

/-- R195 -/
def slotAgMkp (t : Trig) : M Unit := do
  let x ← operand64 t.src
  let a ← port64 3 0
  let b ← port64 3 1
  agResult (w64 (a.toNat % 8 * 2 ^ 61 + 3 * 2 ^ 58 + b.toNat % 2 ^ 16 * 2 ^ 32 + x.toNat % 2 ^ 32))

/-- R194: the alias class replaced. -/
def slotAgTag (t : Trig) : M Unit := do
  let x ← operand64 t.src
  let a ← port64 3 0
  agResult (w64 (a.toNat % 2 ^ 61 + x.toNat % 8 * 2 ^ 61))

/-- The word of tsta (R196). -/
def tstaWord (m : Mach) (t : W64) : W64 :=
  let one := wellFormedAddr t
  let in_ := match apOf t with
    | 1 => decide (fld t.toNat 21 0 + 1 ≤ m.cur.csr.spadSize)
    | 2 => decide (fld t.toNat 29 22 ≤ 191) &&
        decide (fld t.toNat 21 0 + 1 ≤ spadBytes (m.core (coreKey m.issue.d (fld t.toNat 29 22))).l1)
    | _ => true
  w64 (apOf t + aliasOf t * 8 + b2n one * 2 ^ 8 + b2n (one && in_) * 2 ^ 9)

/-- R196 -/
def slotAgTsta (t : Trig) : M Unit := do
  let x ← operand64 t.src
  agResult (tstaWord (← get) x)

/-- The C address of an L address (R197). -/
def cvtcWord (m : Mach) (t : W64) : W64 :=
  if apOf t = 1 ∧ fld t.toNat 57 22 = 0 then
    w64 (aliasOf t * 2 ^ 61 + 2 * 2 ^ 58 + m.issue.r * 2 ^ 22 + (m.cur.csr.spadBase + t.toNat % 2 ^ 22) % 2 ^ 22)
  else t

/-- R197 -/
def slotAgCvtc (t : Trig) : M Unit := do
  let x ← operand64 t.src
  agResult (cvtcWord (← get) x)

/-- The extent look-up of xlk (R198). -/
def xlkWord (m : Mach) (t : W64) : W64 :=
  let v := fld t.toNat 47 0
  match (if apOf t = 0 ∧ wellFormedAddr t then extentAt m.curTask.extents v else none) with
  | none => w64 (2 ^ 63)
  | some (k, x) =>
    w64 (k + x.access * 2 ^ 6 + x.buf * 2 ^ 8 + min (x.va + x.len - v) 16777215 * 2 ^ 16 + x.acls * 2 ^ 40)

/-- R198 -/
def slotAgXlk (t : Trig) : M Unit := do
  let x ← operand64 t.src
  agResult (xlkWord (← get) x)

/-- AG_ADDA: Adds a signed offset within the offset field of a generic address. (R194) -/
def execAgAdda (t : Trig) (s : State) : Out :=
  slotStep (.agAdda t) t.guard (slotAgAdda t) s

/-- AG_MKL: Builds an L address. (R195) -/
def execAgMkl (t : Trig) (s : State) : Out :=
  slotStep (.agMkl t) t.guard (slotAgMkl t) s

/-- AG_MKC: Builds a C address from a rank and an offset. (R195) -/
def execAgMkc (t : Trig) (s : State) : Out :=
  slotStep (.agMkc t) t.guard (slotAgMkc t) s

/-- AG_MKP: Builds a P address from a handle index and an offset. (R195) -/
def execAgMkp (t : Trig) (s : State) : Out :=
  slotStep (.agMkp t) t.guard (slotAgMkp t) s

/-- AG_TAG: Replaces the alias class of an address. (R194) -/
def execAgTag (t : Trig) (s : State) : Out :=
  slotStep (.agTag t) t.guard (slotAgTag t) s

/-- AG_TSTA: Classifies an address without accessing it. (R196) -/
def execAgTsta (t : Trig) (s : State) : Out :=
  slotStep (.agTsta t) t.guard (slotAgTsta t) s

/-- AG_CVTC: Converts an L address to the C address of the same byte. (R197) -/
def execAgCvtc (t : Trig) (s : State) : Out :=
  slotStep (.agCvtc t) t.guard (slotAgCvtc t) s

/-- AG_XLK: Looks a G address up in the task's extent table. (R198) -/
def execAgXlk (t : Trig) (s : State) : Out :=
  slotStep (.agXlk t) t.guard (slotAgXlk t) s
end Sys2Proof.Machine
end

