-- ==== Sys2Proof/Machine/Fp.lean ====
section
/-! DEFINITION. Number formats, exact values, rounding and conversion (R61 to R68). -/

namespace Sys2Proof.Machine

/-- A floating format: width, exponent and fraction bits, bias, and whether it has infinities (R61). -/
structure Fmt where
  w : Nat
  eb : Nat
  fb : Nat
  bias : Nat
  inf : Bool
  deriving DecidableEq, Repr

def Fmt.fp32 : Fmt := ⟨32, 8, 23, 127, true⟩
def Fmt.bf16 : Fmt := ⟨16, 8, 7, 127, true⟩
def Fmt.fp16 : Fmt := ⟨16, 5, 10, 15, true⟩
def Fmt.e4m3 : Fmt := ⟨8, 4, 3, 7, false⟩
def Fmt.e2m1 : Fmt := ⟨4, 2, 1, 1, false⟩

/-- BF16 flushes subnormals (R63). -/
def Fmt.flushes (f : Fmt) : Bool := f == Fmt.bf16

/-- A value: NaN, an infinity, or (−1)^neg × m × 2^e; with `more` set its magnitude lies strictly between m and m + 1
units of 2^e. -/
inductive Num where
  | nan
  | inf (neg : Bool)
  | fin (neg : Bool) (m : Nat) (e : Int) (more : Bool)
  deriving DecidableEq, Repr

/-- A number exactly. -/
def Num.exact (neg : Bool) (m : Nat) (e : Int) : Num := .fin neg m e false

/-- An integer as a value. -/
def Num.ofInt (x : Int) : Num := .exact (decide (x < 0)) x.natAbs 0

def Num.isNan : Num → Bool
  | .nan => true
  | _ => false

/-- Is the value a zero? -/
def Num.isZero : Num → Bool
  | .fin _ m _ more => m == 0 && !more
  | _ => false

/-- Sign bit of a value. -/
def Num.neg : Num → Bool
  | .nan => false
  | .inf n => n
  | .fin n _ _ _ => n

/-- The value with its sign flipped. -/
def Num.negate : Num → Num
  | .nan => .nan
  | .inf n => .inf (!n)
  | .fin n m e r => .fin (!n) m e r

/-- The value of an encoding (R62); a BF16 subnormal reads as zero with its sign (R63). -/
def Fmt.read (f : Fmt) (x : Nat) : Num :=
  let neg := tst x (f.w - 1)
  let ex := fld x (f.w - 2) f.fb
  let fr := x % 2 ^ f.fb
  let top := mask f.eb
  if f.inf && ex == top then (if fr = 0 then .inf neg else .nan)
  else if f.w = 8 && ex == top && fr == mask f.fb then .nan
  else if ex = 0 then .exact neg (if f.flushes then 0 else fr) (1 - (f.bias : Int) - f.fb)
  else .exact neg (fr + 2 ^ f.fb) ((ex : Int) - f.bias - f.fb)

/-- The canonical NaN (R63); E2M1 has none and takes +0. -/
def Fmt.nan (f : Fmt) : Nat :=
  if f.w = 4 then 0
  else if f.w = 8 then 0x7F
  else mask f.eb * 2 ^ f.fb + 2 ^ (f.fb - 1)

/-- The sign bit as part of an encoding. -/
def Fmt.sign (f : Fmt) (neg : Bool) : Nat := if neg then 2 ^ (f.w - 1) else 0

/-- The encoding of the largest finite magnitude (R67). -/
def Fmt.maxBits (f : Fmt) : Nat :=
  if f.inf then mask f.eb * 2 ^ f.fb - 1 else if f.w = 8 then 0x7E else 0x7

/-- Infinity, or the largest magnitude where the format has none (R67). -/
def Fmt.infBits (f : Fmt) (neg : Bool) : Nat :=
  f.sign neg + (if f.inf then mask f.eb * 2 ^ f.fb else f.maxBits)

/-- Rounding modes (R65): 0 RNE, 1 RTZ, 2 RUP, 3 RDN, 4 RSTO. -/
abbrev Mode := Nat

/-- What an overflow delivers (R67). -/
def Fmt.overflow (f : Fmt) (mode : Mode) (neg : Bool) : Nat :=
  let big := f.sign neg + f.maxBits
  match mode with
  | 1 => big
  | 2 => if neg then big else f.infBits false
  | 3 => if neg then f.infBits true else big
  | _ => f.infBits neg

/-- Does a magnitude round up?  It lies rem units of 2^−sh (or a little more) above an even or odd value; w holds the
24 random bits of RSTO (R65). -/
def roundUp (mode : Mode) (neg odd : Bool) (rem sh : Nat) (more : Bool) (w : Nat) : Bool :=
  let inexact := rem != 0 || more
  match mode with
  | 0 => decide (2 ^ sh < 2 * rem) || (decide (2 ^ sh = 2 * rem) && (more || odd))
  | 1 => false
  | 2 => inexact && !neg
  | 3 => inexact && neg
  | _ =>
    if !inexact then false
    else if neg then decide ((2 ^ 24 - w) * 2 ^ sh ≤ rem * 2 ^ 24)
    else if more then decide (w * 2 ^ sh ≤ rem * 2 ^ 24)
    else decide (w * 2 ^ sh < rem * 2 ^ 24)

/-- Round m × 2^e (or a little more) to a multiple of 2^q: the multiple. -/
def roundAt (mode : Mode) (neg : Bool) (m : Nat) (e : Int) (more : Bool) (w : Nat) (q : Int) : Nat :=
  if q ≤ e then m * 2 ^ (e - q).toNat
  else
    let sh := (q - e).toNat
    let lo := m / 2 ^ sh
    lo + b2n (roundUp mode neg (lo % 2 == 1) (m % 2 ^ sh) sh more w)

/-- Is m × 2^e (or a little more) above k × 2^q? -/
def above (m : Nat) (e : Int) (more : Bool) (k : Nat) (q : Int) : Bool :=
  let d := min e q
  let x := m * 2 ^ (e - d).toNat
  let y := k * 2 ^ (q - d).toNat
  decide (y < x) || (more && decide (y = x))

/-- Round a value into a format (R63, R65, R67); w holds the 24 random bits of RSTO. -/
def Fmt.round (f : Fmt) (mode : Mode) (w : Nat) (x : Num) : Nat :=
  match x with
  | .nan => f.nan
  | .inf neg => f.infBits neg
  | .fin neg m e more =>
    if m = 0 then f.sign neg
    else
      let lead : Int := (m.log2 : Int) + e
      let emin : Int := 1 - (f.bias : Int)
      let q : Int := (if f.flushes then lead else max lead emin) - f.fb
      let maxM := f.maxBits % 2 ^ f.fb + 2 ^ f.fb
      let maxQ : Int := ((f.maxBits / 2 ^ f.fb : Nat) : Int) - f.bias - f.fb
      if mode != 0 && above m e more maxM maxQ then f.overflow mode neg
      else
        let k := roundAt mode neg m e more w q
        let (k, q) : Nat × Int := if k = 2 ^ (f.fb + 1) then (2 ^ f.fb, q + 1) else (k, q)
        if above k q false maxM maxQ then f.overflow mode neg
        else if f.flushes && decide (q + f.fb < emin) then f.sign neg
        else if k < 2 ^ f.fb then f.sign neg + k
        else f.sign neg + (q + f.fb + f.bias).toNat * 2 ^ f.fb + (k - 2 ^ f.fb)

/-- Round to an integer of n bits, two's complement, saturated (R67, R68); NaN gives 0. -/
def roundInt (n : Nat) (mode : Mode) (w : Nat) (x : Num) : Nat :=
  let lo : Int := -((2 ^ (n - 1) : Nat) : Int)
  let hi : Int := ((2 ^ (n - 1) : Nat) : Int) - 1
  match x with
  | .nan => 0
  | .inf neg => wrapI (if neg then lo else hi) n
  | .fin neg m e more =>
    let k := roundAt mode neg m e more w 0
    let v : Int := if neg then -(k : Int) else k
    wrapI (max lo (min hi v)) n

/-! ### Exact arithmetic (R63) -/

/-- The sign of an exact zero sum (R63): both negative, or RDN and signs that differ. -/
def zeroSign (mode : Mode) (a b : Bool) : Bool := (a && b) || (mode == 3 && (a != b))

/-- The sum of two values; signed zeros as the mode says. -/
def Num.add (mode : Mode) (x y : Num) : Num :=
  match x, y with
  | .nan, _ => .nan
  | _, .nan => .nan
  | .inf a, .inf b => if a = b then .inf a else .nan
  | .inf a, _ => .inf a
  | _, .inf b => .inf b
  | .fin a m e _, .fin b k g _ =>
    let d := min e g
    let u : Int := (m * 2 ^ (e - d).toNat : Nat)
    let v : Int := (k * 2 ^ (g - d).toNat : Nat)
    let s : Int := (if a then -u else u) + (if b then -v else v)
    if s = 0 then .exact (if m = 0 && k = 0 then zeroSign mode a b else mode == 3) 0 d
    else .exact (decide (s < 0)) s.natAbs d

/-- The product of two values. -/
def Num.mul (x y : Num) : Num :=
  match x, y with
  | .nan, _ => .nan
  | _, .nan => .nan
  | .inf a, y => if y.isZero then .nan else .inf (a != y.neg)
  | x, .inf b => if x.isZero then .nan else .inf (x.neg != b)
  | .fin a m e _, .fin b k g _ => .exact (a != b) (m * k) (e + g)

/-- The quotient of two values, to 96 bits and a remainder mark. -/
def Num.div (x y : Num) : Num :=
  match x, y with
  | .nan, _ => .nan
  | _, .nan => .nan
  | .inf _, .inf _ => .nan
  | .inf a, y => .inf (a != y.neg)
  | x, .inf b => .exact (x.neg != b) 0 0
  | .fin a m e _, .fin b k g _ =>
    if k = 0 then (if m = 0 then .nan else .inf (a != b))
    else
      let sh := 96 + k.log2
      .fin (a != b) (m * 2 ^ sh / k) (e - g - sh) (m * 2 ^ sh % k != 0)

/-- The integer square root, found bit by bit from bit n − 1. -/
def isqrt (x : Nat) : Nat → Nat
  | 0 => 0
  | n + 1 =>
    let r := isqrt (x / 4) n * 2
    if (r + 1) * (r + 1) ≤ x then r + 1 else r

/-- Compare two values that are not NaN: is x < y (R161)?  Zeros are equal. -/
def Num.lt (x y : Num) : Bool :=
  match x, y with
  | .nan, _ => false
  | _, .nan => false
  | .inf a, .inf b => a && !b
  | .inf a, _ => a
  | _, .inf b => !b
  | .fin a m e _, .fin b k g _ =>
    let d := min e g
    let u : Int := (m * 2 ^ (e - d).toNat : Nat)
    let v : Int := (k * 2 ^ (g - d).toNat : Nat)
    decide ((if a then -u else u) < (if b then -v else v))

/-- Are two values equal, neither NaN?  Zeros are equal. -/
def Num.eq (x y : Num) : Bool := !x.isNan && !y.isNan && !(Num.lt x y) && !(Num.lt y x)

/-! ### Element formats of the vector unit (R153) -/

/-- An element format: a float format, or an integer of n bits. -/
inductive Elem where
  | flt (f : Fmt)
  | int (n : Nat)
  deriving DecidableEq, Repr

/-- The format of a code (R153). -/
def elemOf (code : Nat) : Elem :=
  match code with
  | 0 => .flt .fp32
  | 1 => .int 32
  | 2 => .flt .bf16
  | 3 => .flt .fp16
  | 4 => .int 16
  | 5 => .flt .e4m3
  | 6 => .int 8
  | 7 => .int 4
  | _ => .flt .e2m1

/-- Element width. -/
def Elem.w : Elem → Nat
  | .flt f => f.w
  | .int n => n

/-- The value of an element. -/
def Elem.read (t : Elem) (x : Nat) : Num :=
  match t with
  | .flt f => f.read x
  | .int n => .ofInt (sgn x n)

/-- Round a value into an element (R65 to R68). -/
def Elem.round (t : Elem) (mode : Mode) (w : Nat) (x : Num) : Nat :=
  match t with
  | .flt f => f.round mode w x
  | .int n => roundInt n mode w x

/-- FP32 operations that round to nearest even (R66). -/
def rne32 (x : Num) : Nat := Fmt.fp32.round 0 0 x
def f32 (x : Nat) : Num := Fmt.fp32.read x
def add32 (x y : Nat) : Nat := rne32 (Num.add 0 (f32 x) (f32 y))
def mul32 (x y : Nat) : Nat := rne32 (Num.mul (f32 x) (f32 y))

end Sys2Proof.Machine
end

