-- ==== Sys2Proof/Machine/LoadStore.lean ====
section
/-! DEFINITION. Loads, stores and line operations of ls0 and ls1 (R199 to R206). -/

namespace Sys2Proof.Machine

/-- Unit number and latches of ls u (R46). -/
def lsUnit (u : Fin 2) : Nat := 4 + u.val
def lsQ (u : Fin 2) : Nat := 4 + 2 * u.val
def lsQ2 (u : Fin 2) : Nat := 5 + 2 * u.val

/-- The L1 split of the issuing core. -/
def l1Code (m : Mach) : Nat := (m.core m.issue.core).l1

/-- May a fence hold ls accesses (R317, R319, R381)? -/
def FenceKind.holdsAccess (k : FenceKind) : Bool :=
  match k with
  | .fncx => false
  | .line _ => false
  | _ => true

/-- A fence of the same bundle holds later ls accesses: it completes before the access is made (R317, R319). -/
def awaitFences : M Unit := do
  let e ← read
  modify fun m =>
    if m.cur.fences.any fun f => f.kind.holdsAccess then finishFences e m.issue.ck m else m

/-- A peer package's refusal of an access that delivers a result is an APERTURE_FAULT at its slot (R215). -/
def peerAnswer (a : Acc) : M Unit := do
  match a.loc with
  | .peer _ _ _ _ =>
    let m ← get
    set { m with seed := m.seed + 1 }
    if Config.peerRefuses m.seed then trap Cause.aperture a.gaddr else pure ()
  | _ => pure ()

/-- The bytes of a location at its home, n of them within a line; a HIGH line is POISON (R377). -/
def readAtHome (a : Acc) (n : Nat) : M (List Byte) := do
  let e ← read
  let m ← get
  match a.loc with
  | .spad c o =>
    let (g, m) := spadRead e (lsAgent m m.issue.ck) c o m
    set m
    if g.sev = 3 then trap Cause.poison a.gaddr
    else pure (((bytesOf g.data 128).drop (o % 128)).take n)
  | .phys pa =>
    let (g, m) := homeRead e (lsAgent m m.issue.ck) a.legend (pa / 128) m
    set (traffic e m.issue.ck a.loc a.buf n m)
    if g.sev = 3 then trap Cause.poison a.gaddr
    else pure (((bytesOf g.data 128).drop (pa % 128)).take n)
  | .peer _ _ o _ =>
    peerAnswer a
    let (g, m) := peerGot (← get)
    set (traffic e m.issue.ck a.loc a.buf n (toPeer e m.issue.d a.loc [] m))
    if g.sev = 3 then trap Cause.poison a.gaddr
    else pure (((bytesOf g.data 128).drop (o % 128)).take n)

/-- Lay the context's own stores on their way, or held in its segment, over the bytes of a load (R187, R340).  What a load
of class 0, which is ordered with all others, has seen every later load sees (R187, R307). -/
def seenByContext (a : Acc) (sts : List PStore) (bs : List Byte) : M (List Byte) := do
  let met (s : PStore) : Bool := s.acls != 0 && s.overlaps a.loc bs.length
  let order (l : List PStore) : List PStore := l.map fun s => if met s then { s with acls := 0 } else s
  if a.acls == 0 && sts.any met then
    modify fun m => m.modCur fun c =>
      { c with stq := order c.stq, seg := c.seg.map fun s => { s with held := order s.held } }
  else pure ()
  pure (overlay sts a.acls a.loc bs)

/-- The stores held in the context's open segment. -/
def heldStores (m : Mach) : List PStore := match m.cur.seg with | some s => s.held | none => []

/-- Load n bytes (R187, R189, R201): from the bank, from the L1, or at the home when the core has no L1. -/
def loadBytes (a : Acc) (n : Nat) : M (List Byte) := do
  awaitFences
  let e ← read
  let m ← get
  let cached := match a.loc with | .spad _ _ => false | _ => l1Code m != 0
  if cached then
    let core := m.issue.core
    let hit := (sectorsOf a.loc n).all fun b => ((m.core core).sectors.find (sectorKey b)).isSome
    if hit then pure () else do
      peerAnswer a
      modify fun m => fillLine e m.issue.ck a true m
    modify fun m => repairSectors e m.issue.ck a n m
    let m ← get
    let (bs, bad) := l1Bytes m core a.loc n
    if bad then trap Cause.poison a.gaddr
    else seenByContext a (heldStores m) bs
  else
    let bs ← readAtHome a n
    let m ← get
    seenByContext a (m.cur.stq ++ heldStores m) bs

/-- Prepare a store of n bytes: sectors are filled and lines read, so that a HIGH line is POISON before any byte of
the operation is written (R189, R377, R378). -/
def storePrepare (a : Acc) (n : Nat) (uncached : Bool) : M Unit := do
  awaitFences
  let e ← read
  let m ← get
  match a.loc with
  | .spad c o =>
    let (g, m) := spadRead e (lsAgent m m.issue.ck) c o m
    set m
    if g.sev = 3 then trap Cause.poison a.gaddr else pure ()
  | l =>
    if l1Code m != 0 && !uncached then
      modify fun m =>
        repairSectors e m.issue.ck a n
          ((sectorsOf l n).foldl (fun m b => fillLine e m.issue.ck { a with loc := b } false m) m)
      let m ← get
      if (l1Bytes m m.issue.core l n).2 then trap Cause.poison a.gaddr else pure ()
    else
      match l with
      | .phys pa =>
        match dirtyCopy m (pa / 128) (pa % 128) n with
        | some y => if y.poisoned then trap Cause.poison a.gaddr else pure ()
        | none =>
          let (g, m) := homeRead e (lsAgent m m.issue.ck) a.legend (pa / 128) m
          set m
          if g.sev = 3 then trap Cause.poison a.gaddr else pure ()
      | _ => pure ()

/-- Put a store on its way to its home (R311): the number `no` among the free values is its own, and a further part of a
store has the same store number as the part before it. -/
def sendPart (e : Env) (ck : Nat) (a : Acc) (bs : List Byte) (no : Nat) (further : Bool) (m : Mach) : Mach :=
  m.modCtx ck fun c =>
    let id := if further then c.nextStore - 1 else c.nextStore
    let s : PStore :=
      { id := id, loc := a.loc, bytes := bs, cls := a.cls, acls := a.acls, gaddr := a.gaddr,
        legend := a.legend, buf := a.buf, sent := e.clk.cycle, no := no }
    { c with nextStore := id + 1, stq := c.stq ++ [s] }

/-- Put a store on its way to its home (R311). -/
def sendStore (e : Env) (ck : Nat) (a : Acc) (bs : List Byte) (m : Mach) : Mach :=
  sendPart e ck a bs m.seed false { m with seed := m.seed + 1 }

/-- Let a part of a store take effect at context scope (R187, R189, R304): in the L1, or on its way to its bank or home. -/
def partCommit (e : Env) (ck : Nat) (a : Acc) (bs : List Byte) (no : Nat) (further : Bool) (m : Mach) : Mach :=
  match a.loc with
  | .spad _ _ => sendPart e ck a bs no further m
  | l =>
    if (m.core (ctxCore ck)).l1 = 0 then sendPart e ck a bs no further (toPeer e (ctxDie ck) l bs m)
    else
      let m := (sectorsOf l bs.length).foldl (fun m b => fillLine e ck { a with loc := b } false m) m
      l1Merge e (ctxCore ck) ck a bs true m

/-- Let a store take effect at context scope.  Through an L1 later loads of any alias class see its bytes, and a load never
sees those of a later racing store (R187, R312; log entry 109). -/
def storeCommit (e : Env) (ck : Nat) (a : Acc) (bs : List Byte) (m : Mach) : Mach :=
  partCommit e ck a bs m.seed false { m with seed := m.seed + 1 }

/-- Hold a store of an open segment (R340), with the number by which racing loads see it or not (R307). -/
def holdStore (a : Acc) (bs : List Byte) : M Unit :=
  modify fun m =>
    let st : PStore := { id := 0, loc := a.loc, bytes := bs, cls := a.cls, acls := a.acls, gaddr := a.gaddr,
                         legend := a.legend, buf := a.buf, no := m.seed }
    let n : Mach := { m with seed := m.seed + 1 }
    n.modCur fun c => { c with seg := c.seg.map fun s => { s with held := s.held ++ [st] } }

/-- Take n entries of the segment's reservation; SEG_OVERFLOW when they exceed it (R340). -/
def takeEntries (n : Nat) (addr : W64) : M Unit := do
  let m ← get
  match m.cur.seg with
  | none => pure ()
  | some s =>
    if s.n < s.used + n then trap Cause.segOverflow addr
    else set (m.modCur fun c => { c with seg := c.seg.map fun s => { s with used := s.used + n } })

/-- What is left of a store but for its bytes among n at a location: parts that keep its number and are performed at once
(R305). -/
def PStore.outside (l : Loc) (n : Nat) (s : PStore) : List PStore :=
  match s.loc.dist l with
  | none => [s]
  | some d =>
    if !(s.overlaps l n) then [s]
    else
      let k := (d + n).toNat
      [{ s with bytes := s.bytes.take d.toNat },
       { s with loc := s.loc.at_ k, gaddr := addA s.gaddr (w64 k), bytes := s.bytes.drop k }].filter fun s => !s.bytes.isEmpty

/-- A store that takes effect while a segment is open, as a trap handler makes it, comes after the held ones: of its bytes
the segment holds no older value (R187, R340; log entry 63). -/
def supersede (a : Acc) (n : Nat) (m : Mach) : Mach :=
  if m.cur.seg.isNone then m
  else m.modCur fun c => { c with seg := c.seg.map fun s => { s with held := s.held.flatMap (PStore.outside a.loc n) } }

/-- Store bytes: held inside a segment, otherwise in effect at context scope (R201, R340). -/
def storeBytes (addr : W64) (parts : List (Acc × List Byte)) (entries : Nat) : M Unit := do
  let e ← read
  if inSegment (← get) then
    takeEntries entries addr
    parts.forM fun p => holdStore p.1 p.2
  else
    parts.forM fun p => storePrepare p.1 p.2.length false
    parts.forM fun p => modify fun m => storeCommit e m.issue.ck p.1 p.2 (supersede p.1 p.2.length m)

/-- The nominal latency of a result from memory (R200). -/
def loadLatency (m : Mach) (a : W64) : Nat :=
  match apOf a with
  | 1 => 4
  | 2 => if fld a.toNat 29 22 = m.issue.r then 4 else 16
  | _ => 10

/-- The buffer a load is charged to (R225): none for scratchpad. -/
def loadBuf (a : Acc) : List Nat := match a.loc with | .spad _ _ => [] | _ => [a.buf]

/-- Deliver loaded data; it may arrive later than it is due (R49, R200). -/
def loadResult (u : Fin 2) (a : Acc) (extra : Nat) (v : W512) : M Unit := do
  resultWith (lsQ u) (loadLatency (← get) a.gaddr + extra) v .data (loadBuf a)

/-- Load w bytes at a checked place, sign-extended to 64 bits or not. -/
def loadInto (u : Fin 2) (w : Nat) (signed : Bool) (a : Acc) : M Unit := do
  let x := ofBytes (← loadBytes a w)
  loadResult u a 0 (if signed then (w64I (sgn x (8 * w))).setWidth 512 else w512 x)

/-- A plain load of w bytes (R201). -/
def plainLoad (u : Fin 2) (w : Nat) (signed : Bool) (t : W64) : M Unit := do
  loadInto u w signed (← check .read w w t)

/-- A plain store of the low w bytes of port a (R201). -/
def plainStore (u : Fin 2) (w : Nat) (t : W64) : M Unit := do
  let a ← check .write w w t
  let v ← port (lsUnit u) 0
  storeBytes t [(a, bytesOf v.toNat w)] 1

/-- A load of w bytes that delivers the new address in ls.q2 (R202): port b is read before the access takes effect, so
that the slot is wholly done or wholly undone (R206). -/
def postLoad (u : Fin 2) (w : Nat) (t : W64) : M Unit := do
  let a ← check .read w w t
  let b ← port64 (lsUnit u) 1
  loadInto u w false a
  result64 (lsQ2 u) 1 (addA t b)

/-- A store of w bytes that delivers the new address in ls.q2 (R202, R206). -/
def postStore (u : Fin 2) (w : Nat) (t : W64) : M Unit := do
  let a ← check .write w w t
  let v ← port (lsUnit u) 0
  let b ← port64 (lsUnit u) 1
  storeBytes t [(a, bytesOf v.toNat w)] 1
  result64 (lsQ2 u) 1 (addA t b)

/-- R201 -/
def slotLsLdb (u : Fin 2) (t : Trig) : M Unit := do plainLoad u 1 true (← operand64 t.src)
/-- R201 -/
def slotLsLdbu (u : Fin 2) (t : Trig) : M Unit := do plainLoad u 1 false (← operand64 t.src)
/-- R201 -/
def slotLsLdh (u : Fin 2) (t : Trig) : M Unit := do plainLoad u 2 true (← operand64 t.src)
/-- R201 -/
def slotLsLdhu (u : Fin 2) (t : Trig) : M Unit := do plainLoad u 2 false (← operand64 t.src)
/-- R201 -/
def slotLsLdw (u : Fin 2) (t : Trig) : M Unit := do plainLoad u 4 true (← operand64 t.src)
/-- R201 -/
def slotLsLdwu (u : Fin 2) (t : Trig) : M Unit := do plainLoad u 4 false (← operand64 t.src)
/-- R201 -/
def slotLsLdd (u : Fin 2) (t : Trig) : M Unit := do plainLoad u 8 false (← operand64 t.src)
/-- R201 -/
def slotLsLdv (u : Fin 2) (t : Trig) : M Unit := do plainLoad u 64 false (← operand64 t.src)
/-- R201 -/
def slotLsStb (u : Fin 2) (t : Trig) : M Unit := do plainStore u 1 (← operand64 t.src)
/-- R201 -/
def slotLsSth (u : Fin 2) (t : Trig) : M Unit := do plainStore u 2 (← operand64 t.src)
/-- R201 -/
def slotLsStw (u : Fin 2) (t : Trig) : M Unit := do plainStore u 4 (← operand64 t.src)
/-- R201 -/
def slotLsStd (u : Fin 2) (t : Trig) : M Unit := do plainStore u 8 (← operand64 t.src)
/-- R201 -/
def slotLsStv (u : Fin 2) (t : Trig) : M Unit := do plainStore u 64 (← operand64 t.src)

/-- R202 -/
def slotLsLddi (u : Fin 2) (t : Trig) : M Unit := do postLoad u 8 (← operand64 t.src)

/-- R202 -/
def slotLsLdvi (u : Fin 2) (t : Trig) : M Unit := do postLoad u 64 (← operand64 t.src)

/-- R202 -/
def slotLsStdi (u : Fin 2) (t : Trig) : M Unit := do postStore u 8 (← operand64 t.src)

/-- R202 -/
def slotLsStvi (u : Fin 2) (t : Trig) : M Unit := do postStore u 64 (← operand64 t.src)

/-! ### Gather and scatter (R203) -/

/-- The control word of port c: element bytes and part; other values are illegal. -/
def gatherControl (u : Fin 2) : M (Nat × Nat) := do
  let c ← port64 (lsUnit u) 2
  let sz := c.toNat % 4
  let p := fld c.toNat 3 2
  require (fld c.toNat 63 4 == 0 && sz != 3 && decide (p < 4 >>> sz)) Cause.illegalSlot c
  pure (2 ^ sz, p)

/-- Step 5 of R186 for a read of n bytes: a load that is tried, of which only a failure stays. -/
def checkLegend (a : Acc) (n : Nat) : M Unit := do
  let e ← read
  match loadBytes a n e (← get) with
  | .ok _ _ => pure ()
  | .error st m => do
    set m
    throw st

/-- The elements that are not skipped, with their checked addresses: all checks come first, in ascending order, each
element's steps of R186 before the next element's. -/
def gatherCheck (k : Right) (t : W64) (offsets : W512) (w : Nat) : M (List (Nat × Acc)) :=
  ((List.range 16).filter fun j => laneN offsets.toNat 32 j != 0x80000000).mapM fun j => do
    let a ← check k w w (addA t (w64I (sgn (laneN offsets.toNat 32 j) 32)))
    if k = .read then checkLegend a w else pure ()
    pure (j, a)

/-- R203 -/
def slotLsGath (u : Fin 2) (t : Trig) : M Unit := do
  let x ← operand64 t.src
  let (w, p) ← gatherControl u
  let o ← port (lsUnit u) 0
  let es ← gatherCheck .read x o w
  let parts ← es.mapM fun (j, a) => do
    pure (ofBytes (← loadBytes a w) * 2 ^ (8 * w * (16 * p + j)))
  let m ← get
  resultWith (lsQ u) (loadLatency m x + 4) (w512 (parts.foldl (· + ·) 0)) .data
    (es.flatMap fun (_, a) => loadBuf a).eraseDups

/-- R203 -/
def slotLsScat (u : Fin 2) (t : Trig) : M Unit := do
  let x ← operand64 t.src
  let (w, p) ← gatherControl u
  let o ← port (lsUnit u) 1
  let es ← gatherCheck .write x o w
  let v ← port (lsUnit u) 0
  storeBytes x (es.map fun (j, a) => (a, bytesOf (laneN v.toNat (8 * w) (16 * p + j)) w)) 16

/-! ### Acquiring loads and releasing stores (R204, R305) -/

/-- Write back the own core's sector of a location and drop it, so that the bytes are read at their home (R219, R305). -/
def flushOwn (e : Env) (ck : Nat) (l : Loc) (m : Mach) : Mach :=
  match l with
  | .spad _ _ => m
  | l =>
    let m := writeBack e (ctxCore ck) (sectorKey l) m
    m.modCore (ctxCore ck) fun c => { c with sectors := c.sectors.del (sectorKey l) }

/-- R204: an 8-byte load at the home, then a die-scope acquire. -/
def slotLsLdaq (u : Fin 2) (t : Trig) : M Unit := do
  let x ← operand64 t.src
  let a ← check .read 8 8 x
  awaitFences
  let e ← read
  modify fun m => flushOwn e m.issue.ck a.loc m
  let bs ← readAtHome a 8
  let bs ← seenByContext a (← get).cur.stq bs
  modify fun m => acquireDie m.issue.ck m
  loadResult u a 0 (w512 (ofBytes bs))

/-- R204: a die-scope release, then an 8-byte store at the home. -/
def slotLsStrl (u : Fin 2) (t : Trig) : M Unit := do
  let x ← operand64 t.src
  let a ← check .write 8 8 x
  let v ← port64 (lsUnit u) 0
  let e ← read
  storePrepare a 8 true
  modify fun m =>
    let ck := m.issue.ck
    let m := flushOwn e ck a.loc (releaseDie e ck (supersede a 8 m))
    let m := sendStore e ck a (bytesOf v.toNat 8) (toPeer e (ctxDie ck) a.loc (bytesOf v.toNat 8) m)
    match a.loc with
    | .phys _ => if l1Code m = 0 then m else performAll e ck (fun s => s.id + 1 == (m.ctx ck).nextStore) m
    | _ => m

/-! ### Line operations (R205) -/

/-- The sector keys of the line that holds a location. -/
def lineKeys (l : Loc) : List Nat :=
  let base := sectorKey l / 8 * 8
  (List.range 8).map fun i => base + i

/-- Start filling a line into the L1, which then holds none of it HIGH; a peer package may refuse the access (R205, R215). -/
def prefetchLine (e : Env) (ck : Nat) (a : Acc) (m : Mach) : Mach :=
  let refused := a.loc.isPeer && Config.peerRefuses m.seed
  let m := if a.loc.isPeer then { m with seed := m.seed + 1 } else m
  if refused then m
  else
    (fillLine e ck a true m).modCore (ctxCore ck) fun c =>
      { c with sectors := c.sectors.filter fun p => p.2.dirty || !p.2.bad }

/-- R205: fills the line, or does nothing; it never faults. -/
def slotLsPref (u : Fin 2) (t : Trig) : M Unit := do
  let _ := u
  let x ← operand64 t.src
  let e ← read
  let m ← get
  let (r, m) := checkAcc e m.who .read 1 1 x m
  set m
  match r with
  | .ok a =>
    match a.loc with
    | .spad _ _ => pure ()
    | _ =>
      if l1Code m = 0 then pure ()
      else
        awaitFences
        modify fun m => prefetchLine e m.issue.ck a m
  | _ => pure ()

/-- The write-backs of a peer line that the contexts of a core have on their way, by context and store number. -/
def lineSent (m : Mach) (core : Nat) (l : Loc) : List (Nat × Nat) :=
  (List.range 4).flatMap fun x =>
    let ck := core * 4 + x
    ((m.ctx ck).stq.filter fun s => s.isPeer && (lineKeys l).contains (sectorKey s.loc)).map fun s => (ck, s.id)

/-- Deliver the 0 of a line operation once the write-backs on their way are acknowledged (R205). -/
def lineResult (u : Fin 2) (sent : List (Nat × Nat)) : M Unit := do
  if sent.isEmpty then resultWith (lsQ2 u) 10 0 .data []
  else
    let n := (← get).cur.nextFence
    modify fun m => m.modCur fun c =>
      { c with nextFence := n + 1, fences := c.fences ++ [⟨n, .line sent, c.nextStore⟩] }
    resultWith (lsQ2 u) 10 0 (.fence n) []

/-- Write back the dirty sectors of the line of t, and invalidate the line when asked (R205): t is checked as a 1-byte
load, for L and C its steps 1 to 3 alone. -/
def lineOp (u : Fin 2) (t : W64) (drop : Bool) : M Unit := do
  let a ← check .read 1 1 t
  match a.loc with
  | .spad _ _ => lineResult u []
  | l =>
    checkLegend a 1
    awaitFences
    let e ← read
    modify fun m =>
      let core := m.issue.core
      let m := (lineKeys l).foldl (fun m k => writeBack e core k m) m
      if drop then m.modCore core fun c => { c with sectors := c.sectors.filter fun p => !((lineKeys l).contains p.1) }
      else m
    let m ← get
    lineResult u (lineSent m m.issue.core l)

/-- R205 -/
def slotLsWbk (u : Fin 2) (t : Trig) : M Unit := do lineOp u (← operand64 t.src) false
/-- R205 -/
def slotLsInv (u : Fin 2) (t : Trig) : M Unit := do lineOp u (← operand64 t.src) true

/-! ### Atomics (R218 to R220) -/

/-- The control word of an atomic in port c: unsigned, order, width in bytes (R218, R219). -/
def atomicControl (u : Fin 2) (mayUns needs4 : Bool) : M (Bool × Nat × Nat) := do
  let c ← port64 (lsUnit u) 2
  let x := c.toNat
  require (fld x 63 4 == 0 && (mayUns || !(tst x 3)) && (!needs4 || tst x 0)) Cause.illegalSlot c
  pure (tst x 3, fld x 2 1, if tst x 0 then 4 else 8)

/-- The smaller or larger of two n-bit values, signed or unsigned. -/
def pick (uns larger : Bool) (n x y : Nat) : Nat :=
  let less := if uns then decide (x < y) else decide (sgn x n < sgn y n)
  if less != larger then x else y

/-- The new value of an atomic (R218): old, operand and expected value of n bits. -/
def atomicNew (op : AtomOp) (n old a b : Nat) : Nat :=
  match op with
  | .add => (old + a) % 2 ^ n
  | .min uns => pick uns false n old a
  | .max uns => pick uns true n old a
  | .and => old &&& a
  | .or => old ||| a
  | .xchg => a
  | .cas => if old = b then a else old
  | .fadd => add32 old a

/-- An atomic (R219): read, changed and written at the home slice in one step.  Port b is an operand of acas alone
(R218), and the others ignore it (R40). -/
def atomic (u : Fin 2) (t : Trig) (mayUns needs4 : Bool) (op : Bool → AtomOp) : M Unit := do
  let x ← operand64 t.src
  let (uns, ord, w) ← atomicControl u mayUns needs4
  if apOf x = 1 || apOf x = 2 then trap Cause.aperture x else pure ()
  let a ← check .both w w x
  let va ← port (lsUnit u) 0
  let vb ← match op uns with
    | .cas => port (lsUnit u) 1
    | _ => pure 0
  awaitFences
  let e ← read
  if tst ord 1 then modify fun m => releaseDie e m.issue.ck m else pure ()
  modify fun m => performAll e m.issue.ck (fun s => !s.isPeer && s.overlaps a.loc w) (flushOwn e m.issue.ck a.loc m)
  let old := ofBytes (← seenByContext a (← get).cur.stq (← readAtHome a w))
  let new := atomicNew (op uns) (8 * w) old (va.toNat % 2 ^ (8 * w)) (vb.toNat % 2 ^ (8 * w))
  modify fun m =>
    let m := supersede a w m
    match a.loc with
    | .phys pa =>
      traffic e m.issue.ck a.loc a.buf w (homeWrite e (lsAgent m m.issue.ck) a.legend pa (bytesOf new w) m).2
    | l => traffic e m.issue.ck l a.buf w m
  resultWith (lsQ u) 40 (w512 old) .data (loadBuf a)
  if tst ord 0 then modify fun m => acquireDie m.issue.ck m else pure ()

/-- R218 -/
def slotLsAadd (u : Fin 2) (t : Trig) : M Unit := atomic u t false false fun _ => .add
/-- R218 -/
def slotLsAmin (u : Fin 2) (t : Trig) : M Unit := atomic u t true false fun uns => .min uns
/-- R218 -/
def slotLsAmax (u : Fin 2) (t : Trig) : M Unit := atomic u t true false fun uns => .max uns
/-- R218 -/
def slotLsAand (u : Fin 2) (t : Trig) : M Unit := atomic u t false false fun _ => .and
/-- R218 -/
def slotLsAor (u : Fin 2) (t : Trig) : M Unit := atomic u t false false fun _ => .or
/-- R218 -/
def slotLsAxch (u : Fin 2) (t : Trig) : M Unit := atomic u t false false fun _ => .xchg
/-- R218 -/
def slotLsAcas (u : Fin 2) (t : Trig) : M Unit := atomic u t false false fun _ => .cas
/-- R218 -/
def slotLsAfadd (u : Fin 2) (t : Trig) : M Unit := atomic u t false true fun _ => .fadd

/-- LS_LDB: Loads a byte, sign-extended. (R201) -/
def execLsLdb (u : Fin 2) (t : Trig) (s : State) : Out :=
  slotStep (.lsLdb u t) t.guard (slotLsLdb u t) s

/-- LS_LDBU: Loads a byte, zero-extended. (R201) -/
def execLsLdbu (u : Fin 2) (t : Trig) (s : State) : Out :=
  slotStep (.lsLdbu u t) t.guard (slotLsLdbu u t) s

/-- LS_LDH: Loads a halfword, sign-extended. (R201) -/
def execLsLdh (u : Fin 2) (t : Trig) (s : State) : Out :=
  slotStep (.lsLdh u t) t.guard (slotLsLdh u t) s

/-- LS_LDHU: Loads a halfword, zero-extended. (R201) -/
def execLsLdhu (u : Fin 2) (t : Trig) (s : State) : Out :=
  slotStep (.lsLdhu u t) t.guard (slotLsLdhu u t) s

/-- LS_LDW: Loads a word, sign-extended. (R201) -/
def execLsLdw (u : Fin 2) (t : Trig) (s : State) : Out :=
  slotStep (.lsLdw u t) t.guard (slotLsLdw u t) s

/-- LS_LDWU: Loads a word, zero-extended. (R201) -/
def execLsLdwu (u : Fin 2) (t : Trig) (s : State) : Out :=
  slotStep (.lsLdwu u t) t.guard (slotLsLdwu u t) s

/-- LS_LDD: Loads a doubleword. (R201) -/
def execLsLdd (u : Fin 2) (t : Trig) (s : State) : Out :=
  slotStep (.lsLdd u t) t.guard (slotLsLdd u t) s

/-- LS_LDV: Loads 64 bytes into the 512-bit latch. (R201) -/
def execLsLdv (u : Fin 2) (t : Trig) (s : State) : Out :=
  slotStep (.lsLdv u t) t.guard (slotLsLdv u t) s

/-- LS_STB: Stores a byte from port a. (R201) -/
def execLsStb (u : Fin 2) (t : Trig) (s : State) : Out :=
  slotStep (.lsStb u t) t.guard (slotLsStb u t) s

/-- LS_STH: Stores a halfword from port a. (R201) -/
def execLsSth (u : Fin 2) (t : Trig) (s : State) : Out :=
  slotStep (.lsSth u t) t.guard (slotLsSth u t) s

/-- LS_STW: Stores a word from port a. (R201) -/
def execLsStw (u : Fin 2) (t : Trig) (s : State) : Out :=
  slotStep (.lsStw u t) t.guard (slotLsStw u t) s

/-- LS_STD: Stores a doubleword from port a. (R201) -/
def execLsStd (u : Fin 2) (t : Trig) (s : State) : Out :=
  slotStep (.lsStd u t) t.guard (slotLsStd u t) s

/-- LS_STV: Stores 64 bytes from port a. (R201) -/
def execLsStv (u : Fin 2) (t : Trig) (s : State) : Out :=
  slotStep (.lsStv u t) t.guard (slotLsStv u t) s

/-- LS_LDDI: Loads a doubleword and delivers the post-incremented address. (R202) -/
def execLsLddi (u : Fin 2) (t : Trig) (s : State) : Out :=
  slotStep (.lsLddi u t) t.guard (slotLsLddi u t) s

/-- LS_LDVI: Loads 64 bytes and delivers the post-incremented address. (R202) -/
def execLsLdvi (u : Fin 2) (t : Trig) (s : State) : Out :=
  slotStep (.lsLdvi u t) t.guard (slotLsLdvi u t) s

/-- LS_STDI: Stores a doubleword and delivers the post-incremented address. (R202) -/
def execLsStdi (u : Fin 2) (t : Trig) (s : State) : Out :=
  slotStep (.lsStdi u t) t.guard (slotLsStdi u t) s

/-- LS_STVI: Stores 64 bytes and delivers the post-incremented address. (R202) -/
def execLsStvi (u : Fin 2) (t : Trig) (s : State) : Out :=
  slotStep (.lsStvi u t) t.guard (slotLsStvi u t) s

/-- LS_GATH: Gathers 16 elements at signed offsets into one part of the latch. (R203) -/
def execLsGath (u : Fin 2) (t : Trig) (s : State) : Out :=
  slotStep (.lsGath u t) t.guard (slotLsGath u t) s

/-- LS_SCAT: Scatters 16 elements to signed offsets. (R203) -/
def execLsScat (u : Fin 2) (t : Trig) (s : State) : Out :=
  slotStep (.lsScat u t) t.guard (slotLsScat u t) s

/-- LS_LDAQ: Loads a doubleword with die-scope acquire. (R204) -/
def execLsLdaq (u : Fin 2) (t : Trig) (s : State) : Out :=
  slotStep (.lsLdaq u t) t.guard (slotLsLdaq u t) s

/-- LS_STRL: Stores a doubleword with die-scope release. (R204) -/
def execLsStrl (u : Fin 2) (t : Trig) (s : State) : Out :=
  slotStep (.lsStrl u t) t.guard (slotLsStrl u t) s

/-- LS_PREF: Starts filling a line into the L1. (R205) -/
def execLsPref (u : Fin 2) (t : Trig) (s : State) : Out :=
  slotStep (.lsPref u t) t.guard (slotLsPref u t) s

/-- LS_WBK: Writes back the dirty sectors of a line. (R205) -/
def execLsWbk (u : Fin 2) (t : Trig) (s : State) : Out :=
  slotStep (.lsWbk u t) t.guard (slotLsWbk u t) s

/-- LS_INV: Writes back and then invalidates a line. (R205) -/
def execLsInv (u : Fin 2) (t : Trig) (s : State) : Out :=
  slotStep (.lsInv u t) t.guard (slotLsInv u t) s

/-- LS_AADD: Atomic add at the home slice, returning the old value. (R219) -/
def execLsAadd (u : Fin 2) (t : Trig) (s : State) : Out :=
  slotStep (.lsAadd u t) t.guard (slotLsAadd u t) s

/-- LS_AMIN: Atomic minimum at the home slice. (R219) -/
def execLsAmin (u : Fin 2) (t : Trig) (s : State) : Out :=
  slotStep (.lsAmin u t) t.guard (slotLsAmin u t) s

/-- LS_AMAX: Atomic maximum at the home slice. (R219) -/
def execLsAmax (u : Fin 2) (t : Trig) (s : State) : Out :=
  slotStep (.lsAmax u t) t.guard (slotLsAmax u t) s

/-- LS_AAND: Atomic AND at the home slice. (R219) -/
def execLsAand (u : Fin 2) (t : Trig) (s : State) : Out :=
  slotStep (.lsAand u t) t.guard (slotLsAand u t) s

/-- LS_AOR: Atomic OR at the home slice. (R219) -/
def execLsAor (u : Fin 2) (t : Trig) (s : State) : Out :=
  slotStep (.lsAor u t) t.guard (slotLsAor u t) s

/-- LS_AXCH: Atomic exchange at the home slice. (R219) -/
def execLsAxch (u : Fin 2) (t : Trig) (s : State) : Out :=
  slotStep (.lsAxch u t) t.guard (slotLsAxch u t) s

/-- LS_ACAS: Atomic compare-and-swap at the home slice. (R219) -/
def execLsAcas (u : Fin 2) (t : Trig) (s : State) : Out :=
  slotStep (.lsAcas u t) t.guard (slotLsAcas u t) s

/-- LS_AFADD: Atomic FP32 add at the home slice. (R219) -/
def execLsAfadd (u : Fin 2) (t : Trig) (s : State) : Out :=
  slotStep (.lsAfadd u t) t.guard (slotLsAfadd u t) s
end Sys2Proof.Machine
end

