-- ==== Sys2Proof/Machine/System.lean ====
section
/-! DEFINITION. The system unit sy: control and status registers, fences, region legends, settings, flares and event
records (R122, R123, R131, R152, R156, R223, R225, R316 to R320, R336, R381, R394, R404, R408, R409). -/

namespace Sys2Proof.Machine

/-- Deliver to sy.q (R131). -/
def syResult (lat : Nat) (v : W64) : M Unit := result64 16 lat v

/-! ### Control and status registers -/

/-- `die.count` (R20). -/
def dieCountWord (e : Env) : W64 := w64 (e.boot.active.toNat * 2 ^ 16 + e.dieCount)

/-- `slip.count` (R223). -/
def Die.slip (x : Die) : W64 := w64 (x.slipLate * 2 ^ 32 + x.slipWorst)

/-- `flare.cfg` (R408). -/
def Die.flareCfg (x : Die) : W64 :=
  w64 (b2n x.flFired * 2 ^ 32 + x.flTag * 2 ^ 16 + x.flSource * 2 ^ 12 + x.flOn * 2 ^ 8 + b2n x.flTstop * 4
    + b2n x.flUser * 2 + b2n x.flArm)

/-- The value of a CSR for the issuing context (R122), none for a reserved number.  What a done slot of the bundle has
written shows in the bundles after it alone (R131); of rmode the counter is the one that the lower slots have advanced
(R155; log entry 95). -/
def readCsr (e : Env) (m : Mach) (n : Nat) : Option W64 :=
  let c := m.cur
  let o := m.issue.oldCsr.getD c.csr
  let x := m.die m.issue.d
  match n with
  | 0x000 => some { c with csr := { c.csr with uien := o.uien, uimask := o.uimask } }.uistat
  | 0x001 => some (o.uivec.setWidth 64)
  | 0x002 => some (c.csr.uiepc.setWidth 64)
  | 0x010 => some c.csr.vfmt
  | 0x011 => some c.csr.rmode
  | 0x020 => some (w64 o.sqlen)
  | 0x021 => some (o.seedA.setWidth 64)
  | 0x022 => some (o.seedB.setWidth 64)
  | 0x030 => some (o.waitTo.setWidth 64)
  | 0x031 => some (c.csr.wdLimit.setWidth 64)
  | 0x040 => some (w64 c.csr.spadBase)
  | 0x041 => some (w64 c.csr.spadSize)
  | 0x042 => some c.csr.ntrange
  | 0x100 => some c.csr.tstat
  | 0x101 => some c.csr.tbundle
  | 0x102 => some (w64 c.csr.tslot)
  | 0x103 => some (c.csr.tdone.setWidth 64)
  | 0x104 => some (c.csr.tcause.setWidth 64)
  | 0x105 => some c.csr.tval
  | 0x106 => some (x.tvec.setWidth 64)
  | 0x107 => some (w64 x.frameBase)
  | 0x108 => some c.csr.tscr0
  | 0x109 => some c.csr.tscr1
  | 0x10A => some c.csr.tscr2
  | 0x10B => some c.csr.tscr3
  | 0x200 => some (dieCountWord e)
  | 0x201 => some (w64 x.didt)
  | 0x202 => some x.slip
  | 0x203 => some x.flareCfg
  | n =>
    if 0x600 ≤ n ∧ n < 0x800 then some (m.hot.get 0 (hotKey m.issue.d (n - 0x600))) else none

/-- CSRs marked "none" for user privilege (R122). -/
def supervisorOnly (n : Nat) : Bool := decide (0x100 ≤ n ∧ n ≤ 0x10B) || n == 0x203

/-- CheckAccess (R131): a reserved number is illegal, a denied access is PRIV; answers the CSR's value. -/
def csrAccess (n : W64) : M W64 := do
  require (fld n.toNat 63 12 == 0) Cause.illegalSlot n
  let e ← read
  let m ← get
  match readCsr e m n.toNat with
  | none => trap Cause.illegalSlot n
  | some v =>
    require (!(m.user && supervisorOnly n.toNat)) Cause.priv n
    pure v

/-- Does a supervisor's write hold a value that the setting instruction rejects (R122)? -/
def rejectedValue (n v : Nat) : Bool :=
  (n == 0x010 && decide (8 < v % 16)) || (n == 0x011 && decide (4 < v % 8))
    || (n == 0x020 && (decide (v % 16 < 4) || decide (12 < v % 16)))

/-- A sy.csrw asks for its write, which acts for the bundles that issue after this one (R131): the settings of R154 and
the rounding counter have places of their own. -/
def writeCsr (n v : Nat) (m : Mach) : Mach :=
  if n = 0x010 then
    if m.user then m
    else m.modIssue fun i => { i with newFmt := some (v % 16), newSeed := some (BitVec.ofNat 32 (v >>> 32)) }
  else if n = 0x011 then
    if m.user then m
    else m.modIssue fun i => { i with newMode := some (v % 8), rctr := some (BitVec.ofNat 40 (v >>> 24)) }
  else requestCsr n v false m

/-- R131 -/
def slotSyCsrr (t : Trig) : M Unit := do
  let n ← operand64 t.src
  syResult 2 (← csrAccess n)

/-- R131: delivers the old value. -/
def slotSyCsrw (t : Trig) : M Unit := do
  let n ← operand64 t.src
  let old ← csrAccess n
  let v ← port64 13 0
  require ((← get).user || !(rejectedValue n.toNat v.toNat)) Cause.illegalSlot v
  syResult 2 old
  modify (writeCsr n.toNat v.toNat)

/-- R131: enables or disables user interrupts, for the bundles that issue after this one. -/
def slotSyUie (t : Trig) : M Unit := do
  let x ← operand64 t.src
  let a ← port64 13 0
  require (fld x.toNat 63 7 == 0) Cause.illegalSlot x
  require (!(tst x.toNat 0) || (fld a.toNat 63 48 == 0 && fld a.toNat 4 0 == 0)) Cause.align a
  syResult 2 (← get).cur.uistat
  if tst x.toNat 0 then modify (requestCsr 0x001 a.toNat true)
  modify (requestCsr 0x000 x.toNat true)

/-! ### Settings of the vector units (R156) -/

/-- R156: a control word; the settings act for the bundles that issue after this one (R154).  It delivers the settings as they
stand at its issue, also in a bundle that issues again (log entry 111). -/
def slotSySetv (t : Trig) : M Unit := do
  let src ← operand64 t.src
  let x := src.toNat
  require (fld x 63 16 == 0 && fld x 14 11 == 0 && fld x 6 4 == 0) Cause.illegalSlot src
  require (!(tst x 7) || decide (fld x 3 0 ≤ 8)) Cause.illegalSlot src
  require (!(tst x 15) || decide (fld x 10 8 ≤ 4)) Cause.illegalSlot src
  let c := (← get).cur.csr
  syResult 2 (w64 (c.mode * 2 ^ 8 + c.fmt))
  modify fun m => m.modIssue fun i =>
    { i with newFmt := if tst x 7 then some (fld x 3 0) else i.newFmt,
             newMode := if tst x 15 then some (fld x 10 8) else i.newMode }

/-- R156: sets the key and the counter, which act after the bundle's advances (R155); delivers the key as it
stands at its issue (log entry 111). -/
def slotSySeed (t : Trig) : M Unit := do
  let src ← operand64 t.src
  let a ← port64 13 0
  require (fld src.toNat 63 32 == 0) Cause.illegalSlot src
  require (fld a.toNat 63 40 == 0) Cause.illegalSlot a
  syResult 2 ((← get).cur.csr.seed.setWidth 64)
  modify fun m => m.modIssue fun i => { i with newSeed := some (src.setWidth 32), rctr := some (a.setWidth 40) }

/-! ### Fences (R316 to R320) -/

/-- Put a fence in force; sy.q receives v when it completes. -/
def startFence (k : FenceKind) (v : W64) : M Unit := do
  let e ← read
  let m ← get
  let c := m.cur
  set (m.modCur fun c =>
    { c with nextFence := c.nextFence + 1, fences := c.fences ++ [⟨c.nextFence, k, c.nextStore⟩] })
  resultWith 16 2 (v.setWidth 512) (.fence c.nextFence) []
  modify fun m => settleFences e m.issue.ck m

/-- R317 -/
def slotSyFnc (t : Trig) : M Unit := do
  let src ← operand64 t.src
  let x := src.toNat
  require (fld x 63 6 == 0 && fld x 3 2 == 0 && fld x 1 0 != 3 && fld x 5 4 != 0) Cause.illegalSlot src
  startFence (.fnc (fld x 1 0) (tst x 4) (tst x 5)) 0

/-- The peer packages answer the context's stores that the fence waits for, those of lower slots among them, so that a
refusal is raised at the fence's own slot (R215, R318, R319; log entry 15). -/
def answerPeers : M Unit := do
  let e ← read
  modify fun m => settlePeerStores e m.issue.ck (writeBackPeers e m.issue.core m)

/-- The earliest refused store of a kind-2 handle is raised, once, where a fence waits for it (R215). -/
def raiseRefusal : M Unit := do
  let m ← get
  match m.cur.refusals with
  | [] => pure ()
  | x :: r =>
    set (m.modCur fun c => { c with refusals := [] })
    trap Cause.aperture (r.foldl (fun b y => if y.1 < b.1 then y else b) x).2

/-- R318 -/
def slotSyFncx (t : Trig) : M Unit := do
  let src ← operand64 t.src
  require (src == 0) Cause.illegalSlot src
  answerPeers
  raiseRefusal
  startFence .fncx 0

/-- R319 -/
def slotSyFncp (t : Trig) : M Unit := do
  let src ← operand64 t.src
  require (src == 0) Cause.illegalSlot src
  answerPeers
  raiseRefusal
  startFence .fncp 0

/-- An engine command after a package fence or a sy.fncx of the same bundle waits for it (R318, R319). -/
def awaitCommandFences : M Unit := do
  let e ← read
  modify fun m =>
    if m.cur.fences.any fun f => f.kind == .fncx || f.kind == .fncp then finishFences e m.issue.ck m else m

/-! ### Region legends (R381) -/

/-- The lines between two line numbers of which a byte or a check byte is listed. -/
def linesListed (mem chk : Memory) (lo hi : Nat) : List Nat :=
  ((mem.map fun (p : Nat × Byte) => p.1 / 128) ++ (chk.map fun (p : Nat × Byte) => p.1 / 16)).filter (fun l => decide (lo ≤ l) && decide (l < hi))
    |>.eraseDups

/-- Bring one scratchpad line under a new legend (R381): poison stays. -/
def relegendLine (e : Env) (ag : Agent) (core leg la : Nat) (m : Mach) : Mach :=
  let (g, m) := spadRead e ag core (la % 2 ^ 15 * 128) m
  if g.sev = 3 then m else setSpadLine la g.data (checkBits leg g.data) m

/-- Declare n regions of a core from a physical offset (R381). -/
def relegend (e : Env) (ag : Agent) (core off n leg : Nat) (zero : Bool) (m : Mach) : Mach :=
  let lo := spadAddr core off / 128
  let hi := lo + n * 512
  let m :=
    if zero then
      { m with spad := m.spad.filter fun (p : Nat × Byte) => decide (p.1 / 128 < lo) || decide (hi ≤ p.1 / 128),
               spadChk := m.spadChk.filter fun (p : Nat × Byte) => decide (p.1 / 16 < lo) || decide (hi ≤ p.1 / 16) }
    else (linesListed m.spad m.spadChk lo hi).foldl (fun m la => relegendLine e ag core leg la m) m
  m.modCore core fun c =>
    { c with regions := (List.range n).foldl (fun r k => r.put (off / 65536 + k) leg) c.regions }

/-- The physical place of the first region: core and offset, when every byte of n regions exists (R186 steps 1, 3). -/
def layoPlace (m : Mach) (t : W64) (n : Nat) : Option (Nat × Nat) :=
  let x := fld t.toNat 21 0
  if !(wellFormedAddr t) then none
  else if apOf t = 1 then
    if x + n * 65536 ≤ m.cur.csr.spadSize then some (m.issue.core, m.cur.csr.spadBase + x) else none
  else if apOf t = 2 then
    let r := fld t.toNat 29 22
    let core := coreKey m.issue.d r
    if r ≤ 191 ∧ x + n * 65536 ≤ spadBytes (m.core core).l1 then some (core, x) else none
  else none

/-- R381: every earlier store of the context is performed at core scope before the lines are converted. -/
def slotSyLayo (t : Trig) : M Unit := do
  let x ← operand64 t.src
  let a ← port64 13 0
  let n := a.toNat % 64
  let leg := fld a.toNat 11 8
  require (fld a.toNat 63 17 == 0 && fld a.toNat 15 12 == 0 && fld a.toNat 7 6 == 0 && n != 0 && decide (n ≤ 40)
    && decide (leg ≤ 9)) Cause.illegalSlot a
  match layoPlace (← get) x n with
  | none => trap Cause.aperture x
  | some (core, off) =>
    require (off % 65536 == 0) Cause.align x
    let e ← read
    let m ← get
    let old := spadLegend m core off
    let m := settleToCore e m.issue.ck m
    set (relegend e ⟨9, m.issue.d, m.cur.frame⟩ core off n leg (tst a.toNat 16) m)
    startFence (.layo (e.clk.cycle + n * 128)) (w64 old)

/-! ### Flares and event records (R394, R409) -/

/-- R409 -/
def slotSyFlar (t : Trig) : M Unit := do
  let x ← operand64 t.src
  require (fld x.toNat 63 16 == 0) Cause.illegalSlot x
  let m ← get
  let d := m.issue.d
  let y := m.die d
  require (!m.user || y.flUser) Cause.priv x
  if !y.flArm || y.flFired then syResult 2 1
  else do
    let e ← read
    modify (flare e d x.toNat 0)
    syResult 2 0

/-- Record types that a task at user privilege may read (R393). -/
def publicRecord (type : Nat) : Bool := type == 0x10 || type == 0x20 || type == 0x21 || type == 0x31

/-- What sy.evr finds (R394): a status, or a record with its number. -/
def findRecord (x : Die) (user : Bool) (t : Nat) : W64 ⊕ (W512 × Nat) :=
  let n := x.evCount.toNat
  let number (k : Nat) : Nat := (n + 2 ^ 32 - 1 - k) % 2 ^ 32
  let want (r : EvRec) : Bool := (fld t 47 40 == 0 || r.type == fld t 47 40) && (!user || publicRecord r.type)
  let s := if tst t 32 then (x.evStore.findIdx? want).map number else some (t % 2 ^ 32)
  match s with
  | none => .inl statusEmpty
  | some s =>
    let back := (n + 2 ^ 32 - s) % 2 ^ 32
    if back = 0 ∨ 2 ^ 31 ≤ back then .inl statusEmpty
    else
      match (if 256 < back then none else x.evStore[back - 1]?) with
      | none => .inl statusTerm
      | some r => if user && !publicRecord r.type then .inl statusTerm else .inr (r.data, s)

/-- R394: copies a record to scratchpad. -/
def slotSyEvr (t : Trig) : M Unit := do
  let src ← operand64 t.src
  let x := src.toNat
  require (fld x 63 48 == 0 && fld x 39 33 == 0 && (!(tst x 32) || fld x 31 0 == 0)) Cause.illegalSlot src
  let dst ← port64 13 0
  require (apOf dst == 1 || apOf dst == 2) Cause.aperture dst
  let a ← check .write 64 64 dst
  let m ← get
  match findRecord (m.die m.issue.d) m.user x with
  | .inl st => syResult 8 st
  | .inr (data, s) =>
    storePrepare a 64 false
    let e ← read
    modify fun m => storeCommit e m.issue.ck a (bytesOf data.toNat 64) m
    syResult 8 (w64 s)

/-- SY_CSRR: Reads a CSR. (R131) -/
def execSyCsrr (t : Trig) (s : State) : Out :=
  slotStep (.syCsrr t) t.guard (slotSyCsrr t) s

/-- SY_CSRW: Writes a CSR and delivers its old value. (R131) -/
def execSyCsrw (t : Trig) (s : State) : Out :=
  slotStep (.syCsrw t) t.guard (slotSyCsrw t) s

/-- SY_FNC: Fence with acquire and release parts at context, core or die scope. (R317) -/
def execSyFnc (t : Trig) (s : State) : Out :=
  slotStep (.syFnc t) t.guard (slotSyFnc t) s

/-- SY_FNCX: Orders earlier stores before later engine and array commands. (R318) -/
def execSyFncx (t : Trig) (s : State) : Out :=
  slotStep (.syFncx t) t.guard (slotSyFncx t) s

/-- SY_FNCP: Package-scope fence. (R319) -/
def execSyFncp (t : Trig) (s : State) : Out :=
  slotStep (.syFncp t) t.guard (slotSyFncp t) s

/-- SY_LAYO: Declares the legend of scratchpad regions. (R381) -/
def execSyLayo (t : Trig) (s : State) : Out :=
  slotStep (.syLayo t) t.guard (slotSyLayo t) s

/-- SY_SETV: Sets the vector format and rounding mode. (R156) -/
def execSySetv (t : Trig) (s : State) : Out :=
  slotStep (.sySetv t) t.guard (slotSySetv t) s

/-- SY_FLAR: Raises a flare. (R409) -/
def execSyFlar (t : Trig) (s : State) : Out :=
  slotStep (.syFlar t) t.guard (slotSyFlar t) s

/-- SY_UIE: Sets the user-interrupt enable, mask and vector. (R131) -/
def execSyUie (t : Trig) (s : State) : Out :=
  slotStep (.syUie t) t.guard (slotSyUie t) s

/-- SY_SEED: Sets the random generator's key and counter. (R156) -/
def execSySeed (t : Trig) (s : State) : Out :=
  slotStep (.sySeed t) t.guard (slotSySeed t) s

/-- SY_EVR: Copies an event record to scratchpad. (R394) -/
def execSyEvr (t : Trig) (s : State) : Out :=
  slotStep (.syEvr t) t.guard (slotSyEvr t) s
end Sys2Proof.Machine
end

