-- ==== Sys2Proof/Machine/Vector.lean ====
section
/-! DEFINITION. The vector units vx0 and vx1 and the random generator (R151 to R166, R173). -/

namespace Sys2Proof.Machine

/-! ### The random generator (R173) -/

/-- One round of the generator. -/
def randRound (s z k m : Nat) : Nat :=
  let z := (z + s * k) % 2 ^ 64
  let z := z ^^^ (z >>> 31)
  z * m % 2 ^ 64

/-- Rand(s, j, n) (R173). -/
def rand (s j n : Nat) : Nat :=
  let z := (j * 2 ^ 40 + n) % 2 ^ 64
  let z := randRound s z 0x5A3C91E70D6B24F1 0xB3A57E12C94D6F29
  let z := randRound s z 0xC1F06E29B8743D05 0x7F4C0D91E6B328A5
  let z := randRound s z 0x2E95D34A71C80B6F 0xE91D4B763A5FC08B
  let z := randRound s z 0x8D07A5B24F1EC963 0x5C62F3A817D9B4E3
  z ^^^ (z >>> 29)

/-! ### Format and rounding in force (R153 to R155) -/

/-- Format code, rounding mode, key and counter that an operation uses. -/
structure VState where
  fmt : Nat
  mode : Nat
  key : Nat
  rctr : Nat

/-- The settings as they stood at the start of the bundle's issue, and the counter as the slots below left it. -/
def vstate : M VState := do
  let m ← get
  pure { fmt := m.issue.fmt, mode := m.issue.mode, key := m.issue.key.toNat, rctr := m.cur.csr.rctr.toNat }

/-- The 24 random bits of the rounding in lane j at step k (R155); only RSTO reads them. -/
def VState.bits (v : VState) (j k : Nat) : Nat :=
  if v.mode = 4 then rand v.key j ((v.rctr + k) % 2 ^ 40) / 2 ^ 40 else 0

/-- Advance the counter by the steps of an operation (R155). -/
def advance (v : VState) (steps : Nat) : M Unit :=
  if v.mode = 4 then
    modify fun m => m.modCur fun c => { c with csr := { c.csr with rctr := c.csr.rctr + BitVec.ofNat 40 steps } }
  else pure ()

/-- The element format in force. -/
def VState.elem (v : VState) : Elem := elemOf v.fmt

/-- Element width and lanes in force (R151). -/
def VState.w (v : VState) : Nat := v.elem.w
def VState.n (v : VState) : Nat := 512 / v.w

/-- The vfmt word at the start of the bundle (R152). -/
def VState.word (v : VState) : W64 := w64 (v.fmt + v.key * 2 ^ 32)

/-- The lanes of a register in a format of w bits. -/
def lanes (x : W512) (w : Nat) : List Nat := lanesOf x.toNat w (512 / w)

/-- A register of lanes of w bits. -/
def fromLanes (w : Nat) (ls : List Nat) : W512 := w512 (packLanes w ls)

/-- Steps of a rounding operation in the format in force: none for an integer (R155). -/
def VState.steps (v : VState) (n : Nat) : Nat :=
  match v.elem with
  | .flt _ => n
  | .int _ => 0

/-- Deliver to vx.q. -/
def vxResult (u : Fin 2) (lat : Nat) (x : W512) : M Unit := result (8 + u.val) lat x

/-! ### Lane arithmetic (R159 to R163) -/

/-- Round an exact value into lane j (R158). -/
def VState.rnd (v : VState) (j k : Nat) (x : Num) : Nat := v.elem.round v.mode (v.bits j k) x

/-- An arithmetic operation on the lanes of a, b and t (R159). -/
def vxArith (u : Fin 2) (t : Trig) (useB : Bool) (f : Mode → Num → Num → Num → Num) : M Unit := do
  let x ← operand t.src
  let v ← vstate
  let a ← port (6 + u.val) 0
  let b ← if useB then port (6 + u.val) 1 else pure 0
  let w := v.w
  let r := (List.range v.n).map fun j =>
    v.rnd j 0 (f v.mode (v.elem.read (laneN a.toNat w j)) (v.elem.read (laneN b.toNat w j))
      (v.elem.read (laneN x.toNat w j)))
  advance v (v.steps 1)
  vxResult u 4 (fromLanes w r)

/-- R159 -/
def slotVxVadd (u : Fin 2) (t : Trig) : M Unit := vxArith u t false fun mode x _ z => Num.add mode x z
/-- R159 -/
def slotVxVsub (u : Fin 2) (t : Trig) : M Unit := vxArith u t false fun mode x _ z => Num.add mode x z.negate
/-- R159 -/
def slotVxVmul (u : Fin 2) (t : Trig) : M Unit := vxArith u t false fun _ x _ z => Num.mul x z
/-- R159: one rounding of x × y + z. -/
def slotVxVfma (u : Fin 2) (t : Trig) : M Unit := vxArith u t true fun mode x y z => Num.add mode (Num.mul x y) z

/-- The larger (or smaller) of two values, −0 below +0, NaN prevailing (R160). -/
def Num.pick (larger : Bool) (x y : Num) : Num :=
  if x.isNan || y.isNan then .nan
  else
    let less := Num.lt x y || (Num.eq x y && x.neg && !y.neg)
    if less == larger then y else x

/-- A lane-by-lane operation of a and t on values, exact (R160). -/
def vxValues (u : Fin 2) (t : Trig) (useA : Bool) (f : Num → Num → Num) : M Unit := do
  let x ← operand t.src
  let v ← vstate
  let a ← if useA then port (6 + u.val) 0 else pure 0
  let w := v.w
  let r := (List.range v.n).map fun j =>
    v.elem.round 0 0 (f (v.elem.read (laneN a.toNat w j)) (v.elem.read (laneN x.toNat w j)))
  vxResult u 4 (fromLanes w r)

/-- The magnitude of a value. -/
def Num.abs (x : Num) : Num := if x.neg then x.negate else x

/-- R160 -/
def slotVxVmax (u : Fin 2) (t : Trig) : M Unit := vxValues u t true (Num.pick true)
/-- R160 -/
def slotVxVmin (u : Fin 2) (t : Trig) : M Unit := vxValues u t true (Num.pick false)
/-- R160 -/
def slotVxVabs (u : Fin 2) (t : Trig) : M Unit := vxValues u t false fun _ z => z.abs
/-- R160 -/
def slotVxVneg (u : Fin 2) (t : Trig) : M Unit := vxValues u t false fun _ z => z.negate

/-- A compare: lanes of all ones where the relation holds (R161). -/
def vxCompare (u : Fin 2) (t : Trig) (f : Num → Num → Bool) : M Unit := do
  let x ← operand t.src
  let v ← vstate
  let a ← port (6 + u.val) 0
  let w := v.w
  let r := (List.range v.n).map fun j =>
    if f (v.elem.read (laneN a.toNat w j)) (v.elem.read (laneN x.toNat w j)) then mask w else 0
  vxResult u 4 (fromLanes w r)

/-- R161 -/
def slotVxVceq (u : Fin 2) (t : Trig) : M Unit := vxCompare u t Num.eq
/-- R161 -/
def slotVxVclt (u : Fin 2) (t : Trig) : M Unit := vxCompare u t Num.lt
/-- R161 -/
def slotVxVcle (u : Fin 2) (t : Trig) : M Unit := vxCompare u t fun x y => Num.lt x y || Num.eq x y

/-- R162 -/
def slotVxVsel (u : Fin 2) (t : Trig) : M Unit := do
  let x ← operand t.src
  let v ← vstate
  let a ← port (6 + u.val) 0
  let b ← port (6 + u.val) 1
  let w := v.w
  vxResult u 4 (fromLanes w ((List.range v.n).map fun j =>
    if laneN x.toNat w j != 0 then laneN a.toNat w j else laneN b.toNat w j))

/-- A bitwise operation on all 512 bits (R162). -/
def vxBits (u : Fin 2) (t : Trig) (f : W512 → W512 → W512) : M Unit := do
  let x ← operand t.src
  let a ← port (6 + u.val) 0
  vxResult u 4 (f a x)

/-- R162 -/
def slotVxVand (u : Fin 2) (t : Trig) : M Unit := vxBits u t fun a x => a &&& x
/-- R162 -/
def slotVxVor (u : Fin 2) (t : Trig) : M Unit := vxBits u t fun a x => a ||| x
/-- R162 -/
def slotVxVxor (u : Fin 2) (t : Trig) : M Unit := vxBits u t fun a x => a ^^^ x

/-- A shift of lanes by the lanes of t, modulo the width (R162). -/
def vxShift (u : Fin 2) (t : Trig) (f : Nat → Nat → Nat → Nat) : M Unit := do
  let x ← operand t.src
  let v ← vstate
  let a ← port (6 + u.val) 0
  let w := v.w
  vxResult u 4 (fromLanes w ((List.range v.n).map fun j => f w (laneN a.toNat w j) (laneN x.toNat w j % w)))

/-- R162 -/
def slotVxVshl (u : Fin 2) (t : Trig) : M Unit := vxShift u t fun w x c => x * 2 ^ c % 2 ^ w
/-- R162 -/
def slotVxVshr (u : Fin 2) (t : Trig) : M Unit := vxShift u t fun _ x c => x / 2 ^ c
/-- R162 -/
def slotVxVsha (u : Fin 2) (t : Trig) : M Unit := vxShift u t fun w x c => wrapI (sgn x w / (2 ^ c : Nat)) w

/-- R163 -/
def slotVxVbc (u : Fin 2) (t : Trig) : M Unit := do
  let x ← operand t.src
  let v ← vstate
  vxResult u 4 (fromLanes v.w (List.replicate v.n (x.toNat % 2 ^ v.w)))

/-- R163 -/
def slotVxVext (u : Fin 2) (t : Trig) : M Unit := do
  let x ← operand t.src
  let v ← vstate
  let a ← port (6 + u.val) 0
  let j := x.toNat % 128
  vxResult u 4 (if j < v.n then w512 (laneN a.toNat v.w j) else 0)

/-- R163 -/
def slotVxVins (u : Fin 2) (t : Trig) : M Unit := do
  let x ← operand t.src
  let v ← vstate
  let a ← port (6 + u.val) 0
  let b ← port (6 + u.val) 1
  let j := b.toNat % 128
  vxResult u 4 (fromLanes v.w ((List.range v.n).map fun k =>
    if k = j then x.toNat % 2 ^ v.w else laneN a.toNat v.w k))

/-- R163 -/
def slotVxVshf (u : Fin 2) (t : Trig) : M Unit := do
  let x ← operand t.src
  let v ← vstate
  let a ← port (6 + u.val) 0
  let b ← if v.n = 128 then port (6 + u.val) 1 else pure 0
  vxResult u 4 (fromLanes v.w ((List.range v.n).map fun j =>
    let i := if j < 64 then laneN x.toNat 8 j else laneN b.toNat 8 (j - 64)
    if i < v.n then laneN a.toNat v.w i else 0))

/-! ### Reductions (R164, R165) -/

/-- Combine neighbours of one level of the tree; i numbers the results. -/
def treeLevel (op : Nat → Nat → Nat → Nat) : Nat → List Nat → List Nat
  | i, x :: y :: r => op i x y :: treeLevel op (i + 1) r
  | _, l => l

/-- The fixed pairwise tree of R164 over 2^n elements; op takes the step, the lane and two operands. -/
def tree (op : Nat → Nat → Nat → Nat → Nat) : Nat → Nat → List Nat → Nat
  | 0, _, l => l.headD 0
  | n + 1, step, l => tree op n (step + 1) (treeLevel (op step) 0 l)

/-- R164 -/
def slotVxVrsum (u : Fin 2) (t : Trig) : M Unit := do
  let x ← operand t.src
  let v ← vstate
  let ls := lanes x v.w
  let r := match v.elem with
    | .flt f =>
      tree (fun k i p q => f.round v.mode (v.bits i k) (Num.add v.mode (f.read p) (f.read q))) v.n.log2 0 ls
    | .int n => roundInt n 0 0 (.ofInt ((ls.map fun y => sgn y n).foldl (· + ·) 0))
  advance v (v.steps v.n.log2)
  vxResult u 4 (w512 r)

/-- The largest or smallest lane by the tree (R164). -/
def vxExtreme (u : Fin 2) (t : Trig) (larger : Bool) : M Unit := do
  let x ← operand t.src
  let v ← vstate
  let r := tree (fun _ _ p q => v.elem.round 0 0 (Num.pick larger (v.elem.read p) (v.elem.read q))) v.n.log2 0
    (lanes x v.w)
  vxResult u 4 (w512 r)

/-- R164 -/
def slotVxVrmax (u : Fin 2) (t : Trig) : M Unit := vxExtreme u t true
/-- R164 -/
def slotVxVrmin (u : Fin 2) (t : Trig) : M Unit := vxExtreme u t false

/-- R165 -/
def slotVxVdot (u : Fin 2) (t : Trig) : M Unit := do
  let x ← operand t.src
  let v ← vstate
  let a ← port (6 + u.val) 0
  let w := v.w
  let pairs := (List.range v.n).map fun j => (v.elem.read (laneN a.toNat w j), v.elem.read (laneN x.toNat w j))
  let r := match v.elem with
    | .flt _ =>
      let f := Fmt.fp32
      let ps := pairs.mapIdx fun j (p : Num × Num) => f.round v.mode (v.bits j 0) (Num.mul p.1 p.2)
      tree (fun k i p q => f.round v.mode (v.bits i k) (Num.add v.mode (f.read p) (f.read q))) v.n.log2 1 ps
    | .int n =>
      roundInt 64 0 0 (.ofInt ((List.range v.n).foldl (fun s j =>
        s + sgn (laneN a.toNat w j) n * sgn (laneN x.toNat w j) n) 0))
  advance v (v.steps (1 + v.n.log2))
  vxResult u 4 (w512 r)

/-! ### Reciprocal and transcendental operations (R166) -/

/-- 1/z. -/
def Num.rcp (z : Num) : Num :=
  match z with
  | .nan => .nan
  | .inf n => .exact n 0 0
  | .fin n m _ _ => if m = 0 then .inf n else Num.div (.exact false 1 0) z

/-- 1/√z, to 150 bits and a remainder mark. -/
def Num.rsqrt (z : Num) : Num :=
  match z with
  | .nan => .nan
  | .inf n => if n then .nan else .exact false 0 0
  | .fin n m e _ =>
    if m = 0 then .inf n
    else if n then .nan
    else
      let (m, e) : Nat × Int := if e % 2 = 0 then (m, e) else (2 * m, e - 1)
      let q := 2 ^ 300 / m
      let r := isqrt q 160
      .fin false r (-(e / 2) - 150) (r * r * m != 2 ^ 300)

/-- The fixed-point exponential e^(x / 2^p) × 2^p for 0 ≤ x < 2^(p − 8): the sum of its series. -/
def expSeries (p x : Nat) : Nat :=
  ((List.range 60).foldl (fun (st : Nat × Nat) k =>
    let term := st.1 * x / 2 ^ p / (k + 1)
    (term, st.2 + term)) (2 ^ p, 2 ^ p)).2

/-- e^z (R166): 0 < |z| < 2^9 by its series on z / 2^17 and seventeen squarings with 500 fraction bits. -/
def Num.exp (z : Num) : Num :=
  match z with
  | .nan => .nan
  | .inf n => if n then .exact false 0 0 else .inf false
  | .fin n m e _ =>
    if m = 0 then .exact false 1 0
    else if (m.log2 : Int) + e ≥ 9 then .fin false 1 (if n then -600 else 600) true
    else
      let p : Nat := 500
      let x := m * 2 ^ ((p : Int) - 17 + e).toNat
      let y := (List.range 17).foldl (fun y _ => y * y / 2 ^ p) (expSeries p x)
      if n then .fin false (2 ^ 1400 / y / 2 ^ 100) (-800) true else .fin false (y / 2 ^ 100) (-400) true

/-- The fixed-point 2·artanh(a / b) × 2^p for 0 ≤ a/b ≤ 1/3. -/
def atanh2 (p a b : Nat) : Nat :=
  let t := a * 2 ^ p / b
  let t2 := t * t / 2 ^ p
  2 * ((List.range 200).foldl (fun (st : Nat × Nat) k =>
    (st.1 * t2 / 2 ^ p, st.2 + st.1 / (2 * k + 1))) (t, 0)).2

/-- ln z (R166): k ln 2 + ln f with f in [2/3, 4/3), with 600 fraction bits. -/
def Num.log (z : Num) : Num :=
  match z with
  | .nan => .nan
  | .inf n => if n then .nan else .inf false
  | .fin n m e _ =>
    if m = 0 then .inf true
    else if n then .nan
    else
      let p := 600
      let l := m.log2
      let big := decide (4 * 2 ^ l ≤ 3 * m)
      let l := if big then l + 1 else l
      let k : Int := e + l
      let lnf : Int := if 2 ^ l ≤ m then (atanh2 p (m - 2 ^ l) (m + 2 ^ l) : Nat)
        else -((atanh2 p (2 ^ l - m) (m + 2 ^ l) : Nat) : Int)
      let s : Int := k * ((atanh2 p 1 3 : Nat) : Int) + lnf
      if s = 0 then .exact false 0 0 else .fin (decide (s < 0)) (s.natAbs / 2 ^ 80) (-520) true

/-- A function of each lane of t, correctly rounded (R166); an integer format is illegal. -/
def vxFunction (u : Fin 2) (t : Trig) (f : Num → Num) : M Unit := do
  let x ← operand t.src
  let v ← vstate
  match v.elem with
  | .int _ => trap Cause.illegalSlot v.word
  | .flt _ => pure ()
  let r := (List.range v.n).map fun j => v.rnd j 0 (f (v.elem.read (laneN x.toNat v.w j)))
  advance v 1
  vxResult u 12 (fromLanes v.w r)

/-- R166 -/
def slotVxVrcp (u : Fin 2) (t : Trig) : M Unit := vxFunction u t Num.rcp
/-- R166 -/
def slotVxVrsq (u : Fin 2) (t : Trig) : M Unit := vxFunction u t Num.rsqrt
/-- R166 -/
def slotVxVexp (u : Fin 2) (t : Trig) : M Unit := vxFunction u t Num.exp
/-- R166 -/
def slotVxVlog (u : Fin 2) (t : Trig) : M Unit := vxFunction u t Num.log

/-- VX_VADD: Lane-wise addition. (R159) -/
def execVxVadd (u : Fin 2) (t : Trig) (s : State) : Out :=
  slotStep (.vxVadd u t) t.guard (slotVxVadd u t) s

/-- VX_VSUB: Lane-wise subtraction. (R159) -/
def execVxVsub (u : Fin 2) (t : Trig) (s : State) : Out :=
  slotStep (.vxVsub u t) t.guard (slotVxVsub u t) s

/-- VX_VMUL: Lane-wise multiplication. (R159) -/
def execVxVmul (u : Fin 2) (t : Trig) (s : State) : Out :=
  slotStep (.vxVmul u t) t.guard (slotVxVmul u t) s

/-- VX_VFMA: Lane-wise fused multiply-add. (R159) -/
def execVxVfma (u : Fin 2) (t : Trig) (s : State) : Out :=
  slotStep (.vxVfma u t) t.guard (slotVxVfma u t) s

/-- VX_VMAX: Lane-wise maximum. (R160) -/
def execVxVmax (u : Fin 2) (t : Trig) (s : State) : Out :=
  slotStep (.vxVmax u t) t.guard (slotVxVmax u t) s

/-- VX_VMIN: Lane-wise minimum. (R160) -/
def execVxVmin (u : Fin 2) (t : Trig) (s : State) : Out :=
  slotStep (.vxVmin u t) t.guard (slotVxVmin u t) s

/-- VX_VABS: Lane-wise absolute value. (R160) -/
def execVxVabs (u : Fin 2) (t : Trig) (s : State) : Out :=
  slotStep (.vxVabs u t) t.guard (slotVxVabs u t) s

/-- VX_VNEG: Lane-wise negation. (R160) -/
def execVxVneg (u : Fin 2) (t : Trig) (s : State) : Out :=
  slotStep (.vxVneg u t) t.guard (slotVxVneg u t) s

/-- VX_VCEQ: Lane-wise equality mask. (R161) -/
def execVxVceq (u : Fin 2) (t : Trig) (s : State) : Out :=
  slotStep (.vxVceq u t) t.guard (slotVxVceq u t) s

/-- VX_VCLT: Lane-wise less-than mask. (R161) -/
def execVxVclt (u : Fin 2) (t : Trig) (s : State) : Out :=
  slotStep (.vxVclt u t) t.guard (slotVxVclt u t) s

/-- VX_VCLE: Lane-wise less-or-equal mask. (R161) -/
def execVxVcle (u : Fin 2) (t : Trig) (s : State) : Out :=
  slotStep (.vxVcle u t) t.guard (slotVxVcle u t) s

/-- VX_VSEL: Lane-wise select by mask. (R162) -/
def execVxVsel (u : Fin 2) (t : Trig) (s : State) : Out :=
  slotStep (.vxVsel u t) t.guard (slotVxVsel u t) s

/-- VX_VAND: 512-bit AND. (R162) -/
def execVxVand (u : Fin 2) (t : Trig) (s : State) : Out :=
  slotStep (.vxVand u t) t.guard (slotVxVand u t) s

/-- VX_VOR: 512-bit OR. (R162) -/
def execVxVor (u : Fin 2) (t : Trig) (s : State) : Out :=
  slotStep (.vxVor u t) t.guard (slotVxVor u t) s

/-- VX_VXOR: 512-bit XOR. (R162) -/
def execVxVxor (u : Fin 2) (t : Trig) (s : State) : Out :=
  slotStep (.vxVxor u t) t.guard (slotVxVxor u t) s

/-- VX_VSHL: Lane-wise left shift. (R162) -/
def execVxVshl (u : Fin 2) (t : Trig) (s : State) : Out :=
  slotStep (.vxVshl u t) t.guard (slotVxVshl u t) s

/-- VX_VSHR: Lane-wise logical right shift. (R162) -/
def execVxVshr (u : Fin 2) (t : Trig) (s : State) : Out :=
  slotStep (.vxVshr u t) t.guard (slotVxVshr u t) s

/-- VX_VSHA: Lane-wise arithmetic right shift. (R162) -/
def execVxVsha (u : Fin 2) (t : Trig) (s : State) : Out :=
  slotStep (.vxVsha u t) t.guard (slotVxVsha u t) s

/-- VX_VBC: Broadcasts a lane value to every lane. (R163) -/
def execVxVbc (u : Fin 2) (t : Trig) (s : State) : Out :=
  slotStep (.vxVbc u t) t.guard (slotVxVbc u t) s

/-- VX_VEXT: Extracts one lane. (R163) -/
def execVxVext (u : Fin 2) (t : Trig) (s : State) : Out :=
  slotStep (.vxVext u t) t.guard (slotVxVext u t) s

/-- VX_VINS: Inserts a value into one lane. (R163) -/
def execVxVins (u : Fin 2) (t : Trig) (s : State) : Out :=
  slotStep (.vxVins u t) t.guard (slotVxVins u t) s

/-- VX_VSHF: Shuffles lanes by index bytes. (R163) -/
def execVxVshf (u : Fin 2) (t : Trig) (s : State) : Out :=
  slotStep (.vxVshf u t) t.guard (slotVxVshf u t) s

/-- VX_VRSUM: Sums the lanes along the fixed pairwise tree. (R164) -/
def execVxVrsum (u : Fin 2) (t : Trig) (s : State) : Out :=
  slotStep (.vxVrsum u t) t.guard (slotVxVrsum u t) s

/-- VX_VRMAX: Reduces the lanes to their maximum. (R164) -/
def execVxVrmax (u : Fin 2) (t : Trig) (s : State) : Out :=
  slotStep (.vxVrmax u t) t.guard (slotVxVrmax u t) s

/-- VX_VRMIN: Reduces the lanes to their minimum. (R164) -/
def execVxVrmin (u : Fin 2) (t : Trig) (s : State) : Out :=
  slotStep (.vxVrmin u t) t.guard (slotVxVrmin u t) s

/-- VX_VRCP: Correctly rounded reciprocal of each lane. (R166) -/
def execVxVrcp (u : Fin 2) (t : Trig) (s : State) : Out :=
  slotStep (.vxVrcp u t) t.guard (slotVxVrcp u t) s

/-- VX_VRSQ: Correctly rounded reciprocal square root of each lane. (R166) -/
def execVxVrsq (u : Fin 2) (t : Trig) (s : State) : Out :=
  slotStep (.vxVrsq u t) t.guard (slotVxVrsq u t) s

/-- VX_VEXP: Correctly rounded exponential of each lane. (R166) -/
def execVxVexp (u : Fin 2) (t : Trig) (s : State) : Out :=
  slotStep (.vxVexp u t) t.guard (slotVxVexp u t) s

/-- VX_VLOG: Correctly rounded natural logarithm of each lane. (R166) -/
def execVxVlog (u : Fin 2) (t : Trig) (s : State) : Out :=
  slotStep (.vxVlog u t) t.guard (slotVxVlog u t) s

/-- VX_VDOT: Dot product of a and t along the fixed tree. (R165) -/
def execVxVdot (u : Fin 2) (t : Trig) (s : State) : Out :=
  slotStep (.vxVdot u t) t.guard (slotVxVdot u t) s
end Sys2Proof.Machine
end

