-- ==== Sys2Proof/Machine/Flags.lean ====
section
/-! DEFINITION. Comparisons: the relations that instructions deliver as 0 or 1, or test (R144, R349). -/

namespace Sys2Proof.Machine

/-- A truth value as the integer compares deliver it: exactly 0 or 1 (R133, R144). -/
def truth (b : Bool) : W64 := if b then 1 else 0

/-- Relations of gs.flgw on n-bit values (R349); codes 6 and 7 are no relations. -/
def relation (code n x y : Nat) : Option Bool :=
  match code with
  | 0 => some (x == y)
  | 1 => some (x != y)
  | 2 => some (decide (x < y))
  | 3 => some (decide (y ≤ x))
  | 4 => some (decide (sgn x n < sgn y n))
  | 5 => some (decide (sgn y n ≤ sgn x n))
  | _ => none

end Sys2Proof.Machine
end

