-- ==== Sys2Proof/Machine/Tokens.lean ====
section
/-! DEFINITION. Tokens: issuing, completing, remembering and waiting for them (R120, R269, R302, R332, R333, R335). -/

namespace Sys2Proof.Machine

/-- A token handle (R332). -/
def tokenHandle (kind die frame seq : Nat) : W64 := w64 (kind * 2 ^ 52 + die * 2 ^ 48 + frame * 2 ^ 32 + seq)

/-- The number of an operation that is the n-th of its kind: 1 follows 2^32 − 1 (R332). -/
def tokenSeq (n : Nat) : Nat := (n - 1) % (2 ^ 32 - 1) + 1

/-- The count that makes tokens of a kind forgotten: array commands for kind 4 (R269), else operations of the kind
(R302, R333). -/
def rememberKey (kind : Nat) : Nat := if kind = 4 then 9 else kind

/-- Is a token still remembered: fewer than 64 further operations have been issued (R269, R302, R333)? -/
def Task.remembers (t : Task) (k : Tok) : Bool := decide (t.seqs.get 0 (rememberKey k.kind) < k.ord + 64)

/-- The remembered token that a handle names for the task of a die and frame (R350). -/
def Task.token (t : Task) (die frame : Nat) (h : W64) : Option Tok :=
  let x := h.toNat
  if fld x 63 56 != 0 || fld x 47 44 != 0 || fld x 51 48 != die || fld x 43 32 != frame then none
  else t.toks.find? fun k => k.kind == fld x 55 52 && k.seq == x % 2 ^ 32 && t.remembers k

/-- Forget completed tokens that are no longer remembered, and count an operation. -/
def Task.count (t : Task) (key : Nat) : Task :=
  let t := { t with seqs := t.seqs.put key (t.seqs.get 0 key + 1) }
  { t with toks := t.toks.filter fun k => k.done.isNone || t.remembers k }

/-- Has the task room for one more incomplete token of a kind (R333)? -/
def Task.tokenRoom (t : Task) (kind : Nat) : Bool :=
  decide ((t.toks.filter fun k => k.kind == kind && k.done.isNone).length < 64)

/-- Give the task of a key its next token of a kind: sequence number, handle and the machine. -/
def issueToken (tk kind : Nat) (name : Option W64) (m : Mach) : Nat × W64 × Mach :=
  let t := (m.task tk).count kind
  let t := if kind = 4 then t.count 9 else t
  let seq := tokenSeq (t.seqs.get 0 kind)
  let k : Tok := { kind := kind, seq := seq, ord := t.seqs.get 0 (rememberKey kind), done := none, name := name }
  (seq, tokenHandle kind (tk / 3072) (tk % 3072) seq, m.setTask tk { t with toks := t.toks ++ [k] })

/-- A token-bearing operation blocks while its task has 64 incomplete tokens of the kind (R333). -/
def tokenRoom (kind : Nat) (operand : W64) : M Unit := do
  if (← get).curTask.tokenRoom kind then pure () else block (.tokens kind) operand false

/-- Issue a token of the issuing task: its sequence number and handle. -/
def takeToken (kind : Nat) (name : Option W64) : M (Nat × W64) := do
  let m ← get
  let (s, h, m) := issueToken m.tkey kind name m
  set m
  pure (s, h)

/-- Change the context of a task, where it is: on its core, or saved. -/
def Mach.modTaskCtx (m : Mach) (tk : Nat) (f : Ctx → Ctx) : Mach :=
  match (m.task tk).st with
  | .running x => m.modCtx (ctxKey (tk / 3072) (tk % 3072 / 16) x) f
  | _ => m.modTask tk fun t => { t with saved := f t.saved }

/-- The context of a task. -/
def Mach.taskCtx (m : Mach) (tk : Nat) : Ctx :=
  match (m.task tk).st with
  | .running x => m.ctx (ctxKey (tk / 3072) (tk % 3072 / 16) x)
  | _ => (m.task tk).saved

/-- Queue a user interrupt for a completed token whose source is selected (R120). -/
def Ctx.notify (kind : Nat) (h v : W64) (c : Ctx) : Ctx :=
  if c.csr.uien && c.csr.uimask.getLsbD (kind - 1) && c.st != .halted then
    if c.uiq.length < 16 then { c with uiq := c.uiq ++ [(h, v)] }
    else { c with csr := { c.csr with uiovf := true } }
  else c

/-- Complete a token of a task with a value (R120, R332). -/
def completeToken (tk kind seq : Nat) (v : W64) (m : Mach) : Mach :=
  let t := m.task tk
  if t.st = .free || !(t.toks.any fun k => k.kind == kind && k.seq == seq && k.done.isNone) then m
  else
    let m := m.modTask tk fun t =>
      { t with toks := t.toks.map fun k =>
          if k.kind = kind ∧ k.seq = seq ∧ k.done = none then { k with done := some v } else k }
    m.modTaskCtx tk (Ctx.notify kind (tokenHandle kind (tk / 3072) (tk % 3072) seq) v)

/-- A task named so that no later task of its frame is taken for it: its key and its admission number. -/
def ownerOf (m : Mach) (tk : Nat) : Nat := tk + 49152 * (m.task tk).entry

/-- The key of an owner's task. -/
def ownerKey (o : Nat) : Nat := o % 49152

/-- Is the task of that name still there? -/
def ownerLives (m : Mach) (o : Nat) : Bool :=
  (m.task (ownerKey o)).st != .free && (m.task (ownerKey o)).entry == o / 49152

/-- Complete a token of a task that may have ended: it then has no waiter (R368). -/
def completeOwned (o kind seq : Nat) (v : W64) (m : Mach) : Mach :=
  if ownerLives m o then completeToken (ownerKey o) kind seq v m else m

/-- The status NT_EXPIRED (R292). -/
def ntExpired : W64 := 0x8000000000000004

/-- A local entry of a ring stop ends with a completion value (R280, R283). -/
def endLocal (r : Nat) (x : LocalEntry) (v : W64) (m : Mach) : Mach :=
  completeOwned x.task 5 x.seq v
    (m.modRouter r fun y => { y with locals := y.locals.filter fun z => !(z.task == x.task && z.seq == x.seq) })

/-- The unclaimed local entries of a task that halts are freed as nt.canc frees one (R303). -/
def cancelLocals (tk : Nat) (m : Mach) : Mach :=
  ((m.router (tk / 3072)).locals.filter fun x => x.task == ownerOf m tk).foldl
    (fun m x => endLocal (tk / 3072) x ntExpired m) m

/-- Is a value an NT_NEVER status (R292)? -/
def isNever (v : W64) : Bool := v.toNat / 2 ^ 63 == 1 && v.toNat % 256 == 6

/-- Wait for a token of the kinds allowed, then acquire at die scope and deliver its value (R269, R302, R335, R350). -/
def waitToken (h : W64) (kinds : Nat → Bool) (q : Nat) : M Unit := do
  let m ← get
  match m.curTask.token m.issue.d m.cur.frame h with
  | none => trap Cause.orphanWait h
  | some k =>
    require (kinds k.kind) Cause.orphanWait h
    match k.done with
    | none => block (.token h) h true
    | some v =>
      match k.name with
      | some n => require (!(isNever v) || tst m.issue.start.csr.ntrange.toNat 1) Cause.ntNever n
      | none => pure ()
      modify fun m => acquireToken m.issue.ck k.kind m
      result64 q 2 v

end Sys2Proof.Machine
end

