-- ==== Sys2Proof/Machine/Groups.lean ====
section
/-! DEFINITION. Membership sets, barriers, rendezvous slots, static schedule segments and the unit gs
(R327 to R352). -/

namespace Sys2Proof.Machine

/-- Deliver to gs.q (R344). -/
def gsResult (lat : Nat) (v : W64) : M Unit := result64 18 lat v

/-! ### Sets (R327 to R331) -/

/-- The handle of a set. -/
def MSet.handle (s : MSet) (n : Nat) : Nat := n + s.gen * 256

/-- The key of the set that a handle names, in use and of that generation (R327). -/
def namedSet (m : Mach) (d h : Nat) : Option Nat :=
  let k := setKey d (h % 256)
  if (m.mset k).used && (m.mset k).gen == h / 256 then some k else none

/-- The lowest free set of a die. -/
def freeSet (m : Mach) (d : Nat) : Option Nat := (List.range 256).find? fun n => !(m.mset (setKey d n)).used

/-- Allot a set to members (R327, R329, R331). -/
def allotSet (d n : Nat) (gang : Bool) (members : List Nat) (m : Mach) : Mach :=
  let s := m.mset (setKey d n)
  let m := m.setMset (setKey d n)
    { used := true, gen := (s.gen + 1) % 16, gang := gang, members := members, phase := 0, awaited := members,
      next := [], rounds := [], arrived := [] }
  members.foldl (fun m f => m.modTask (taskKey d f) fun t => { t with sets := t.sets ++ [n] }) m

/-- Complete the phase while nothing is awaited: the next phase expects the members, and pending arrivals count in it
(R329). -/
def MSet.settle (s : MSet) : MSet :=
  if s.members.isEmpty || !s.awaited.isEmpty then s
  else
    let t := { s with phase := s.phase + 1, awaited := s.members.filter fun f => !(s.next.contains f), next := [] }
    if t.awaited.isEmpty then { t with phase := t.phase + 1, awaited := t.members } else t

/-- Complete a round in which every member has arrived (R331). -/
def MSet.settleRound (s : MSet) (slot : Nat) : MSet :=
  let here := (s.arrived.filter fun p => p.1 == slot).map (·.2)
  if !here.isEmpty && s.members.all fun f => here.contains f then
    { s with rounds := s.rounds.put slot (s.rounds.get 0 slot + 1), arrived := s.arrived.filter fun p => p.1 != slot }
  else s

/-- A member leaves (R327, R329, R331). -/
def leaveSet (d n f : Nat) (m : Mach) : Mach :=
  let m := m.modTask (taskKey d f) fun t => { t with sets := t.sets.filter fun x => x != n }
  let s := m.mset (setKey d n)
  let s := { s with members := s.members.filter fun x => x != f, awaited := s.awaited.filter fun x => x != f,
                    next := s.next.filter fun x => x != f, arrived := s.arrived.filter fun p => p.2 != f }
  let s := if s.members.isEmpty then { gen := s.gen } else ((List.range 64).foldl MSet.settleRound s).settle
  m.setMset (setKey d n) s

/-- Has phase (or round) p completed when the current one is cur (R329)? -/
def completed (cur : W32) (p : Nat) : Bool :=
  let x := (cur - BitVec.ofNat 32 p).toNat
  decide (1 ≤ x) && decide (x < 2 ^ 31)

/-- Arrive in the current phase. -/
def MSet.arrive (s : MSet) (f : Nat) : MSet := { s with awaited := s.awaited.filter fun x => x != f }.settle

/-- Arrive in the current round of a slot (R331). -/
def MSet.arriveRound (s : MSet) (slot f : Nat) : MSet :=
  ({ s with arrived := if s.arrived.contains (slot, f) then s.arrived else s.arrived ++ [(slot, f)] }).settleRound slot

/-- The trigger operand has no bits outside the given ones (R344). -/
def onlyBits (x : W64) (allowed : Nat) : M Unit := require (x.toNat &&& allowed == x.toNat) Cause.illegalSlot x

/-- R345 -/
def slotGsJoin (t : Trig) : M Unit := do
  let x ← operand64 t.src
  onlyBits x 0x10FFF
  let m ← get
  let d := m.issue.d
  let f := m.cur.frame
  let h := x.toNat % 4096
  let full := decide (8 ≤ m.curTask.sets.length)
  if tst x.toNat 16 then
    require (h == 0) Cause.illegalSlot x
    match (if full then none else freeSet m d) with
    | none => gsResult 4 statusFull
    | some n =>
      modify (allotSet d n false [f])
      gsResult 4 (w64 (((← get).mset (setKey d n)).handle n))
  else
    match namedSet m d h with
    | none => gsResult 4 statusTerm
    | some k =>
      let s := m.mset k
      if s.members.contains f then gsResult 4 (w64 h)
      else if s.gang || full then gsResult 4 statusFull
      else
        modify fun m => (m.setMset k { s with members := s.members ++ [f] }).modCurTask fun t =>
          { t with sets := t.sets ++ [h % 256] }
        gsResult 4 (w64 h)

/-- R345 -/
def slotGsLeav (t : Trig) : M Unit := do
  let x ← operand64 t.src
  onlyBits x 0xFFF
  let m ← get
  match namedSet m m.issue.d x.toNat with
  | none => gsResult 4 statusTerm
  | some k =>
    if (m.mset k).members.contains m.cur.frame then
      set (leaveSet m.issue.d (x.toNat % 256) m.cur.frame m)
      gsResult 4 0
    else gsResult 4 statusTerm

/-- R345 -/
def slotGsMemb (t : Trig) : M Unit := do
  let x ← operand64 t.src
  onlyBits x 0xFFF
  let m ← get
  match namedSet m m.issue.d x.toNat with
  | none => gsResult 4 statusTerm
  | some k =>
    let s := m.mset k
    gsResult 4 (w64 (s.phase.toNat * 2 ^ 32 + b2n s.gang * 2 ^ 31 + s.gen * 2 ^ 16 + s.members.length))

/-! ### Barriers and rendezvous (R346, R347) -/

/-- The pending arrival of a context for a set, and a slot or 64 for the barrier. -/
def Ctx.pending (c : Ctx) (h slot : Nat) : Option Nat :=
  match c.pendArr with
  | some p => if p.handle = h ∧ p.slot = slot then some p.no else none
  | none => none

/-- Forget the pending arrival, which the delivering issue has used. -/
def dropPending (h slot : Nat) (m : Mach) : Mach :=
  m.modCur fun c => if (c.pending h slot).isSome then { c with pendArr := none } else c

/-- Record an arrival, or the wish to arrive in the next phase, of a context that blocks on a barrier (R346): its earlier
accesses are performed at die scope first (R330). -/
def recordArrival (e : Env) (ck h : Nat) (next : Bool) (m : Mach) : Mach :=
  let d := ctxDie ck
  let f := (m.ctx ck).frame
  match namedSet m d h with
  | none => m
  | some k =>
    if ((m.ctx ck).pending h 64).isSome then m
    else
      let m := releaseDie e ck m
      let s := m.mset k
      let no := if next then (s.phase + 1).toNat else s.phase.toNat
      let s := if next then { s with next := if s.next.contains f then s.next else s.next ++ [f] } else s.arrive f
      (m.setMset k s).modCtx ck fun c => { c with pendArr := some { handle := h, slot := 64, no := no } }

/-- Record an arrival in a round of a context that blocks on it (R347). -/
def recordRound (e : Env) (ck h slot : Nat) (m : Mach) : Mach :=
  match namedSet m (ctxDie ck) h with
  | none => m
  | some k =>
    if ((m.ctx ck).pending h slot).isSome then m
    else
      let m := releaseDie e ck m
      let s := m.mset k
      (m.setMset k (s.arriveRound slot (m.ctx ck).frame)).modCtx ck fun c =>
        { c with pendArr := some { handle := h, slot := slot, no := (s.rounds.get 0 slot).toNat } }

/-- Deliver a phase: the combined form waits for it and acquires (R330, R346). -/
def deliverPhase (x : W64) (k ph : Nat) : M Unit := do
  let m ← get
  let h := x.toNat % 4096
  if tst x.toNat 16 then
    if completed (m.mset k).phase ph then modify fun m => acquireDie m.issue.ck m
    else block (.barrier h ph) x true
  modify (dropPending h 64)
  gsResult 4 (w64 ph)

/-- R346 -/
def slotGsBarr (t : Trig) : M Unit := do
  let x ← operand64 t.src
  onlyBits x 0x10FFF
  let m ← get
  let e ← read
  let h := x.toNat % 4096
  let f := m.cur.frame
  match (namedSet m m.issue.d h).filter fun k => (m.mset k).members.contains f with
  | none =>
    set (dropPending h 64 m)
    gsResult 4 statusTerm
  | some k =>
    match m.cur.pending h 64 with
    | some ph =>
      if (m.mset k).phase.toNat != ph && !(completed (m.mset k).phase ph) then block (.arrive h) x true
      else
        set (releaseDie e m.issue.ck m)
        deliverPhase x k ph
    | none =>
      let s := m.mset k
      if s.awaited.contains f then
        let m := releaseDie e m.issue.ck m
        set (m.setMset k (s.arrive f))
        deliverPhase x k s.phase.toNat
      else block (.arrive h) x true

/-- R346 -/
def slotGsBarw (t : Trig) : M Unit := do
  let x ← operand64 t.src
  onlyBits x 0xFFF
  let a ← port64 15 0
  require (fld a.toNat 63 32 == 0) Cause.illegalSlot a
  let m ← get
  match namedSet m m.issue.d x.toNat with
  | none => gsResult 2 statusTerm
  | some k =>
    if completed (m.mset k).phase a.toNat then
      modify fun m => acquireDie m.issue.ck m
      gsResult 2 a
    else block (.phase x.toNat a.toNat) x true

/-- R347 -/
def slotGsRdv (t : Trig) : M Unit := do
  let x ← operand64 t.src
  onlyBits x 0x3F
  let a ← port64 15 0
  require (fld a.toNat 63 12 == 0) Cause.illegalSlot a
  let m ← get
  let e ← read
  let h := a.toNat
  let f := m.cur.frame
  let slot := x.toNat
  match (namedSet m m.issue.d h).filter fun k => (m.mset k).members.contains f with
  | none =>
    set (dropPending h slot m)
    gsResult 2 statusTerm
  | some k =>
    let s := m.mset k
    require s.gang Cause.illegalSlot a
    let (no, s) := match m.cur.pending h slot with
      | some no => (no, s)
      | none => ((s.rounds.get 0 slot).toNat, s.arriveRound slot f)
    if completed (s.rounds.get 0 slot) no then
      modify fun m =>
        let m := releaseDie e m.issue.ck m
        dropPending h slot (acquireDie m.issue.ck (m.setMset k s))
      gsResult 2 (w64 no)
    else block (.round h slot no) x true

/-! ### Segments (R339 to R342, R348) -/

/-- Entries of the core's segment store queue that no reservation holds (R339). -/
def Core.unreserved (k : Core) : Nat := 1024 - (k.segs.map (·.2)).sum

/-- May context x of a core take n entries now: they are unreserved, and no other context asked before (R339)? -/
def Core.grants (k : Core) (x n : Nat) : Bool :=
  decide (n ≤ k.unreserved) && (k.segAsk.headD x == x)

/-- Open a segment at the bundle being issued (R339). -/
def openSegment (n : Nat) (m : Mach) : Mach :=
  let x := m.issue.x
  let c := m.issue.start
  let m := m.modCore m.issue.core fun k =>
    { k with segs := k.segs ++ [(x, n)], segAsk := k.segAsk.filter fun y => y != x }
  m.modCur fun y =>
    { y with seg := some { handler := c.csr.intrap, n := n, used := 0, held := [], g := c.g, shadow := c.shadow, v := c.v, p := c.p,
                           rctr := c.csr.rctr, addr := m.issue.addr, rewinds := 0, again := false } }

/-- R348 -/
def slotGsSegb (t : Trig) : M Unit := do
  let x ← operand64 t.src
  require (decide (1 ≤ x.toNat) && decide (x.toNat ≤ 1024)) Cause.illegalSlot x
  let m ← get
  match m.cur.seg with
  | some s =>
    require (s.again && s.addr == m.issue.addr && inSegment m) Cause.illegalSlot x
    set (m.modCur fun c => { c with seg := some { s with again := false } })
    gsResult 2 0
  | none =>
    if (m.core m.issue.core).grants m.issue.x x.toNat then
      set (openSegment x.toNat m)
      gsResult 2 0
    else block (.seg x.toNat) x false

/-- The access of a held store: its page is read again, as it may have moved or gone (R212, R213, R341). -/
def heldNow (s : PStore) : M Acc := do
  let old : Acc := { loc := s.loc, cls := s.cls, legend := s.legend, buf := s.buf, gaddr := s.gaddr, acls := s.acls }
  match s.loc with
  | .phys _ =>
    if apOf s.gaddr = 0 then pure { ← check .write s.bytes.length 1 s.gaddr with acls := s.acls } else pure old
  | _ => pure old

/-- The held stores of a segment, each with whether it is a further part of the one before it. -/
def heldParts (l : List PStore) : List (PStore × Bool) :=
  l.zipIdx.map fun p => (p.1, p.2 != 0 && (l[p.2 - 1]?.map (·.no)) == some p.1.no)

/-- R348: commits the segment (R341). -/
def slotGsSegc (t : Trig) : M Unit := do
  let x ← operand64 t.src
  let m ← get
  require (x == 0 && inSegment m) Cause.illegalSlot x
  match m.cur.seg with
  | none => trap Cause.illegalSlot x
  | some s =>
    let e ← read
    let parts ← (heldParts s.held).mapM fun p => do pure (← heldNow p.1, p.1, p.2)
    parts.forM fun (a, p, _) => storePrepare a p.bytes.length false
    modify fun m => freeReservation m.issue.ck (m.modCur fun c => { c with seg := none })
    parts.forM fun (a, p, further) => modify fun m => partCommit e m.issue.ck a p.bytes p.no further m
    gsResult 2 (w64 (s.used + min s.rewinds 3 * 2 ^ 16))

/-! ### Flags and tokens (R349 to R351) -/

/-- R349: waits until a word in memory satisfies a relation. -/
def slotGsFlgw (t : Trig) : M Unit := do
  let x ← operand64 t.src
  let a ← port64 15 0
  let b ← port64 15 1
  let c ← port64 15 2
  let w := if tst c.toNat 3 then 4 else 8
  require (fld c.toNat 63 4 == 0 && decide (fld c.toNat 2 0 < 6)) Cause.illegalSlot c
  let acc ← check .read w w x
  let e ← read
  modify fun m => flushOwn e m.issue.ck acc.loc m
  let bs ← seenByContext acc (← get).cur.stq (← readAtHome acc w)
  let v := ofBytes bs
  if relation (fld c.toNat 2 0) (8 * w) ((v &&& b.toNat) % 2 ^ (8 * w)) (a.toNat % 2 ^ (8 * w)) = some true then
    modify fun m => acquireDie m.issue.ck m
    gsResult 10 (w64 v)
  else block (.flag x a b c) x true

/-- R350 -/
def slotGsTokw (t : Trig) : M Unit := do
  waitToken (← operand64 t.src) (fun k => decide (1 ≤ k) && decide (k ≤ 6)) 18

/-- R351 -/
def slotGsWto (t : Trig) : M Unit := do
  let x ← operand64 t.src
  require (fld x.toNat 63 32 == 0 && x != 0) Cause.illegalSlot x
  gsResult 2 ((← get).issue.start.csr.waitTo.setWidth 64)
  modify (requestCsr 0x030 x.toNat true)

/-- GS_JOIN: Joins or creates a membership set. (R345) -/
def execGsJoin (t : Trig) (s : State) : Out :=
  slotStep (.gsJoin t) t.guard (slotGsJoin t) s

/-- GS_LEAV: Leaves a membership set. (R345) -/
def execGsLeav (t : Trig) (s : State) : Out :=
  slotStep (.gsLeav t) t.guard (slotGsLeav t) s

/-- GS_MEMB: Reads a set's phase and member count. (R345) -/
def execGsMemb (t : Trig) (s : State) : Out :=
  slotStep (.gsMemb t) t.guard (slotGsMemb t) s

/-- GS_BARR: Arrives at a barrier, optionally waiting for the phase. (R346) -/
def execGsBarr (t : Trig) (s : State) : Out :=
  slotStep (.gsBarr t) t.guard (slotGsBarr t) s

/-- GS_BARW: Waits for a barrier phase to complete. (R346) -/
def execGsBarw (t : Trig) (s : State) : Out :=
  slotStep (.gsBarw t) t.guard (slotGsBarw t) s

/-- GS_RDV: Arrives at a rendezvous slot and waits for the round. (R347) -/
def execGsRdv (t : Trig) (s : State) : Out :=
  slotStep (.gsRdv t) t.guard (slotGsRdv t) s

/-- GS_SEGB: Opens a static schedule segment. (R348) -/
def execGsSegb (t : Trig) (s : State) : Out :=
  slotStep (.gsSegb t) t.guard (slotGsSegb t) s

/-- GS_SEGC: Commits a segment's held stores. (R348) -/
def execGsSegc (t : Trig) (s : State) : Out :=
  slotStep (.gsSegc t) t.guard (slotGsSegc t) s

/-- GS_FLGW: Waits until a memory word satisfies a relation. (R349) -/
def execGsFlgw (t : Trig) (s : State) : Out :=
  slotStep (.gsFlgw t) t.guard (slotGsFlgw t) s

/-- GS_TOKW: Waits on a token of any kind. (R350) -/
def execGsTokw (t : Trig) (s : State) : Out :=
  slotStep (.gsTokw t) t.guard (slotGsTokw t) s

/-- GS_WTO: Sets the wait time-out. (R351) -/
def execGsWto (t : Trig) (s : State) : Out :=
  slotStep (.gsWto t) t.guard (slotGsWto t) s
end Sys2Proof.Machine
end

