-- ==== Sys2Proof/Machine/Streams.lean ====
section
/-! DEFINITION. Streams and counts: generators, edge conversion, one step of a pass, early stop and promotion
(R69 to R80, R237 to R241). -/

namespace Sys2Proof.Machine

/-! ### Generators (R70 to R72) -/

/-- Direction numbers m_1 to m_12 of dimension 2 (R70). -/
def sobolDir : List Nat := [1, 3, 5, 15, 17, 51, 85, 255, 257, 771, 1285, 3855]

/-- The point of step i: the XOR of m_j × 2^(12−j) over the bits j − 1 of i (R70). -/
def sobolPoint (ms : List Nat) (i : Nat) : Nat :=
  (ms.zipIdx.map fun p => if tst i p.2 then p.1 * 2 ^ (11 - p.2) else 0).foldl (· ^^^ ·) 0

/-- Dimension 1 reverses the bits of i (R70). -/
def sobol1 (i : Nat) : Nat := sobolPoint (List.replicate 12 1) i
def sobol2 (i : Nat) : Nat := sobolPoint sobolDir i

/-- LaneShift (R71). -/
def laneShift (seed : W32) (k : Nat) : Nat :=
  let x := seed + BitVec.ofNat 32 (k * 0x6A2F58C3)
  let x := x ^^^ (x >>> 16)
  let x := x * 0x3B1D947F
  let x := x ^^^ (x >>> 15)
  fld x.toNat 31 20

/-- The generator values of n lanes at a point, for L = 2^k (R72). -/
def genValues (point k : Nat) (seed : W32) (n : Nat) : List Nat :=
  (List.range n).map fun j => (point &&& (mask k * 2 ^ (12 - k))) ^^^ laneShift seed j

/-! ### Edge conversion (R74 to R76) -/

/-- Elements of an edge row, padded to 128 (R74). -/
def padRow (xs : List (BitVec 13)) : List (BitVec 13) := xs ++ List.replicate (128 - xs.length) 0

/-- The auto-shift of a vector or tile: the largest sh with RNE(Mx × 2^sh) ≤ 4095 (R75). -/
def autoShift (xs : List Num) : Int :=
  let top := xs.foldl (fun (best : Option (Nat × Int)) x =>
    match x, best with
    | .fin _ m e _, none => if m = 0 then none else some (m, e)
    | .fin _ m e _, some b => if m != 0 && above m e false b.1 b.2 then some (m, e) else some b
    | _, b => b) none
  match top with
  | none => 0
  | some (m, e) =>
    let sh : Int := 11 - (m.log2 : Int) - e
    if roundAt 0 false m (e + sh) false 0 0 ≤ 4095 then sh else sh - 1

/-- The edge value of an element (R75), with its underflow and invalid marks (R76). -/
def edgeElem (sh : Int) (x : Num) : BitVec 13 × Bool × Bool :=
  match x with
  | .fin neg m e _ =>
    let q := if m = 0 then 0 else roundAt 0 false m (e + sh) false 0 0
    (BitVec.ofNat 13 (b2n neg * 2 ^ 12 + q), m != 0 && q == 0, false)
  | _ => (0, false, true)

/-- q and sign of an edge element. -/
def elemQ (x : BitVec 13) : Nat := x.toNat % 2 ^ 12
def elemNeg (x : BitVec 13) : Bool := x.getLsbD 12

/-- The bipolar edge value (R69). -/
def bipolar (x : BitVec 13) : Nat :=
  if elemNeg x then (4096 - elemQ x) / 2 else (4096 + elemQ x) / 2

/-- The value that a mode's stream carries (R77): bipolar in XNOR. -/
def edgeValue (mode : Nat) (x : BitVec 13) : Nat := if mode = 1 then bipolar x else elemQ x

/-! ### Cells (R77) -/

/-- The stream bits of a row of elements against the generator values, bit j for lane j. -/
def streamBits (mode : Nat) (row : List (BitVec 13)) (gs : List Nat) : Nat :=
  packLanes 1 ((row.zip gs).map fun p => b2n (decide (p.2 < edgeValue mode p.1)))

/-- The signs of the first n elements of a row. -/
def signBits (n : Nat) (row : List (BitVec 13)) : Nat := packLanes 1 ((row.take n).map fun x => b2n (elemNeg x))

/-- Masks by column from rows by lane: bit k of column n is entry n of row k. -/
def columnMasks (n : Nat) (rows : List (List Nat)) : List Nat :=
  rows.foldr (fun row cols => cols.zipWith (fun c b => 2 * c + b) row) (List.replicate n 0)

/-- Counter change of one output at one step (R77): a and b hold the lanes' bits, d the lanes of unequal signs. -/
def cellChange (mode k a b d : Nat) : Int :=
  match mode with
  | 1 => (k : Int) - popN (a ^^^ b) 128
  | 2 => (popN (a &&& b) 128 : Int) - 2 * popN (a &&& b &&& d) 128
  | 3 => popN (a ^^^ b) 128
  | 5 => popN (a ||| b) 128
  | _ => popN (a &&& b) 128

/-- The promotion value P (R77). -/
def countToP (mode : Nat) (c : Int) (k s : Nat) : Int := if mode = 1 then 2 * c - (k : Int) * s else c

/-- A counter held at its bounds, and whether it was carried beyond them (R238). -/
def clampCount (x : Int) : Int × Bool :=
  let lim : Int := 2 ^ 20
  if x < -lim then (-lim, true) else if lim - 1 < x then (lim - 1, true) else (x, false)

/-! ### One step of a pass (R238, R240, R241) -/

/-- Bit i of a 128-bit row or column mark, set or cleared. -/
def setBit (x : BitVec 128) (i : Nat) (b : Bool) : BitVec 128 :=
  (x &&& ~~~(1#128 <<< i)) ||| (if b then 1#128 <<< i else 0)

/-- The counters of a row. -/
def Arr.counts (x : Arr) (m : Nat) : List Int := x.cnt.get (List.replicate 128 0) m

/-- The accumulators of a row. -/
def Arr.accs (x : Arr) (m : Nat) : List W32 := x.acc.get (List.replicate 128 0) m

/-- A row of a bank. -/
def Bank.row (b : Bank) (r : Nat) : List (BitVec 13) := b.rows.get (List.replicate 128 0) r

/-- Does a row whose counts these are stop after step sp of a pass of len steps (R240)? -/
def stopsNow (c : ArrCfg) (counts : List Int) (sp len : Nat) : Bool :=
  let xs := c.cols.map fun n => counts.getD n 0
  let top := xs.foldl max (-(2 ^ 21))
  let rest := xs.erase top
  let second := rest.foldl max (-(2 ^ 21))
  let lead := top - second
  let dc : Int := if c.mode = 2 then 2 * c.k else c.k
  if c.rule = 1 then decide (dc * ((len - sp : Nat) : Int) < lead)
  else if c.rule = 2 then decide ((c.margin : Int) ≤ lead)
  else false

/-- One step of the pass over row m: counters, s[m], overflow, and early stop. -/
def rowStep (c : ArrCfg) (p : Pass) (as bs : List Nat) (da db : List Nat) (x : Arr) (m : Nat) : Arr :=
  if p.runc && x.stopped.getLsbD m then x
  else
    let a := as.getD m 0
    let sa := da.getD m 0
    let old := x.counts m
    let new := old.zipIdx.map fun q =>
      if q.2 < c.n then clampCount (q.1 + cellChange c.mode c.k a (bs.getD q.2 0) (sa ^^^ db.getD q.2 0)) else (q.1, false)
    let counts := new.map (·.1)
    let anyOvf := new.any (·.2)
    let stop := p.runc && stopsNow c counts (p.step + 1) (2 ^ p.k)
    { x with cnt := x.cnt.put m counts, steps := x.steps.put m (satN (x.steps.get 0 m + 1) 32),
             ovf := if anyOvf then setBit x.ovf m true else x.ovf,
             stopped := if stop then setBit x.stopped m true else x.stopped,
             stop := if stop then x.stop.put m (p.step + 1) else x.stop }

/-- One generator step of the pass in progress (R238), and whether it left a counter at a bound. -/
def stepPass (c : ArrCfg) (p : Pass) (x : Arr) : Arr × Bool :=
  let ga := genValues (sobol1 p.step) p.k p.seedA c.k
  let gb := if c.mode = 3 || c.mode = 4 || c.mode = 5 then ga else genValues (sobol2 p.step) p.k p.seedB c.k
  let as := (List.range c.m).map fun m => streamBits c.mode (x.aF.row m) ga
  let bs := columnMasks c.n (gb.zipIdx.map fun g => (x.bF.row g.2).map fun e => b2n (decide (g.1 < edgeValue c.mode e)))
  let da := if c.mode = 2 then (List.range c.m).map fun m => signBits c.k (x.aF.row m) else []
  let db :=
    if c.mode = 2 then columnMasks c.n ((List.range c.k).map fun k => (x.bF.row k).map fun e => b2n (elemNeg e)) else []
  let y := (List.range c.m).foldl (rowStep c p as bs da db) { x with ovf := 0 }
  ({ y with ovf := x.ovf ||| y.ovf, pass := some { p with step := p.step + 1 } }, y.ovf != 0)

/-- The active rows as marks. -/
def activeRows (m : Nat) : BitVec 128 := BitVec.ofNat 128 (mask m)

/-- Has the pass in progress ended (R241)? -/
def passOver (c : ArrCfg) (p : Pass) (x : Arr) : Bool :=
  decide (2 ^ p.k ≤ p.step) || (p.runc && decide (x.stopped &&& activeRows c.m = activeRows c.m))

/-- A row of an sq.runc pass that did not stop takes stop step L (R241). -/
def endStops (c : ArrCfg) (p : Pass) (x : Arr) : Arr :=
  if p.runc then
    (List.range c.m).foldl (fun x m =>
      if x.stopped.getLsbD m then x else { x with stop := x.stop.put m (2 ^ p.k) }) x
  else x

/-- The greatest number of steps that an active row ran in the pass (R256). -/
def passLength (c : ArrCfg) (p : Pass) (x : Arr) : Nat :=
  if p.runc then (List.range c.m).foldl (fun a m => max a (x.stop.get 0 m)) 0 else 2 ^ p.k

/-! ### Clearing and promotion (R78, R237, R239, R265) -/

/-- Clear the counter state of the active rows; outputs outside the extents keep theirs (R237, R239). -/
def clearRows (c : ArrCfg) (x : Arr) : Arr :=
  let keep := ~~~(activeRows c.m)
  { x with
    cnt := (List.range c.m).foldl (fun t m =>
      t.put m ((x.counts m).zipIdx.map fun q => if q.2 < c.n then 0 else q.1)) x.cnt
    steps := x.steps.filter fun (q : Nat × Nat) => decide (c.m ≤ q.1)
    stop := x.stop.filter fun (q : Nat × Nat) => decide (c.m ≤ q.1)
    stopped := x.stopped &&& keep, ovf := x.ovf &&& keep, rowInv := x.rowInv &&& keep, colInv := 0 }

/-- Clear the accumulators of the active outputs (R239). -/
def clearAccs (c : ArrCfg) (x : Arr) : Arr :=
  { x with acc := (List.range c.m).foldl (fun t m =>
      t.put m ((x.accs m).zipIdx.map fun q => if q.2 < c.n then 0 else q.1)) x.acc }

/-- Scale2 (R78): y × 2^e, rounded to nearest even. -/
def scale2 (y : Num) (e : Int) : Num :=
  match y with
  | .fin n m x r => .fin n m (x + e) r
  | y => y

/-- Promotion of one output (R78). -/
def promote (mode k s : Nat) (c : Int) (sa sb : W32) (sha shb : Int) (acc : W32) : W32 :=
  let t1 := mul32 sa.toNat sb.toNat
  let t2 := rne32 (Num.mul (f32 t1) (.ofInt (countToP mode c k s)))
  let t3 := rne32 (scale2 (f32 (rne32 (Num.div (f32 t2) (.ofInt s)))) (24 - sha - shb))
  BitVec.ofNat 32 (add32 acc.toNat t3)

/-- Is an FP32 encoding a NaN? -/
def isNan32 (x : W32) : Bool := (f32 x.toNat).isNan

/-- Promote every active row and clear its counter state (R78, R265): the array and its completion value (R256). -/
def promoteRows (c : ArrCfg) (x : Arr) : Arr × Nat :=
  let rows := (List.range c.m).filter fun m => x.steps.get 0 m != 0
  let new (m : Nat) : List W32 := (x.accs m).zipIdx.map fun q =>
    if q.2 < c.n then
      if x.rowInv.getLsbD m || x.colInv.getLsbD q.2 then 0x7FC00000
      else promote c.mode c.k (x.steps.get 0 m) ((x.counts m).getD q.2 0) (x.aF.scale.get 0 m) (x.bF.scale.get 0 0)
        (x.aF.shift.get 0 m) (x.bF.shift.get 0 0) q.1
    else q.1
  let accs := rows.foldl (fun t m => t.put m (new m)) x.acc
  let nan := rows.any fun m => ((accs.get [] m).take c.n).any isNan32
  let anyOvf := rows.any fun m => x.ovf.getLsbD m
  (clearRows c { x with acc := accs }, satN rows.length 8 + b2n nan * 2 ^ 8 + b2n anyOvf * 2 ^ 9)

end Sys2Proof.Machine
end

