-- ==== Sys2Proof/Machine/Arrays.lean ====
section
/-! DEFINITION. Stream arrays: regions and the tile fetch unit, the command queue, leases, spill and restore, and the
events of arrays (R226 to R251, R255, R256, R262, R263, R271, R272). -/

namespace Sys2Proof.Machine

/-! ### Regions (R234, R255) -/

/-- The C address of an L address of a task's core, as ag.cvtc gives it (R197, R234). -/
def cvtFor (who : Who) (a : W64) : W64 :=
  if apOf a = 1 ∧ fld a.toNat 57 22 = 0 then
    w64 (aliasOf a * 2 ^ 61 + 2 * 2 ^ 58 + who.rank * 2 ^ 22 + (who.spadBase + a.toNat % 2 ^ 22) % 2 ^ 22)
  else a

/-- How many bytes from a on the checks of R186 find alike: to the next end of a page, an extent entry, an aperture or
a scratchpad. -/
def alikeBytes (m : Mach) (who : Who) (a : W64) : Nat :=
  match apOf a with
  | 0 =>
    let v := fld a.toNat 47 0
    let page := 2 ^ 21 - v % 2 ^ 21
    (who.extents.flatMap fun x => [x.va, x.va + x.len]).foldl (fun n b => if v < b then min n (b - v) else n) page
  | 2 =>
    let o := fld a.toNat 21 0
    let size := spadBytes (m.core (coreKey who.die (fld a.toNat 29 22))).l1
    if o < size then size - o else 2 ^ 22 - o
  | 3 => 4096 - a.toNat % 4096
  | _ => 1

/-- What the check of a region finds. -/
inductive Span where
  | ok
  | stop (s : Stop)
  deriving DecidableEq, Repr

/-- Check every byte of n bytes from a, in ascending order, under steps 1, 3 and 4 of R186; L addresses are converted
first, and a fault carries the address in the form the program gave it (R234, R255). -/
def spanCheck (e : Env) (who : Who) (k : Right) (a : W64) : Nat → Nat → Mach → Span × Mach
  | 0, _, m => (.ok, m)
  | fuel + 1, n, m =>
    if n = 0 then (.ok, m)
    else
      let c := cvtFor who a
      let (x, m) := checkAcc e who k 1 1 c m
      match x with
      | .fault f => (.stop (.trap f a), m)
      | .absent => (.stop (.page a), m)
      | .ok _ =>
        let len := min n (alikeBytes m who c)
        spanCheck e who k (addA a (w64 len)) fuel (n - len) m

/-- The pieces that a region of n bytes can fall into. -/
def spanFuel (who : Who) (n : Nat) : Nat := 2 * who.extents.length + n / 4096 + 8

/-- Who the array of a task's group accesses memory for. -/
def arrWho (m : Mach) (tk : Nat) : Who :=
  let t := m.task tk
  { die := tk / 3072, rank := tk % 3072 / 16, frame := tk % 3072, extents := t.extents, spadBase := t.spadBase, spadSize := 0 }

/-- Fields of the control word of loads and drains (R261). -/
def ctlStride (x : W64) : Nat := fld x.toNat 39 16
def ctlBuf (x : W64) : Nat := fld x.toNat 15 8
def ctlFmt (x : W64) : Nat := fld x.toNat 1 0

/-- Is a control word well formed (R261)? -/
def ctlOk (x : W64) : Bool :=
  fld x.toNat 63 40 == 0 && fld x.toNat 7 2 == 0 && ctlFmt x != 3 && ctlStride x % 64 == 0

/-- Row r of a region that starts at t. -/
def rowAddr (t ctl : W64) (r : Nat) : W64 := addA t (w64 (r * ctlStride ctl))

/-- Element bits of a load (R261): A or B side. -/
def loadBits (sideB : Bool) (fmt : Nat) : Nat :=
  if sideB then (if fmt = 0 then 8 else 4) else (if fmt = 0 then 8 else 16)

/-- Element format of a load (R261). -/
def loadElem (sideB : Bool) (fmt : Nat) : Elem :=
  if sideB then (match fmt with | 0 => .flt .e4m3 | 1 => .int 4 | _ => .flt .e2m1)
  else match fmt with | 0 => .flt .e4m3 | 1 => .flt .bf16 | _ => .flt .fp16

/-- Rows, elements a row, and scale bytes of a load (R262). -/
def loadShape (c : ArrCfg) (sideB : Bool) : Nat × Nat × Nat := if sideB then (c.k, c.n, 4) else (c.m, c.k, 4 * c.m)

/-- The bytes of one row of a load (R262). -/
def loadRowBytes (c : ArrCfg) (sideB : Bool) (ctl : W64) : Nat :=
  ceilDiv ((loadShape c sideB).2.1 * loadBits sideB (ctlFmt ctl)) 8

/-- Steps 1 and 2 of R186 for the start of a region: aperture, then alignment (R255); the arrays know no P (R234). -/
def startCheck (noP : Bool) (a : W64) (al : Nat) : Span :=
  if !(wellFormedAddr a) || (noP && apOf a = 3) then .stop (.trap Cause.aperture a)
  else if a.toNat % al ≠ 0 then .stop (.trap Cause.align a)
  else .ok

/-- Go on with a further check when the first found nothing. -/
def Span.andThen (x : Span × Mach) (f : Mach → Span × Mach) : Span × Mach :=
  match x with
  | (.ok, m) => f m
  | (s, m) => (s, m)

/-- Check the regions of a load (R261, R262): the rows, then the scales. -/
def loadCheck (e : Env) (who : Who) (c : ArrCfg) (sideB : Bool) (t ctl b : W64) (m : Mach) : Span × Mach :=
  let (rows, _, sc) := loadShape c sideB
  let n := loadRowBytes c sideB ctl
  let x := Span.andThen (startCheck true t 64, m) fun m =>
    (List.range rows).foldl (fun x r =>
      Span.andThen x fun m => spanCheck e who .read (rowAddr t ctl r) (spanFuel who n) n m) (.ok, m)
  Span.andThen x fun m =>
    Span.andThen (startCheck true b 4, m) fun m => spanCheck e who .read b (spanFuel who sc) sc m

/-- Bytes of a drained element (R263). -/
def drainBytes (fmt : Nat) : Nat := if fmt = 0 then 4 else 2

/-- Check the region of a drain (R263). -/
def drainCheck (e : Env) (who : Who) (c : ArrCfg) (t ctl : W64) (m : Mach) : Span × Mach :=
  let n := c.n * drainBytes (ctlFmt ctl)
  Span.andThen (startCheck true t 64, m) fun m =>
    (List.range c.m).foldl (fun x r =>
      Span.andThen x fun m => spanCheck e who .write (rowAddr t ctl r) (spanFuel who n) n m) (.ok, m)

/-- The address of a chunk of sq.tile (R270): AddA of the base and a signed step per chunk. -/
def chunkAddr (base : W64) (step : Nat) (c : Nat) : W64 := addA base (w64I (c * sgn step 32))

/-- The operands of a chunk's load from the descriptor (R270): t, control word, scale address. -/
def chunkLoad (desc : List W64) (sideB : Bool) (c : Nat) : W64 × W64 × W64 :=
  let w (k : Nat) : W64 := desc.getD k 0
  let o := if sideB then 2 else 0
  let steps := (w (if sideB then 7 else 6)).toNat
  (chunkAddr (w o) (fld steps 31 0) c, w (if sideB then 5 else 4), chunkAddr (w (o + 1)) (fld steps 63 32) c)

/-- Is B loaded for chunk 0 only (R270)? -/
def tileHeld (a : W64) : Bool := tst a.toNat 17
/-- Is each pass of the tile an sq.runc (R270)? -/
def tileRunc (a : W64) : Bool := tst a.toNat 16
/-- Chunks of the tile (R270). -/
def tileCount (a : W64) : Nat := fld a.toNat 12 0

/-- Check the load regions of the chunks from c on (R270). -/
def tileCheck (e : Env) (who : Who) (cfg : ArrCfg) (desc : List W64) (a : W64) (c : Nat) (m : Mach) : Span × Mach :=
  (List.range (tileCount a)).foldl (fun x j =>
    if j < c then x
    else
      let x :=
        if j = 0 || !(tileHeld a) then
          Span.andThen x fun m =>
            let (t, ctl, b) := chunkLoad desc true j
            loadCheck e who cfg true t ctl b m
        else x
      Span.andThen x fun m =>
        let (t, ctl, b) := chunkLoad desc false j
        loadCheck e who cfg false t ctl b m) (.ok, m)

/-! ### The tile fetch unit (R234 to R236) -/

/-- What one load has read so far: lines with their severity, the lines to pin. -/
structure Fetch where
  lines : SMap Got := []
  pins : List Nat := []
  high : Nat := 0
  low : Nat := 0

/-- The agent of a tile fetch (R380). -/
def fetchAgent (who : Who) : Agent := ⟨2, who.die, who.frame⟩

/-- Pin or unpin lines in the L2 (R217, R235). -/
def pinLines (up : Bool) (ls : List Nat) (m : Mach) : Mach :=
  ls.foldl (fun m la =>
    match m.l2.find la with
    | some l => { m with l2 := m.l2.put la { l with pins := if up then l.pins + 1 else l.pins - 1 } }
    | none => m) m

/-- Read the line of an access once (R234): at the bank or at the home slice, where the line is pinned (R235). -/
def fetchLine (e : Env) (who : Who) (a : Acc) (f : Fetch) (m : Mach) : Got × Fetch × Mach :=
  let id := match a.loc with
    | .spad c o => 2 ^ 60 + spadAddr c o / 128
    | .phys pa => pa / 128
    | .peer _ _ _ _ => 2 ^ 61
  match f.lines.find id with
  | some g => (g, f, m)
  | none =>
    let (g, m) := match a.loc with
      | .spad c o => spadRead e (fetchAgent who) c o m
      | .phys pa => homeRead e (fetchAgent who) a.legend (pa / 128) m
      | .peer _ _ _ _ => (⟨0, 3⟩, m)
    let pin := match a.loc with
      | .phys pa => if (m.l2.find (pa / 128)).isSome then [pa / 128] else []
      | _ => []
    (g, { lines := f.lines.put id g, pins := f.pins ++ pin, high := f.high + b2n (g.sev == 3),
          low := f.low + b2n (g.sev == 2) }, pinLines true pin m)

/-- Charge a fetch or drain of n bytes of memory to a buffer and to the task (R225, R403). -/
def fetchTraffic (e : Env) (who : Who) (l : Loc) (buf n : Nat) (m : Mach) : Mach :=
  match l with
  | .spad _ _ => m
  | l => (m.addHot who.die buf n).charge (taskKey who.die who.frame) (linkEnergy e m who.die l n)

/-- Read n bytes from a, each none in a HIGH line (R236); none at all when a page is absent, which holds the fetch
(R234), or when the region has come to lie beyond its core's scratchpad (log entry 112). -/
def tileRead (e : Env) (who : Who) (buf : Nat) (a : W64) : Nat → Nat → Fetch → Mach →
    Option (List (Option Byte) × Fetch × Mach)
  | 0, _, f, m => some ([], f, m)
  | fuel + 1, n, f, m =>
    if n = 0 then some ([], f, m)
    else
      let (x, m) := checkAcc e who .read 1 1 (cvtFor who a) m
      match x with
      | .ok acc =>
        let o := (cvtFor who a).toNat % 128
        let len := min n (128 - o)
        let (g, f, m) := fetchLine e who acc f m
        let bs : List (Option Byte) :=
          if g.sev = 3 then List.replicate len none else ((bytesOf g.data 128).drop o |>.take len).map some
        match tileRead e who buf (addA a (w64 len)) fuel (n - len) f (fetchTraffic e who acc.loc buf len m) with
        | some (r, f, m) => some (bs ++ r, f, m)
        | none => none
      | _ => none

/-- Element j of w bits in a row's bytes, none when it lies in a HIGH line (R64, R236). -/
def rowElem (bs : List (Option Byte)) (w j : Nat) : Option Nat :=
  let at_ (i : Nat) : Option Nat := ((bs.getD i none).map (·.toNat))
  if w = 4 then (at_ (j / 2)).map fun b => laneN b 4 (j % 2)
  else if w = 8 then at_ j
  else match at_ (2 * j), at_ (2 * j + 1) with
    | some lo, some hi => some (hi * 256 + lo)
    | _, _ => none

/-- Elements of a row as values; an element of a HIGH line is invalid (R236). -/
def rowValues (t : Elem) (w n : Nat) (bs : List (Option Byte)) : List Num :=
  (List.range n).map fun j => match rowElem bs w j with
    | some x => t.read x
    | none => .nan

/-- The FP32 scales in bytes; one in a HIGH line has no stated value (log entry 5). -/
def scaleValues (bs : List (Option Byte)) (m : Mach) : List W32 × Mach :=
  (List.range (bs.length / 4)).foldl (fun (ss, m) j =>
    let b := (bs.drop (4 * j)).take 4
    if b.any Option.isNone then
      let (w, m) := m.fresh
      (ss ++ [w.setWidth 32], m)
    else (ss ++ [BitVec.ofNat 32 (ofBytes (b.map fun x => x.getD 0))], m)) ([], m)

/-- Add up rows of converted elements: the edge rows, and the underflow and invalid counts (R76). -/
def convertRow (sh : Int) (xs : List Num) : List (BitVec 13) × Nat × List Bool :=
  let es := xs.map (edgeElem sh)
  (es.map (·.1), (es.filter fun e => e.2.1).length, es.map fun e => e.2.2)

/-- The bank that a load of A makes (R74 to R76, R262).  The scales of rows outside M_act, of which the load reads none,
become +0 (log entry 84). -/
def bankA (rows : List (List Num)) (scales : List W32) : Bank :=
  let cs := rows.map fun xs => (autoShift xs, convertRow (autoShift xs) xs)
  { rows := cs.zipIdx.map fun p => (p.2, padRow p.1.2.1)
    scale := scales.zipIdx.map fun p => (p.2, p.1)
    shift := cs.zipIdx.map fun p => (p.2, p.1.1)
    inv := cs.zipIdx.foldl (fun (v : BitVec 128) p => setBit v p.2 (p.1.2.2.2.any id)) 0
    under := (cs.map fun p => p.2.2.1).sum
    bad := (cs.map fun p => (p.2.2.2.filter id).length).sum }

/-- The bank that a load of B makes: one shift for the tile (R74 to R76, R262). -/
def bankB (rows : List (List Num)) (scale : W32) : Bank :=
  let sh := autoShift rows.flatten
  let cs := rows.map (convertRow sh)
  { rows := cs.zipIdx.map fun p => (p.2, padRow p.1.1)
    scale := [(0, scale)]
    shift := [(0, sh)]
    inv := cs.foldl (fun (v : BitVec 128) p =>
      p.2.2.zipIdx.foldl (fun (v : BitVec 128) q => if q.1 then setBit v q.2 true else v) v) 0
    under := (cs.map fun p => p.2.1).sum
    bad := (cs.map fun p => (p.2.2.filter id).length).sum }

/-- Lines that an array pins (R235). -/
def Arr.pinned (x : Arr) : Nat := x.aF.pins.length + x.aB.pins.length + x.bF.pins.length + x.bB.pins.length

/-- Unpin every line of an array. -/
def unpinAll (ak : Nat) (m : Mach) : Mach :=
  let x := m.arr ak
  let m := pinLines false (x.aF.pins ++ x.aB.pins ++ x.bF.pins ++ x.bB.pins) m
  m.modArr ak fun x => { x with aF := { x.aF with pins := [] }, aB := { x.aB with pins := [] },
                                bF := { x.bF with pins := [] }, bB := { x.bB with pins := [] } }

/-- The completion value of a load (R256). -/
def loadValue (b : Bank) (f : Fetch) : Nat :=
  satN b.under 16 + satN b.bad 16 * 2 ^ 16 + satN f.high 15 * 2 ^ 32 + satN f.low 15 * 2 ^ 47

/-- Carry out a load into the back bank of a side (R233, R235, R262): its completion value, or none while it waits. -/
def runLoad (e : Env) (ak tk : Nat) (c : ArrCfg) (sideB : Bool) (t ctl b : W64) (m : Mach) : Option (Nat × Mach) :=
  let who := arrWho m tk
  let (rows, cols, sc) := loadShape c sideB
  let n := loadRowBytes c sideB ctl
  let w := loadBits sideB (ctlFmt ctl)
  let elem := loadElem sideB (ctlFmt ctl)
  let buf := ctlBuf ctl
  match tileRead e who buf b (sc + 1) sc {} m with
  | none => none
  | some (ss, f, m) =>
    let got := (List.range rows).foldl (fun (x : Option (List (List Num) × Fetch × Mach)) r =>
      match x with
      | none => none
      | some (vs, f, m) =>
        match tileRead e who buf (rowAddr t ctl r) (n + 1) n f m with
        | none => none
        | some (bs, f, m) => some (vs ++ [rowValues elem w cols bs], f, m)) (some ([], f, m))
    match got with
    | none => none
    | some (vs, f, m) =>
      let (scales, m) := scaleValues ss m
      let old := if sideB then (m.arr ak).bB else (m.arr ak).aB
      if 1024 < (m.arr ak).pinned - old.pins.length + f.pins.length then none
      else
        let bank := if sideB then bankB vs (scales.headD 0) else bankA vs scales
        let m := pinLines false old.pins m
        let bank := { bank with pins := f.pins }
        let m := m.modArr ak fun x =>
          if sideB then { x with bB := bank, freshB := true } else { x with aB := bank, freshA := true }
        some (loadValue bank f, m)

/-- The bytes of a row of accumulators in the drain's format (R63, R68, R263). -/
def drainRow (c : ArrCfg) (fmt : Nat) (accs : List W32) : List Byte :=
  (accs.take c.n).flatMap fun x =>
    match fmt with
    | 0 => bytesOf x.toNat 4
    | 1 => bytesOf (Fmt.bf16.round 0 0 (f32 x.toNat)) 2
    | _ => bytesOf (Fmt.fp16.round 0 0 (f32 x.toNat)) 2

/-- Write n bytes from a as a drain, line by line (R234, R263); none when a page is absent. -/
def tileWrite (e : Env) (who : Who) (buf : Nat) (a : W64) : Nat → List Byte → Mach → Option Mach
  | 0, _, m => some m
  | fuel + 1, bs, m =>
    if bs.isEmpty then some m
    else
      let (x, m) := checkAcc e who .write 1 1 (cvtFor who a) m
      match x with
      | .ok acc =>
        let len := min bs.length (128 - (cvtFor who a).toNat % 128)
        let part := bs.take len
        let m := match acc.loc with
          | .spad c o => (spadWrite e (fetchAgent who) c o part m).2
          | .phys pa => (homeWrite e (fetchAgent who) acc.legend pa part m).2
          | .peer _ _ _ _ => m
        tileWrite e who buf (addA a (w64 len)) fuel (bs.drop len) (fetchTraffic e who acc.loc buf len m)
      | _ => none

/-- Carry out a drain; none while a page is absent. -/
def runDrain (e : Env) (ak tk : Nat) (c : ArrCfg) (t ctl : W64) (m : Mach) : Option Mach :=
  let who := arrWho m tk
  let x := m.arr ak
  (List.range c.m).foldl (fun (r : Option Mach) i =>
    r.bind fun m =>
      let bs := drainRow c (ctlFmt ctl) (x.accs i)
      tileWrite e who (ctlBuf ctl) (rowAddr t ctl i) (bs.length + 1) bs m) (some m)

/-! ### The command queue (R243, R244) -/

def Cmd.isLoad (c : Cmd) : Bool := c.op == 6 || c.op == 7
def Cmd.isPass (c : Cmd) : Bool := c.op == 8 || c.op == 9

/-- May later commands start while this one is not complete?  A load, a drain or a started pass (R243). -/
def Cmd.passable (c : Cmd) : Bool := c.isLoad || c.op == 13 || (c.isPass && c.phase == .started)

/-- The stream of an access at an address (R244): 0 scratchpad-read, 1 memory-read, 2 and 3 the writes. -/
def streamOf (write : Bool) (a : W64) : Nat := b2n (apOf a == 0) + 2 * b2n write

/-- The commands before position j. -/
def Arr.before (x : Arr) (j : Nat) : List Cmd := x.queue.take j

/-- Has every command before position j started? -/
def Arr.openAt (x : Arr) (j : Nat) : Bool := (x.before j).all Cmd.passable

/-- The first command that no later one may pass, with its position: the only one that may start a pass, a promotion, a
clear, a configuration, a read or a barrier. -/
def Arr.head (x : Arr) : Option (Nat × Cmd) :=
  (x.queue.zipIdx.find? fun p => !p.1.passable).map fun p => (p.2, p.1)

/-- May a load of a side from an address move at position j: it has started, and no earlier load shares its stream or
its bank (R243, R244)? -/
def Arr.loadFree (x : Arr) (j : Nat) (sideB : Bool) (t : W64) : Bool :=
  x.openAt j && (x.before j).all fun c =>
    !c.isLoad || (streamOf false c.t != streamOf false t && (c.op == 7) != sideB)

/-- Must the array not start work other than what has started: a spill is due, and a checkpoint has been reached (R245)? -/
def Arr.held (x : Arr) : Bool := x.spill && !x.leaving

/-- The key of the task that holds an array. -/
def arrTask (m : Mach) (ak : Nat) : Option Nat := (m.arr ak).holder.map fun f => taskKey (ak / 8) f

/-- Replace the command at position j. -/
def Arr.setCmd (x : Arr) (j : Nat) (c : Cmd) : Arr := { x with queue := x.queue.set j c }

/-- Complete the command at position j (R256). -/
def finishCmd (ak tk j : Nat) (v : Nat) (m : Mach) : Mach :=
  match (m.arr ak).queue[j]? with
  | none => m
  | some c => completeToken tk 4 c.tok (w64 v) (m.modArr ak fun x => { x with queue := x.queue.eraseIdx j })

/-- Marks of a step's completion value in that of its sq.tile (R256). -/
def tileMarks (op v : Nat) : Nat :=
  if op = 6 || op = 7 then
    b2n (fld v 15 0 != 0) * 2 ^ 26 + b2n (fld v 46 32 != 0) * 2 ^ 27 + b2n (fld v 61 47 != 0) * 2 ^ 28
  else if op = 8 || op = 9 then fld v 25 24 * 2 ^ 24 + b2n (fld v 23 16 != 0) * 2 ^ 29
  else 0

/-- A tile ended after a restore (R272)? -/
def Cmd.ended (c : Cmd) : Bool := tst c.val 62

/-- The chunk whose loads a tile may make now, with the bit that its loads are recorded from: the chunk itself until its
pass starts, the next one from then on (R271). -/
def Cmd.loadChunk (c : Cmd) : Option (Nat × Nat) :=
  if c.ended then none
  else if !(tst c.prog 2) then (if c.chunk < tileCount c.a then some (c.chunk, 0) else none)
  else if c.chunk + 1 < tileCount c.a then some (c.chunk + 1, 4) else none

/-- Does a chunk of a tile load B? -/
def Cmd.loadsB (c : Cmd) (chunk : Nat) : Bool := chunk == 0 || !(tileHeld c.a)

/-- The next load of a tile: chunk, progress bit, and side (R271). -/
def Cmd.nextLoad (c : Cmd) : Option (Nat × Nat × Bool) :=
  match c.loadChunk with
  | none => none
  | some (k, bit) =>
    if c.loadsB k && !(tst c.prog bit) then some (k, bit, true)
    else if !(tst c.prog (bit + 1)) then some (k, bit + 1, false)
    else none

/-- The loads that a tile has still to make for a chunk, by chunk and side: both start together (R243, R271). -/
def Cmd.loadsLeft (c : Cmd) : List (Nat × Bool) :=
  match c.loadChunk with
  | none => []
  | some (k, bit) =>
    (if c.loadsB k && !(tst c.prog bit) then [(k, true)] else []) ++ (if tst c.prog (bit + 1) then [] else [(k, false)])

/-- Is a tile between the first load of a chunk and the start of that chunk's pass, where it has no checkpoint (R271)? -/
def Cmd.begun (c : Cmd) : Bool := c.op == 10 && !c.ended && c.prog % 4 != 0 && !(tst c.prog 2)

/-- Has a tile's chunk both its loads? -/
def Cmd.loaded (c : Cmd) : Bool := (tst c.prog 0 || !(c.loadsB c.chunk)) && tst c.prog 1

/-- A load that a queue position may make now: its configuration, side, address, control word and scales, and the
progress bit of a tile's (R243, R244, R262, R271). -/
structure LoadNow where
  cfg : ArrCfg
  sideB : Bool
  t : W64
  ctl : W64
  b : W64
  bit : Option Nat
  deriving DecidableEq, Repr

/-- The load that position j may make now, if any. -/
def Arr.loadNow (x : Arr) (j : Nat) : Option LoadNow :=
  match x.queue[j]? with
  | none => none
  | some c =>
    if c.isLoad then
      if x.loadFree j (c.op == 7) c.t then some ⟨c.cfg, c.op == 7, c.t, c.a, c.b, none⟩ else none
    else if c.op = 10 then
      match c.nextLoad with
      | some (k, bit, sideB) =>
        let (t, ctl, b) := chunkLoad c.desc sideB k
        if x.loadFree j sideB t && !(x.held && x.pass.isNone && c.prog % 4 == 0) then
          some ⟨c.cfg, sideB, t, ctl, b, some bit⟩
        else none
      | none => none
    else none

/-- ARRAY_LOAD at queue position k (R233, R262, R271). -/
def arrayLoadAt (e : Env) (ak j : Nat) (m : Mach) : Mach :=
  let x := m.arr ak
  match arrTask m ak, x.queue[j]?, x.loadNow j with
  | some tk, some c, some l =>
    match runLoad e ak tk l.cfg l.sideB l.t l.ctl l.b m with
    | some (v, m) =>
      match l.bit with
      | none => finishCmd ak tk j v m
      | some bit => m.modArr ak fun x => x.setCmd j { c with prog := c.prog ||| 2 ^ bit, val := c.val ||| tileMarks 6 v }
    | none => m
  | _, _, _ => m

/-- Does a started load wait for lines that the running pass pins, so that it completes only once the pass has ended
(R235)?  Such a pass goes on past a checkpoint, since the load completes before a spill (R245). -/
def loadAwaitsPass (e : Env) (ak tk : Nat) (m : Mach) : Bool :=
  let freed := m.modArr ak fun x => { x with aF := { x.aF with pins := [] }, bF := { x.bF with pins := [] } }
  (List.range (m.arr ak).queue.length).any fun j =>
    match (m.arr ak).loadNow j with
    | some l =>
      let run (m : Mach) : Option (Nat × Mach) := runLoad e ak tk l.cfg l.sideB l.t l.ctl l.b m
      (run m).isNone && (run freed).isSome
    | none => false

/-- ARRAY_DRAIN at queue position k (R263). -/
def arrayDrainAt (e : Env) (ak j : Nat) (m : Mach) : Mach :=
  let x := m.arr ak
  match arrTask m ak, x.queue[j]? with
  | some tk, some c =>
    if c.op = 13 && x.openAt j
        && (x.before j).all fun b => b.op != 13 || streamOf true b.t != streamOf true c.t then
      match runDrain e ak tk c.cfg c.t c.a m with
      | some m => finishCmd ak tk j 0 m
      | none => m
    else m
  | _, _ => m

/-! ### Passes -/

/-- Cycles between two starts on a die (R249). -/
def startGap (x : Die) : Nat := if x.didt = 0 then 0 else ceilDiv 17100 x.didt

/-- May a start be made on a die now: the last one is far enough back, and none that has been granted is still to be made? -/
def startClear (e : Env) (d : Nat) (m : Mach) : Bool :=
  let x := m.die d
  (match x.lastStart with
    | some t => decide (t + startGap x ≤ e.clk.cycle)
    | none => true)
  && (List.range 8).all fun a => !(m.arr (arrKey d a)).startOk

/-- Put a request for a start in its place: in the order of the requests, those of one cycle by array number (R249). -/
def insertStart (r : Nat × Nat) : List (Nat × Nat) → List (Nat × Nat)
  | [] => [r]
  | y :: l => if r.1 < y.1 || (r.1 == y.1 && r.2 < y.2) then r :: y :: l else y :: insertStart r l

/-- Has an array performed no step for 64 cycles (R249)? -/
def Arr.quiet (e : Env) (x : Arr) : Bool := match x.lastStep with | none => true | some t => decide (t + 64 ≤ e.clk.cycle)

/-- Ask for a start when the array is quiet (R249); a start that has to wait is counted (R405). -/
def askStart (e : Env) (ak : Nat) (m : Mach) : Mach :=
  let x := m.arr ak
  if x.quiet e && !x.startOk then
    let clear := startClear e (ak / 8) m
    m.modDie (ak / 8) fun d =>
      if d.startAsk.any fun r => r.2 == ak % 8 then d
      else { d with startAsk := insertStart (e.clk.cycle, ak % 8) d.startAsk,
                    startDelays := d.startDelays + b2n (!(d.startAsk.isEmpty && clear)) }
  else m

/-- Start a pass (R233, R238, R241): fresh banks swap, the sticky marks are set, and sq.runc forgets its last stops. -/
def startPass (c : ArrCfg) (p : Pass) (x : Arr) : Arr :=
  let x := if x.freshA then { x with aF := x.aB, aB := x.aF, freshA := false } else x
  let x := if x.freshB then { x with bF := x.bB, bB := x.bF, freshB := false } else x
  { x with
    rowInv := x.rowInv ||| (x.aF.inv &&& activeRows c.m), colInv := x.colInv ||| x.bF.inv
    stopped := if p.runc then x.stopped &&& ~~~(activeRows c.m) else x.stopped
    pass := some p }

/-- Mark that an invalid mark reached a row or a column of the pass (R256). -/
def passInvalid (c : ArrCfg) (x : Arr) : Nat :=
  b2n ((x.aF.inv &&& activeRows c.m) != 0 || x.bF.inv != 0) * 2 ^ 25

/-- ARRAY_PASS_START (R238, R243, R264, R271). -/
def arrayPassStartAt (e : Env) (ak : Nat) (m : Mach) : Mach :=
  let x := m.arr ak
  match x.head with
  | none => m
  | some (j, c) =>
    let ready := x.pass.isNone && (!x.held || c.begun) && (x.before j).all fun b => !b.isLoad
    let start (runc : Bool) (c' : Cmd) (m : Mach) : Mach :=
      let m := m.modArr ak fun x =>
        let x := startPass c.cfg { k := c.k, seedA := c.seedA, seedB := c.seedB, runc := runc, step := 0 } x
        x.setCmd j { c' with val := c'.val ||| passInvalid c.cfg x }
      askStart e ak m
    if !ready then m
    else if c.isPass then start (c.op == 9) { c with phase := .started } m
    else if c.op = 10 && c.loaded && !(tst c.prog 2) && !c.ended then
      start (tileRunc c.a) { c with prog := c.prog ||| 4 } m
    else m

/-- The command whose pass runs, with its position. -/
def Arr.running (x : Arr) : Option (Nat × Cmd) :=
  (x.queue.zipIdx.find? fun p =>
    (p.1.isPass && p.1.phase == .started) || (p.1.op == 10 && tst p.1.prog 2 && !(tst p.1.prog 3))).map
      fun p => (p.2, p.1)

/-- End the pass that has run its steps (R235, R241, R256). -/
def endPass (ak tk j : Nat) (c : Cmd) (p : Pass) (m : Mach) : Mach :=
  let x := endStops c.cfg p (m.arr ak)
  let stops := if p.runc then popN (x.stopped &&& activeRows c.cfg.m).toNat 128 else 0
  let v := passLength c.cfg p x + stops * 2 ^ 16
  let m := pinLines false (x.aF.pins ++ x.bF.pins) m
  let y := { x with pass := none, aF := { x.aF with pins := [] }, bF := { x.bF with pins := [] } }
  let m := { m with arrs := m.arrs.put ak y }
  if c.op = 10 then
    m.modArr ak fun x => x.setCmd j { c with prog := c.prog ||| 8, val := c.val ||| tileMarks 8 v }
  else finishCmd ak tk j (c.val ||| v) m

/-- ARRAY_PASS_STEP (R238, R240, R241, R249): one step, at most one a cycle, once a start has been granted if the array is
quiet, from which step the die's next start keeps its distance; the step that ends the pass ends it.  A spill that is due
stops it at a checkpoint (R245). -/
def arrayPassStepAt (e : Env) (ak : Nat) (m : Mach) : Mach :=
  let x := m.arr ak
  match arrTask m ak, x.pass, x.running with
  | some tk, some p, some (j, c) =>
    if x.quiet e && !x.startOk then askStart e ak m
    else if x.lastStep = some e.clk.cycle then m
    else if x.held && p.step != 0 && p.step % 64 = 0 && !(loadAwaitsPass e ak tk m) then m
    else
      let (y, bound) := stepPass c.cfg p x
      let m := if x.startOk then m.modDie (ak / 8) fun d => { d with lastStart := some e.clk.cycle } else m
      let y := { y with lastStep := some e.clk.cycle, startOk := false }
      let c := { c with val := c.val ||| b2n bound * 2 ^ 24 }
      let m := { m with arrs := m.arrs.put ak (y.setCmd j c) }
      let m := m.charge tk (12 * c.cfg.m * c.cfg.k * c.cfg.n)
      match y.pass with
      | some p => if passOver c.cfg p y then endPass ak tk j c p m else m
      | none => m
  | _, _, _ => m

/-! ### Promotion, clear, configuration, barrier and reads -/

/-- May the array start a promotion or clear at its head: no pass runs, and every earlier drain has read (R243)? -/
def Arr.idleAt (x : Arr) (j : Nat) : Bool := x.pass.isNone && !x.held && (x.before j).all fun c => c.op != 13

/-- ARRAY_PROMOTION (R78, R265, R271, R272). -/
def arrayPromotionAt (ak : Nat) (m : Mach) : Mach :=
  let x := m.arr ak
  match arrTask m ak, x.head with
  | some tk, some (j, c) =>
    if !(x.idleAt j) then m
    else if c.op = 12 then
      let (y, v) := promoteRows c.cfg x
      finishCmd ak tk j v { m with arrs := m.arrs.put ak y }
    else if c.op = 10 && tst c.prog 3 then
      let (y, _) := promoteRows c.cfg x
      let m := { m with arrs := m.arrs.put ak y }
      let v := c.val / 2 ^ 13 * 2 ^ 13 + (c.chunk + 1)
      if c.ended || tileCount c.a ≤ c.chunk + 1 then finishCmd ak tk j v m
      else m.modArr ak fun x => x.setCmd j { c with chunk := c.chunk + 1, prog := c.prog / 16, val := v }
    else m
  | _, _ => m

/-- ARRAY_CLEAR (R239, R265). -/
def arrayClearAt (ak : Nat) (m : Mach) : Mach :=
  let x := m.arr ak
  match arrTask m ak, x.head with
  | some tk, some (j, c) =>
    if x.idleAt j && c.op = 11 then
      let y := clearRows c.cfg x
      let y := if tst c.t.toNat 0 then clearAccs c.cfg y else y
      finishCmd ak tk j 0 { m with arrs := m.arrs.put ak y }
    else m
  | _, _ => m

/-- ARRAY_CFG_APPLY (R237, R260). -/
def arrayCfgApplyAt (ak : Nat) (m : Mach) : Mach :=
  let x := m.arr ak
  match arrTask m ak, x.head with
  | some tk, some (j, c) =>
    if c.op = 2 && !x.held then finishCmd ak tk j 0 (m.modArr ak fun x => { x with cfg := c.cfg }) else m
  | _, _ => m

/-- The stream that a load or drain uses. -/
def Cmd.stream (c : Cmd) : Nat := streamOf (c.op == 13) c.t

/-- ARRAY_BARRIER (R244, R268). -/
def arrayBarrierAt (ak : Nat) (m : Mach) : Mach :=
  let x := m.arr ak
  match arrTask m ak, x.head with
  | some tk, some (j, c) =>
    if c.op = 16 && !x.held && (x.before j).all fun b => !(b.isLoad || b.op == 13) || !(tst c.t.toNat b.stream) then
      finishCmd ak tk j 0 m
    else m
  | _, _ => m

/-- The value of an sq.rdc (R266). -/
def rdcValue (x : Arr) (t : Nat) : W64 :=
  let n := fld t 6 0
  let r := fld t 14 8
  match fld t 17 16 with
  | 0 => w64I ((x.counts r).getD n 0)
  | 1 => ((x.accs r).getD n 0).setWidth 64
  | _ => w64 (x.steps.get 0 r)

/-- The status of an edge bank (R267). -/
def Bank.status (b : Bank) : W64 := w64 (satN b.under 16 + satN b.bad 16 * 2 ^ 16)

/-- The value of an sq.stat (R267). -/
def statValue (x : Arr) (k : Task) (c : ArrCfg) (t : Nat) : W64 :=
  let r := fld t 14 8
  match fld t 4 0 with
  | 0 =>
    w64 ((List.range c.m).foldl (fun a i => max a (x.stop.get 0 i)) 0
      + popN (x.stopped &&& activeRows c.m).toNat 128 * 2 ^ 16 + b2n (x.ovf != 0) * 2 ^ 24
      + b2n (x.rowInv != 0 || x.colInv != 0) * 2 ^ 25 + c.rule * 2 ^ 32 + c.mode * 2 ^ 36)
  | 1 => x.aF.status
  | 2 => x.aB.status
  | 3 => x.bF.status
  | 4 => x.bB.status
  | 5 => w64 x.stopped.toNat
  | 6 => w64 (x.stopped.toNat / 2 ^ 64)
  | 7 =>
    w64 (x.stop.get 0 r + b2n (x.stopped.getLsbD r) * 2 ^ 16 + b2n (x.ovf.getLsbD r) * 2 ^ 17
      + b2n (x.rowInv.getLsbD r) * 2 ^ 18 + x.steps.get 0 r * 2 ^ 32)
  | s => k.classes.get 0 (s - 8)

/-- The results among a list that wait for an array read get its value. -/
def fillRead (id : Nat) (v : W64) (rs : List Res) : List Res :=
  rs.map fun r => if r.wait = .arr id then { r with value := v.setWidth 512, wait := .none } else r

/-- Deliver the value of an array read: to the result in its context, and to what a stopped bundle keeps of it (R50), or
kept with the task while the result waits in the frame (R112, R273). -/
def landRead (tk id : Nat) (v : W64) (m : Mach) : Mach :=
  let keeps (r : Option Resume) : Option Resume := r.map fun r => { r with own := fillRead id v r.own }
  let m := m.modTaskCtx tk fun c => { c with resume := keeps c.resume, hid := keeps c.hid }
  if (m.taskCtx tk).res.any fun r => r.wait == .arr id then
    m.modTaskCtx tk fun c => { c with res := fillRead id v c.res }
  else m.modTask tk fun t => { t with reads := t.reads.put id v }

/-- ARRAY_READ (R243, R266, R267). -/
def arrayReadAt (ak : Nat) (m : Mach) : Mach :=
  let x := m.arr ak
  match arrTask m ak, x.head with
  | some tk, some (j, c) =>
    if (c.op = 14 || c.op = 15) && x.pass.isNone && !x.held then
      let v := if c.op = 14 then rdcValue x c.t.toNat else statValue x (m.task tk) c.cfg c.t.toNat
      landRead tk c.rid v (m.modArr ak fun x => { x with queue := x.queue.eraseIdx j })
    else m
  | _, _ => m

/-! ### Leases (R229 to R232) -/

/-- The array of a task's group. -/
def groupArr (tk : Nat) : Nat := arrKey (tk / 3072) (tk % 3072 / 16 / 24)

/-- The frame numbers of an array's group that ask for the lease. -/
def askers (m : Mach) (ak : Nat) : List Nat :=
  (m.tasks.filter fun (p : Nat × Task) => p.2.asking && p.2.st != .free && groupArr p.1 == ak).map
    fun (p : Nat × Task) => p.1 % 3072

/-- Does a task other than the holder ask (R230)? -/
def othersAsk (m : Mach) (ak : Nat) : Bool := (askers m ak).any fun f => (m.arr ak).holder != some f

/-- Has the current grant ended: 64 commands or 2^20 cycles (R230)? -/
def Arr.grantOver (e : Env) (x : Arr) : Bool := decide (64 ≤ x.cmds) || decide (x.start + 2 ^ 20 ≤ e.clk.cycle)

/-- Begin a grant for the holder. -/
def Arr.renew (e : Env) (x : Arr) : Arr := { x with start := e.clk.cycle, cmds := 0 }

/-- A task asks for the lease; a holder whose grant ended with its 64th command loses it at the next checkpoint (R230). -/
def askLease (tk : Nat) (m : Mach) : Mach :=
  let t := m.task tk
  let ak := groupArr tk
  let m := m.modTask tk fun t => { t with asking := true }
  if t.lease = .held && decide (64 ≤ (m.arr ak).cmds) then m.modArr ak fun x => { x with spill := true } else m

/-- Give up the lease that a task holds: the queued commands complete first (R232, R258). -/
def releaseLease (tk : Nat) (m : Mach) : Mach :=
  if (m.task tk).lease = .held then
    (m.modTask tk fun t => { t with lease := .none, asking := false }).modArr (groupArr tk)
      fun x => { x with leaving := true, spill := false }
  else m

/-- A halted task's lease (R232): held, it is given up; suspended, it is asked for, to finish the spilled commands. -/
def haltLease (tk : Nat) (m : Mach) : Mach :=
  match (m.task tk).lease with
  | .held => releaseLease tk m
  | .suspended => m.modTask tk fun t => { t with asking := true }
  | .none => m.modTask tk fun t => { t with asking := false }

/-- Pre-emption of a holder: its array's state is to be spilled at the next checkpoint (R118, R232). -/
def preemptLease (tk : Nat) (m : Mach) : Mach :=
  if (m.task tk).lease = .held then m.modArr (groupArr tk) fun x => { x with spill := true } else m

/-- GRANT_END (R230). -/
def grantEndAt (e : Env) (ak : Nat) (m : Mach) : Mach :=
  let x := m.arr ak
  if x.holder.isNone || x.leaving || !(x.grantOver e) then m
  else if othersAsk m ak then m.modArr ak fun x => { x with spill := true }
  else m.modArr ak (Arr.renew e)

/-- An array that no task holds (R228, R230): only the previous holder, the time of the last step, and a run of
cycles still to be traced stay. -/
def Arr.vacant (x : Arr) : Arr := { prev := x.prev, lastStep := x.lastStep, run := x.run }

/-- Take an array out of the queue for starts. -/
def dropStart (ak : Nat) (m : Mach) : Mach :=
  m.modDie (ak / 8) fun d => { d with startAsk := d.startAsk.filter fun r => r.2 != ak % 8 }

/-- LEASE_FREE (R232). -/
def leaseFreeAt (ak : Nat) (m : Mach) : Mach :=
  let x := m.arr ak
  if x.holder.isSome && x.leaving && x.queue.isEmpty then
    dropStart ak ((unpinAll ak m).modArr ak Arr.vacant)
  else m

/-! ### Spill slots (R246 to R248) -/

/-- The physical address of a task's spill slot. -/
def slotAddr (m : Mach) (d f : Nat) : Nat := (m.die d).saSpill + f * 2 ^ 18

/-- n-byte fields of a map's first entries. -/
def fieldList (n count : Nat) (f : Nat → Nat) : List Byte := (List.range count).flatMap fun i => bytesOf (f i) n

/-- A 16-byte mark field. -/
def markBytes (x : BitVec 128) : List Byte := bytesOf x.toNat 16

/-- The scale and shift words of a B bank. -/
def bScale (b : Bank) : List Byte := bytesOf ((b.scale.get 0 0).toNat + wrapI (b.shift.get 0 0) 16 * 2 ^ 32) 8

/-- A queue entry of the slot (R247). -/
def entryBytes (tk : Nat) (c : Cmd) : List Byte :=
  bytesOf (128 + c.op) 8 ++ bytesOf c.addr.toNat 8
  ++ bytesOf (if c.op = 14 || c.op = 15 then 0 else (tokenHandle 4 (tk / 3072) (tk % 3072) c.tok).toNat) 8
  ++ bytesOf c.a.toNat 8 ++ bytesOf c.b.toNat 8 ++ bytesOf c.c.toNat 8 ++ bytesOf c.t.toNat 8
  ++ bytesOf (if c.op = 10 then c.chunk + c.prog % 16 * 2 ^ 32 else 0) 8

/-- The elements of a bank (R247): 13 bits each, row by row. -/
def bankBytes (b : Bank) : List Byte :=
  (List.range 128).flatMap fun r => bytesOf (packLanes 13 ((b.row r).map (·.toNat))) 208

/-- The first 4 KiB of the slot (R247). -/
def slotHeader (tk : Nat) (x : Arr) : List Byte :=
  let p := x.pass.getD { k := 0, seedA := 0, seedB := 0, runc := false, step := 0 }
  let c := x.cfg
  let stat (b : Bank) : List Byte := bytesOf (satN b.under 16) 2 ++ bytesOf (satN b.bad 16) 2
  bytesOf (1 + b2n x.freshA * 2 ^ 8 + b2n x.freshB * 2 ^ 9 + b2n x.pass.isSome * 2 ^ 16 + b2n p.runc * 2 ^ 17
    + p.k * 2 ^ 24) 8
  ++ bytesOf p.step 8
  ++ bytesOf (p.seedA.toNat + p.seedB.toNat * 2 ^ 32) 8
  ++ bytesOf (c.mode + c.m * 2 ^ 8 + c.k * 2 ^ 16 + c.n * 2 ^ 24 + c.rule * 2 ^ 32 + c.cols.length * 2 ^ 37) 8
  ++ bytesOf c.margin 8
  ++ fieldList 1 16 (fun i => c.cols.getD i 0)
  ++ List.replicate 8 0
  ++ markBytes x.rowInv ++ markBytes x.colInv ++ markBytes x.stopped ++ markBytes x.ovf
  ++ fieldList 4 128 (fun i => x.steps.get 0 i)
  ++ fieldList 2 128 (fun i => x.stop.get 0 i)
  ++ fieldList 4 128 (fun i => (x.aF.scale.get 0 i).toNat)
  ++ fieldList 2 128 (fun i => wrapI (x.aF.shift.get 0 i) 16)
  ++ fieldList 4 128 (fun i => (x.aB.scale.get 0 i).toNat)
  ++ fieldList 2 128 (fun i => wrapI (x.aB.shift.get 0 i) 16)
  ++ bScale x.bF ++ bScale x.bB
  ++ stat x.aF ++ stat x.aB ++ stat x.bF ++ stat x.bB
  ++ markBytes x.aF.inv ++ markBytes x.aB.inv ++ markBytes x.bF.inv ++ markBytes x.bB.inv
  ++ List.replicate 544 0
  ++ x.queue.flatMap (entryBytes tk) ++ List.replicate (64 * (16 - x.queue.length)) 0

/-- The parts of a slot that a spill writes, with their offsets (R247). -/
def slotParts (tk : Nat) (x : Arr) : List (Nat × List Byte) :=
  [(0, slotHeader tk x), (0x1000, bankBytes x.aF), (0x7800, bankBytes x.bF),
   (0xE000, (List.range 128).flatMap fun m => fieldList 3 128 fun n => wrapI ((x.counts m).getD n 0) 24),
   (0x1A000, (List.range 128).flatMap fun m => fieldList 4 128 fun n => ((x.accs m).getD n 0).toNat)]
  ++ (if x.freshA then [(0x2A000, bankBytes x.aB)] else [])
  ++ (if x.freshB then [(0x30800, bankBytes x.bB)] else [])

/-- Write bytes line by line under RAW, charged to the task (R403). -/
def writeRaw (e : Env) (ag : Agent) (pa : Nat) (bs : List Byte) (m : Mach) : Mach :=
  (List.range (bs.length / 128)).foldl (fun m k =>
    (homeWrite e ag 0 (pa + 128 * k) ((bs.drop (128 * k)).take 128) m).2) (chargeHub e ag bs.length m)

/-- Read n bytes under RAW, charged to the task (R403); the mark says whether a line was HIGH. -/
def readRaw (e : Env) (ag : Agent) (pa n : Nat) (m : Mach) : List Byte × Bool × Mach :=
  let (parts, bad, m) := (List.range (n / 128)).foldl (fun (ls, bad, m) k =>
    let (g, m) := homeRead e ag 0 (pa / 128 + k) m
    (bytesOf g.data 128 :: ls, bad || g.sev == 3, m)) (([] : List (List Byte)), false, chargeHub e ag n m)
  (parts.reverse.flatten, bad, m)

/-- Has the array come to a checkpoint with every started load and drain complete (R245, R271)?  A chunk of a tile whose
first load has been made goes on to its pass. -/
def Arr.atCheckpoint (x : Arr) : Bool :=
  let moving := x.queue.zipIdx.any fun p =>
    x.openAt p.2 && (p.1.isLoad || p.1.op == 13
      || (p.1.op == 10 && p.1.nextLoad.isSome && (x.pass.isSome || p.1.prog % 4 != 0)))
  let step := match x.pass with
    | none => true
    | some p => p.step != 0 && p.step % 64 == 0
  step && !moving && (x.pass.isSome || !(x.queue.zipIdx.any fun p => x.openAt p.2 && p.1.begun))

/-- ARRAY_SPILL (R230, R245, R247): the holder's lease becomes suspended. -/
def arraySpillAt (e : Env) (ak : Nat) (m : Mach) : Mach :=
  let x := m.arr ak
  match x.holder, arrTask m ak with
  | some f, some tk =>
    if !x.spill || x.leaving || !x.atCheckpoint then m
    else
      let d := ak / 8
      let m := unpinAll ak m
      let m :=
        if ownBacked e m d (slotAddr m d f) && ownBacked e m d (slotAddr m d f + 2 ^ 18 - 1) then
          (slotParts tk x).foldl (fun m p => writeRaw e ⟨2, d, f⟩ (slotAddr m d f + p.1) p.2 m) m
        else m
      let m := { m with spills := m.spills.put tk { queue := x.queue, issueCfg := x.issueCfg } }
      dropStart ak ((m.modTask tk fun t => { t with lease := .suspended }).modArr ak Arr.vacant)
  | _, _ => m

/-- A bank from its part of a slot. -/
def bankOf (els : List Byte) (scale : SMap W32) (shift : SMap Int) (inv : BitVec 128) (under bad : Nat) : Bank :=
  { rows := (List.range 128).map fun r =>
      (r, (lanesOf (ofBytes ((els.drop (208 * r)).take 208)) 13 128).map (BitVec.ofNat 13))
    scale := scale, shift := shift, inv := inv, under := under, bad := bad }

/-- The queue of a slot: its entries over what the slot has no room for. -/
def queueOf (h : List Byte) (rest : List Cmd) : List Cmd :=
  rest.zipIdx.map fun p =>
    let w (k : Nat) : Nat := fieldAt h (0xC00 + 64 * p.2 + 8 * k) 8
    { p.1 with op := w 0 % 32, addr := w64 (w 1), tok := w 2 % 2 ^ 32, a := w64 (w 3), b := w64 (w 4), c := w64 (w 5),
               t := w64 (w 6), chunk := if w 0 % 32 = 10 then w 7 % 2 ^ 32 else p.1.chunk,
               prog := if w 0 % 32 = 10 then p.1.prog / 16 * 16 + fld (w 7) 35 32 else p.1.prog }

/-- The array that a slot holds (R247, R248).  Its reserved bits and a format other than 1 are ignored (log entry 100). -/
def arrayOf (e : Env) (f : Nat) (prev : Arr) (r : SpillRest) (h ae be cs as ab bb : List Byte) : Arr :=
  let w0 := fieldAt h 0 8
  let w3 := fieldAt h 0x18 8
  let sds := fieldAt h 0x10 8
  let ncol := fld w3 41 37
  let freshA := tst w0 8
  let freshB := tst w0 9
  let sc (o : Nat) : SMap W32 := (List.range 128).map fun i => (i, BitVec.ofNat 32 (fieldAt h (o + 4 * i) 4))
  let sh (o : Nat) : SMap Int := (List.range 128).map fun i => (i, sgn (fieldAt h (o + 2 * i) 2) 16)
  let bsc (o : Nat) : SMap W32 := [(0, BitVec.ofNat 32 (fieldAt h o 4))]
  let bsh (o : Nat) : SMap Int := [(0, sgn (fieldAt h (o + 4) 2) 16)]
  let mk (o : Nat) : BitVec 128 := BitVec.ofNat 128 (fieldAt h o 16)
  let st (o : Nat) : Nat := fieldAt h o 2
  { holder := some f, prev := f, start := e.clk.cycle, lastStep := prev.lastStep, run := prev.run
    lastAddr := (r.queue.getLast?.map (·.addr)).getD 0
    queue := queueOf h r.queue, issueCfg := r.issueCfg, freshA := freshA, freshB := freshB
    aF := bankOf ae (sc 0x380) (sh 0x580) (mk 0x9A0) (st 0x990) (st 0x992)
    aB := if freshA then bankOf ab (sc 0x680) (sh 0x880) (mk 0x9B0) (st 0x994) (st 0x996)
          else { under := st 0x994, bad := st 0x996 }
    bF := bankOf be (bsc 0x980) (bsh 0x980) (mk 0x9C0) (st 0x998) (st 0x99A)
    bB := if freshB then bankOf bb (bsc 0x988) (bsh 0x988) (mk 0x9D0) (st 0x99C) (st 0x99E)
          else { under := st 0x99C, bad := st 0x99E }
    cfg := { mode := fld w3 2 0, m := fld w3 15 8, k := fld w3 23 16, n := fld w3 31 24, rule := fld w3 33 32,
             cols := (List.range ncol).map fun i => fieldAt h (0x28 + i) 1, margin := fld (fieldAt h 0x20 8) 20 0 }
    rowInv := mk 0x40, colInv := mk 0x50, stopped := mk 0x60, ovf := mk 0x70
    steps := (List.range 128).map fun i => (i, fieldAt h (0x80 + 4 * i) 4)
    stop := (List.range 128).map fun i => (i, fieldAt h (0x280 + 2 * i) 2)
    cnt := (List.range 128).map fun m =>
      (m, (List.range 128).map fun n => sgn (fieldAt cs (3 * (128 * m + n)) 3) 21)
    acc := (List.range 128).map fun m =>
      (m, (List.range 128).map fun n => BitVec.ofNat 32 (fieldAt as (4 * (128 * m + n)) 4))
    pass := if tst w0 16 then
        some { k := fld w0 27 24, seedA := BitVec.ofNat 32 sds, seedB := BitVec.ofNat 32 (sds / 2 ^ 32),
               runc := tst w0 17, step := fld (fieldAt h 8 8) 12 0 }
      else none }

/-- What reading a tile descriptor again finds (R272): the words, a failure, or an absent page that holds the fetch. -/
inductive DescRead where
  | words (w : List W64)
  | failed
  | waits
  deriving DecidableEq, Repr

/-- Read a tile descriptor again (R272); its bytes are charged to the task (R403). -/
def readDesc (e : Env) (who : Who) (t : W64) (m : Mach) : DescRead × Mach :=
  (List.range 8).foldl (fun (r, m) k =>
    match r with
    | .words ws =>
      let a := cvtFor who (t + w64 (8 * k))
      let (x, m) := checkAcc e who .read 8 8 a m
      match x with
      | .absent => (.waits, m)
      | .fault _ => (.failed, m)
      | .ok acc =>
        let m := m.charge (taskKey who.die who.frame) (linkEnergy e m who.die acc.loc 8)
        match acc.loc with
        | .peer _ _ o _ =>
          let (g, m) := peerGot m
          (if g.sev = 3 then .failed else .words (ws ++ [w64 (laneN g.data 64 (o % 128 / 8))]), m)
        | .spad c o =>
          let (g, m) := spadRead e (fetchAgent who) c o m
          (if g.sev = 3 then .failed else .words (ws ++ [w64 (laneN g.data 64 (o % 128 / 8))]), m)
        | .phys pa =>
          let (g, m) := homeRead e (fetchAgent who) acc.legend (pa / 128) m
          (if g.sev = 3 then .failed else .words (ws ++ [w64 (laneN g.data 64 (pa % 128 / 8))]), m)
    | r => (r, m)) (DescRead.words [], m)

/-- Read and check a restored tile's descriptor (R272): the command to go on with, or none while a page is absent. -/
def recheckTile (e : Env) (who : Who) (c : Cmd) (m : Mach) : Option Cmd × Mach :=
  if c.ended then (some c, m)
  else
    let bad : Cmd := { c with val := c.val ||| 2 ^ 62 }
    let (r, m) := readDesc e who c.t m
    match r with
    | .waits => (none, m)
    | .failed => (some bad, m)
    | .words ws =>
      if !(ctlOk (ws.getD 4 0)) || !(ctlOk (ws.getD 5 0)) then (some bad, m)
      else
        let (s, m) := tileCheck e who c.cfg ws c.a (c.chunk + b2n (tst c.prog 2)) m
        match s with
        | .ok => (some { c with desc := ws }, m)
        | .stop (.page _) => (none, m)
        | .stop _ => (some bad, m)

/-- Recheck every tile of a restored queue; none while a page is absent. -/
def recheckTiles (e : Env) (who : Who) (q : List Cmd) (m : Mach) : Option (List Cmd) × Mach :=
  q.foldl (fun (r, m) c =>
    match r with
    | none => (none, m)
    | some cs =>
      if c.op = 10 then
        let (x, m) := recheckTile e who c m
        (x.map fun c => cs ++ [c], m)
      else (some (cs ++ [c]), m)) (some [], m)

/-- Complete the tokens of tiles that were ended and whose chunk has not started its pass (R272). -/
def endTiles (ak tk : Nat) (m : Mach) : Mach :=
  (m.arr ak).queue.foldl (fun m c =>
    if c.op = 10 && c.ended && !(tst c.prog 2) then
      completeToken tk 4 c.tok (w64 c.val) (m.modArr ak fun x => { x with queue := x.queue.filter fun y => y != c })
    else m) m

/-- A spill restore has failed (R248): the task freezes, a type 0x03 record is written, and the lease is free. -/
def restoreFails (e : Env) (ak tk : Nat) (m : Mach) : Mach :=
  let d := tk / 3072
  let f := tk % 3072
  let m := { m with spills := m.spills.del tk }
  let st := (m.task tk).st
  let m := m.modTask tk fun t => { t with lease := .none, asking := false }
  let m := m.modArr ak fun x => { x with prev := f }
  let m := event e d 0x03 (0xFF * 2 ^ 8 + f * 2 ^ 64 + slotAddr m d f * 2 ^ 192) m
  match st with
  | .running x =>
    let ck := ctxKey d (f / 16) x
    let m := m.modCtx ck fun c => { c with st := .frozen }
    if (m.core (ctxCore ck)).cur = some x then leaveCore ck m else m
  | _ => m.modTask tk fun t => { t with st := .frozen }

/-- The task of a grant (R230). -/
def grantTask (e : Env) (ak tk : Nat) (x : Arr) (m : Mach) : Mach :=
  let f := tk % 3072
  let halted := match (m.task tk).st with
    | .running c => (m.ctx (ctxKey (tk / 3072) (f / 16) c)).st == .halted
    | .halted => true
    | _ => false
  let m := { m with arrs := m.arrs.put ak { x with holder := some f, prev := f, start := e.clk.cycle, cmds := 0,
                                                   spill := false, leaving := halted } }
  m.modTask tk fun t => { t with lease := if halted then .none else .held, asking := false }

/-- LEASE_GRANT (R228, R230, R248, R257, R272). -/
def leaseGrantAt (e : Env) (ak : Nat) (m : Mach) : Mach :=
  let x := m.arr ak
  if x.holder.isSome then m
  else
    let far (f : Nat) : Nat := (f + 3072 - x.prev - 1) % 3072
    match (askers m ak).foldl (fun (b : Option Nat) f =>
        match b with
        | none => some f
        | some g => if far f < far g then some f else some g) none with
    | none => m
    | some f =>
      let tk := taskKey (ak / 8) f
      match m.spills.find tk with
      | none => grantTask e ak tk x.vacant m
      | some r =>
        let d := ak / 8
        let ag : Agent := ⟨2, d, f⟩
        let pa := slotAddr m d f
        if !(ownBacked e m d pa) || !(ownBacked e m d (pa + 2 ^ 18 - 1)) then restoreFails e ak tk m
        else
          let (h, b0, m1) := readRaw e ag pa 0x1000 m
          let (ae, b1, m1) := readRaw e ag (pa + 0x1000) 0x6800 m1
          let (be, b2, m1) := readRaw e ag (pa + 0x7800) 0x6800 m1
          let (cs, b3, m1) := readRaw e ag (pa + 0xE000) 0xC000 m1
          let (as, b4, m1) := readRaw e ag (pa + 0x1A000) 0x10000 m1
          let (ab, b5, m1) := if tst (fieldAt h 0 8) 8 then readRaw e ag (pa + 0x2A000) 0x6800 m1 else ([], false, m1)
          let (bb, b6, m1) := if tst (fieldAt h 0 8) 9 then readRaw e ag (pa + 0x30800) 0x6800 m1 else ([], false, m1)
          if b0 || b1 || b2 || b3 || b4 || b5 || b6 then restoreFails e ak tk m1
          else
            let y := arrayOf e f x r h ae be cs as ab bb
            let (q, m1) := recheckTiles e (arrWho m1 tk) y.queue m1
            match q with
            | none => m
            | some q =>
              let m1 := { m1 with spills := m1.spills.del tk }
              let m1 := endTiles ak tk (grantTask e ak tk { y with queue := q } m1)
              if (m1.arr ak).pass.isSome then askStart e ak m1 else m1

/-! ### Starts and cycle classes (R249, R251) -/

/-- ARRAY_START (R249): starts are made in the order they were asked for, at least ⌈17,100 / limit⌉ cycles apart.  A
request takes its turn from the cycle after it, when every request of its cycle is there. -/
def arrayStartAt (e : Env) (ak : Nat) (m : Mach) : Mach :=
  let x := m.die (ak / 8)
  let mine := match x.startAsk.head? with
    | some r => r.2 == ak % 8 && decide (r.1 < e.clk.cycle)
    | none => false
  if !mine || !(startClear e (ak / 8) m) then m
  else
    (m.modDie (ak / 8) fun x => { x with startAsk := x.startAsk.drop 1, lastStart := some e.clk.cycle }).modArr ak
      fun y => { y with startOk := true }

/-- The loads that the first command that has not started waits for, each with its side, address and control word (R243,
R244, R271): those before a pass, those before a barrier in its streams, and a tile's own. -/
def Arr.awaited (x : Arr) : List (Bool × W64 × W64) :=
  match x.head with
  | none => []
  | some (j, c) =>
    let tile := c.op == 10 && !(tst c.prog 2) && !c.ended
    let held (b : Cmd) : Bool := c.isPass || tile || (c.op == 16 && tst c.t.toNat (streamOf false b.t))
    let own := (if tile then c.loadsLeft else []).map fun l => let (t, ctl, _) := chunkLoad c.desc l.2 l.1; (l.2, t, ctl)
    (((x.before j).filter fun b => b.isLoad && held b).map fun b => (b.op == 7, b.t, b.a)) ++ own

/-- Does the first command that has not started wait for a drain (R243, R244, R271): a promotion, a clear, or a barrier
that names its stream? -/
def Arr.awaitsDrain (x : Arr) : Bool :=
  match x.head with
  | none => false
  | some (j, c) =>
    (x.before j).any fun b => b.op == 13
      && (c.op == 11 || c.op == 12 || (c.op == 10 && tst c.prog 3) || (c.op == 16 && tst c.t.toNat (streamOf true b.t)))

/-- The class of an array's cycle, as sq.stat numbers it from 0 (R251), by what the first command that has not started
waits for. -/
def Arr.cycleClass (x : Arr) : Nat :=
  if x.pass.isSome then 0
  else if x.head.isNone then (if x.queue.any fun c => c.op == 13 then 0 else 4)
  else if x.awaited.any fun l => l.1 then 1
  else if !x.awaited.isEmpty then 2
  else if x.awaitsDrain then 3
  else 0

/-- The bundle address that an array's cycle is charged to (R251): the command that does the work, the one that waits, or
the last one started. -/
def Arr.chargedTo (x : Arr) : W64 :=
  match x.running, x.head with
  | some (_, c), _ => c.addr
  | none, some (_, c) => c.addr
  | none, none => ((x.queue.find? fun c => c.op == 13).map (·.addr)).getD x.lastAddr

/-- The buffers of the memory loads that an array waits on (R225, R251). -/
def Arr.waitsOn (x : Arr) : List Nat :=
  if x.pass.isSome then []
  else ((x.awaited.filter fun l => streamOf false l.2.1 == 1).map fun l => ctlBuf l.2.2).eraseDups

/-- Trace the cycle of an array in mode 3 (R410): a run of cycles of one class, charged to one address, is a record once
it is over (log entry 85). -/
def traceClass (e : Env) (ak : Nat) (m : Mach) : Mach :=
  let x := m.arr ak
  let now : Option (Nat × W64) :=
    match x.holder with
    | some f => if (m.die (ak / 8)).trcCtl % 4 = 3 && traced (m.die (ak / 8)) f then some (x.cycleClass, x.chargedTo) else none
    | none => none
  let close (m : Mach) : Mach :=
    match x.run with
    | some (k, a, n) => traceLater e (ak / 8) (a.toNat % 2 ^ 48 + k * 2 ^ 48) n m
    | none => m
  let more := match x.run, now with
    | some (k, a, _), some r => r == (k, a)
    | _, _ => false
  if x.run.isNone && now.isNone then m
  else if more then m.modArr ak fun x => { x with run := x.run.map fun r => (r.1, r.2.1, r.2.2 + 1) }
  else (close m).modArr ak fun x => { x with run := now.map fun r => (r.1, r.2, 1) }

/-- Count and trace the cycle of every array that is held, or whose run of a class is still to be traced (R225, R251, R267,
R410), after the records that waited for room in a ring. -/
def countClasses (e : Env) (m : Mach) : Mach :=
  let m := ((m.dies.filter fun (p : Nat × Die) => !p.2.trcWait.isEmpty).map (·.1)).foldl (fun m d => traceWaiting e d m) m
  m.arrs.foldl (fun m (p : Nat × Arr) =>
    let m := traceClass e p.1 m
    match p.2.holder with
    | none => m
    | some f =>
      let tk := taskKey (p.1 / 8) f
      let k := p.2.cycleClass
      let m := m.modTask tk fun t => { t with classes := t.classes.put k (t.classes.get 0 k + 1) }
      p.2.waitsOn.foldl (fun m b => m.addHot (p.1 / 8) (256 + b) 1) m) m

/-! ### The events -/

/-- LEASE_GRANT: A free array grants its lease to the next asking task in frame order and restores its spill or gives the initial state. (R230) -/
def execLeaseGrant (d : Fin 16) (a : Fin 8) (s : State) : Out := eventStep (fun e => leaseGrantAt e (arrKey d.val a.val)) s

/-- GRANT_END: A grant ends after 64 commands or 2^20 cycles, and it either renews or leads to a spill for another asking task. (R230) -/
def execGrantEnd (d : Fin 16) (a : Fin 8) (s : State) : Out := eventStep (fun e => grantEndAt e (arrKey d.val a.val)) s

/-- ARRAY_SPILL: At the next checkpoint the array writes the holder's state to its spill slot and suspends the lease. (R247) -/
def execArraySpill (d : Fin 16) (a : Fin 8) (s : State) : Out := eventStep (fun e => arraySpillAt e (arrKey d.val a.val)) s

/-- LEASE_FREE: After release or halt, once every queued command has completed, the array discards its state and frees the lease. (R232) -/
def execLeaseFree (d : Fin 16) (a : Fin 8) (s : State) : Out := eventStep (fun _ => leaseFreeAt (arrKey d.val a.val)) s

/-- ARRAY_LOAD: An edge load reads its rows and scales, converts with auto-shift, fills the back bank and sets its fresh bit. (R262) -/
def execArrayLoad (d : Fin 16) (a : Fin 8) (k : Fin 16) (s : State) : Out :=
  eventStep (fun e => arrayLoadAt e (arrKey d.val a.val) k.val) s

/-- ARRAY_START: A quiet array's start is made once the current-rise spacing allows it. (R249) -/
def execArrayStart (d : Fin 16) (a : Fin 8) (s : State) : Out := eventStep (fun e => arrayStartAt e (arrKey d.val a.val)) s

/-- ARRAY_PASS_START: A pass starts, swaps fresh banks and fixes its L and seeds. (R238) -/
def execArrayPassStart (d : Fin 16) (a : Fin 8) (s : State) : Out :=
  eventStep (fun e => arrayPassStartAt e (arrKey d.val a.val)) s

/-- ARRAY_PASS_STEP: One generator step adds counter changes for every running row and evaluates early stop. (R238) -/
def execArrayPassStep (d : Fin 16) (a : Fin 8) (s : State) : Out :=
  eventStep (fun e => arrayPassStepAt e (arrKey d.val a.val)) s

/-- ARRAY_PROMOTION: Promotion adds each output's estimate to its FP32 accumulator and clears the promoted rows' counter state. (R78) -/
def execArrayPromotion (d : Fin 16) (a : Fin 8) (s : State) : Out :=
  eventStep (fun _ => arrayPromotionAt (arrKey d.val a.val)) s

/-- ARRAY_DRAIN: A drain writes the accumulators of the active outputs, converted, to the destination. (R263) -/
def execArrayDrain (d : Fin 16) (a : Fin 8) (k : Fin 16) (s : State) : Out :=
  eventStep (fun e => arrayDrainAt e (arrKey d.val a.val) k.val) s

/-- ARRAY_CLEAR: A clear resets the counter state of the active rows and optionally their accumulators. (R265) -/
def execArrayClear (d : Fin 16) (a : Fin 8) (s : State) : Out := eventStep (fun _ => arrayClearAt (arrKey d.val a.val)) s

/-- ARRAY_CFG_APPLY: An sq.cfg command sets the mode, extents, rule, designated set and margin when it executes. (R260) -/
def execArrayCfgApply (d : Fin 16) (a : Fin 8) (s : State) : Out :=
  eventStep (fun _ => arrayCfgApplyAt (arrKey d.val a.val)) s

/-- ARRAY_BARRIER: An sq.bar starts once every earlier access of the named streams has taken effect. (R244) -/
def execArrayBarrier (d : Fin 16) (a : Fin 8) (s : State) : Out :=
  eventStep (fun _ => arrayBarrierAt (arrKey d.val a.val)) s

/-- ARRAY_READ: An sq.rdc or sq.stat reads the array state once it has settled. (R266) -/
def execArrayRead (d : Fin 16) (a : Fin 8) (s : State) : Out := eventStep (fun _ => arrayReadAt (arrKey d.val a.val)) s

end Sys2Proof.Machine
end

