-- ==== Sys2Proof/Machine/Queues.lean ====
section
/-! DEFINITION. Launch rings and their registers, hardware work queues, and slots of the dispatcher
(R81, R82, R85, R91, R92, R97). -/

namespace Sys2Proof.Machine

/-! ### Launch rings (R81, R82) -/

/-- log2 of a ring's record count (R81). -/
def Lq.log (q : Lq) : Nat := min q.lsize 12

/-- Records written and not accepted. -/
def Lq.fill (q : Lq) : Nat := (q.tail - q.head).toNat

/-- Has the queue work (R82)? -/
def Lq.hasWork (q : Lq) : Bool := q.en && !q.halted && q.tail != q.head

/-- Is the ring full? -/
def Lq.full (q : Lq) : Bool := decide (2 ^ q.log ≤ q.fill)

/-- Does the ring overrun (R82)? -/
def Lq.overrun (q : Lq) : Bool := decide (2 ^ q.log < q.fill)

/-- The virtual address of ring record h (R82). -/
def Lq.slotVa (q : Lq) (h : W32) : Nat := (q.base + 256 * (h.toNat % 2 ^ q.log)) % 2 ^ 48

/-- The hardware slot that a queue holds (R91). -/
def slotOf (x : Die) (q : Nat) : Option Nat := (x.slots.find? fun (p : Nat × Option Nat) => p.2 == some q).map (·.1)

/-- Follow a change of a queue's work: a queue without work gives up its slot, if it holds one, which lapses its raise, and
its waiting time runs while it has work without a slot (R91, R92). -/
def noteWork (e : Env) (d q : Nat) (m : Mach) : Mach :=
  let x := m.lq (lqKey d q)
  if x.hasWork then
    if (slotOf (m.die d) q).isSome then m.modLq (lqKey d q) fun x => { x with since := none }
    else m.modLq (lqKey d q) fun x => { x with since := some (x.since.getD e.clk.tick) }
  else
    let held := (slotOf (m.die d) q).isSome
    let m := m.modDie d fun y => { y with slots := y.slots.filter fun (p : Nat × Option Nat) => p.2 != some q }
    m.modLq (lqKey d q) fun x => { x with since := none, boost := if held then 0 else x.boost, page := none }

/-- Halt a queue with a cause, with its event record (R85, R393).  A queue halted while it is disabled resumes at the next
write that sets en (R81, R82; log entry 72). -/
def haltQueue (e : Env) (d q cause : Nat) (m : Mach) : Mach :=
  let m := m.modLq (lqKey d q) fun x =>
    { x with halted := true, cause := cause, off := !x.en, lid := none,
             part := match x.lid with | some l => some l | none => x.part }
  noteWork e d q (event e d 0x01 (cause * 2 ^ 8 + q * 2 ^ 64) m)

/-- Halt a queue whose ring overruns, enabled or not (R82). -/
def checkOverrun (e : Env) (d q : Nat) (m : Mach) : Mach :=
  let x := m.lq (lqKey d q)
  if !x.halted && x.overrun then haltQueue e d q 5 m else noteWork e d q m

/-- Turn the record at a halted queue's head into one that is not admitted further (R82, skip). -/
def dropPart (d q : Nat) (m : Mach) : Option Nat × Mach :=
  let x := m.lq (lqKey d q)
  (x.part, (m.modLq (lqKey d q) fun x => { x with part := none }))

/-- What a write of a queue's control register does to the queue, beside launches (R81, R82): the queue, whether a write
with skip has moved its head.  The cause of a queue that is resumed reads 0 (log entry 105). -/
def writeCtl (v : Nat) (x : Lq) : Lq × Bool :=
  let set (x : Lq) : Lq := { x with dev := tst v 16, lsize := fld v 11 8, en := tst v 0 }
  if x.halted then
    if tst v 0 && x.off then
      let moves := tst v 12 && x.tail != x.head
      ({ set x with halted := false, cause := 0, off := false, head := if moves then x.head + 1 else x.head }, moves)
    else ({ set x with off := !(tst v 0) || x.off }, false)
  else (set x, false)

/-! ### Hardware work queues (R97) -/

/-- Does an admitted task of a launch wait to be placed (R87, R89)? -/
def launchWaits (m : Mach) (l : Nat) : Bool :=
  (m.die (m.launch l).die).entries.any fun z => z.launch == l && !z.placed

/-- A closed, empty queue is free once every task of its launch has halted (R97). -/
def settleHwq (d w : Nat) (m : Mach) : Mach :=
  let x := m.hwq (hwqKey d w)
  let l := m.launch x.launch
  if x.st = .closed && x.items.isEmpty && (!l.live || (l.admitted && l.running == 0 && !(launchWaits m x.launch))) then
    m.modHwq (hwqKey d w) fun _ => {}
  else m

/-- The work queues that a launch has opened, once its tasks may all have halted (R97). -/
def settleHwqs (l : Nat) (m : Mach) : Mach :=
  (m.hwqs.filter fun (p : Nat × Hwq) => p.2.launch == l).foldl
    (fun m (p : Nat × Hwq) => settleHwq (p.1 / 256) (p.1 % 256) m) m

/-! ### Slots (R91, R92) -/

/-- The effective class of a queue whose head record has a class: raised by ageing (R91, R92). -/
def Lq.eclass (x : Lq) (cls : Nat) : Nat := cls - x.boost

/-- Reassign the 64 slots (R91): the queues with work by effective class, then round robin after the last of the class
that held a slot.  The slots are numbered anew from 0 in the order of this assignment (log entry 75). -/
def reassign (e : Env) (d : Nat) (work : List (Nat × Nat)) (m : Mach) : Mach :=
  let x := m.die d
  let ring (c : Nat) : List Nat :=
    let qs := (work.filter fun p => p.2 == c).map (·.1)
    let from_ := x.lastQ.get 0 c
    (qs.filter fun q => decide (from_ ≤ q)) ++ (qs.filter fun q => decide (q < from_))
  let order := ((List.range 4).flatMap fun c => (ring c).map fun q => (q, c)).take 64
  let old := x.slots.filterMap fun (p : Nat × Option Nat) => p.2
  let lost := old.filter fun q => !(order.any fun p => p.1 == q)
  let lastQ := order.foldl (fun t p => t.put p.2 (p.1 + 1)) x.lastQ
  let m := m.modDie d fun y => { y with slots := order.zipIdx.map fun p => (p.2, some p.1.1), lastQ := lastQ }
  let m := lost.foldl (fun m q => m.modLq (lqKey d q) fun z => { z with boost := 0 }) m
  (work.map (·.1)).foldl (fun m q => noteWork e d q m) m

end Sys2Proof.Machine
end

