-- ==== Sys2Proof/Machine/Walker.lean ====
section
/-! DEFINITION. The walker and the life of tasks: records, translation, edges, placement, pre-emption, resumption, the
end of a task and of a launch (R83 to R96, R109, R118, R119, R127, R178, R212). -/

namespace Sys2Proof.Machine

/-! ### Records (R83 to R85) -/

/-- Footprint f of a record (R84). -/
def footOf (w : List Byte) (f : Nat) : Foot :=
  let o := 0x58 + 20 * f
  let at_ (k n : Nat) : Nat := fieldAt w (o + k) n
  { base := at_ 0 6, extent := at_ 6 3, buf := at_ 9 1, coef := (List.range 4).map fun j => sgn (at_ (10 + 2 * j) 2) 16,
    cs := at_ 18 1 % 64, access := at_ 18 1 / 64, acls := at_ 19 1 % 8 }

/-- Is a reserved bit or field of a record nonzero (R85, cause 3)? -/
def recordReserved (w : List Byte) : Bool :=
  let x := fieldAt w 0 8
  let nfoot := fld x 19 16
  let depth := fld x 21 20
  let used (j : Nat) : Bool := fld x 3 0 == 1 && decide (j ≤ depth)
  fld x 7 6 != 0 || fld x 31 30 != 0 || fld x 63 57 != 0 || fieldAt w 0xF8 8 != 0
    || ((List.range 4).any fun j =>
      !(used j) && (fieldAt w (0x20 + 8 * j) 8 != 0 || fld x (23 + 2 * j) (22 + 2 * j) != 0))
    || (List.range 8).any fun f => if f < nfoot then fieldAt w (0x58 + 20 * f + 19) 1 / 8 != 0
        else fieldAt w (0x58 + 20 * f) 20 != 0

/-- Does a record hold a bad field value (R85, cause 4)? -/
def recordBad (w : List Byte) : Bool :=
  let x := fieldAt w 0 8
  let y := fieldAt w 8 8
  let kind := fld x 3 0
  let nfoot := fld x 19 16
  let depth := fld x 21 20
  let orders := (List.range (depth + 1)).map fun j => fld x (23 + 2 * j) (22 + 2 * j)
  let count := fld y 63 48
  decide (8 < nfoot) || (kind != 1 && depth != 0)
    || (kind == 1 && !((List.range (depth + 1)).all fun j => orders.contains j))
    || (if kind = 2 || kind = 3 then count == 0 || decide (192 < count) else count != 0)
    || (kind != 3 && fld x 55 48 != 0) || fld y 47 0 % 32 != 0 || decide (2621440 < fieldAt w 0x10 4)
    || (List.range nfoot).any fun f =>
      let t := footOf w f
      t.access == 0 || t.extent == 0 || decide (47 < t.cs)

/-- Does a launch's affinity permit a rank (R83)? -/
def permits (affinity r : Nat) : Bool := affinity == 0 || tst affinity (r / 24)

/-- Granules that spad bytes take (R88). -/
def granulesOf (spad : Nat) : Nat := ceilDiv spad 16384

/-- Granules of a core (R95). -/
def coreGranules (m : Mach) (core : Nat) : Nat := spadBytes (m.core core).l1 / 16384

/-- Can no permitted core ever hold the scratchpad bytes, or is the count above the permitted cores (R85, cause 8)? -/
def recordUnfit (m : Mach) (d : Nat) (w : List Byte) : Bool :=
  let aff := fld (fieldAt w 0 8) 47 40
  let cores := (List.range 192).filter (permits aff)
  decide (cores.length < fld (fieldAt w 8 8) 63 48)
    || cores.isEmpty || decide (spadBytes (m.die d).sramL1 / 16384 < granulesOf (fieldAt w 0x10 4))

/-- The check of a record (R85): the first cause in the table's order, or none (log entry 113). -/
def recordCause (m : Mach) (d : Nat) (w : List Byte) : Option Nat :=
  let x := fieldAt w 0 8
  if 3 < fld x 3 0 then some 1
  else if fld x 15 8 != 8 then some 2
  else if recordReserved w then some 3
  else if recordBad w then some 4
  else if recordUnfit m d w then some 8
  else none

/-- What reading the record at a queue's head finds. -/
inductive Head where
  | bytes (w : List Byte)
  | absent
  | cause (c : Nat)
  deriving DecidableEq, Repr

/-- Read the record at a queue's head through the page tables (R82, R85); a page found absent is waited for until pt.wake
names it. -/
def readHead (e : Env) (d q : Nat) (m : Mach) : Head × Mach :=
  let x := m.lq (lqKey d q)
  if x.overrun then (.cause 5, m)
  else if x.page.isSome then (.absent, m)
  else
    let va := x.slotVa x.head
    let (l, m) := walk e d va m
    match l with
    | none => (.cause 10, m)
    | some (_, l) =>
      if !l.rd then (.cause 10, m)
      else if !l.pr then (.absent, m)
      else
        let la := (l.pa + va % 2 ^ 21) / 128
        let (a, m) := homeRead e ⟨7, d, noFrame⟩ l.legend la m
        let (b, m) := homeRead e ⟨7, d, noFrame⟩ l.legend (la + 1) m
        if a.sev = 3 || b.sev = 3 then (.cause 9, m) else (.bytes (bytesOf a.data 128 ++ bytesOf b.data 128), m)

/-- The product of a nest's bounds (R86). -/
def nestTotal (loops : List (Nat × Int × Nat)) : Nat := loops.foldl (fun n l => n * l.1) 1

/-- The launch of a record (R83); total counts iterations, a gang being one. -/
def launchOf (d q : Nat) (w : List Byte) (old : Launch) : Launch :=
  let x := fieldAt w 0 8
  let y := fieldAt w 8 8
  let kind := fld x 3 0
  let loops : List (Nat × Int × Nat) :=
    if kind = 1 then
      (List.range (fld x 21 20 + 1)).map fun j =>
        (fieldAt w (0x20 + 8 * j) 4, sgn (fieldAt w (0x24 + 8 * j) 4) 32, fld x (23 + 2 * j) (22 + 2 * j))
    else []
  { old with
    live := true, die := d, queue := q, kind := kind, cls := min 3 (fld x 5 4 + old.demotions), domain := fld x 39 32
    affinity := fld x 47 40, hwq := fld x 55 48, evt := tst x 56, entry := fld y 47 0, count := fld y 63 48
    spad := fieldAt w 0x10 4, budget := fieldAt w 0x14 4, token := fieldAt w 0x18 8, loops := loops
    consts := (List.range 3).map fun k => w64 (fieldAt w (0x40 + 8 * k) 8)
    foots := (List.range (fld x 19 16)).map (footOf w)
    total := match kind with | 1 => nestTotal loops | 3 => fld y 63 48 | _ => 1 }

/-! ### Completion of a launch (R96) -/

/-- Write the completion word: written, not writable, or the page is absent.  A token that is not a multiple of 8, or that
has bits above 47, counts modulo 2^48, and its word may fall on two lines (R83; log entry 77). -/
def putWord (e : Env) (d va : Nat) (word : Nat) (m : Mach) : Option Bool × Mach :=
  let va := va % 2 ^ 48
  let (l, m) := walk e d va m
  match l with
  | none => (some false, m)
  | some (_, l) =>
    if !l.w then (some false, m)
    else if !l.pr then (none, m)
    else
      let bs := bytesOf word 8
      let n := min 8 (128 - va % 128)
      let (_, m) := homeWrite e ⟨7, d, noFrame⟩ l.legend (l.pa + va % 2 ^ 21) (bs.take n) m
      (some true, if n = 8 then m
        else (homeWrite e ⟨7, d, noFrame⟩ l.legend (l.pa + (va + n) % 2 ^ 21) (bs.drop n) m).2)

/-- Complete a launch with its completion tick (R96): the word, the event record, and the token of eq.lnch. -/
def completeAt (e : Env) (l : Nat) (tick : BitVec 48) (m : Mach) : Mach :=
  let x := m.launch l
  let word := tick.toNat * 2 ^ 16 + satN x.demotions 16
  let (ok, m) := if x.token = 0 then (some true, m) else putWord e x.die x.token word m
  match ok with
  | none => m.modLaunch l fun y => { y with deferred := some tick }
  | some w =>
    let m := if x.evt then event e x.die 0x02 (b2n (!w) * 2 ^ 8 + x.queue * 2 ^ 64 + word * 2 ^ 192) m else m
    let m := { m with launches := m.launches.del l }
    let m := if x.kind = 3 then settleHwqs l m else m
    match x.tok with
    | some (o, s) => completeOwned o 6 s (w64 word) m
    | none => m

/-- Complete a launch once its last task has halted and the jobs of its tasks have completed (R96, R355). -/
def completeLaunch (e : Env) (l : Nat) (m : Mach) : Mach :=
  let x := m.launch l
  if x.live && x.admitted && x.running = 0 && x.jobs = 0 && x.deferred.isNone && !(launchWaits m l) then completeAt e l e.clk.tick m else m

/-- A job, migration or announcement of a launch's task ends. -/
def jobDone (e : Env) (l : Nat) (m : Mach) : Mach :=
  completeLaunch e l (m.modLaunch l fun x => { x with jobs := x.jobs - 1 })

/-- DEFERRED_COMPLETION_WRITE (R96), with the tick of the last halt (log entry 92). -/
def deferredWrite (e : Env) (l : Nat) (m : Mach) : Mach :=
  let x := m.launch l
  match x.deferred with
  | some t => completeAt e l t (m.modLaunch l fun y => { y with deferred := none })
  | none => m

/-! ### Iterations: index values and extents (R84, R86, R87) -/

/-- Loop values of a nest's iteration n (R86): the loop at the last position advances fastest. -/
def nestValues (loops : List (Nat × Int × Nat)) (n : Nat) : List Int :=
  let order := (List.range loops.length).reverse.filterMap fun p => loops.zipIdx.find? fun l => l.1.2.2 == p
  let r : SMap Int × Nat := order.foldl (fun (p : SMap Int × Nat) l =>
    (p.1.put l.2 (((p.2 % l.1.1 : Nat) : Int) * l.1.2.1), p.2 / l.1.1)) ([], n)
  (List.range 4).map fun j => SMap.get 0 r.1 j

/-- i0 to i4 of a task (R86): member of a gang, else iteration n. -/
def indexValues (x : Launch) (n member set : Nat) : List Int :=
  match x.kind with
  | 1 => nestValues x.loops n ++ [(n : Int)]
  | 2 => [(member : Int), (x.count : Int), (set : Int), 0, (member : Int)]
  | 3 => [(n : Int), 0, 0, 0, (n : Int)]
  | _ => [0, 0, 0, 0, 0]

/-- The region of a footprint (R84): its start, none when it would pass 2^48. -/
def footStart (f : Foot) (idx : List Int) : Option Nat :=
  let a := wrapI ((f.base : Int) + ((f.coef.zip idx).map fun (p : Int × Int) => p.1 * ((2 ^ f.cs : Nat) : Int) * p.2).sum) 48
  if 2 ^ 48 < a + f.extent then none else some a

/-- Translate one footprint (R87): its extent entries, or none when a page has no valid entry. -/
def translateFoot (e : Env) (d : Nat) (f : Foot) (idx : List Int) (m : Mach) : Option (List Extent) × Mach :=
  match footStart f idx with
  | none => (none, m)
  | some a =>
    let pages := List.range ((a + f.extent - 1) / 2 ^ 21 + 1 - a / 2 ^ 21)
    let r := pages.foldl (fun (r : Option (List Extent × Nat) × Mach) k =>
      match r with
      | (none, m) => (none, m)
      | (some (xs, next), m) =>
        let page := a / 2 ^ 21 + k
        let lo := max a (page * 2 ^ 21)
        let hi := min (a + f.extent) ((page + 1) * 2 ^ 21)
        let (l, m) := walk e d (page * 2 ^ 21) m
        match l with
        | none => (none, m)
        | some (_, l) =>
          let pa := l.pa + lo % 2 ^ 21
          let rec_ : PageRec :=
            { vpage := page, pa := l.pa, pr := l.pr, rd := l.rd, w := l.w, legend := l.legend, valid := true }
          match xs with
          | x :: rest =>
            if pa = next then (some ({ x with len := x.len + (hi - lo), pages := x.pages ++ [rec_] } :: rest, pa + (hi - lo)), m)
            else (some ({ va := lo, len := hi - lo, access := f.access, acls := f.acls, buf := f.buf, pages := [rec_] } :: xs,
                        pa + (hi - lo)), m)
          | [] => (some ([{ va := lo, len := hi - lo, access := f.access, acls := f.acls, buf := f.buf, pages := [rec_] }],
                         pa + (hi - lo)), m)) (some ([], 0), m)
    (r.1.map fun p => p.1.reverse, r.2)

/-- Translate a task's footprints (R87): its extent table, or the cause that halts its queue (R85).  A task that meets both
cause 6 and cause 7 reports 7 (log entry 49). -/
def translate (e : Env) (d : Nat) (fs : List Foot) (idx : List Int) (m : Mach) : (Nat ⊕ List Extent) × Mach :=
  let r := fs.foldl (fun (r : Option (List Extent) × Mach) f =>
    match r with
    | (none, m) => (none, m)
    | (some xs, m) =>
      let (ys, m) := translateFoot e d f idx m
      (ys.map fun ys => xs ++ ys, m)) (some [], m)
  match r with
  | (none, m) => (.inl 7, m)
  | (some xs, m) => if 32 < xs.length then (.inl 6, m) else (.inr xs, m)

/-- Set handles of the lowest free set as its next use has it (R86, R327), for a gang too (R88; log entry 90). -/
def nextSet (m : Mach) (d : Nat) : Option (Nat × Nat) :=
  (freeSet m d).map fun n => (n, n + ((m.mset (setKey d n)).gen + 1) % 16 * 256)

/-- Do a launch's footprints use i2? -/
def usesSet (x : Launch) : Bool := x.foots.any fun f => f.coef.getD 2 0 != 0

/-- Tasks of a launch's next iteration (R86). -/
def Launch.width (x : Launch) : Nat := if x.kind = 2 then x.count else 1

/-- Translate the next iteration of a launch (R84, R86, R87): the extent table of each of its tasks, or the cause that halts
its queue (R85).  A gang is translated with the handle that the lowest free set has next, 0 when none is free (log entry 106). -/
def translateNext (e : Env) (d : Nat) (x : Launch) (m : Mach) : (Nat ⊕ List (List Extent)) × Mach :=
  let set := match nextSet m d with | some p => p.2 | none => 0
  (List.range x.width).foldl (fun (r : (Nat ⊕ List (List Extent)) × Mach) k =>
    match r with
    | (.inl c, m) => (.inl c, m)
    | (.inr xs, m) =>
      let (t, m) := translate e d x.foots (indexValues x x.next k set) m
      match t with
      | .inl c => (.inl c, m)
      | .inr t => (.inr (xs ++ [t]), m)) (.inr [], m)

/-! ### Admitting a record -/

/-- The record at a queue's head has been taken whole: the head moves on (R81). -/
def passHead (e : Env) (d q : Nat) (m : Mach) : Mach :=
  noteWork e d q (m.modLq (lqKey d q) fun x => { x with head := x.head + 1, lid := none, part := none })

/-- The launch that a queue's head record makes, or goes on with when part of it has been accepted before a halt (R83,
R85). -/
def headLaunch (m : Mach) (d q : Nat) (w : List Byte) : Launch :=
  launchOf d q w (match (m.lq (lqKey d q)).part with | some l => m.launch l | none => {})

/-- What stands against the record at a queue's head (R85): a cause of its words, or one of the iteration that it starts
with, in which case it is not accepted. -/
def recordFails (e : Env) (d q : Nat) (w : List Byte) (m : Mach) : Option Nat × Mach :=
  match recordCause m d w with
  | some c => (some c, m)
  | none =>
    let x := headLaunch m d q w
    if x.next < x.total then
      match translateNext e d x m with
      | (.inl c, m) => (some c, m)
      | (.inr _, m) => (none, m)
    else (none, m)

/-- Must a persistent record open its work queue (R97)? One that goes on after a halt has opened the one that it
named; repaired with another, it opens that (log entry 114). -/
def opensHwq (m : Mach) (d q : Nat) (w : List Byte) : Bool :=
  let y := headLaunch m d q w
  y.kind == 3 && match (m.lq (lqKey d q)).part with
    | some l => (m.launch l).kind != 3 || (m.launch l).hwq != y.hwq
    | none => true

/-- Accept the record at a queue's head as a launch (R83, R85, R97, R99): the repaired record of a halted queue goes on
with its launch. -/
def acceptRecord (e : Env) (d q : Nat) (w : List Byte) (m : Mach) : Mach :=
  let x := m.lq (lqKey d q)
  let opens := opensHwq m d q w
  let (l, m) := match x.part with
    | some l => (l, m)
    | none => (m.nextLaunch, { m with nextLaunch := m.nextLaunch + 1 })
  let old := m.launch l
  let tok := (x.toks.find? fun t => t.1 == x.head.toNat).map fun t => t.2
  let y := launchOf d q w { old with tok := if x.part.isSome then old.tok else tok }
  let m := { m with launches := m.launches.put l y }
  let m := m.modLq (lqKey d q) fun x =>
    { x with lid := some l, part := none, toks := x.toks.filter fun t => t.1 != x.head.toNat }
  let m := if opens then m.modHwq (hwqKey d y.hwq) fun _ => { st := .opened, items := [], launch := l } else m
  if y.next < y.total then m
  else completeLaunch e l (passHead e d q (m.modLaunch l fun y => { y with admitted := true }))

/-- The class of the record at a queue's head, 3 when it cannot be read (R91). -/
def headClass (e : Env) (d q : Nat) (m : Mach) : Nat :=
  let x := m.lq (lqKey d q)
  match (match x.lid with | some l => some l | none => x.part) with
  | some l => (m.launch l).cls
  | none =>
    match (readHead e d q m).1 with
    | .bytes w => fld (fieldAt w 0 8) 5 4
    | _ => 3

/-- Does a persistent record wait for its work queue (R97)? -/
def waitsForHwq (m : Mach) (d q : Nat) (w : List Byte) : Bool :=
  opensHwq m d q w && (m.hwq (hwqKey d (headLaunch m d q w).hwq)).st != .free

/-- Has the walker something to admit from a queue that holds a slot (R85, R89, R90, R97)? -/
def servable (e : Env) (d q : Nat) (m : Mach) : Bool :=
  let x := m.lq (lqKey d q)
  let room := (m.die d).entries.length
  if !x.hasWork || !x.wait.isEmpty then false
  else
    match x.lid with
    | some l => decide (room + (m.launch l).width ≤ 4096)
    | none =>
      match (readHead e d q m).1 with
      | .absent => x.page.isNone
      | .cause _ => true
      | .bytes w => (recordFails e d q w m).1.isSome || (!(waitsForHwq m d q w) && decide (room < 4096))

/-- The slot that the walker serves next (R92): class order, then round robin after the slot last served in the class. -/
def walkerPick (e : Env) (d : Nat) (m : Mach) : Option (Nat × Nat × Nat) :=
  let x := m.die d
  let cands := x.slots.filterMap fun (p : Nat × Option Nat) =>
    match p.2 with
    | some q => if servable e d q m then some (p.1, q, (m.lq (lqKey d q)).eclass (headClass e d q m)) else none
    | none => none
  (List.range 4).findSome? fun c =>
    let mine := cands.filter fun p => p.2.2 == c
    let from_ := x.lastSlot.get 0 c
    ((mine.filter fun p => decide (from_ ≤ p.1)) ++ (mine.filter fun p => decide (p.1 < from_))).head?

/-- Does the walker serve this queue next? -/
def picked (e : Env) (d q : Nat) (m : Mach) : Bool :=
  match walkerPick e d m with
  | some p => p.2.1 == q
  | none => false

/-- LAUNCH_RECORD_ADMIT (R82, R83, R85, R92, R97). -/
def launchRecordAdmitAt (e : Env) (d q : Nat) (m : Mach) : Mach :=
  if (m.lq (lqKey d q)).lid.isSome || !(picked e d q m) then m
  else
    let (h, m) := readHead e d q m
    match h with
    | .absent => m.modLq (lqKey d q) fun x => { x with page := some (x.slotVa x.head / 2 ^ 21) }
    | .cause c => haltQueue e d q c m
    | .bytes w =>
      match recordFails e d q w m with
      | (some c, m) => haltQueue e d q c m
      | (none, m) => if waitsForHwq m d q w then m else acceptRecord e d q w m

/-! ### Edges (R87) -/

/-- The physical ranges of an extent table (R87): each page's piece, with a write mark. -/
def rangesOf (xs : List Extent) : List (Nat × Nat × Bool) :=
  xs.flatMap fun x => x.pages.map fun p =>
    let lo := max x.va (p.vpage * 2 ^ 21)
    let hi := min (x.va + x.len) ((p.vpage + 1) * 2 ^ 21)
    (p.pa + lo % 2 ^ 21, p.pa + lo % 2 ^ 21 + (hi - lo), tst x.access 1)

/-- Do two range lists overlap with at least one writer (R87)? -/
def conflicts (a b : List (Nat × Nat × Bool)) : Bool :=
  a.any fun x => b.any fun y => decide (x.1 < y.2.1) && decide (y.1 < x.2.1) && (x.2.2 || y.2.2)

/-- Must entry y wait for entry x (R87)? -/
def Entry.holds (x y : Entry) : Bool :=
  decide (x.no < y.no) && x.dom == y.dom && y.dom != 255 && (x.gang.isNone || x.gang != y.gang)
    && conflicts x.ranges y.ranges

/-- Is no entry that a tracked one depends on in flight (R87), the given entry apart? -/
def edgesClear (x : Die) (no : Nat) (except : Nat → Bool) : Bool :=
  match x.entries.find? fun y => y.no == no with
  | none => true
  | some y => !(x.entries.any fun z => z.holds y && !(except z.no))

/-! ### Job cards in the tracking table (R90, R355) -/

/-- The job cards of an engine. -/
def Die.cards (x : Die) (g : Engine) : List Job := match g with | .copy => x.copyQ | .coll => x.collQ

/-- Change the job cards of an engine. -/
def Die.setCards (x : Die) (g : Engine) (l : List Job) : Die :=
  match g with | .copy => { x with copyQ := l } | .coll => { x with collQ := l }

/-- Change the k-th job card of an engine. -/
def modJob (d : Nat) (g : Engine) (k : Nat) (f : Job → Job) (m : Mach) : Mach :=
  m.modDie d fun x => x.setCards g ((x.cards g).mapIdx fun i j => if i = k then f j else j)

/-- The first accepted of the cards of a die's engines that f selects. -/
def Die.firstCard (x : Die) (f : Job → Bool) : Option Job :=
  ((x.copyQ ++ x.collQ).filter f).foldl (fun (b : Option Job) j =>
    match b with
    | none => some j
    | some y => if j.no < y.no then some j else some y) none

/-- Cards that have found the tracking table full take their places while it has room, in the order of their acceptance and
before any later iteration (R90, R355; log entry 22). -/
def enterCards (d : Nat) (m : Mach) : Mach :=
  let waits (j : Job) : Bool := j.entry.isNone
  (List.range (((m.die d).copyQ ++ (m.die d).collQ).filter waits).length).foldl (fun m _ =>
    let x := m.die d
    match x.firstCard waits with
    | none => m
    | some j =>
      if 4096 ≤ x.entries.length then m
      else
        let en : Entry :=
          { no := j.no, dom := j.dom, ranges := j.ranges, gang := none, placed := true, extents := [], launch := j.launch,
            iter := 0 }
        let enter (l : List Job) : List Job := l.map fun y => if y.no = j.no then { y with entry := some j.no } else y
        m.modDie d fun x => { x with entries := x.entries ++ [en], copyQ := enter x.copyQ, collQ := enter x.collQ }) m

/-- Admit the next iteration of a queue's launch (R87 to R90): its members are translated and take their places in the
tracking table; a cause of R85 halts the queue. -/
def admitIteration (e : Env) (d q l : Nat) (m : Mach) : Mach :=
  let m := enterCards d m
  let x := m.launch l
  if 4096 < (m.die d).entries.length + x.width then m else
  let set := match nextSet m d with | some p => p.2 | none => 0
  match translateNext e d x m with
  | (.inl c, m) => haltQueue e d q c m
  | (.inr xs, m) =>
    let no := (m.die d).nextEntry
    let new := xs.zipIdx.map fun (t, k) =>
      ({ no := no + k, dom := x.domain, ranges := rangesOf t, gang := if x.kind = 2 then some no else none,
         placed := false, extents := t, launch := l, iter := if x.kind = 2 then k else x.next } : Entry)
    let m := m.modDie d fun y => { y with entries := y.entries ++ new, nextEntry := no + new.length }
    let m := m.modLaunch l fun y => { y with next := y.next + 1, admitted := y.total ≤ y.next + 1, gset := set }
    let m := m.modLq (lqKey d q) fun y => { y with wait := new.map (·.no) }
    if x.total ≤ x.next + 1 then passHead e d q m else m

/-- Take the waiting iteration of a gang back, to be admitted again with another set (R86). -/
def unadmit (d q l : Nat) (m : Mach) : Mach :=
  let w := (m.lq (lqKey d q)).wait
  let last := (m.launch l).admitted
  let m := m.modDie d fun y => { y with entries := y.entries.filter fun z => !(w.contains z.no) }
  let m := m.modLaunch l fun y => { y with next := y.next - 1, admitted := false }
  m.modLq (lqKey d q) fun y =>
    { y with wait := [], lid := some l, head := if last then y.head - 1 else y.head }

/-! ### Placement (R88, R109, R178) -/

/-- The lowest free frame index of a core (R109). -/
def freeFrame (m : Mach) (d r : Nat) : Option Nat :=
  (List.range 16).find? fun j => (m.task (taskKey d (16 * r + j))).st == .free

/-- The lowest free context of a core (R88). -/
def freeCtx (m : Mach) (d r : Nat) : Option Nat := (List.range 4).find? fun x => (m.ctx (ctxKey d r x)).st == .free

/-- The first free run of granules of a core from the lowest address (R88, R95), as a granule number. -/
def freeRun (m : Mach) (d r need : Nat) : Option Nat :=
  if need = 0 then some 0
  else
    let used := (coreTasks m (coreKey d r)).map fun p => (p.2.spadBase / 16384, p.2.granules)
    (List.range (coreGranules m (coreKey d r))).find? fun g =>
      decide (g + need ≤ coreGranules m (coreKey d r))
        && used.all fun u => decide (g + need ≤ u.1) || decide (u.1 + u.2 ≤ g)

/-- Has a core taken the last write of its die's split (R178)? -/
def splitTaken (m : Mach) (d r : Nat) : Bool :=
  let k := m.core (coreKey d r)
  k.l1 == (m.die d).sramL1 && k.splitNo == (m.die d).splitNo

/-- Is a core eligible for a task of a launch (R88, R109, R178)? -/
def eligible (m : Mach) (d : Nat) (x : Launch) (r : Nat) : Bool :=
  permits x.affinity r && splitTaken m d r && (freeCtx m d r).isSome && (freeFrame m d r).isSome
    && (freeRun m d r (granulesOf x.spad)).isSome

/-- The eligible ranks in rotation order (R88). -/
def eligibleRanks (m : Mach) (d : Nat) (x : Launch) : List Nat :=
  let last := (m.die d).lastRank
  ((List.range 192).map fun k => (last + 1 + k) % 192).filter (eligible m d x)

/-- A new context for a task (R123, R132, R152, R253, R275, R336): everything at its reset value but what placement
presets; wd.limit is kept. -/
def newCtx (e : Env) (old : Ctx) (frame : Nat) (x : Launch) (idx : List Int) (base need : Nat) (ntr : W64) : Ctx :=
  { st := .ready, frame := frame, pc := w64 x.entry, lastIssue := e.clk.cycle
    i := ((idx.map w64I ++ x.consts).zipIdx.map fun p => (p.2, p.1))
    csr := { wdLimit := old.csr.wdLimit, spadBase := base * 16384, spadSize := need * 16384, ntrange := ntr } }

/-- Place the task of a tracked entry on a core (R87, R88). -/
def placeOn (e : Env) (d r : Nat) (en : Entry) (set : Nat) (m : Mach) : Mach :=
  let l := m.launch en.launch
  let need := granulesOf l.spad
  match freeFrame m d r, freeCtx m d r, freeRun m d r need with
  | some j, some c, some g =>
    let f := 16 * r + j
    let ck := ctxKey d r c
    let idx := if l.kind = 2 then indexValues l 0 en.iter set else indexValues l en.iter 0 0
    let m := m.setCtx ck (newCtx e (m.ctx ck) f l idx g need (m.lq (lqKey d l.queue)).ntr)
    let m := m.setTask (taskKey d f)
      { st := .running c, launch := en.launch, member := en.iter, entry := en.no, extents := en.extents,
        spadBase := g * 16384, granules := need, startTick := e.clk.tick }
    let m := m.modCore (coreKey d r) fun k => { k with fetchBuf := [] }
    let m := m.modLaunch en.launch fun y => { y with running := y.running + 1 }
    m.modDie d fun y =>
      { y with lastRank := r, entries := y.entries.map fun z => if z.no = en.no then { z with placed := true } else z }
  | _, _, _ => m

/-! ### Pre-emption and resumption (R94, R113, R118, R343) -/

/-- Ports and latches that a context has still to restore are restored before it is stopped. -/
def ensureRestored (e : Env) (ck : Nat) (m : Mach) : Mach :=
  if (m.ctx ck).restore then
    (restoreFrom e ck 0x1000 e.clk.cycle m).modCtx ck fun c =>
      { c with restore := false, lastIssue := e.clk.cycle - 1 }
  else m

/-- Pre-empt the task of a context (R118): it is stopped as of the cycle after its last bundle (R112), its array is to be
spilled, its frame is written with reason 2, and the context is freed; an open segment is rewound (R343). -/
def preempt (e : Env) (ck : Nat) (m : Mach) : Mach :=
  let tk := taskKey (ctxDie ck) (m.ctx ck).frame
  let m := preemptLease tk m
  let m := dropSegment e.clk.cycle ck m
  let m := ensureRestored e ck m
  let c := m.ctx ck
  let r := c.resume.getD { Resume.plain with preds := c.p, psrc := c.psrc }
  let m := stopInto e ck 0x1000 (c.lastIssue + 1) r.snaps m
  let m := saveFrame e ck c.pc r.done 2 c.pend r.preds m
  freeContext e ck .suspended (m.modCtx ck fun c =>
    { c with restore := true,
             resume := c.resume.map fun r =>
               { r with retPend := c.retPend, deadline := c.deadline, timedOut := c.timedOut, woken := c.woken,
                        kept := c.kept } })

/-- How a pre-empted context goes on: a bundle that has blocked on a bounded wait waits on (R106, R334), any other is tried
again. -/
def Ctx.resumesAs (s : Ctx) : CtxSt :=
  match s.st with
  | .blocked b => if b.bounded then .blocked b else .ready
  | _ => .ready

/-- The core's free contexts go to its suspended tasks (R94, R118, R119): a task resumes on a context from its frame. -/
def resumeOn (e : Env) (tk x : Nat) (m : Mach) : Mach :=
  let d := tk / 3072
  let f := tk % 3072
  let ck := ctxKey d (f / 16) x
  let s := (m.task tk).saved
  let (bs, high, m) := readFrame e d f 0 0x1000 m
  let bad (code : Nat) : Bool := high.contains (badOffset 0 code / 128 * 128)
  let codes := ((List.range 127).map fun n => n + 1) ++ (List.range 32).map (fun n => 0x080 + n)
    ++ badPreds ++ (List.range 16).map fun n => 0x0B0 + n
  let ws := (List.range 23).map fun k => fieldAt bs (0xC60 + 8 * k) 8
  let csr := csrsOf ws
  let c : Ctx :=
    { s with
      st := s.resumesAs, frame := f
      pc := w64 (fieldAt bs 0xC00 8), src := BitVec.allOnes 64
      pend := if tst (fieldAt bs 0xC08 8) 16 then some (w64 (fieldAt bs 0xC10 8)) else none
      haltPend := tst (fieldAt bs 0xC08 8) 17, link := tst (fieldAt bs 0xC08 8) 18
      g := (List.range 127).map fun n => (n + 1, w64 (fieldAt bs (8 * (n + 1)) 8))
      v := (List.range 32).map fun n => (n, w512 (fieldAt bs (0x400 + 64 * n) 64))
      p := BitVec.ofNat 8 (fieldAt bs 0xC18 1) ||| 1
      i := (List.range 8).map fun n => (n, w64 (fieldAt bs (0xC20 + 8 * n) 8))
      shadow := (List.range 16).map fun n => (n, w64 (fieldAt bs (0xD60 + 8 * n) 8))
      csr := { csr with uiovf := s.csr.uiovf }
      bad := codes.filter bad, lastIssue := max (m.ctx ck).lastIssue s.lastIssue, restore := true, stallServed := false
      lateSince := none, notBefore := e.clk.cycle }
  let m := m.modTask tk fun t => { t with st := .running x, saved := {}, page := none, startTick := e.clk.tick }
  let m := m.setCtx ck c
  match (if s.hid.isSome then s.hid else s.resume) with
  | some h => resumeFields e ck (m.modCtx ck fun c => { c with hid := some h })
  | none => m

/-- Resume a suspended task when its core has a free context (R94, R118). -/
def resumeTask (e : Env) (tk : Nat) (m : Mach) : Mach :=
  match (m.task tk).st, freeCtx m (tk / 3072) (tk % 3072 / 16) with
  | .suspended, some x => resumeOn e tk x m
  | _, _ => m

/-- The suspended tasks of a core, the higher class first, then the lower frame. -/
def suspendedOn (m : Mach) (d r : Nat) : List Nat :=
  let ts := ((coreTasks m (coreKey d r)).filter fun p => p.2.st == .suspended).map (·.1)
  (List.range 4).flatMap fun c => ts.filter fun t => (m.launch (m.task t).launch).cls == c

/-- Give a core's free context to a suspended task of it, if there is one. -/
def resumeCore (e : Env) (d r : Nat) (m : Mach) : Mach :=
  match suspendedOn m d r with
  | t :: _ => resumeTask e t m
  | [] => m

/-- Does a context run a task that may be pre-empted (R94, R117)?  One that waits there for an absent page does not (log entry
107). -/
def Ctx.preemptible (c : Ctx) : Bool :=
  !c.csr.priv && (match c.st with | .ready | .late _ | .blocked _ => true | _ => false)

/-- The class of the task on a context (R93). -/
def ctxClass (m : Mach) (ck : Nat) : Nat := (m.launch (m.task (taskKey (ctxDie ck) (m.ctx ck).frame)).launch).cls

/-- Is a core a candidate of R94 for a launch's task? -/
def candidateCore (m : Mach) (d : Nat) (x : Launch) (r : Nat) : Bool :=
  permits x.affinity r && splitTaken m d r && (freeCtx m d r).isNone && decide ((coreTasks m (coreKey d r)).length < 16)
    && (freeRun m d r (granulesOf x.spad)).isSome

/-- The context of a core that runs a task of the lowest class, below c, with the highest context number (R94). -/
def victimOn (m : Mach) (d r c : Nat) : Option (Nat × Nat) :=
  (List.range 4).foldl (fun (b : Option (Nat × Nat)) x =>
    let ck := ctxKey d r x
    let k := ctxClass m ck
    if (m.ctx ck).preemptible && c < k && (match b with | some y => decide (y.1 ≤ k) | none => true) then some (k, ck) else b)
    none

/-- The task that R94 pre-empts for a waiting task of a launch: the lowest class, then the lowest rank. -/
def victimFor (m : Mach) (d : Nat) (x : Launch) : Option Nat :=
  let vs := ((List.range 192).filter (candidateCore m d x)).filterMap fun r => victimOn m d r x.cls
  (vs.foldl (fun (b : Option (Nat × Nat)) v =>
    match b with
    | none => some v
    | some y => if y.1 < v.1 then some v else some y) none).map (·.2)

/-- Entries of a queue's waiting iteration. -/
def waiting (m : Mach) (d q : Nat) : List Entry :=
  (m.die d).entries.filter fun z => (m.lq (lqKey d q)).wait.contains z.no

/-- Has a queue's waiting iteration passed step 3 of R87? -/
def edgesPassed (m : Mach) (d q : Nat) : Bool :=
  !(waiting m d q).isEmpty && (waiting m d q).all fun z => edgesClear (m.die d) z.no fun _ => false

/-- Place a waiting single, nest or persistent task (R88, R94), pre-empting for it when allowed. -/
def placeSingle (e : Env) (d q : Nat) (mayPreempt : Bool) (m : Mach) : Mach :=
  match waiting m d q with
  | en :: _ =>
    let x := m.launch en.launch
    let place (r : Nat) (m : Mach) : Mach :=
      (placeOn e d r en 0 m).modLq (lqKey d q) fun y => { y with wait := [] }
    match eligibleRanks m d x with
    | r :: _ => place r m
    | [] =>
      match (if mayPreempt then victimFor m d x else none) with
      | some ck => place (ck / 4 % 192) (preempt e ck m)
      | none => m
  | [] => m

/-- Place a gang whole on ranks (R88), with its set n of handle h. -/
def placeGang (e : Env) (d q n h : Nat) (ens : List Entry) (ranks : List Nat) (m : Mach) : Mach :=
  let m := (ens.zip ranks).foldl (fun m p => placeOn e d p.2 p.1 h m) m
  let frames := m.tasks.filterMap fun (p : Nat × Task) =>
    if p.1 / 3072 = d && p.2.st != .free && ens.any fun en => en.no == p.2.entry then some (p.1 % 3072) else none
  (allotSet d n true frames m).modLq (lqKey d q) fun y => { y with wait := [] }

/-- Place a waiting gang (R88, R94): every member at once, pre-empting on as many candidate cores as it lacks.  One that has
been translated with another set's handle is first taken back (R86; log entry 106), and nothing is pre-empted for it. -/
def tryGang (e : Env) (d q : Nat) (mayPreempt : Bool) (m : Mach) : Mach :=
  match waiting m d q with
  | [] => m
  | en :: rest =>
    let ens := en :: rest
    let x := m.launch en.launch
    match nextSet m d with
    | none => m
    | some (n, h) =>
      let rs := eligibleRanks m d x
      if usesSet x && x.gset != h then unadmit d q en.launch m
      else if ens.length ≤ rs.length then placeGang e d q n h ens rs m
      else if !mayPreempt then m
      else
        let k := ens.length - rs.length
        let vs := ((List.range 192).filter (candidateCore m d x)).filterMap fun r => victimOn m d r x.cls
        if vs.length < k then m
        else
          let m := (vs.take k).foldl (fun m v => preempt e v.2 m) m
          placeGang e d q n h ens (eligibleRanks m d x) m

/-- Is the waiting iteration of a queue a gang's? -/
def waitsGang (m : Mach) (d q : Nat) : Bool :=
  match waiting m d q with
  | en :: _ => (m.launch en.launch).kind == 2
  | [] => false

/-- The class that a queue's waiting iteration runs at. -/
def waitClass (m : Mach) (d q : Nat) : Nat :=
  match waiting m d q with
  | en :: _ => (m.launch en.launch).cls
  | [] => 4

/-- Queues of a die whose waiting iteration has passed step 3. -/
def waitingQueues (m : Mach) (d : Nat) : List Nat :=
  (m.lqs.filter fun (p : Nat × Lq) => p.1 / 1024 == d && !p.2.wait.isEmpty && edgesPassed m d (p.1 % 1024)).map
    fun (p : Nat × Lq) => p.1 % 1024

/-- Place what waits of a queue, unless a waiting iteration of a higher class could be placed (R92). -/
def placeWaiting (e : Env) (d q : Nat) (m : Mach) : Mach :=
  let one (q : Nat) (m : Mach) : Mach := if waitsGang m d q then tryGang e d q true m else placeSingle e d q true m
  let placed (p : Nat) : Bool :=
    (waiting m d p).any fun en => ((one p m).die d).entries.any fun z => z.no == en.no && z.placed
  let higher := (waitingQueues m d).any fun p => decide (waitClass m d p < waitClass m d q) && placed p
  if edgesPassed m d q && !higher then one q m else m

/-- Serve a queue's slot (R92): the launch's next iteration is admitted, and placed when it need not wait. -/
def serve (e : Env) (d q : Nat) (gang : Bool) (m : Mach) : Mach :=
  let x := m.lq (lqKey d q)
  if !x.wait.isEmpty then (if waitsGang m d q = gang then placeWaiting e d q m else m)
  else
    match x.lid, walkerPick e d m with
    | some l, some (slot, p, c) =>
      if p = q && ((m.launch l).kind == 2) = gang then
        let m := m.modDie d fun y => { y with lastSlot := y.lastSlot.put c (slot + 1) }
        placeWaiting e d q (admitIteration e d q l m)
      else m
    | _, _ => m

/-! ### Quanta (R91 to R94) -/

/-- QUANTUM_BOUNDARY (R91, R92), at ticks that are multiples of 110 (log entry 91). -/
def quantumBoundaryAt (e : Env) (d : Nat) (m : Mach) : Mach :=
  if e.clk.tick.toNat % 110 != 0 then m
  else
    let qs := (m.lqs.filter fun (p : Nat × Lq) => p.1 / 1024 == d && p.2.hasWork).map fun (p : Nat × Lq) => p.1 % 1024
    reassign e d (qs.map fun q => (q, (m.lq (lqKey d q)).eclass (headClass e d q m))) m

/-- QUEUE_AGEING (R92). -/
def queueAgeingAt (e : Env) (d q : Nat) (m : Mach) : Mach :=
  let x := m.lq (lqKey d q)
  match x.since with
  | some t =>
    if x.hasWork && (slotOf (m.die d) q).isNone && decide (21973 ≤ (e.clk.tick - t).toNat) then
      m.modLq (lqKey d q) fun x => { x with boost := min 3 (x.boost + 1), since := some e.clk.tick }
    else m
  | none => m

/-- PREEMPTION (R94, R118): the context is the one that R94 pre-empts for a task that finds no eligible core.  Of several
waiting queues for which it is, the one of the lowest number is served (log entry 76). -/
def preemptionAt (e : Env) (ck : Nat) (m : Mach) : Mach :=
  let d := ctxDie ck
  match (waitingQueues m d).find? fun q =>
      match waiting m d q with
      | en :: _ =>
        let x := m.launch en.launch
        x.kind != 2 && (eligibleRanks m d x).isEmpty && victimFor m d x == some ck
      | [] => false with
  | some q => placeWaiting e d q m
  | none => m

/-- QUANTUM_PREEMPTION (R94): a task that has run 110 ticks gives way to a task of equal or higher class that waits for
its core: a suspended one of the core, or a waiting iteration that the core can then take. -/
def quantumPreemptionAt (e : Env) (ck : Nat) (m : Mach) : Mach :=
  let d := ctxDie ck
  let r := ck / 4 % 192
  let t := m.task (taskKey d (m.ctx ck).frame)
  let c := ctxClass m ck
  if !(m.ctx ck).preemptible || decide ((e.clk.tick - t.startTick).toNat < 110) || (freeCtx m d r).isSome
      || decide (16 ≤ (coreTasks m (coreKey d r)).length) then m
  else
    match (suspendedOn m d r).find? fun k => decide ((m.launch (m.task k).launch).cls ≤ c) with
    | some k => resumeTask e k (preempt e ck m)
    | none =>
      let served := (waitingQueues m d).findSome? fun q =>
        if c < waitClass m d q then none
        else
          let m' := preempt e ck m
          let m' := if waitsGang m d q then tryGang e d q false m' else placeSingle e d q false m'
          if (m'.lq (lqKey d q)).wait.isEmpty && (m'.ctx ck).st != .free then some m' else none
      served.getD m

/-! ### Pages that arrive (R119, R212) -/

/-- Rewrite the records of a page in extent tables (R212). -/
def rewritePage (page : Nat) (f : PageRec → PageRec) (xs : List Extent) : List Extent :=
  xs.map fun x => { x with pages := x.pages.map fun p => if p.vpage = page then f p else p }

/-- The own-die ranges of a region of virtual addresses as extent entries have them. -/
def regionRanges (d : Nat) (xs : List Extent) (va n : Nat) (w : Bool) : List (Nat × Nat × Bool) :=
  xs.flatMap fun x => x.pages.filterMap fun p =>
    let lo := max (max x.va va) (p.vpage * 2 ^ 21)
    let hi := min (min (x.va + x.len) (va + n)) ((p.vpage + 1) * 2 ^ 21)
    if lo < hi && p.pa / 2 ^ 40 == d then some (p.pa + lo % 2 ^ 21, p.pa + lo % 2 ^ 21 + (hi - lo), w) else none

/-- A job card after its extents have been rewritten: the ranges of its regions in the die's virtual space follow (R212,
R355). -/
def Job.rewritten (d : Nat) (g : List Extent → List Extent) (j : Job) : Job :=
  let xs := g j.extents
  let part (a : W64) (w : Bool) : List (Nat × Nat × Bool) :=
    if fld a.toNat 60 58 = 0 && j.ranges.any (fun r => r.2.2 == w) then regionRanges d xs (fld a.toNat 47 0) j.n w
    else j.ranges.filter fun r => r.2.2 == w
  { j with extents := xs, ranges := part j.src false ++ part j.dst true }

/-- Rewrite a page in every in-flight extent table of a die (R212), and the physical ranges that edges are taken by (R87):
tasks, waiting iterations, job cards and entries of named tiles. -/
def rewriteAll (d page : Nat) (f : PageRec → PageRec) (m : Mach) : Mach :=
  let g := rewritePage page f
  let m := { m with tasks := m.tasks.map fun (p : Nat × Task) =>
      if p.1 / 3072 = d then (p.1, { p.2 with extents := g p.2.extents }) else p }
  let touches (xs : List Extent) : Bool := xs.any fun x => x.pages.any fun p => p.vpage == page
  let job (j : Job) : Job := if touches j.extents then j.rewritten d g else j
  let m := m.modDie d fun x =>
    { x with entries := x.entries.map fun z =>
               match (x.copyQ ++ x.collQ).find? fun j => j.entry == some z.no with
               | some j => { z with ranges := (job j).ranges }
               | none => { z with extents := g z.extents, ranges := rangesOf (g z.extents) },
             copyQ := x.copyQ.map job,
             collQ := x.collQ.map job }
  let m := m.modRouter d fun r => { r with locals := r.locals.map fun l => { l with extents := g l.extents } }
  { m with anns := m.anns.map fun a => if a.die = d then { a with extents := g a.extents } else a,
           claims := m.claims.map fun c =>
             if ownerKey c.ent.task / 3072 = d then { c with ent := { c.ent with extents := g c.ent.extents } } else c }

/-- Is a page that a task waits for there: its extent record, or for a fetch or a ring the leaf, is present or invalid
(R119, R212)? -/
def pageArrived (e : Env) (d page : Nat) (xs : List Extent) (m : Mach) : Bool :=
  let recs := xs.flatMap fun x => x.pages.filter fun p => p.vpage == page
  let leaf := match (walk e d (page * 2 ^ 21) m).1 with
    | some (_, l) => l.pr
    | none => true
  recs.all (fun p => p.pr || !p.valid) && (!recs.isEmpty || leaf)

/-- Let a task that waits for a page go on (R119): in place, or to be resumed on a free context. -/
def wakeTask (e : Env) (tk : Nat) (m : Mach) : Mach :=
  let t := m.task tk
  match t.st with
  | .waitPage => m.modTask tk fun t => { t with st := .suspended, page := none }
  | .running x =>
    let ck := ctxKey (tk / 3072) (tk % 3072 / 16) x
    if (m.ctx ck).st = .page then
      let m := (m.modTask tk fun t => { t with page := none }).modCtx ck fun c => { c with st := .ready }
      resumeFields e ck m
    else m
  | _ => m

/-- PAGE_FAULT_RESUME (R118, R119): a task whose page has arrived goes on, and a suspended one takes a free context. -/
def pageFaultResumeAt (e : Env) (tk : Nat) (m : Mach) : Mach :=
  let t := m.task tk
  let m := match t.page with
    | some p => if pageArrived e (tk / 3072) p t.extents m then wakeTask e tk m else m
    | none => m
  resumeTask e tk m

/-- pt.wake (R85, R212): reread the leaf, rewrite the page in every in-flight extent entry, and resume who waits on it. -/
def wakePage (e : Env) (d page : Nat) (m : Mach) : Mach :=
  let (l, m) := walk e d (page * 2 ^ 21) m
  let m := rewriteAll d page (fun p =>
    match l with
    | some (_, l) => { p with pa := l.pa, pr := l.pr, rd := l.rd, w := l.w, legend := l.legend, valid := true }
    | none => { p with valid := false }) m
  let m := { m with lqs := m.lqs.map fun (p : Nat × Lq) =>
      if p.1 / 1024 = d ∧ p.2.page = some page then (p.1, { p.2 with page := none }) else p }
  let keys := (m.tasks.filter fun (p : Nat × Task) => p.1 / 3072 == d && p.2.page == some page).map (·.1)
  keys.foldl (fun m k => pageFaultResumeAt e k m) m

/-! ### The end of a task (R96, R127, R303, R366) -/

/-- Settle the peer stores of every context of a core (R319 step 2). -/
def settlePeers (e : Env) (core : Nat) (m : Mach) : Mach :=
  (List.range 4).foldl (fun m x =>
    let ck := core * 4 + x
    if (m.ctx ck).stq.any PStore.isPeer then settleAll e ck m else m) m

/-- Close the collective identifier that a handle names while it is open, which its task has then not left open (R366). -/
def closeGrp (d h : Nat) (m : Mach) : Mach :=
  let ts := m.tasks.map fun (p : Nat × Task) =>
    if p.1 / 3072 = d then (p.1, { p.2 with groups := p.2.groups.filter fun g => g != h }) else p
  let m := { m with tasks := ts }
  m.modGrp (grpKey d (h % 256)) fun x => if x.st = .opened && x.gen == h / 256 then { x with st := .closing } else x

/-- A task halts: every identifier that it opened and left open is closed (R366), and a held lease is to be freed (R232). -/
def haltTask (tk : Nat) (m : Mach) : Mach :=
  haltLease tk ((m.task tk).groups.foldl (fun m g => closeGrp (tk / 3072) g m) m)

/-- A context issues no further bundle (R127, R392): what it held of its core and its unclaimed local entries go (R303), and
its identifiers are closed and a held lease is to be freed. -/
def haltCtx (e : Env) (ck : Nat) (m : Mach) : Mach :=
  let tk := taskKey (ctxDie ck) (m.ctx ck).frame
  let m := cancelLocals tk (discardSegment ck (finishFences e ck m))
  let m := m.modCore (ctxCore ck) fun k => { k with segAsk := k.segAsk.filter fun x => x != ck % 4 }
  let m := m.modCtx ck fun c =>
    { c with st := .halted, pend := none, link := false, haltPend := false, retPend := 0, resume := none, hid := none,
             res := [], uiq := [], deadline := none, timedOut := none, woken := false, lateSince := none, kept := [], under := none }
  let m := if (m.core (ctxCore ck)).cur = some (ck % 4) then leaveCore ck m else m
  haltTask tk m

/-- Where is a task that has halted and not ended: on a context, or on none? -/
def taskHalted (m : Mach) (tk : Nat) : Option (Option Nat) :=
  match (m.task tk).st with
  | .running x =>
    let ck := ctxKey (tk / 3072) (tk % 3072 / 16) x
    if (m.ctx ck).st = .halted then some (some ck) else none
  | .halted => some none
  | _ => none

/-- The refused stores that a halted task has not raised. -/
def leftRefusals (m : Mach) (tk : Nat) (ck : Option Nat) : List (Nat × W64) :=
  match ck with
  | some ck => (m.ctx ck).refusals
  | none => (m.task tk).saved.refusals

/-- Report the earliest refused store of a task that halts (R215, R393). -/
def reportRefusals (e : Env) (tk : Nat) (ck : Option Nat) (m : Mach) : Mach :=
  match leftRefusals m tk ck with
  | [] => m
  | x :: r =>
    let first := r.foldl (fun b y => if y.1 < b.1 then y else b) x
    event e (tk / 3072) 0x04 (tk % 3072 * 2 ^ 64 + first.2.toNat * 2 ^ 192) m

/-- What an ended task still holds goes back: its place in the tracking table, its frame and granules (R127). -/
def giveBack (tk : Nat) (m : Mach) : Mach :=
  let d := tk / 3072
  let t := m.task tk
  let m := m.modDie d fun y => { y with entries := y.entries.filter fun z => z.no != t.entry }
  m.setTask tk {}

/-- ENERGY_DEMOTION (R93): the class is lowered by one for each further multiple of the budget that the charge, in units
of 0.1 fJ, has reached. -/
def energyDemotionAt (l : Nat) (m : Mach) : Mach :=
  let x := m.launch l
  let n := x.charge / (x.budget * 10 ^ 10)
  if x.live && x.budget != 0 && decide (x.demotions < n) then
    m.modLaunch l fun x => { x with demotions := n, cls := min 3 (x.cls + (n - x.demotions)) }
  else m

/-- Charge energy of a die's task to its launch and to the telemetry of its die (R93, R403, R405). -/
def chargeLaunch (d l units : Nat) (m : Mach) : Mach :=
  (m.modLaunch l fun x => { x with charge := x.charge + units }).modDie d fun x => { x with telCharge := x.telCharge + units }

/-- The end of a halted task (R127): its stores are acknowledged, its core's L1 is written back, and its memberships and
its context go. -/
def leaveContext (e : Env) (tk : Nat) (ck : Option Nat) (m : Mach) : Mach :=
  let m := match ck with
    | some ck => settleAll e ck m
    | none => m
  let core := coreKey (tk / 3072) (tk % 3072 / 16)
  let m := settlePeers e core (writeBackAll e core (fun _ => true) m)
  let m := reportRefusals e tk ck m
  let m := (m.task tk).sets.foldl (fun m n => leaveSet (tk / 3072) n (tk % 3072) m) m
  let m := m.modTask tk fun t => { t with st := .halted, saved := {} }
  match ck with
  | some ck => m.modCtx ck fun old => { lastIssue := old.lastIssue, csr := { wdLimit := old.csr.wdLimit } }
  | none => m

/-- Has a task a read of its array that has not returned (sq.rdc, sq.stat: R266, R267)? -/
def readsOut (m : Mach) (tk : Nat) : Bool :=
  let x := m.arr (groupArr tk)
  ((if x.holder = some (tk % 3072) then x.queue else []) ++ ((m.spills.find tk).map (·.queue)).getD []).any fun c =>
    c.op == 14 || c.op == 15

/-- TASK_END (R96, R127, R215, R366): once the array reads of a halted task have returned, its stores are acknowledged, its
core's L1 is written back, and it leaves its sets and its context; what else it holds goes back once its lease is free too (log entry 74). -/
def taskEndAt (e : Env) (tk : Nat) (m : Mach) : Mach :=
  let d := tk / 3072
  let r := tk % 3072 / 16
  let t := m.task tk
  match taskHalted m tk with
  | none => m
  | some ck =>
    if readsOut m tk then m else
    let leased : Bool := t.lease != .none || (m.arr (groupArr tk)).holder == some (tk % 3072)
    if leased && ck.isNone && t.sets.isEmpty then m
    else if leased then resumeCore e d r (leaveContext e tk ck m)
    else
      let m := leaveContext e tk ck m
      let units := (m.task tk).energy
      let m := energyDemotionAt t.launch (chargeLaunch d t.launch units (giveBack tk m))
      let m := m.modLaunch t.launch fun x => { x with running := x.running - 1 }
      let x := m.launch t.launch
      let m := if x.kind = 3 then settleHwqs t.launch m else m
      resumeCore e d r (completeLaunch e t.launch m)

/-! ### Changing a core's SRAM split (R178) -/

/-- SPLIT_ADOPT (R178): a core that holds no task writes back and invalidates its L1, zeroes the scratchpad above 2 MiB
and adopts the split, after every write of it, one of the same value too, with every region's legend RAW (R370); stores
that its tasks made have been performed. -/
def splitAdoptAt (e : Env) (core : Nat) (m : Mach) : Mach :=
  let d := coreDie core
  let code := (m.die d).sramL1
  if !(coreTasks m core).isEmpty || splitTaken m d (core % 192) then m
  else
    let m := settlePeers e core (writeBackAll e core (fun _ => true) m)
    let keep (b : Nat) : Bool := decide (b / 2 ^ 22 ≠ core) || decide (b % 2 ^ 22 < 2 ^ 21)
    let m := { m with spad := m.spad.filter fun (p : Nat × Byte) => keep p.1,
                      spadChk := m.spadChk.filter fun (p : Nat × Byte) => keep (p.1 * 8) }
    m.modCore core fun k =>
      { k with l1 := code, splitNo := (m.die d).splitNo, sectors := [], regions := [] }

/-! ### The events -/

/-- LAUNCH_RECORD_ADMIT: The walker reads and checks the record at a queue's head and accepts it, or halts the queue with a cause. (R85) -/
def execLaunchRecordAdmit (d : Fin 16) (q : Fin 1024) (s : State) : Out :=
  eventStep (fun e => launchRecordAdmitAt e d.val q.val) s

/-- TASK_PLACEMENT: Once its edges are clear and an eligible core exists, the walker translates, places and preloads one task. (R88) -/
def execTaskPlacement (d : Fin 16) (q : Fin 1024) (s : State) : Out := eventStep (fun e => serve e d.val q.val false) s

/-- GANG_PLACEMENT: Once G cores are eligible and a membership set is free, the walker places every member of a gang in one step. (R88) -/
def execGangPlacement (d : Fin 16) (q : Fin 1024) (s : State) : Out := eventStep (fun e => serve e d.val q.val true) s

/-- QUANTUM_BOUNDARY: Every 110 ticks the dispatcher reassigns the 64 hardware queue slots by effective class and round robin. (R91) -/
def execQuantumBoundary (d : Fin 16) (s : State) : Out := eventStep (fun e => quantumBoundaryAt e d.val) s

/-- QUEUE_AGEING: A queue that has had work for 10 ms without a slot has its effective class raised by one. (R92) -/
def execQueueAgeing (d : Fin 16) (q : Fin 1024) (s : State) : Out := eventStep (fun e => queueAgeingAt e d.val q.val) s

/-- ENERGY_DEMOTION: When a launch's charge reaches a further multiple of its budget, its class is lowered by one. (R93) -/
def execEnergyDemotion (d : Fin 16) (l : Nat) (s : State) : Out :=
  eventStep (fun _ m => if (m.launch l).die = d.val then energyDemotionAt l m else m) s

/-- PREEMPTION: The dispatcher pre-empts a task: the context is stopped, any lease is spilled, the frame is written and the context is freed. (R118) -/
def execPreemption (d : Fin 16) (r : Fin 192) (x : Fin 4) (s : State) : Out :=
  eventStep (fun e => preemptionAt e (ctxKey d.val r.val x.val)) s

/-- QUANTUM_PREEMPTION: A task that has run 110 ticks while an equal or higher class task waits for its core is pre-empted. (R94) -/
def execQuantumPreemption (d : Fin 16) (r : Fin 192) (x : Fin 4) (s : State) : Out :=
  eventStep (fun e => quantumPreemptionAt e (ctxKey d.val r.val x.val)) s

/-- PAGE_FAULT_RESUME: When a page arrives, tasks waiting on it resume under R116 with no handler change. (R119) -/
def execPageFaultResume (d : Fin 16) (f : Fin 3072) (s : State) : Out :=
  eventStep (fun e => pageFaultResumeAt e (taskKey d.val f.val)) s

/-- TASK_END: After a halt, once its stores are acknowledged and its L1 is written back, the task ends and its resources are freed. (R127) -/
def execTaskEnd (d : Fin 16) (f : Fin 3072) (s : State) : Out := eventStep (fun e => taskEndAt e (taskKey d.val f.val)) s

/-- DEFERRED_COMPLETION_WRITE: A completion word on an absent page is written once the page arrives, and the launch then completes. (R96) -/
def execDeferredCompletionWrite (d : Fin 16) (l : Nat) (s : State) : Out :=
  eventStep (fun e m => if (m.launch l).die = d.val then deferredWrite e l m else m) s

/-- SPLIT_ADOPT: A core that holds no task writes back and invalidates its L1, zeroes the upper scratchpad and adopts the new split. (R178) -/
def execSplitAdopt (d : Fin 16) (r : Fin 192) (s : State) : Out :=
  eventStep (fun e => splitAdoptAt e (coreKey d.val r.val)) s

end Sys2Proof.Machine
end

