-- ==== Sys2Proof/Machine/Engines.lean ====
section
/-! DEFINITION. Job cards, the copy and collective engines, the migration engine, and the unit eq
(R97 to R103, R221 to R224, R353 to R368). -/

namespace Sys2Proof.Machine

/-- Deliver to eq.q (R98, R357). -/
def eqResult (lat : Nat) (v : W64) : M Unit := result64 15 lat v

/-- Read n doublewords from a, each as an ldd load (R186, R353). -/
def readWords (a : W64) (n : Nat) : M (List Nat) :=
  (List.range n).mapM fun k => do
    let acc ← check .read 8 8 (addA a (w64 (8 * k)))
    pure (ofBytes (← loadBytes acc 8))

/-- Read a record of 256 bytes, each of them checked as a load (R99); tval is the address of the byte that fails (log
entry 80). -/
def readRecord (a : W64) : M (List Byte) := do
  let ws ← (List.range 32).mapM fun k => do
    let e ← read
    let m ← get
    let x := addA a (w64 (8 * k))
    let (s, m) := spanCheck e m.who .read x 9 8 m
    set m
    match s with
    | .stop s => throw s
    | .ok => loadBytes (← check .read 1 1 x) 8
  pure ws.flatten

/-! ### Job cards (R353, R354) -/

/-- A job card's fields (R353). -/
structure Card where
  op : Nat
  dom : Nat
  buf : Nat
  redop : Nat
  fmt : Nat
  nodst : Bool
  root : Nat
  n : Nat
  src : W64
  dst : W64
  pattern : W64
  deriving DecidableEq, Repr

/-- The fields of a card's words. -/
def cardOf (w : List Nat) : Card :=
  let x := w.getD 0 0
  { op := fld x 3 0, dom := fld x 15 8, buf := fld x 23 16, redop := fld x 25 24, fmt := fld x 26 26, nodst := tst x 27
    root := fld x 41 32, n := fld (w.getD 1 0) 31 0, src := w64 (w.getD 2 0), dst := w64 (w.getD 3 0)
    pattern := w64 (w.getD 4 0) }

/-- Is every field of a card legal for the operation that reads it (R354 step 2)? -/
def cardLegal (want : Nat) (w : List Nat) : Bool :=
  let x := w.getD 0 0
  let c := cardOf w
  c.op == want && fld x 7 4 == 0 && fld x 31 28 == 0 && fld x 63 42 == 0 && fld (w.getD 1 0) 63 32 == 0
    && w.getD 5 0 == 0 && w.getD 6 0 == 0 && w.getD 7 0 == 0
    && decide (1 ≤ c.n) && decide (c.n ≤ 2 ^ 30) && c.redop != 3
    && (c.op == 2 || (c.redop == 0 && c.fmt == 0)) && (2 ≤ c.op || !c.nodst) && (c.op == 3 || c.root == 0)
    && (c.op != 1 || c.src == 0) && (!c.nodst || c.dst == 0) && (c.op == 1 || c.pattern == 0)

/-- Element bytes of a reduction (R354). -/
def redBytes (fmt : Nat) : Nat := if fmt = 0 then 4 else 2

/-- The first of src, dst and n that is not a multiple of the element size of a reduction (R354). -/
def cardUneven (c : Card) : Option W64 :=
  if c.op != 2 then none
  else [c.src, c.dst, w64 c.n].find? fun v => v.toNat % redBytes c.fmt != 0

/-- Where the bytes of a checked region lie: pieces of one location each, with their lengths. -/
def pieces (e : Env) (who : Who) (k : Right) (a : W64) : Nat → Nat → Mach → List (Loc × Nat) × Mach
  | 0, _, m => ([], m)
  | fuel + 1, n, m =>
    if n = 0 then ([], m)
    else
      let c := cvtFor who a
      let (x, m) := checkAcc e who k 1 1 c m
      match x with
      | .ok acc =>
        let len := min n (alikeBytes m who c)
        let (r, m) := pieces e who k (addA a (w64 len)) fuel (n - len) m
        ((acc.loc, len) :: r, m)
      | _ => ([], m)

/-- The physical range on die d of a piece, scratchpads numbered above the memories. -/
def ownRange (d : Nat) (p : Loc × Nat) : Option (Nat × Nat) :=
  match p.1 with
  | .spad c o => if c / 192 = d then some (2 ^ 60 + spadAddr c o, 2 ^ 60 + spadAddr c o + p.2) else none
  | .phys pa => if pa / 2 ^ 40 = d then some (pa, pa + p.2) else none
  | .peer _ _ _ _ => none

/-- Check one region of a card (R354 step 3). -/
def checkRegion (k : Right) (noP : Bool) (a : W64) (n : Nat) : M (List (Loc × Nat)) := do
  let e ← read
  let m ← get
  require (!(noP && apOf a = 3)) Cause.aperture a
  let (x, m) := spanCheck e m.who k a (spanFuel m.who n) n m
  set m
  match x with
  | .stop s => throw s
  | .ok =>
    let (ps, m) := pieces e m.who k a (spanFuel m.who n) n m
    set m
    pure ps

/-- Read and check the card at x (R354): its fields and the own-die ranges of its regions with a write mark. -/
def readCard (want : Nat) (x : W64) : M (Card × List (Nat × Nat × Bool)) := do
  let _ ← check .read 64 64 x
  let w ← readWords x 8
  let c := cardOf w
  require (cardLegal want w) Cause.illegalSlot x
  match cardUneven c with
  | some v => trap Cause.align v
  | none => pure ()
  let noP := decide (2 ≤ want)
  let ss ← if want = 1 then pure [] else checkRegion .read noP c.src c.n
  let ds ← if c.nodst then pure [] else checkRegion .write noP c.dst c.n
  let d := (← get).issue.d
  let rs := ss.filterMap (ownRange d)
  let ws := ds.filterMap (ownRange d)
  require (!(rs.any fun r => ws.any fun y => decide (r.1 < y.2) && decide (y.1 < r.2))) Cause.illegalSlot x
  pure (c, (rs.map fun r => (r.1, r.2, false)) ++ ws.map fun r => (r.1, r.2, true))

/-! ### Acceptance and admission (R355) -/

/-- Does the walker admit a card: it is in the tracking table and depends on no in-flight entry but its issuer's
(R313, R355)? -/
def cardFree (x : Die) (j : Job) : Bool :=
  match j.entry with
  | some no => edgesClear x no fun z => z == j.taskEntry
  | none => false

/-- JOB_CARD_ADMIT (R355): of the cards of a die's engines the one accepted first is admitted, once it depends on no
in-flight entry. -/
def jobCardAdmitAt (d : Nat) (g : Engine) (m : Mach) : Mach :=
  let m := enterCards d m
  let x := m.die d
  match x.firstCard fun j => !j.admitted with
  | some j =>
    if cardFree x j then
      m.modDie d fun x => x.setCards g ((x.cards g).map fun y => if y.no = j.no then { y with admitted := true } else y)
    else m
  | none => m

/-- Is an engine's queue full (R355)? -/
def cardsFull (m : Mach) (d : Nat) (g : Engine) : Bool := decide (256 ≤ ((m.die d).cards g).length)

/-- Accept a card of the issuing task and deliver its token's handle (R355, R357). -/
def acceptCard (g : Engine) (kind : Nat) (x : W64) (c : Card) (rs : List (Nat × Nat × Bool)) (gid gen opno : Nat) :
    M Unit := do
  let m ← get
  if cardsFull m m.issue.d g then block (.card g) x true else pure ()
  tokenRoom kind x
  let (seq, h) ← takeToken kind none
  modify fun m =>
    let who := m.who
    let t := m.curTask
    let j : Job :=
      { op := c.op, dom := c.dom, buf := c.buf, redop := c.redop, fmt := c.fmt, nodst := c.nodst, root := c.root, n := c.n
        src := cvtFor who c.src, dst := cvtFor who c.dst, pattern := c.pattern, task := ownerOf m m.tkey, kind := kind
        seq := seq, launch := t.launch, extents := t.extents, core := m.issue.r, taskEntry := t.entry, entry := none
        ranges := rs, admitted := false, started := false, doneLines := [], peerLines := [], seen := [], high := 0, low := 0, g := gid
        gen := gen, opno := opno, disagree := false, written := false, no := (m.die m.issue.d).nextEntry }
    let d := m.issue.d
    let m := m.modDie d fun y => { y.setCards g (y.cards g ++ [j]) with nextEntry := y.nextEntry + 1 }
    let m := m.modLaunch t.launch fun l => { l with jobs := l.jobs + 1 }
    enterCards d m
  eqResult 8 h

/-! ### Reads and writes of the engines (R356) -/

/-- The agent of a job: it charges the issuing task while that task is there. -/
def jobAgent (m : Mach) (code d owner : Nat) : Agent :=
  ⟨code, d, if ownerLives m owner then ownerKey owner % 3072 else noFrame⟩

/-- The packets of a job. -/
def Job.tag (j : Job) : TxTag := .job j.task j.kind j.seq

/-- Who a job accesses memory for: L addresses have been converted at acceptance. -/
def jobWho (m : Mach) (d : Nat) (j : Job) : Who :=
  { die := d, rank := j.core, frame := (jobAgent m 3 d j.task).frame, extents := j.extents, spadBase := 0, spadSize := 0 }

/-- Charge bytes that an engine moves: buffer, and the issuing task (R225, R403). -/
def engineTraffic (e : Env) (d owner buf : Nat) (l : Loc) (n : Nat) (m : Mach) : Mach :=
  match l with
  | .spad _ _ => m
  | l =>
    let m := m.addHot d buf n
    if ownerLives m owner then m.charge (ownerKey owner) (linkEnergy e m d l n) else m

/-- Read the line of an access at its home, for n of its bytes: what a peer package delivers, and with which severity, is
free (log entry 6). -/
def engineRead (e : Env) (ag : Agent) (owner buf : Nat) (a : Acc) (n : Nat) (m : Mach) : Got × Mach :=
  let m := engineTraffic e ag.die owner buf a.loc n m
  match a.loc with
  | .spad c o => spadRead e ag c o m
  | .phys pa => homeRead e ag a.legend (pa / 128) m
  | .peer pkg _ _ _ =>
    let (g, m) := peerGot m
    (g, toPackage e { die := ag.die, pkg := some pkg } [] m)

/-- Write bytes within one line at their home, under the destination's legend, or make the line poisoned (R356); a packet to a
peer package says whether its data is poisoned (log entry 82). -/
def engineWrite (e : Env) (ag : Agent) (owner buf : Nat) (tag : TxTag) (a : Acc) (bs : List Byte) (poison : Bool)
    (m : Mach) : Mach :=
  let m := engineTraffic e ag.die owner buf a.loc bs.length m
  match a.loc with
  | .spad c o => if poison then spadPoison c o m else (spadWrite e ag c o bs m).2
  | .phys pa => if poison then homePoison e ag a.legend (pa / 128) m else (homeWrite e ag a.legend pa bs m).2
  | .peer pkg _ _ _ => toPackage e { die := ag.die, pkg := some pkg, poison := poison, tag := tag } bs m

/-- Lines that n bytes from a touch. -/
def lineCount (a : W64) (n : Nat) : Nat := ceilDiv (a.toNat % 128 + n) 128

/-- Bytes of a region of n bytes from a that lie in its i-th line: the first one and one past the last. -/
def lineSpan (a : W64) (n i : Nat) : Nat × Nat :=
  let o := a.toNat % 128
  (128 * i - o, min n (128 * (i + 1) - o))

/-- The bytes lo to hi − 1 of a job's source, read line by line: none when a page is not there, else the bytes with the
ranges read with HIGH severity. Each source line is counted once (R358). -/
def readSource (e : Env) (d code : Nat) (g : Engine) (k : Nat) (j : Job) (lo hi : Nat) (m : Mach) :
    Option (List Byte × List (Nat × Nat)) × Mach :=
  let o := j.src.toNat % 128
  let first := (o + lo) / 128
  let lines := if hi ≤ lo then [] else (List.range ((o + hi - 1) / 128 + 1 - first)).map fun i => first + i
  lines.foldl (fun (r : Option (List Byte × List (Nat × Nat)) × Mach) i =>
    match r with
    | (none, m) => (none, m)
    | (some (bs, bad), m) =>
      let x := max lo (lineSpan j.src j.n i).1
      let y := min hi (lineSpan j.src j.n i).2
      let a := addA j.src (w64 x)
      let (c, m) := checkAcc e (jobWho m d j) .read 1 1 a m
      match c with
      | .ok acc =>
        let (got, m) := engineRead e (jobAgent m code d j.task) j.task j.buf acc (y - x) m
        let m := modJob d g k (fun j =>
          if j.seen.contains i then j
          else { j with seen := i :: j.seen, high := j.high + b2n (got.sev == 3), low := j.low + b2n (got.sev == 2) }) m
        (some (bs ++ ((bytesOf got.data 128).drop (a.toNat % 128)).take (y - x),
          if got.sev = 3 then bad ++ [(x, y)] else bad), m)
      | _ => (none, m)) (some ([], []), m)

/-- The completion value of a job (R358). -/
def Job.value (j : Job) : W64 := w64 (satN j.high 16 + satN j.low 16 * 2 ^ 16 + b2n j.disagree * 2 ^ 61)

/-- A job ends: it leaves the engine's queue and the tracking table, its token completes, and its launch may (R90, R96,
R357). -/
def finishJob (e : Env) (d : Nat) (g : Engine) (k : Nat) (v : W64) (m : Mach) : Mach :=
  match ((m.die d).cards g)[k]? with
  | none => m
  | some j =>
    let m := m.modDie d fun x =>
      { x.setCards g ((x.cards g).eraseIdx k) with entries := x.entries.filter fun z => some z.no != j.entry }
    jobDone e j.launch (completeOwned j.task j.kind j.seq v m)

/-! ### Copy and fill (R356) -/

/-- COPY_EXECUTE: the bytes of one destination line of an admitted card (R356, R427). -/
def copyLine (e : Env) (d k i : Nat) (m : Mach) : Mach :=
  match (m.die d).copyQ[k]? with
  | none => m
  | some j =>
    if !j.admitted || j.doneLines.contains i || lineCount j.dst j.n ≤ i then m
    else
      let (lo, hi) := lineSpan j.dst j.n i
      let (c, m) := checkAcc e (jobWho m d j) .write 1 1 (addA j.dst (w64 lo)) m
      match c with
      | .ok acc =>
        let (r, m) :=
          if j.op = 1 then
            (some ((List.range (hi - lo)).map (fun b => BitVec.ofNat 8 (laneN j.pattern.toNat 8 ((lo + b) % 8))), []), m)
          else readSource e d 3 .copy k j lo hi m
        match r with
        | some (bs, bad) =>
          let m := engineWrite e (jobAgent m 3 d j.task) j.task j.buf j.tag acc bs (!bad.isEmpty) m
          modJob d .copy k (fun j =>
            { j with started := true, doneLines := i :: j.doneLines,
                     peerLines := if acc.loc.isPeer then i :: j.peerLines else j.peerLines }) m
        | none => m
      | _ => m

/-- Does an address lead to a peer package? -/
def leadsToPeer (e : Env) (d : Nat) (j : Job) (k : Right) (a : W64) (m : Mach) : Bool :=
  apOf a == 3 && match (checkAcc e (jobWho m d j) k 1 1 a m).1 with
    | .ok acc => acc.loc.isPeer
    | _ => false

/-- Has the home of a line that a job of a die has sent to a peer package acknowledged it: has a flit come in that says so
(R357; log entry 6)? -/
def acknowledged (m : Mach) (d : Nat) (j : Job) (i : Nat) : Bool :=
  m.links.any fun (p : Nat × Link) => p.2.inbox.any fun f => Config.acknowledges f == some (d, j.no, i)

/-- May a peer package refuse a job, which then writes nothing (R354, R358): its destination lies there and no line of it has
been acknowledged as written, or its source does and no line has been read (log entry 23)? -/
def refusable (e : Env) (d : Nat) (j : Job) (m : Mach) : Bool :=
  j.admitted
    && ((!j.nodst && leadsToPeer e d j .write j.dst m && !(j.peerLines.any (acknowledged m d j)))
        || (!j.started && j.op != 1 && leadsToPeer e d j .read j.src m))

/-! ### Collective operations (R359 to R366) -/

/-- What one value of a reduction contributes with another (R363). -/
def redOp (redop : Nat) (x y : Num) : Num :=
  match redop with
  | 0 => Num.add 0 x y
  | 1 => Num.pick false x y
  | _ => Num.pick true x y

/-- The format of a reduction (R353). -/
def redElem (fmt : Nat) : Elem := .flt (if fmt = 0 then .fp32 else .bf16)

/-- One level of the tree of R363: neighbours at distance s. -/
def redLevel (redop : Nat) (t : Elem) (s : Nat) (xs : List Nat) : List Nat :=
  xs.mapIdx fun b x =>
    if b % (2 * s) = 0 && b + s < xs.length then t.round 0 0 (redOp redop (t.read x) (t.read (xs.getD (b + s) 0))) else x

/-- The tree of R363 over the members' elements, in rank order. -/
def redTree (redop : Nat) (t : Elem) (xs : List Nat) : Nat :=
  ((List.range 10).foldl (fun xs l => redLevel redop t (2 ^ l) xs) xs).getD 0 0

/-- The shape that every member of an operation must agree on (R362). -/
def Job.shape (j : Job) : List Nat := [j.op, j.n, j.redop, j.fmt, j.root]

/-- The packets of an operation that a die has accepted, in rank order. -/
def opPackets (x : Grp) (opno : Nat) : List CollPacket :=
  (List.range x.members.length).filterMap fun r => x.pkts.find? fun p => p.seq == opno && p.rank == r

/-- The result bytes of an operation whose packets are all there (R363 to R365). -/
def collResult (j : Job) (ps : List CollPacket) : List Byte :=
  match j.op with
  | 2 =>
    let w := redBytes j.fmt
    (List.range (j.n / w)).flatMap fun i =>
      bytesOf (redTree j.redop (redElem j.fmt) (ps.map fun p => ofBytes ((p.bytes.drop (w * i)).take w))) w
  | 3 => match ps[j.root]? with | some p => p.bytes | none => []
  | _ => (List.range j.n).map fun o => ps.foldl (fun x p => x ^^^ p.bytes.getD o 0) 0

/-- The byte ranges whose source was read with HIGH severity (R363). -/
def collBad (j : Job) (ps : List CollPacket) : List (Nat × Nat) :=
  if j.op = 3 then (match ps[j.root]? with | some p => p.high | none => []) else ps.flatMap (·.high)

/-- Write n bytes from dst on line by line at their homes; a destination line that takes a byte of the bad ranges is
poisoned (R363, R377).  Memory lines are written under the given legend, or else under that of their extent entry (R370). -/
def putRegion (e : Env) (who : Who) (ag : Agent) (owner buf : Nat) (leg : Option Nat) (dst : W64) (n : Nat) (bs : List Byte)
    (bad : List (Nat × Nat)) (m : Mach) : Mach :=
  (List.range (lineCount dst n)).foldl (fun m i =>
    let (lo, hi) := lineSpan dst n i
    let (c, m) := checkAcc e who .write 1 1 (addA dst (w64 lo)) m
    match c with
    | .ok acc =>
      engineWrite e ag owner buf .none { acc with legend := leg.getD acc.legend } ((bs.drop lo).take (hi - lo)) (bad.any fun b => decide (b.1 < hi) && decide (lo < b.2)) m
    | _ => m) m

/-- Write the result of a collective operation. -/
def writeResult (e : Env) (d : Nat) (j : Job) (bs : List Byte) (bad : List (Nat × Nat)) (m : Mach) : Mach :=
  putRegion e (jobWho m d j) (jobAgent m 4 d j.task) j.task j.buf none j.dst j.n bs bad m

/-- Finish a collective operation of which every packet is there: it writes the result, or nothing when the members
disagree (R362); it waits while a page of the destination is not there. -/
def collFinish (e : Env) (d k : Nat) (m : Mach) : Mach :=
  match (m.die d).collQ[k]? with
  | none => m
  | some j =>
    let x := m.grp (grpKey d j.g)
    let ps := opPackets x j.opno
    if x.st = .free || !j.started || j.written || x.gen != j.gen || ps.length != x.members.length then m
    else
      let disagree := (ps.any fun p => p.shape != j.shape) || (j.op == 3 && decide (x.members.length ≤ j.root))
      let done (m : Mach) : Mach :=
        (modJob d .coll k (fun j => { j with written := true, disagree := disagree }) m).modGrp (grpKey d j.g) fun x =>
          { x with pkts := x.pkts.filter fun p => p.seq != j.opno }
      if disagree || j.nodst then done m
      else
        let (s, m) := spanCheck e (jobWho m d j) .write j.dst (spanFuel (jobWho m d j) j.n) j.n m
        match s with
        | .ok => done (writeResult e d j (collResult j ps) (collBad j ps) m)
        | .stop _ => m

/-- Finish what a die's collective engine can finish. -/
def collFinishAll (e : Env) (d : Nat) (m : Mach) : Mach :=
  (List.range (m.die d).collQ.length).foldl (fun m k => collFinish e d k m) m

/-- A member's fields (R360): package, die, identifier. -/
def memberOf (w : W64) : Nat × Nat × Nat := (fld w.toNat 15 0, fld w.toNat 19 16, fld w.toNat 31 24)

/-- Charge the task of a job, while it is there, with energy (R403). -/
def chargeOwner (owner units : Nat) (m : Mach) : Mach := if ownerLives m owner then m.charge (ownerKey owner) units else m

/-- Send a packet to every other member: on its way inside the package, or out on a Rhavor link (R361), where it says
whether its data is poisoned (R363; log entry 82); the job's task is charged for the bytes (R403). -/
def sendAll (e : Env) (d owner : Nat) (x : Grp) (p : CollPacket) (m : Mach) : Mach :=
  x.members.zipIdx.foldl (fun m w =>
    if w.2 = x.rank then m
    else
      let (pkg, die, g) := memberOf w.1
      if pkg = (m.die d).pkgSelf then
        let m := chargeOwner owner (p.bytes.length * (linkUnits * pathLinks e m d die)) m
        { m with colls := m.colls ++ [{ src := d, dst := die, pkt := { p with g := g } }] }
      else
        let m := chargeOwner owner (linkEnergy e m d (.peer pkg 0 0 0) p.bytes.length) m
        toPackage e { die := d, pkg := some pkg, poison := !p.high.isEmpty, tag := .coll d p.g p.gen } p.bytes m) m

/-- COLL_OP_START (R362, R367): the first admitted operation that has not started reads its source, for a multicast
only at the root, and sends its packet. -/
def collStart (e : Env) (d : Nat) (m : Mach) : Mach :=
  if e.clk.cycle % 1024 != 0 then m
  else
    match (m.die d).collQ.findIdx? fun j => !j.started with
    | none => m
    | some k =>
      match (m.die d).collQ[k]? with
      | none => m
      | some j =>
        let x := m.grp (grpKey d j.g)
        if !j.admitted then m
        else
          let n := if j.op = 3 && x.rank != j.root then 0 else j.n
          let (r, m) := readSource e d 4 .coll k j 0 n m
          match r with
          | none => m
          | some (bs, bad) =>
            let p : CollPacket :=
              { g := j.g, gen := j.gen, digest := Config.memberDigest x.members, seq := j.opno, shape := j.shape,
                rank := x.rank, member := x.members.getD x.rank 0, bytes := bs, high := bad }
            let m := modJob d .coll k (fun j => { j with started := true }) m
            let m := m.modGrp (grpKey d j.g) fun x => { x with pkts := x.pkts ++ [p] }
            collFinishAll e d (sendAll e d j.task x p m)

/-- What an arriving packet meets (R361). -/
inductive Verdict where
  | accept | hold | drop
  deriving DecidableEq, Repr

/-- Judge a packet (R361); a closing identifier still takes the packets of operations it has accepted (R366, log entry
31). -/
def judge (x : Grp) (p : CollPacket) : Verdict :=
  let mine := p.gen == x.gen && p.digest == Config.memberDigest x.members
  match x.st with
  | .opened => if mine then .accept else .drop
  | .closing => if mine && decide (p.seq < x.nextOp) then .accept else if p.gen == (x.gen + 1) % 16 then .hold else .drop
  | .free => if p.gen == (x.gen + 1) % 16 then .hold else .drop

/-- Bytes that a packet takes in the hold buffer: its data and a header flit (R361, R427). -/
def packetBytes (p : CollPacket) : Nat := 32 + p.bytes.length

/-- Take a packet at a die (R361): none when the hold buffer has no room, and the packet waits. -/
def takePacket (e : Env) (d : Nat) (p : CollPacket) (m : Mach) : Option Mach :=
  match judge (m.grp (grpKey d p.g)) p with
  | .accept =>
    some (collFinishAll e d (m.modGrp (grpKey d p.g) fun x => { x with pkts := x.pkts ++ [p] }))
  | .drop =>
    let x := m.grp (grpKey d p.g)
    let m := m.modDie d fun x => { x with collStale := satN (x.collStale + 1) 32 }
    some (if x.st != .free then
      m.modGrp (grpKey d p.g) fun x => { x with dropped := (p.seq, p.member) :: x.dropped } else m)
  | .hold =>
    if ((m.die d).hold.map packetBytes).sum + packetBytes p ≤ 65536 then
      some (m.modDie d fun x => { x with hold := x.hold ++ [p] })
    else none

/-- May the k-th packet on its way be taken: no earlier one goes from its sender to its die (R401), and no other packet of
its sender waits for room (R361)? -/
def collTurn (m : Mach) (k : Nat) : Bool :=
  match m.colls[k]? with
  | none => false
  | some p =>
    !((m.colls.take k).any fun q => q.src == p.src && q.dst == p.dst)
      && !(m.colls.zipIdx.any fun q => q.2 != k && q.1.waits && q.1.src == p.src)

/-- Take the k-th packet on its way at its die, or let it wait for room. -/
def takeColl (e : Env) (k : Nat) (m : Mach) : Mach :=
  if !(collTurn m k) then m
  else
    match m.colls[k]? with
    | none => m
    | some q =>
      match takePacket e q.dst q.pkt { m with colls := m.colls.eraseIdx k } with
      | some m => m
      | none => { m with colls := m.colls.set k { q with waits := true } }

/-- Judge the packets of identifier g in a die's hold buffer again (R361). -/
def rejudge (e : Env) (d g : Nat) (m : Mach) : Mach :=
  let mine := (m.die d).hold.filter fun p => p.g == g
  mine.foldl (fun m p => (takePacket e d p m).getD m)
    (m.modDie d fun x => { x with hold := x.hold.filter fun p => p.g != g })

/-- COLL_PACKET_ARRIVAL (R361): a peer package's packets come on a link, in their order. -/
def collArrives (e : Env) (a : CollArrival) (m : Mach) : Mach :=
  match a with
  | .queued k => takeColl e k m
  | .held d k =>
    match (m.die d.val).hold[k]? with
    | some p => if (m.grp (grpKey d.val p.g)).st = .opened then rejudge e d.val p.g m else m
    | none => m
  | .peer l d p =>
    if receives e m l.val && e.live d.val then
      takeColl e m.colls.length { m with colls := m.colls ++ [{ src := 16 + l.val, dst := d.val, pkt := p }] }
    else m

/-- Has every packet that an operation of an identifier expects been accepted, or a packet of that number from its member
been dropped, whatever its generation and list (R366; log entry 31)? -/
def Grp.heard (x : Grp) (opno : Nat) : Bool :=
  x.members.zipIdx.all fun w =>
    (x.pkts.any fun p => p.seq == opno && p.rank == w.2) || x.dropped.contains (opno, w.1)

/-- COLL_ID_FREE (R366): the packets sent and expected of a closing identifier are all acknowledged or dropped, and none of
its use is on its way to it.  An operation of which one was dropped never completes (R361) and does not hold it. -/
def collFree (d g : Nat) (m : Mach) : Mach :=
  let x := m.grp (grpKey d g)
  let onWay (w : CollMsg) : Bool :=
    w.pkt.gen == x.gen
      && (w.pkt.digest == Config.memberDigest x.members && w.pkt.rank == x.rank || w.dst == d && w.pkt.g == g)
  let waits (j : Job) : Bool :=
    j.g == g && j.gen == x.gen && !(j.started && !j.written && x.heard j.opno && x.dropped.any fun y => y.1 == j.opno)
  if x.st = .closing && !((m.die d).collQ.any waits) && !(m.colls.any onWay)
      && !(inTransit m fun i => i.tag == .coll d g x.gen) then
    m.modGrp (grpKey d g) fun x => { gen := x.gen }
  else m

/-- ENGINE_TOKEN_COMPLETE (R354, R357, R358): every destination byte is acknowledged at its home, those on a peer package by
an acknowledgement that has come from there, or the peer package refuses. -/
def engineComplete (e : Env) (d : Nat) (g : Engine) (k : Nat) (refused : Bool) (m : Mach) : Mach :=
  let m := if g = .coll then collFinish e d k m else m
  match ((m.die d).cards g)[k]? with
  | none => m
  | some j =>
    if refused then (if g = .copy && refusable e d j m then finishJob e d g k (j.value + w64 (2 ^ 62)) m else m)
    else
      let done := match g with
        | .copy =>
          j.admitted && decide (lineCount j.dst j.n ≤ j.doneLines.length) && !(inTransit m fun i => i.tag == j.tag)
            && j.peerLines.all (acknowledged m d j)
        | .coll => j.written
      if done then finishJob e d g k j.value m else m

/-! ### Migration (R221 to R224) -/

/-- log2 of the entries of a migration ring, of the form of R81. -/
def Ring.log (r : Ring) : Nat := min r.lsize 12

/-- The virtual address of entry h of a migration ring. -/
def Ring.entryVa (r : Ring) (h : W32) : Nat := (r.base + 8 * (h.toNat % 2 ^ r.log)) % 2 ^ 48

/-- Read the page at the head of a free ring: none while the ring is off or empty or its page cannot be read.  Bits 20:0 and
63:48 of an entry are ignored (log entry 88). -/
def freePage (e : Env) (d : Nat) (r : Ring) (m : Mach) : Option Nat × Mach :=
  if !r.en || r.head == r.tail then (none, m)
  else
    let va := r.entryVa r.head
    let (l, m) := walk e d va m
    match l with
    | some (_, l) =>
      if !l.rd || !l.pr then (none, m)
      else
        let pa := l.pa + va % 2 ^ 21
        let (g, m) := homeRead e ⟨5, d, noFrame⟩ l.legend (pa / 128) m
        (if g.sev = 3 then none else some (laneN g.data 64 (pa % 128 / 8) / 2 ^ 21 * 2 ^ 21 % 2 ^ 48), m)
    | none => (none, m)

/-- Put a vacated page on the release ring: false while it is off or full or its page cannot be written. -/
def releasePage (e : Env) (d pa : Nat) (m : Mach) : Bool × Mach :=
  let r := (m.die d).mrel
  if !r.en || decide (2 ^ r.log ≤ (r.tail - r.head).toNat) then (false, m)
  else
    let va := r.entryVa r.tail
    let (l, m) := walk e d va m
    match l with
    | some (_, l) =>
      if !l.w || !l.pr then (false, m)
      else
        let (ok, m) := homeWrite e ⟨5, d, noFrame⟩ l.legend (l.pa + va % 2 ^ 21) (bytesOf pa 8) m
        (ok, m.modDie d fun x => if ok then { x with mrel := { x.mrel with tail := x.mrel.tail + 1 } } else x)
    | none => (false, m)

/-- Does a location lie in the page at pa? -/
def inPage (pa : Nat) (l : Loc) : Bool := match l with | .phys p => p / 2 ^ 21 == pa / 2 ^ 21 | _ => false

/-- Stores on their way to a page reach it, and every core of the die writes back and invalidates its L1 lines of it
(R222 step 2). -/
def flushPage (e : Env) (d pa : Nat) (m : Mach) : Mach :=
  let cks := (m.ctxs.filter fun (p : Nat × Ctx) => ctxDie p.1 == d && p.2.stq.any fun s => inPage pa s.loc).map (·.1)
  let m := cks.foldl (fun m ck => performAll e ck (fun s => inPage pa s.loc) m) m
  let cores := (m.cores.filter fun (p : Nat × Core) => p.1 / 192 == d && !p.2.sectors.isEmpty).map (·.1)
  cores.foldl (fun m c => dropClean c (fun s => inPage pa s.loc) (writeBackAll e c (fun s => inPage pa s.loc) m)) m

/-- Copy a page line by line through the home slices under its legend; a HIGH line is poisoned there (R222 step 3). -/
def copyPage (e : Env) (d owner leg old new : Nat) (m : Mach) : Mach :=
  (List.range 16384).foldl (fun m i =>
    let (g, m) := homeRead e (jobAgent m 5 d owner) leg (old / 128 + i) m
    let m := engineTraffic e d owner 0 (.phys old) 128 (engineTraffic e d owner 0 (.phys new) 128 m)
    if g.sev = 3 then homePoison e (jobAgent m 5 d owner) leg (new / 128 + i) m
    else homePut e (jobAgent m 5 d owner) leg (new / 128 + i) g.data (checkBits leg g.data) 0xFF m) m

/-- The lateness of an arrival: its distance behind the deadline, 0 when it is not late (R222). -/
def lateness (now dl : BitVec 48) : Nat :=
  let x := (now - dl).toNat
  if 1 ≤ x ∧ x < 2 ^ 47 then x else 0

/-- Change the migration that runs. -/
def modMig (d : Nat) (f : Mig → Mig) (m : Mach) : Mach :=
  m.modDie d fun x => { x with migQ := x.migQ.mapIdx fun i y => if i = 0 then f y else y }

/-- End the running migration once its last page has been handled (R224). -/
def migEnd (e : Env) (d : Nat) (m : Mach) : Mach :=
  match (m.die d).migQ with
  | [] => m
  | g :: rest =>
    if g.next < g.n then m
    else
      let m := m.modDie d fun x => { x with migQ := rest, migOld := (g :: x.migOld).take 64 }
      jobDone e g.launch (completeOwned g.task 3 g.seq (w64 (g.moved * 2 ^ 16 + g.late)) m)

/-- The page at virtual address va moves from pa to new: its leaf at entry address at_ and the records follow
(R222 steps 1 to 5). -/
def movePage (e : Env) (d va at_ : Nat) (l : Leaf) (new owner : Nat) (m : Mach) : Mach :=
  let m := flushPage e d l.pa m
  let m := copyPage e d owner l.legend l.pa new m
  let word := new + 1 + 2 + b2n l.rd * 4 + b2n l.w * 8 + b2n l.x * 16 + l.legend * 2 ^ 60
  let (_, m) := homeWrite e ⟨5, d, noFrame⟩ 0 at_ (bytesOf word 8) m
  wakePage e d (va / 2 ^ 21) m

/-- MIGRATION_PAGE (R221, R222): the next page of the oldest migration; a page whose leaf is invalid is skipped (log entry
98). -/
def migratePage (e : Env) (d : Nat) (m : Mach) : Mach :=
  match (m.die d).migQ with
  | [] => m
  | g :: _ =>
    let va := g.va + 2 ^ 21 * g.next
    let skip (m : Mach) : Mach := migEnd e d (modMig d (fun g => { g with next := g.next + 1 }) m)
    let (l, m) := walk e d va m
    match l with
    | none => skip m
    | some (at_, l) =>
      if (l.pa / 2 ^ 44 == 1) == g.toHost then skip m
      else
        let x := m.die d
        let (p, m) := freePage e d (if g.toHost then x.mfhost else x.mfdie) m
        match p with
        | none => m
        | some new =>
          let (ok, m') := releasePage e d l.pa m
          if !ok then m
          else
            let m := m'.modDie d fun x =>
              if g.toHost then { x with mfhost := { x.mfhost with head := x.mfhost.head + 1 } }
              else { x with mfdie := { x.mfdie with head := x.mfdie.head + 1 } }
            let m := movePage e d va at_ l new g.task m
            let late := lateness e.clk.tick g.deadline
            let m := m.modDie d fun x =>
              { x with slipLate := satN (x.slipLate + b2n (late != 0)) 32, slipWorst := max x.slipWorst (satN late 32) }
            migEnd e d (modMig d (fun g =>
              { g with next := g.next + 1, moved := g.moved + 1, late := g.late + b2n (late != 0), worst := max g.worst late }) m)

/-- How far from v on the write-access extents of a task reach (R224). -/
def writeReach (xs : List Extent) : Nat → Nat → Nat
  | 0, v => v
  | fuel + 1, v =>
    let t := xs.foldl (fun t x => if tst x.access 1 && x.va ≤ v && v < x.va + x.len then max t (x.va + x.len) else t) v
    if t = v then v else writeReach xs fuel t

/-- The first page of a migration that some byte of is not covered by write access (R224). -/
def uncoveredPage (xs : List Extent) (va n : Nat) : Option Nat :=
  (List.range n).find? fun k => decide (writeReach xs (xs.length + 1) (va + 2 ^ 21 * k) < va + 2 ^ 21 * (k + 1))

/-! ### The unit eq -/

/-- R99: prior stores precede the record's tasks; the ring entry is written through the die's page tables. -/
def slotEqLnch (t : Trig) : M Unit := do
  let x ← operand64 t.src
  let qa ← port64 12 0
  require (fld qa.toNat 63 10 == 0) Cause.illegalSlot qa
  let e ← read
  let d := (← get).issue.d
  let q := qa.toNat
  require ((← get).lq (lqKey d q)).dev Cause.priv qa
  require (fld x.toNat 7 0 == 0) Cause.align x
  let bs ← readRecord x
  tokenRoom 6 x
  modify fun m => releaseDie e m.issue.ck m
  let y := (← get).lq (lqKey d q)
  if y.full then block (.ring q) x true else pure ()
  let va := y.slotVa y.tail
  let (l, m) := walk e d va (← get)
  set m
  match l with
  | none => trap Cause.undeclared (w64 va)
  | some (_, l) =>
    require l.w Cause.undeclared (w64 va)
    if !l.pr then throw (.page (w64 va)) else pure ()
    let pa := l.pa + va % 2 ^ 21
    modify fun m =>
      let m := chargeHub e (lsAgent m m.issue.ck) 256 m
      let m := (homeWrite e (lsAgent m m.issue.ck) l.legend pa (bs.take 128) m).2
      (homeWrite e (lsAgent m m.issue.ck) l.legend (pa + 128) (bs.drop 128) m).2
    let (seq, h) ← takeToken 6 none
    modify fun m =>
      let o := ownerOf m m.tkey
      let m := m.modLq (lqKey d q) fun y => { y with tail := y.tail + 1, toks := y.toks ++ [(y.tail.toNat, o, seq)] }
      noteWork e d q m
    eqResult 8 h

/-- R100: takes an item from a work queue. -/
def slotEqPop (t : Trig) : M Unit := do
  let x ← operand64 t.src
  require (fld x.toNat 63 9 == 0) Cause.illegalSlot x
  let m ← get
  let d := m.issue.d
  let w := x.toNat % 256
  let y := m.hwq (hwqKey d w)
  match y.st, y.items with
  | .free, _ => eqResult 6 statusTerm
  | _, i :: rest =>
    modify fun m => acquireDie m.issue.ck (settleHwq d w (m.modHwq (hwqKey d w) fun y => { y with items := rest }))
    eqResult 6 (i.setWidth 64)
  | .closed, [] => eqResult 6 statusTerm
  | .opened, [] => if tst x.toNat 8 then eqResult 6 statusEmpty else block (.pop w) x true

/-- R101: appends an item to a work queue. -/
def slotEqPush (t : Trig) : M Unit := do
  let x ← operand64 t.src
  require (fld x.toNat 63 9 == 0) Cause.illegalSlot x
  let a ← port64 12 0
  let e ← read
  let m ← get
  let d := m.issue.d
  let w := x.toNat % 256
  let y := m.hwq (hwqKey d w)
  match y.st with
  | .opened =>
    if y.items.length < 256 then
      modify fun m =>
        (releaseDie e m.issue.ck m).modHwq (hwqKey d w) fun y => { y with items := y.items ++ [a.setWidth 63] }
      eqResult 4 0
    else if tst x.toNat 8 then eqResult 4 statusFull
    else block (.push w) x true
  | _ => eqResult 4 statusTerm

/-- R102: closes a work queue. -/
def slotEqQcls (t : Trig) : M Unit := do
  let x ← operand64 t.src
  require (fld x.toNat 63 8 == 0) Cause.illegalSlot x
  let m ← get
  let d := m.issue.d
  let w := x.toNat
  if (m.hwq (hwqKey d w)).st = .opened then
    modify fun m => settleHwq d w (m.modHwq (hwqKey d w) fun y => { y with st := .closed })
    eqResult 4 0
  else eqResult 4 statusTerm

/-- R357: a copy card. -/
def slotEqCpy (t : Trig) : M Unit := do
  let x ← operand64 t.src
  awaitCommandFences
  let (c, rs) ← readCard 0 x
  acceptCard .copy 1 x c rs 0 0 0

/-- R357: a fill card. -/
def slotEqFill (t : Trig) : M Unit := do
  let x ← operand64 t.src
  awaitCommandFences
  let (c, rs) ← readCard 1 x
  acceptCard .copy 1 x c rs 0 0 0

/-- R224: starts a migration. -/
def slotEqMig (t : Trig) : M Unit := do
  let x ← operand64 t.src
  let a0 ← port64 12 0
  let nb ← port64 12 1
  let n := nb.toNat
  require (fld x.toNat 63 49 == 0 && decide (1 ≤ n) && decide (n ≤ 4096)) Cause.illegalSlot x
  require (apOf a0 = 0 && fld a0.toNat 57 48 == 0) Cause.aperture a0
  require (fld a0.toNat 20 0 == 0) Cause.align a0
  awaitCommandFences
  let e ← read
  let va := fld a0.toNat 47 0
  match uncoveredPage (← get).curTask.extents va n with
  | some k => trap Cause.undeclared (addA a0 (w64 (2 ^ 21 * k)))
  | none => pure ()
  modify fun m => releaseDie e m.issue.ck m
  let d := (← get).issue.d
  if 64 ≤ ((← get).die d).migQ.length then block .mig x true else pure ()
  tokenRoom 3 x
  let (seq, h) ← takeToken 3 none
  modify fun m =>
    let g : Mig :=
      { va := va, n := n, toHost := tst x.toNat 48, deadline := x.setWidth 48, task := ownerOf m m.tkey, seq := seq,
        launch := m.curTask.launch, next := 0, moved := 0, late := 0, worst := 0 }
    (m.modDie d fun y => { y with migQ := y.migQ ++ [g] }).modLaunch g.launch fun l => { l with jobs := l.jobs + 1 }
  eqResult 8 h

/-- The word of eq.migs for a migration (R224). -/
def Mig.word (g : Mig) (pend : Bool) : W64 :=
  w64 (b2n pend * 2 ^ 62 + min g.worst 16777215 * 2 ^ 32 + g.moved * 2 ^ 16 + g.late)

/-- The handle of a migration's token. -/
def Mig.handle (g : Mig) : W64 := tokenHandle 3 (ownerKey g.task / 3072) (ownerKey g.task % 3072) g.seq

/-- R224: reads a migration's status, or the die's slip counts. -/
def slotEqMigs (t : Trig) : M Unit := do
  let x ← operand64 t.src
  let y := (← get).die (← get).issue.d
  let last := (((y.migQ.map fun g => (g, true)).reverse) ++ y.migOld.map fun g => (g, false)).take 64
  if x = 0 then eqResult 4 y.slip
  else
    match last.find? fun g => g.1.handle == x with
    | some (g, pend) => eqResult 4 (g.word pend)
    | none => eqResult 4 (w64 (2 ^ 63))

/-- Is a group descriptor legal for identifier g of this die (R360)? -/
def descriptorLegal (self d g : Nat) (w0 : Nat) (ms : List W64) : Bool :=
  fld w0 15 11 == 0 && fld w0 63 27 == 0 && decide (fld w0 26 16 < fld w0 10 0)
    && ms.all (fun w => fld w.toNat 23 20 == 0 && fld w.toNat 63 32 == 0)
    && (ms.getD (fld w0 26 16) 0 |> memberOf) == (self, d, g)
    && decide (ms.eraseDups.length = ms.length)

/-- R360: opens a collective group. -/
def slotEqCopn (t : Trig) : M Unit := do
  let x ← operand64 t.src
  let a ← port64 12 0
  let _ ← check .read 8 64 x
  let w0 := (← readWords x 1).getD 0 0
  let p := fld w0 10 0
  require (fld a.toNat 63 8 == 0 && decide (2 ≤ p) && decide (p ≤ 1024)) Cause.illegalSlot x
  let ms := (← readWords (addA x 8) p).map w64
  let m ← get
  let d := m.issue.d
  require (descriptorLegal (m.die d).pkgSelf d a.toNat w0 ms) Cause.illegalSlot x
  let y := m.grp (grpKey d a.toNat)
  require (y.st != .opened) Cause.illegalSlot a
  if y.st = .closing then block (.closing a.toNat) x true else pure ()
  let gen := (y.gen + 1) % 16
  let e ← read
  modify fun m =>
    let m := m.modGrp (grpKey d a.toNat) fun _ =>
      { st := .opened, gen := gen, rank := fld w0 26 16, members := ms, nextOp := 1, pkts := [] }
    rejudge e d a.toNat (m.modCurTask fun t => { t with groups := t.groups ++ [a.toNat + gen * 256] })
  eqResult 8 (w64 (gen * 256 + a.toNat))

/-- The identifier that a group handle names, open and of that generation (R359). -/
def namedGroup (m : Mach) (d h : Nat) : Option Nat :=
  let x := m.grp (grpKey d (h % 256))
  if x.st = .opened && x.gen == h / 256 then some (h % 256) else none

/-- A collective operation (R362): TERM on a handle that names no open identifier, else the card is accepted.  A handle with a
bit of 63:12 set raises ILLEGAL_SLOT (R9; log entry 86). -/
def collective (op : Nat) (t : Trig) : M Unit := do
  let x ← operand64 t.src
  let a ← port64 12 0
  require (fld a.toNat 63 12 == 0) Cause.illegalSlot a
  let d := (← get).issue.d
  match namedGroup (← get) d a.toNat with
  | none => eqResult 8 statusTerm
  | some g =>
    let y := (← get).grp (grpKey d g)
    require (op != 4 || y.members.length == 8) Cause.illegalSlot a
    awaitCommandFences
    let (c, rs) ← readCard op x
    acceptCard .coll 2 x c rs g y.gen y.nextOp
    modify fun m => m.modGrp (grpKey d g) fun y => { y with nextOp := y.nextOp + 1 }

/-- R363 -/
def slotEqCred (t : Trig) : M Unit := collective 2 t

/-- R364 -/
def slotEqCmc (t : Trig) : M Unit := collective 3 t

/-- R365 -/
def slotEqCxp (t : Trig) : M Unit := collective 4 t

/-- R366: closes a collective group.  Bits 63:12 that are not zero raise ILLEGAL_SLOT (R9; log entry 86). -/
def slotEqCcls (t : Trig) : M Unit := do
  let x ← operand64 t.src
  require (fld x.toNat 63 12 == 0) Cause.illegalSlot x
  let d := (← get).issue.d
  match namedGroup (← get) d x.toNat with
  | some _ =>
    modify (closeGrp d x.toNat)
    eqResult 4 0
  | none => eqResult 4 statusTerm

/-- EQ_LNCH: Launches a record into a device queue. (R99) -/
def execEqLnch (t : Trig) (s : State) : Out :=
  slotStep (.eqLnch t) t.guard (slotEqLnch t) s

/-- EQ_POP: Pops an item from a hardware work queue. (R100) -/
def execEqPop (t : Trig) (s : State) : Out :=
  slotStep (.eqPop t) t.guard (slotEqPop t) s

/-- EQ_PUSH: Pushes an item to a hardware work queue. (R101) -/
def execEqPush (t : Trig) (s : State) : Out :=
  slotStep (.eqPush t) t.guard (slotEqPush t) s

/-- EQ_QCLS: Closes a hardware work queue. (R102) -/
def execEqQcls (t : Trig) (s : State) : Out :=
  slotStep (.eqQcls t) t.guard (slotEqQcls t) s

/-- EQ_CPY: Submits a copy job card. (R357) -/
def execEqCpy (t : Trig) (s : State) : Out :=
  slotStep (.eqCpy t) t.guard (slotEqCpy t) s

/-- EQ_FILL: Submits a fill job card. (R357) -/
def execEqFill (t : Trig) (s : State) : Out :=
  slotStep (.eqFill t) t.guard (slotEqFill t) s

/-- EQ_MIG: Submits a page migration. (R224) -/
def execEqMig (t : Trig) (s : State) : Out :=
  slotStep (.eqMig t) t.guard (slotEqMig t) s

/-- EQ_MIGS: Reads migration status. (R224) -/
def execEqMigs (t : Trig) (s : State) : Out :=
  slotStep (.eqMigs t) t.guard (slotEqMigs t) s

/-- EQ_COPN: Opens a collective group identifier. (R360) -/
def execEqCopn (t : Trig) (s : State) : Out :=
  slotStep (.eqCopn t) t.guard (slotEqCopn t) s

/-- EQ_CRED: Submits a collective reduction. (R363) -/
def execEqCred (t : Trig) (s : State) : Out :=
  slotStep (.eqCred t) t.guard (slotEqCred t) s

/-- EQ_CMC: Submits a collective multicast. (R364) -/
def execEqCmc (t : Trig) (s : State) : Out :=
  slotStep (.eqCmc t) t.guard (slotEqCmc t) s

/-- EQ_CXP: Submits a collective parity operation. (R365) -/
def execEqCxp (t : Trig) (s : State) : Out :=
  slotStep (.eqCxp t) t.guard (slotEqCxp t) s

/-- EQ_CCLS: Closes a collective group identifier. (R366) -/
def execEqCcls (t : Trig) (s : State) : Out :=
  slotStep (.eqCcls t) t.guard (slotEqCcls t) s

/-! ### The events -/

/-- JOB_CARD_ADMIT: The walker admits an accepted job card once it depends on no in-flight entry. (R355) -/
def execJobCardAdmit (d : Fin 16) (e : Engine) (s : State) : Out := eventStep (fun _ => jobCardAdmitAt d.val e) s

/-- COPY_EXECUTE: The copy engine copies or fills bytes at the homes under the destination's legend. (R356) -/
def execCopyExecute (d : Fin 16) (k : Nat) (line : Nat) (s : State) : Out :=
  eventStep (fun e => copyLine e d.val k line) s

/-- ENGINE_TOKEN_COMPLETE: A job's token completes once every destination byte has been acknowledged at its home. (R357) -/
def execEngineTokenComplete (d : Fin 16) (e : Engine) (k : Nat) (refused : Bool) (s : State) : Out :=
  eventStep (fun v => engineComplete v d.val e k refused) s

/-- COLL_OP_START: The collective engine starts a group operation at the next tick boundary. (R367) -/
def execCollOpStart (d : Fin 16) (s : State) : Out := eventStep (fun e => collStart e d.val) s

/-- COLL_PACKET_ARRIVAL: A die accepts, holds or drops an arriving collective packet according to its identifier state, generation and digest. (R361) -/
def execCollPacketArrival (p : CollArrival) (s : State) : Out := eventStep (fun e => collArrives e p) s

/-- COLL_ID_FREE: A closing identifier becomes free once its packets have all been acknowledged or dropped. (R366) -/
def execCollIdFree (d : Fin 16) (g : Fin 256) (s : State) : Out := eventStep (fun _ => collFree d.val g.val) s

/-- MIGRATION_PAGE: The migration engine moves one page: it marks it absent, flushes the L1s, copies it, remaps it and resumes waiters. (R222) -/
def execMigrationPage (d : Fin 16) (s : State) : Out := eventStep (fun e => migratePage e d.val) s

end Sys2Proof.Machine
end

