-- ==== Sys2Proof/Machine/Routers.lean ====
section
/-! DEFINITION. Named tiles in the routers: bindings, routes, Vigil entries, Sconces, announcements and retirement
(R274 to R290, R292, R296). -/

namespace Sys2Proof.Machine

/-! ### Names and statuses (R274, R292) -/

def nameId (n : W64) : Nat := fld n.toNat 63 44
def nameIter (n : W64) : Nat := fld n.toNat 43 32
def nameRow (n : W64) : Nat := fld n.toNat 31 16
def nameCol (n : W64) : Nat := fld n.toNat 15 0

def ntBusy : W64 := 0x8000000000000005
def ntNever (cause : Nat) : W64 := 0x8000000000000006 + w64 (cause * 256)

/-- The hub's number among the routers. -/
def hub : Nat := 16

/-- The active routers, the hub first (R288). -/
def routers (e : Env) : List Nat := hub :: e.dieList

/-! ### Bindings (R276, R277) -/

/-- The binding of an id in a router's copy of the table. -/
def Router.binding (r : Router) (id : Nat) : Option Binding := r.binds.find? fun b => b.id == id

/-- Is iteration i of a binding live? -/
def Binding.live (b : Binding) (i : Nat) : Bool := decide ((i + 4096 - b.base) % 4096 < b.win)

/-- Is a name outside the grid of its binding (R294, R295)? -/
def Binding.outside (b : Binding) (n : W64) : Bool := decide (b.rows < nameRow n) || decide (b.cols < nameCol n)

/-- Bytes of a tile. -/
def Binding.bytes (b : Binding) : Nat := 2 ^ (12 + b.size)

/-- The cause of NT_NEVER for a name at a router: unbound 3, not live 0. -/
def Router.never (r : Router) (n : W64) : Option Nat :=
  match r.binding (nameId n) with
  | none => some 3
  | some b => if b.live (nameIter n) then none else some 0

/-! ### Faces and routes (R278, R279) -/

/-- Where a face leads. -/
inductive Leads where
  | local_
  /-- a router, and the face it arrives on there -/
  | router (r face : Nat)
  /-- a Rhavor link -/
  | link (l : Nat)
  deriving DecidableEq, Repr

/-- Where a face of a router leads (R278). -/
def leads (r face : Nat) : Leads :=
  if r = hub then .router face 3
  else
    match face with
    | 0 => .local_
    | 1 => .router ((r + 1) % 16) 2
    | 2 => .router ((r + 15) % 16) 1
    | 3 => .router hub r
    | f => .link (8 * r + (f - 8))

/-- Does a face lead to a fenced die or to a link that is down for good (R279)? -/
def deadFace (e : Env) (r face : Nat) : Bool :=
  match leads r face with
  | .local_ => false
  | .router t _ => t != hub && !(e.live t)
  | .link l => linkGone e l

/-- Is a face number legal for a router (R278)? -/
def legalFace (r face : Nat) : Bool :=
  if r = hub then decide (face < 16) else decide (face < 4) || (decide (8 ≤ face) && decide (face < 16))

/-- Does a route match a name (R279)? -/
def Route.matches (x : Route) (n : W64) : Bool :=
  decide (x.lo ≤ nameId n) && decide (nameId n ≤ x.hi)
    && (!x.rowEn || (decide (x.rlo ≤ nameRow n) && decide (nameRow n ≤ x.rhi)))

/-- The face on which a router sends an interest: the lowest-numbered matching route's, face 3 of a ring stop without
one; none where it is answered with NT_NEVER (R279). -/
def faceFor (e : Env) (m : Mach) (r : Nat) (n : W64) : Option Nat :=
  let f := match (m.router r).routes.find? fun (p : Nat × Route) => p.2.matches n with
    | some p => some p.2.face
    | none => if r = hub then none else some 3
  match f with
  | some f => if deadFace e r f then none else some f
  | none => none

/-! ### Counts and capacities (R280, R285, R301) -/

/-- Add to a count of nt.stat. -/
def countNt (r sel n : Nat) (m : Mach) : Mach :=
  m.modRouter r fun x => { x with stats := x.stats.put sel (x.stats.get 0 sel + w64 n) }

def vigilSize (r : Nat) : Nat := if r = hub then 16384 else 4096
def Router.vigil (x : Router) : Nat := x.locals.length + x.transits.length
def sconceSize (r : Nat) : Nat := if r = hub then 64 * 2 ^ 20 else 8 * 2 ^ 20
def Copy.bytes (c : Copy) : Nat := 128 * c.lines.length
def Router.sconceBytes (x : Router) : Nat := (x.copies.map Copy.bytes).sum
def Router.pinnedBytes (x : Router) : Nat := ((x.copies.filter fun c => c.pinned).map Copy.bytes).sum

/-- The Vigil entries in use at a router: a claimed one is reclaimed with its delivery (R290, R295). -/
def vigilUse (m : Mach) (r : Nat) : Nat :=
  (m.router r).vigil + (m.claims.filter fun c => ownerKey c.ent.task / 3072 == r).length

/-- Does a Vigil entry remain free? -/
def vigilFree (m : Mach) (r : Nat) : Bool := decide (vigilUse m r < vigilSize r)

/-! ### Sending -/

/-- The bytes of a message's payload on a Rhavor link: a tile's lines (R427). -/
def ntBytes (b : NtBody) : List Byte :=
  match b with
  | .tile _ lines _ _ => lines.flatMap fun l => bytesOf l.1.toNat 128
  | _ => []

/-- What the packets of a message are part of. -/
def ntTag (r : Nat) (b : NtBody) : TxTag := match b with | .tile n _ _ _ => .tile r n | _ => .none

/-- The energy of a message on a face (R402, R403). -/
def ntEnergy (e : Env) (r face : Nat) (b : NtBody) (m : Mach) : Nat :=
  let bytes := (ntBytes b).length
  match leads r face with
  | .local_ => 0
  | .router t _ =>
    bytes * (linkUnits * (if r = hub then hubLinks e m t else if t = hub then hubLinks e m r else ringLinks e m r t))
  | .link _ => bytes * rhavorUnits

/-- Send a message on a face that is not local. -/
def sendNt (e : Env) (r face : Nat) (b : NtBody) (m : Mach) : Mach :=
  match leads r face with
  | .local_ => m
  | .router t f => { m with msgs := m.msgs ++ [⟨t, f, b⟩] }
  | .link l => sendPacket e l { die := r, tag := ntTag r b } (ntBytes b) m

/-- The router from which a message has come that arrives at router t on a face. -/
def sentBy (t face : Nat) : Nat :=
  if t = hub then face else if face = 3 then hub else if face = 1 then (t + 1) % 16 else (t + 15) % 16

/-- Is a router's copy of a name being sent on a face (R286)? -/
def busyCopy (m : Mach) (r : Nat) (n : W64) : Bool :=
  (m.msgs.any fun x => sentBy x.to_ x.face == r && (match x.body with | .tile k _ _ _ => k == n | _ => false))
    || inTransit m fun i => i.tag == .tile r n

/-! ### Local entries (R280, R283) -/

/-- Every local entry of a name ends with a status. -/
def endLocals (r : Nat) (n v : W64) (m : Mach) : Mach :=
  ((m.router r).locals.filter fun x => x.name == n).foldl (fun m x => endLocal r x v m) m

/-- Answer an interest on the face it came from (R284): a local one ends, by itself when it is named. -/
def answer (e : Env) (r face : Nat) (n v : W64) (one : Option LocalEntry) (m : Mach) : Mach :=
  if face = 0 && r != hub then
    match one with
    | some x => endLocal r x v m
    | none => endLocals r n v m
  else sendNt e r face (.answer n v) m

/-! ### Sconces (R285, R286) -/

/-- The copy of a name in a Sconce. -/
def Router.copy (x : Router) (n : W64) : Option Copy := x.copies.find? fun c => c.name == n

/-- The next mark of use. -/
def Router.nextUse (x : Router) : Nat := x.copies.foldl (fun u c => max u (c.used + 1)) 0

/-- Evict the least recently used copies that are neither busy nor pinned until `size` bytes fit. -/
def evictFor (r size : Nat) : Nat → Mach → Mach
  | 0, m => m
  | fuel + 1, m =>
    let x := m.router r
    if x.sconceBytes + size ≤ sconceSize r then m
    else
      let free := x.copies.filter fun c => !c.pinned && !(busyCopy m r c.name)
      match free.foldl (fun (b : Option Copy) c => match b with
        | none => some c
        | some y => if c.used < y.used then some c else some y) none with
      | none => m
      | some c =>
        evictFor r size fuel
          (countNt r 7 1 (m.modRouter r fun x => { x with copies := x.copies.filter fun d => d.name != c.name }))

/-- Store a tile in a Sconce under its legend (R285, R286): false when it finds no room. -/
def storeCopy (r : Nat) (n : W64) (lines : List (Line × Bool × Bool)) (legend : Nat) (origin : Bool) (m : Mach) :
    Bool × Mach :=
  let x := m.router r
  let pinned := match x.copy n with | some c => c.pinned | none => false
  let others := x.copies.filter fun c => c.name != n
  let size := 128 * lines.length
  let kept := ((others.filter fun c => c.pinned || busyCopy m r c.name).map Copy.bytes).sum
  if sconceSize r < kept + size then (false, m)
  else
    let m := m.modRouter r fun x => { x with copies := others }
    let m := evictFor r size (others.length + 1) m
    let c : Copy :=
      { name := n, legend := legend, origin := origin, pinned := pinned, used := x.nextUse
        lines := lines.map fun l =>
          if l.2.1 then (0, BitVec.ofNat 128 poisonChk) else (l.1, BitVec.ofNat 128 (checkBits legend l.1.toNat)) }
    (true, m.modRouter r fun x => { x with copies := x.copies ++ [c] })

/-- Pin a copy (R286, R300): its result. -/
def pinCopy (r : Nat) (n : W64) (m : Mach) : W64 × Mach :=
  let x := m.router r
  match x.copy n with
  | none => (1, m)
  | some c =>
    if c.pinned then (0, m)
    else if sconceSize r * 7 / 8 < x.pinnedBytes + c.bytes then (ntBusy, m)
    else (0, m.modRouter r fun x =>
      { x with copies := x.copies.map fun d => if d.name = n then { d with pinned := true } else d })

/-- Read a Sconce copy for serving (R375, R376, R379): the hub's read is charged to the die whose face it serves. -/
def readCopy (e : Env) (r face : Nat) (c : Copy) (m : Mach) : List (Line × Bool × Bool) × Mach :=
  let d := if r = hub then face else r
  let (ls, back, m) := c.lines.foldl (fun (r : List (Line × Bool × Bool) × List (Line × Chk) × Mach) l =>
    let (out, back, m) := r
    let x := decodeCopy c.legend l.1.toNat l.2.toNat
    let (w, m') := m.fresh
    let m := if x.sev = 0 || x.known then m else discovery event e ⟨6, d, noFrame⟩ c.legend 2 (w.toNat % 2 ^ 48) x m'
    let l' : Line × Chk :=
      if x.sev = 0 then l else (BitVec.ofNat 1024 x.newData, BitVec.ofNat 128 x.newChk)
    (out ++ [(BitVec.ofNat 1024 x.data, x.sev == 3, x.sev == 2)], back ++ [l'], m)) ([], [], m)
  (ls, m.modRouter r fun x =>
    { x with copies := x.copies.map fun y => if y.name = c.name then { y with lines := back, used := x.nextUse } else y })

/-- The served-from code that a router's copy gives its tile (R296): origin, ring stop, hub. -/
def servedFrom (r : Nat) (origin : Bool) : Nat := if origin then 0 else if r = hub then 3 else 2

/-! ### Delivery (R282, R296) -/

/-- Who a local entry's destination is written for. -/
def localWho (r : Nat) (x : LocalEntry) : Who :=
  { die := r, rank := x.core, frame := ownerKey x.task % 3072, extents := x.extents, spadBase := 0, spadSize := 0 }

/-- The byte ranges of a tile's HIGH lines. -/
def highRanges (lines : List (Line × Bool × Bool)) : List (Nat × Nat) :=
  lines.zipIdx.filterMap fun l => if l.1.2.1 then some (128 * l.2, 128 * l.2 + 128) else none

/-- The buffer of a name's binding at a router (R225). -/
def bufferOf (m : Mach) (r : Nat) (n : W64) : Nat :=
  match (m.router r).binding (nameId n) with | some b => b.buf | none => 0

/-- Count the bytes of a delivery for the buffers of the extent entries that it is written through, where these are not the
binding's (R418; log entry 83). -/
def countDelivery (d : Nat) (who : Who) (buf : Nat) (dst : W64) (n : Nat) (m : Mach) : Mach :=
  if apOf dst ≠ 0 then m
  else
    (List.range (lineCount dst n)).foldl (fun m i =>
      let (lo, hi) := lineSpan dst n i
      match checkG who.extents who.die .write (addA dst (w64 lo)) with
      | .ok acc => if acc.buf = buf then m else m.addHot d acc.buf (hi - lo)
      | _ => m) m

/-- Write a claimed tile whole under its binding's legend and complete its token (R282, R370); while a page is not there the
claim waits (R295).  The binding's buffer of the time of the claim is charged (R225, R290), and that of the destination
(R418; log entry 83). -/
def deliver (e : Env) (r : Nat) (c : Claim) (m : Mach) : Mach :=
  let who := localWho r c.ent
  let n := 128 * c.lines.length
  let (s, m) := spanCheck e who .write c.ent.dst (spanFuel who n) n m
  match s with
  | .ok =>
    let bs := c.lines.flatMap fun l => bytesOf l.1.toNat 128
    let m := putRegion e who (jobAgent m 6 r c.ent.task) c.ent.task c.buf (some c.legend) c.ent.dst n bs
      (highRanges c.lines) (countDelivery r who c.buf c.ent.dst n m)
    completeOwned c.ent.task 5 c.ent.seq c.value m
  | .stop _ => { m with claims := m.claims ++ [c] }

/-- Try the claims of a die that wait for a page again. -/
def deliverWaiting (e : Env) (d : Nat) (m : Mach) : Mach :=
  let mine := m.claims.filter fun c => ownerKey c.ent.task / 3072 == d
  mine.foldl (fun m c => deliver e d c m) { m with claims := m.claims.filter fun c => ownerKey c.ent.task / 3072 != d }

/-- The completion value of a delivered interest (R296). -/
def deliveryValue (lines : List (Line × Bool × Bool)) (served hops : Nat) : W64 :=
  let code := if served = 2 && hops = 0 then 1 else served
  w64 (code + min hops 32 * 2 ^ 8 + satN (lines.filter fun l => l.2.1).length 16 * 2 ^ 16
    + satN (lines.filter fun l => l.2.2).length 16 * 2 ^ 32)

/-- A tile claims the local entries of its name whose end has not been reached (R282): whether there was one. -/
def claimTile (e : Env) (r : Nat) (n : W64) (lines : List (Line × Bool × Bool)) (served hops : Nat) (m : Mach) :
    Bool × Mach :=
  let mine := (m.router r).locals.filter fun x => x.name == n && !(reached e.clk.tick x.e)
  let m := m.modRouter r fun x => { x with locals := x.locals.filter fun y => !(mine.contains y) }
  let legend := match (m.router r).binding (nameId n) with | some b => b.legend | none => 0
  (!mine.isEmpty, mine.foldl (fun m x =>
    deliver e r { ent := x, lines := lines, legend := legend, buf := bufferOf m r n,
                  value := deliveryValue lines served hops } m) m)

/-- Send a tile on a face: to the local entries, or one hop on (R282). -/
def sendTile (e : Env) (r face : Nat) (n : W64) (lines : List (Line × Bool × Bool)) (served hops : Nat) (m : Mach) :
    Bool × Mach :=
  if face = 0 && r != hub then claimTile e r n lines served hops m
  else (false, sendNt e r face (.tile n lines served (hops + 1)) m)

/-- The faces of the transit entries of a name whose end has not been reached, and the machine with the entries freed
(R282). -/
def freeEntries (e : Env) (r : Nat) (n : W64) (live : Bool) (m : Mach) : List Nat × Mach :=
  let es := (m.router r).transits.filter fun t => t.name == n
  let recs := es.flatMap fun t => t.recs.filter fun p => !live || !(reached e.clk.tick p.2)
  (recs.map (·.1), m.modRouter r fun x => { x with transits := x.transits.filter fun t => t.name != n })

/-- Is a face one between which a ring stop forwards (R285)? -/
def transitFace (f : Nat) : Bool := decide (1 ≤ f)

/-- NT_TILE_ARRIVAL at a router on a face (R277, R282, R285). -/
def tileArrives (e : Env) (r face : Nat) (n : W64) (lines : List (Line × Bool × Bool)) (served hops : Nat) (m : Mach) :
    Mach :=
  match (m.router r).binding (nameId n) with
  | none => m
  | some b =>
    if !(b.live (nameIter n)) then m
    else
      let mine := (m.router r).transits.any fun t => t.name == n && t.up == some face
      let (faces, m) := if mine then freeEntries e r n true m else ([], m)
      let (claimed, m) := faces.foldl (fun (c : Bool × Mach) f =>
        let (x, m) := sendTile e r f n lines served hops c.2
        (c.1 || x, m)) (false, m)
      let keep :=
        if r = hub then b.hub
        else (b.transit && transitFace face && faces.any transitFace) || (b.cons && claimed)
      if keep then (storeCopy r n lines b.legend false m).2 else m

/-! ### Interests (R281, R284) -/

/-- Is end a later than end b? -/
def laterEnd (a b : BitVec 48) : Bool := decide (1 ≤ (a - b).toNat) && decide ((a - b).toNat < 2 ^ 47)

/-- The latest of the ends of entries. -/
def latestEnd (ts : List TransitEntry) : Option (BitVec 48) :=
  (ts.flatMap fun t => t.recs.map (·.2)).foldl (fun b x =>
    match b with
    | none => some x
    | some y => if laterEnd x y then some x else some y) none

/-- A refusal for want of a Vigil entry (R284). -/
def refuseInterest (e : Env) (r face : Nat) (n : W64) (one : Option LocalEntry) (m : Mach) : Mach :=
  answer e r face n ntBusy one (countNt r 3 1 m)

/-- An interest merges with the entries that its router holds for the name (R280, R281 step 3). -/
def mergeInterest (e : Env) (r face : Nat) (n : W64) (end_ : BitVec 48) (one : Option LocalEntry)
    (ts : List TransitEntry) (m : Mach) : Mach :=
  let old := latestEnd ts
  let known := ts.any fun t => t.recs.any fun p => p.1 == face
  let first := ts.head?
  let room := ts.any fun t => decide (t.recs.length < 8)
  if !known && !room && !(vigilFree m r) then refuseInterest e r face n one m
  else
    let add : List TransitEntry → List TransitEntry :=
      if known then
        List.map fun t => if t.name = n then
          { t with recs := t.recs.map fun p => if p.1 = face ∧ laterEnd end_ p.2 then (face, end_) else p } else t
      else if room then
        fun l =>
          (l.foldl (fun (b : List TransitEntry × Bool) t =>
            if t.name = n && decide (t.recs.length < 8) && !b.2 then (b.1 ++ [{ t with recs := t.recs ++ [(face, end_)] }], true)
            else (b.1 ++ [t], b.2)) ([], false)).1
      else
        fun l => l ++ [{ name := n, recs := [(face, end_)], up := first.bind (·.up), ended := true,
                         hops := match first with | some t => t.hops | none => 0 }]
    let m := countNt r 5 1 (m.modRouter r fun x => { x with transits := add x.transits })
    let new := latestEnd ((m.router r).transits.filter fun t => t.name == n)
    match old, new, first with
    | some o, some w, some t =>
      match t.up with
      | some up => if laterEnd w o then sendNt e r up (.interest n w (t.hops + 1)) m else m
      | none => m
    | _, _, _ => m

/-- NT_INTEREST_ARRIVAL: handle an interest or refresh from a face (R281); `one` is the local entry of an nt.int. -/
def interestArrives (e : Env) (r face : Nat) (n : W64) (end_ : BitVec 48) (hops : Nat) (one : Option LocalEntry)
    (m : Mach) : Mach :=
  let x := m.router r
  match x.never n with
  | some c => answer e r face n (ntNever c) one m
  | none =>
    match x.copy n with
    | some c =>
      let (lines, m) := readCopy e r face c (countNt r 6 1 m)
      (sendTile e r face n lines (servedFrom r c.origin) 0 m).2
    | none =>
      let ts := x.transits.filter fun t => t.name == n
      if !ts.isEmpty then mergeInterest e r face n end_ one ts m
      else
        if !(vigilFree m r) then refuseInterest e r face n one m else
        match faceFor e m r n with
        | none => answer e r face n (ntNever 1) one m
        | some up =>
          let terminal := up = 0 && r != hub
          if !terminal && 32 ≤ hops then answer e r face n (ntNever 2) one m
          else
            let t : TransitEntry :=
              { name := n, recs := [(face, end_)], up := if terminal then none else some up, ended := false, hops := hops }
            let m := m.modRouter r fun x => { x with transits := x.transits ++ [t] }
            if terminal then m else sendNt e r up (.interest n end_ (hops + 1)) m

/-- NT_ANSWER_ARRIVAL: a refusal or answer on the upstream face of an entry ends it (R284). -/
def answerArrives (e : Env) (r face : Nat) (n v : W64) (m : Mach) : Mach :=
  if (m.router r).transits.any fun t => t.name == n && t.up == some face then
    let (faces, m) := freeEntries e r n false m
    faces.foldl (fun m f => answer e r f n v none m) m
  else m

/-- NT_RECORD_EXPIRY at a router (R283). -/
def expireRecords (e : Env) (r : Nat) (m : Mach) : Mach :=
  let x := m.router r
  let now := e.clk.tick
  let dropped := (x.transits.flatMap fun t => t.recs.filter fun p => reached now p.2).length
  let gone := x.locals.filter fun y => reached now y.e
  if dropped = 0 && gone.isEmpty then m
  else
    let m := countNt r 4 dropped (m.modRouter r fun x =>
      { x with transits := (x.transits.map fun t => { t with recs := t.recs.filter fun p => !(reached now p.2) }).filter
                  fun t => !t.recs.isEmpty })
    gone.foldl (fun m y => endLocal r y ntExpired m) m

/-! ### Announcements (R287) -/

/-- A tile's lines as its source was read under its binding's legend (R370): the bytes, and marks for HIGH and LOW. -/
def readTile (e : Env) (a : Ann) (legend buf n : Nat) (m : Mach) : Option (List (Line × Bool × Bool)) × Mach :=
  let who : Who :=
    { die := a.die, rank := a.core, frame := ownerKey a.task % 3072, extents := a.extents, spadBase := 0, spadSize := 0 }
  let (s, m) := spanCheck e who .read a.src (spanFuel who n) n m
  match s with
  | .stop _ => (none, m)
  | .ok =>
    let r : List Byte × List (Nat × Nat × Nat) × Mach :=
      (List.range (lineCount a.src n)).foldl (fun (r : List Byte × List (Nat × Nat × Nat) × Mach) i =>
        let (lo, hi) := lineSpan a.src n i
        let at_ := addA a.src (w64 lo)
        let (c, m) := checkAcc e who .read 1 1 at_ r.2.2
        match c with
        | .ok acc =>
          let (g, m) := engineRead e (jobAgent m 6 a.die a.task) a.task buf { acc with legend := legend } (hi - lo) m
          (r.1 ++ ((bytesOf g.data 128).drop (at_.toNat % 128)).take (hi - lo), r.2.1 ++ [(lo, hi, g.sev)], m)
        | _ => (r.1, r.2.1, m)) ([], [], m)
    (some ((List.range (n / 128)).map fun k =>
      let hit (s : Nat) : Bool := r.2.1.any fun x => decide (x.1 < 128 * k + 128) && decide (128 * k < x.2.1) && x.2.2 == s
      (BitVec.ofNat 1024 (ofBytes ((r.1.drop (128 * k)).take 128)), hit 3, hit 2)), r.2.2)

/-- An announcement ends: its token completes and its launch may (R96, R287). -/
def endAnn (e : Env) (k : Nat) (a : Ann) (v : W64) (m : Mach) : Mach :=
  jobDone e a.launch (completeOwned a.task 5 a.seq v { m with anns := m.anns.eraseIdx k })

/-- NT_ANNOUNCE_STORE (R287): read the source, store the origin copy, complete the token, serve the waiting entries. -/
def announceStore (e : Env) (d k : Nat) (m : Mach) : Mach :=
  match m.anns[k]? with
  | none => m
  | some a =>
    if a.die != d then m
    else
      match (m.router d).never a.name, (m.router d).binding (nameId a.name) with
      | some c, _ => endAnn e k a (ntNever c) m
      | none, none => m
      | none, some b =>
        let (ls, m) := readTile e a b.legend b.buf b.bytes m
        match ls with
        | none => m
        | some lines =>
          let (ok, m) := storeCopy d a.name lines b.legend true m
          if !ok then endAnn e k a ntBusy m
          else
            let m := if a.pin then (pinCopy d a.name m).2 else m
            let m := endAnn e k a 0 m
            let (faces, m) := freeEntries e d a.name true m
            faces.foldl (fun m f =>
              let m := chargeOwner a.task (ntEnergy e d f (.tile a.name lines 0 1) m) m
              (sendTile e d f a.name lines 0 0 m).2) m

/-! ### Bindings, retirement and routes (R288, R293, R298, R299) -/

/-- Is an iteration among those that a retirement retires, by the router's own copy of the binding (R288)? -/
def Binding.retires (b : Binding) (i : Nat) (unbind : Bool) (j : Nat) : Bool :=
  b.live j && (unbind || (b.live i && decide ((j + 4096 - b.base) % 4096 ≤ (i + 4096 - b.base) % 4096)))

/-- How many iterations a retirement retires. -/
def Binding.retired (b : Binding) (i : Nat) (unbind : Bool) : Nat :=
  if unbind then b.win else if b.live i then (i + 4096 - b.base) % 4096 + 1 else 0

/-- Apply a retirement at a router (R288). -/
def retireAt (e : Env) (r id iter : Nat) (unbind : Bool) (m : Mach) : Mach :=
  match (m.router r).binding id with
  | none => m
  | some b =>
    let hit (n : W64) : Bool := nameId n == id && b.retires iter unbind (nameIter n)
    let names := (((m.router r).transits.map (·.name)).filter hit).eraseDups
    let m := m.modRouter r fun x =>
      { x with binds := if unbind then x.binds.filter fun y => y.id != id
                        else x.binds.map fun y => if y.id = id && b.live iter then { y with base := (iter + 1) % 4096 } else y,
               copies := x.copies.filter fun c => !(hit c.name) }
    let m := names.foldl (fun m n =>
      let (faces, m) := freeEntries e r n false m
      faces.foldl (fun m f => answer e r f n (ntNever 0) none m) m) m
    ((m.router r).locals.filter fun x => hit x.name).foldl (fun m x => endLocal r x (ntNever 0) m) m

/-- Add a binding at a router (R293). -/
def bindAt (r : Nat) (b : Binding) (m : Mach) : Mach := m.modRouter r fun x => { x with binds := x.binds ++ [b] }

/-- What the hub's first look at a change answers: a status that ends it, or none (R293, R298). -/
def hubRefuses (m : Mach) (c : NtChange) : Option W64 :=
  match c with
  | .bind b =>
    if ((m.router hub).binding b.id).isSome || 4096 ≤ (m.router hub).binds.length then some ntBusy else none
  | .retire id _ _ => if ((m.router hub).binding id).isSome then none else some (ntNever 3)
  | .route _ _ _ => none

/-- The value that a change's token completes with (R293, R298). -/
def changeValue (m : Mach) (c : NtChange) : W64 :=
  match c with
  | .retire id i u => match (m.router hub).binding id with | some b => w64 (b.retired i u) | none => 0
  | _ => 0

/-- Apply a change at a router. -/
def applyChange (e : Env) (r : Nat) (c : NtChange) (m : Mach) : Mach :=
  match c with
  | .bind b => bindAt r b m
  | .retire id i u => retireAt e r id i u m
  | .route t idx rt =>
    m.modRouter t fun x => { x with routes := match rt with | some v => x.routes.put idx v | none => x.routes.del idx }

/-- May the k-th change be applied at its next router: changes that the hub has applied keep its order there (R288)? -/
def inOrder (m : Mach) (k : Nat) (r : Nat) : Bool :=
  (m.changes.take k).all fun p => p.todo.contains hub || !(p.todo.contains r)

/-- Take a change one router further: the hub first, then the ring stops; its token completes when every router has
applied it (R288, R293, R299). -/
def advanceChange (e : Env) (k : Nat) (m : Mach) : Mach :=
  match m.changes[k]? with
  | none => m
  | some p =>
    match p.todo with
    | [] => m
    | r :: rest =>
      let done (v : W64) (m : Mach) : Mach := completeOwned p.task 5 p.seq v m
      let others := m.changes.eraseIdx k
      if r = hub && (match p.chg with | .route _ _ _ => false | _ => true) then
        match hubRefuses m p.chg with
        | some v => done v { m with changes := others }
        | none =>
          let v := changeValue m p.chg
          let m := applyChange e hub p.chg { m with changes := others }
          if rest.isEmpty then done v m
          else { m with changes := m.changes ++ [{ p with todo := rest, value := v }] }
      else if !(inOrder m k r) then m
      else
        let m := applyChange e r p.chg { m with changes := if rest.isEmpty then others else m.changes.set k { p with todo := rest } }
        if rest.isEmpty then done p.value m else m

/-- Is the k-th change one that `f` selects? -/
def changeIs (f : NtChange → Bool) (k : Nat) (m : Mach) : Bool :=
  match m.changes[k]? with | some p => f p.chg | none => false

/-! ### Arrivals -/

/-- The channel class of a message: an answer goes before interests and tiles (R401). -/
def channelOf (b : NtBody) : Nat := match b with | .answer _ _ => 0 | _ => 1

/-- Is the k-th message the first of its class on its path (R401)? -/
def msgFirst (m : Mach) (k : Nat) (x : NtMsg) : Bool :=
  !((m.msgs.take k).any fun y => y.to_ == x.to_ && y.face == x.face && channelOf y.body == channelOf x.body)

/-- Take a message that has reached its router out of the way, in the order of its path, or a peer package's: router, face
and body. -/
def takeMsg (e : Env) (a : NtArrival) (want : NtBody → Bool) (m : Mach) : Option (Nat × Nat × NtBody × Mach) :=
  match a with
  | .queued k =>
    match m.msgs[k]? with
    | some x => if want x.body && msgFirst m k x then some (x.to_, x.face, x.body, { m with msgs := m.msgs.eraseIdx k }) else none
    | none => none
  | .peer r f b => if want b && receives e m (8 * r.val + f.val) then some (r.val, 8 + f.val, b, m) else none

/-- Handle a message that arrives (R281, R282, R284). -/
def msgArrives (e : Env) (a : NtArrival) (want : NtBody → Bool) (m : Mach) : Mach :=
  match takeMsg e a want m with
  | none => m
  | some (r, f, b, m) =>
    match b with
    | .interest n x h => interestArrives e r f n x h none m
    | .tile n ls s h =>
      match a with
      | .peer _ _ _ => tileArrives e r f n ls 4 h m
      | .queued _ => tileArrives e r f n ls s h m
    | .answer n v => answerArrives e r f n v m

def NtBody.isInterest : NtBody → Bool | .interest _ _ _ => true | _ => false
def NtBody.isTile : NtBody → Bool | .tile _ _ _ _ => true | _ => false
def NtBody.isAnswer : NtBody → Bool | .answer _ _ => true | _ => false

/-- NT_INTEREST_ARRIVAL: A router handles an arriving interest or refresh by answering, serving, merging or forwarding it. (R281) -/
def execNtInterestArrival (x : NtArrival) (s : State) : Out := eventStep (fun e => msgArrives e x NtBody.isInterest) s

/-- NT_TILE_ARRIVAL: A tile reaching a router is sent on every live face record, the entry is freed, and a Sconce copy may be kept. (R282) -/
def execNtTileArrival (x : NtArrival) (s : State) : Out := eventStep (fun e => msgArrives e x NtBody.isTile) s

/-- NT_ANSWER_ARRIVAL: A refusal or an NT_NEVER answer on an entry's upstream face answers every face record and frees the entry. (R284) -/
def execNtAnswerArrival (x : NtArrival) (s : State) : Out := eventStep (fun e => msgArrives e x NtBody.isAnswer) s

/-- NT_RECORD_EXPIRY: A face record or local entry whose end is reached is dropped, and a local token completes with NT_EXPIRED. (R283) -/
def execNtRecordExpiry (r : Fin 17) (s : State) : Out := eventStep (fun e => expireRecords e r.val) s

/-- NT_ANNOUNCE_STORE: After the release, the producer's ring stop reads the source, stores the origin copy, completes the token and serves waiting entries. (R287) -/
def execNtAnnounceStore (d : Fin 16) (k : Nat) (s : State) : Out := eventStep (fun e => announceStore e d.val k) s

/-- NT_RETIREMENT_APPLY: A router applies a retirement, answers entries with NT_NEVER and drops Sconce copies of the retired names. (R288) -/
def execNtRetirementApply (k : Nat) (s : State) : Out :=
  eventStep (fun e m =>
    if changeIs (fun c => match c with | .retire _ _ _ => true | _ => false) k m then advanceChange e k m else m) s

/-- NT_BINDING_APPLY: A binding is added to every router's copy of the table, and the token then completes. (R293) -/
def execNtBindingApply (k : Nat) (s : State) : Out :=
  eventStep (fun e m =>
    if changeIs (fun c => match c with | .bind _ => true | _ => false) k m then advanceChange e k m else m) s

/-- NT_ROUTE_APPLY: A route is written at its router, and the token then completes. (R299) -/
def execNtRouteApply (k : Nat) (s : State) : Out :=
  eventStep (fun e m =>
    if changeIs (fun c => match c with | .route _ _ _ => true | _ => false) k m then advanceChange e k m else m) s

end Sys2Proof.Machine
end

