-- ==== Sys2Proof/Machine/HostEvents.lean ====
section
/-! DEFINITION. What reaches the package from outside: reset and alarm, the host's window and memory accesses, links
and peer packages; and the telemetry of each die (R8, R13, R17 to R22, R82, R177, R212, R215, R389 to R392, R395 to R407,
R411). -/

namespace Sys2Proof.Machine

/-! ### Reset and the clock (R8, R22, R403, R405, R407) -/

/-- The machine after a reset and boot: everything of the package is as boot leaves it; host memory, which lies outside
the package, keeps its bytes. -/
def rebooted (b : BootResult) (m : Mach) : State :=
  let s := State.afterBoot b m.seed
  { s with m := { s.m with mem := m.mem.filter fun (p : Nat × Byte) => decide (2 ^ 44 ≤ p.1),
                           memChk := m.memChk.filter fun (p : Nat × Byte) => decide (2 ^ 41 ≤ p.1) } }

/-- Has a tick boundary passed that the tick counter has not counted (R22)? -/
def Clock.tickDue (c : Clock) : Bool := c.tick != BitVec.ofNat 48 (c.cycle / 1024)

/-- Charge every task's energy of the tick to its launch (R93, R403). -/
def chargeTick (m : Mach) : Mach :=
  m.tasks.foldl (fun m (p : Nat × Task) =>
    if p.2.st = .free || p.2.energy = 0 then m
    else
      chargeLaunch (p.1 / 3072) p.2.launch p.2.energy (m.modTask p.1 fun t => { t with energy := 0 })) m

/-- The telemetry record of a die (R405): the measured fields are free values (log entry 5). -/
def telemetryBytes (e : Env) (x : Die) (d : Nat) (energy current heat : W64) : List Byte :=
  bytesOf (0x50 + d * 2 ^ 8) 8 ++ bytesOf e.clk.tick.toNat 8 ++ bytesOf energy.toNat 8 ++ bytesOf current.toNat 8
    ++ bytesOf (heat.toNat % 2 ^ 32) 8 ++ bytesOf x.startDelays 8 ++ bytesOf (x.telCharge / 10 ^ 10) 8
    ++ List.replicate 8 0

/-- TELEMETRY_RECORD (R405): at every tick that is a multiple of 2,197. -/
def telemetryAt (e : Env) (d : Nat) (m : Mach) : Mach :=
  if !(e.live d) || e.clk.tick.toNat % 2197 != 0 || e.clk.tickDue then m
  else
    let (a, m) := m.fresh
    let (b, m) := m.fresh
    let (c, m) := m.fresh
    let m := telemetryPut e d (telemetryBytes e (m.die d) d a b c) m
    m.modDie d fun x => { x with startDelays := 0, telCharge := 0 }

/-- The bit of sec.stat that an alarm sets (R407). -/
def alarmBit (a : Alarm) : Nat := match a with | .tamper => 1 | .glitch => 2

/-- The alarm's mark and record on one die (R407). -/
def alarmOn (e : Env) (a : Alarm) (d : Nat) (m : Mach) : Mach :=
  event e d 0x30 (alarmBit a * 2 ^ 8) (m.modDie d fun x =>
    match a with
    | .tamper => { x with tamper := true }
    | .glitch => { x with glitch := true })

/-! ### The register window (R81, R177, R207, R212, R221, R246, R361, R379, R390 to R392, R399, R400, R404, R407, R410,
R411) -/

/-- The registers of a ring, at +0x00 to +0x18: the writer's count is tail, the reader's head; `mine` says whether the
die advances tail (R221, R391). -/
def Ring.write (r : Ring) (mine : Bool) (at_ v : Nat) : Ring :=
  match at_ with
  | 0x00 => { r with base := fld v 47 8 * 2 ^ 8 }
  | 0x08 => { r with dev := tst v 16, lsize := fld v 11 8, en := tst v 0, lost := r.lost && !(tst v 24) }
  | 0x10 => if mine then { r with head := BitVec.ofNat 32 v } else r
  | 0x18 => if mine then r else { r with tail := BitVec.ofNat 32 v }
  | _ => r

/-- A ring's registers as they read. -/
def Ring.value (r : Ring) (at_ : Nat) : Nat :=
  match at_ with
  | 0x00 => r.base
  | 0x08 => b2n r.lost * 2 ^ 24 + b2n r.dev * 2 ^ 16 + r.lsize * 2 ^ 8 + b2n r.en
  | 0x10 => r.head.toNat
  | 0x18 => r.tail.toNat
  | _ => 0

/-- The fields of trc.ctl (R410): bits 28:16, 8, 7:4 and 1:0. -/
def traceFields (v : Nat) : Nat := fld v 28 16 * 2 ^ 16 + fld v 8 4 * 2 ^ 4 + fld v 1 0

/-- A host write of a die register whose fields are RW or W1C and that does nothing else (R8, R390). -/
def writeWindow (off v : Nat) (x : Die) : Die :=
  match off with
  | 0x10008 => { x with ptRoot := fld v 47 12 * 2 ^ 12 }
  | 0x10018 => { x with ihBase := fld v 47 12 * 2 ^ 12 }
  | 0x10020 => { x with ihCount := fld v 16 0 }
  | 0x10028 => { x with poolBase := fld v 39 12 * 2 ^ 12 }
  | 0x10030 => { x with poolRows := fld v 15 0 }
  | 0x100A0 => { x with saSpill := fld v 47 18 * 2 ^ 18 }
  | 0x100A8 => { x with collStale := fld v 31 0 }
  | 0x100B0 => { x with lgHigh := fld v 63 48, lgLow := fld v 47 32, lgCorr := fld v 31 0 }
  | 0x10120 => { x with trcCtl := traceFields v, trcStop := false }
  | 0x10130 => { x with pkgSelf := fld v 15 0 }
  | 0x10138 => { x with pkgRoute := fld v 39 16 * 2 ^ 16 }
  | 0x10140 => { x with glitch := x.glitch && !(tst v 2), tamper := x.tamper && !(tst v 1) }
  | 0x10148 => { x with droopTh := fld v 9 0 }
  | 0x10150 => { x with didt := fld v 15 0 }
  | 0x10158 => { x with hostMem := fld v 39 12 * 2 ^ 12 }
  | off =>
    let at_ := off % 0x20
    match off - at_ with
    | 0x10040 => { x with mfdie := x.mfdie.write false at_ v }
    | 0x10060 => { x with mfhost := x.mfhost.write false at_ v }
    | 0x10080 => { x with mrel := x.mrel.write true at_ v }
    | 0x100C0 => { x with ev := x.ev.write true at_ v }
    | 0x100E0 => { x with tel := x.tel.write true at_ v }
    | 0x10100 => { x with trc := x.trc.write true at_ v }
    | _ => x

/-- Is some core of the die still without the split that sram.split names (R177)? -/
def splitPending (m : Mach) (d : Nat) : Bool := (List.range 192).any fun r => !(splitTaken m d r)

/-- What a register of a launch queue reads as (R81, R275).  eclass reads 0 while the queue has no work (log entry 78),
and the state is active while it has some, with a slot or without (log entry 104). -/
def readQueue (e : Env) (d q at_ : Nat) (m : Mach) : Nat :=
  let x := m.lq (lqKey d q)
  match at_ with
  | 0x00 => x.base
  | 0x08 => b2n x.dev * 2 ^ 16 + x.lsize * 2 ^ 8 + b2n x.en
  | 0x10 => x.head.toNat
  | 0x18 => x.tail.toNat
  | 0x20 =>
    x.cause * 2 ^ 8 + (if x.hasWork then x.eclass (headClass e d q m) * 2 ^ 2 else 0)
      + (if x.halted then 2 else if x.hasWork then 1 else 0)
  | 0x28 => x.ntr.toNat
  | _ => 0

/-- What a host read of a window register returns (R390): zero for a reserved offset and for an access that is not
aligned.  A read changes nothing. -/
def readWindow (e : Env) (d off : Nat) (m : Mach) : W64 :=
  let x := m.die d
  if !(e.live d) || off % 8 != 0 then 0
  else if off < 0x10000 then w64 (readQueue e d (off / 64) (off % 64) m)
  else if 0x30000 ≤ off then x.window.get 0 off
  else if 0x20000 ≤ off then (match x.flSnap with | some n => Config.snapshot n off | none => 0)
  else if 0x10200 ≤ off ∧ off < 0x10240 then (m.link (d * 8 + (off - 0x10200) / 8)).stat
  else
    match off with
    | 0x10000 => w64 (b2n (splitPending m d) * 2 ^ 8 + x.sramL1)
    | 0x10008 => w64 x.ptRoot
    | 0x10018 => w64 x.ihBase
    | 0x10020 => w64 x.ihCount
    | 0x10028 => w64 x.poolBase
    | 0x10030 => w64 x.poolRows
    | 0x100A0 => w64 x.saSpill
    | 0x100A8 => w64 x.collStale
    | 0x100B0 => w64 (x.lgHigh * 2 ^ 48 + x.lgLow * 2 ^ 32 + x.lgCorr)
    | 0x10120 => w64 x.trcCtl
    | 0x10128 => w64 x.rstFrame
    | 0x10130 => w64 x.pkgSelf
    | 0x10138 => w64 x.pkgRoute
    | 0x10140 =>
      w64 (x.policy.toNat * 2 ^ 4 + b2n x.erased * 8 + b2n x.glitch * 4 + b2n x.tamper * 2 + b2n x.sigfail)
    | 0x10148 => w64 x.droopTh
    | 0x10150 => w64 x.didt
    | 0x10158 => w64 x.hostMem
    | off =>
      let at_ := off % 0x20
      match off - at_ with
      | 0x10040 => w64 (x.mfdie.value at_)
      | 0x10060 => w64 (x.mfhost.value at_)
      | 0x10080 => w64 (x.mrel.value at_)
      | 0x100C0 => w64 (x.ev.value at_)
      | 0x100E0 => w64 (x.tel.value at_)
      | 0x10100 => w64 (x.trc.value at_)
      | _ => 0

/-- A record that a halted queue's host drops (R82): no more of it is admitted, and its launch completes once what was
admitted has ended.  The token of an eq.lnch whose record has never been accepted does not complete (log entry 79). -/
def dropRecord (e : Env) (d q : Nat) (head : W32) (m : Mach) : Mach :=
  let (l, m) := dropPart d q (m.modLq (lqKey d q) fun x => { x with toks := x.toks.filter fun t => t.1 != head.toNat })
  match l with
  | some l => completeLaunch e l (m.modLaunch l fun x => { x with admitted := true })
  | none => m

/-- A host write of lq.ctl (R81, R82). -/
def hostLqCtl (e : Env) (d q v : Nat) (m : Mach) : Mach :=
  let old := m.lq (lqKey d q)
  if !(e.live d) then m
  else if old.hasWork then haltQueue e d q 5 m
  else
    let (x, moved) := writeCtl v old
    let m := m.modLq (lqKey d q) fun _ => x
    checkOverrun e d q (if moved then dropRecord e d q old.head m else m)

/-- A host write of lq.base (R82). -/
def hostLqBase (e : Env) (d q v : Nat) (m : Mach) : Mach :=
  if !(e.live d) then m
  else if (m.lq (lqKey d q)).hasWork then haltQueue e d q 5 m
  else m.modLq (lqKey d q) fun x => { x with base := fld v 47 8 * 2 ^ 8 }

/-- A host write of lq.tail (R82). -/
def hostLqTail (e : Env) (d q v : Nat) (m : Mach) : Mach :=
  if !(e.live d) then m
  else checkOverrun e d q (m.modLq (lqKey d q) fun x => { x with tail := BitVec.ofNat 32 v })

/-- A host write of sram.split (R177). -/
def hostSplit (e : Env) (d v : Nat) (m : Mach) : Mach :=
  if e.live d then m.modDie d fun x => { x with sramL1 := fld v 1 0, splitNo := x.splitNo + 1 } else m

/-- A host write of pt.wake (R212). -/
def hostWake (e : Env) (d v : Nat) (m : Mach) : Mach :=
  if e.live d then deliverWaiting e d (wakePage e d (fld v 47 21) m) else m

/-- The host ends the task of a frame (R392): a free frame is left alone. -/
def endTask (e : Env) (d f : Nat) (m : Mach) : Mach :=
  let tk := taskKey d f
  match (m.task tk).st with
  | .free => m
  | .halted => m
  | .running x => haltCtx e (ctxKey d (f / 16) x) m
  | _ => haltTask tk ((cancelLocals tk m).modTask tk fun t => { t with st := .halted, page := none })

/-- A host write of task.rst (R392). -/
def hostTaskRst (e : Env) (d v : Nat) (m : Mach) : Mach :=
  if !(e.live d) then m
  else
    let m := m.modDie d fun x => { x with rstFrame := fld v 11 0 }
    if tst v 12 ∧ fld v 11 0 < 3072 then endTask e d (fld v 11 0) m else m

/-- A host write of lk.stat (R398, R399), with the fibres whose light the receiver sees; a link that is down for good
keeps its counts and trains no more (R18). -/
def hostLkStat (e : Env) (l v : Nat) (lit : BitVec 4) (m : Mach) : Mach :=
  if !(e.live (l / 8)) then m
  else m.modLink l fun x =>
    let x := { x with crc := fld v 63 48, replay := fld v 47 32 }
    if tst v 12 && !(linkGone e l) then retrain lit x else x

/-- A host write of a window register (R390). -/
def hostWrite (e : Env) (d off v : Nat) (m : Mach) : Mach :=
  if !(e.live d) || off % 8 != 0 then m
  else if off < 0x10000 then
    match off % 64 with
    | 0x00 => hostLqBase e d (off / 64) v m
    | 0x08 => hostLqCtl e d (off / 64) v m
    | 0x18 => hostLqTail e d (off / 64) v m
    | 0x28 => m.modLq (lqKey d (off / 64)) fun x => { x with ntr := w64 (fld v 63 24 * 2 ^ 24 + fld v 1 0) }
    | _ => m
  else if 0x10200 ≤ off ∧ off < 0x10240 then
    let (w, m) := m.fresh
    hostLkStat e (d * 8 + (off - 0x10200) / 8) v (w.setWidth 4) m
  else
    match off with
    | 0x10000 => hostSplit e d v m
    | 0x10010 => hostWake e d v m
    | 0x10128 => hostTaskRst e d v m
    | _ => m.modDie d (writeWindow off v)

/-! ### Host memory accesses (R13, R207, R389, R390) -/

/-- Does some host port carry traffic: its die is active and a module has trained (R13, R389)? -/
def hostReached (e : Env) (m : Mach) : Bool :=
  portWorks e m 0 || portWorks e m 8

/-- The address of a host access. -/
def accessAddr (a : HostAccess) : Nat := match a with | .read pa _ _ => pa | .write pa _ _ => pa

/-- The die that an access of the host is charged to: the one whose memory holds the line (R379), and for host memory
the lowest active one. -/
def hostDie (e : Env) (pa : Nat) : Nat := if pa / 2 ^ 44 = 0 then pa / 2 ^ 40 else e.dieList.headD 0

/-- A host access at the home slice (R390). -/
def hostAccess (e : Env) (a : HostAccess) (m : Mach) : Mach :=
  let ag : Agent := ⟨10, hostDie e (accessAddr a), noFrame⟩
  match a with
  | .read pa leg _ => (homeRead e ag leg.val (pa / 128) m).2
  | .write pa leg bs => (homeWrite e ag leg.val pa bs m).2

/-! ### Peer packages (R215, R400, R427) -/

/-- The right and the width of a peer's request. -/
def requestRight (o : PeerOp) : Right := match o with | .read _ => .read | .write _ => .write | .atomic _ _ _ _ => .both
def requestWidth (o : PeerOp) : Nat := match o with | .read n => n | .write bs => bs.length | .atomic _ w _ _ => w

/-- Perform a peer's request at the home slice of its bytes: the bytes of the answer (R215, R218). -/
def peerPerform (e : Env) (d pa legend : Nat) (o : PeerOp) (m : Mach) : List Byte × Mach :=
  let ag : Agent := ⟨0, d, noFrame⟩
  match o with
  | .read n =>
    let (g, m) := homeRead e ag legend (pa / 128) m
    ((bytesOf g.data 128 |>.drop (pa % 128)).take n, m)
  | .write bs => ([], (homeWrite e ag legend pa bs m).2)
  | .atomic op w a b =>
    let (g, m) := homeRead e ag legend (pa / 128) m
    let old := ofBytes ((bytesOf g.data 128 |>.drop (pa % 128)).take w)
    let new := atomicNew op (8 * w) old (a.toNat % 2 ^ (8 * w)) (b.toNat % 2 ^ (8 * w))
    (bytesOf old w, (homeWrite e ag legend pa (bytesOf new w) m).2)

/-- A peer package's request arrives on a link (R215): it is checked against this package's handle by the die that owns
the link, performed, and answered; a request that fails the check is refused. -/
def peerRequest (e : Env) (l : Nat) (q : PeerRequest) (m : Mach) : Mach :=
  let d := l / 8
  let n := requestWidth q.op
  if !(receives e m l) || n = 0 || 128 < q.off % 128 + n then m
  else
    let gaddr := w64 (3 * 2 ^ 58 + q.rh % 2 ^ 16 * 2 ^ 32 + q.off % 2 ^ 32)
    let (x, m) := checkP e d noFrame (requestRight q.op) n gaddr m
    let (bs, m) := match x with
      | .ok a =>
        match a.loc with
        | .phys pa => peerPerform e d pa a.legend q.op m
        | _ => ([], m)
      | _ => ([], m)
    sendPacket e l { die := d } bs m

/-! ### Droop (R411) -/

/-- A sample of one core (R411): the issuing bundle's address and context, whose places are free; free when no context
issues (log entry 5). -/
def droopSampleOf (d r : Nat) (m : Mach) : W64 × Mach :=
  match (m.core (coreKey d r)).cur with
  | some x => (Config.droopSample (m.ctx (ctxKey d r x)).pc x, m)
  | none => m.fresh

/-- DROOP (R411): a domain's detector samples its 48 cores and writes a record that names the set. -/
def droopAt (e : Env) (d dom : Nat) (depth : W64) (m : Mach) : Mach :=
  let x := m.die d
  if !(e.live d) || x.droopTh = 0 then m
  else
    let s := x.droopNo
    let m := (List.range 48).foldl (fun m i =>
      let (w, m) := droopSampleOf d (48 * dom + i) m
      m.modDie d fun y => { y with window := y.window.put (0x30000 + 0x200 * (s % 64) + 8 * i) w }) m
    let m := m.modDie d fun y => { y with droopNo := s + 1 }
    let m := event e d 0x31 (dom * 2 ^ 8 + depth.toNat * 2 ^ 64 + s % 2 ^ 64 * 2 ^ 192) m
    flareOn e d 10 m

/-! ### The events -/

/-- MODULE_RESET: Module reset puts every register field at its reset value and starts boot. (R8) -/
def execModuleReset (b : BootResult) (s : State) : Out := .next (rebooted b s.m)

/-- HOST_PORT_TRAINING: A UCIe host port trains its modules and runs on those that trained. (R389) -/
def execHostPortTraining (port : Fin 2) (mods : BitVec 4) (s : State) : Out :=
  eventStep (fun e m => if e.live (8 * port.val) then { m with hostPort := m.hostPort.put port.val mods } else m) s

/-- TICK_INCREMENT: The package tick counter increments every 1,024 cycles, and its copies agree within 4 cycles. (R22)
The model holds one counter, so that every copy takes the new value at once (R23; log entry 71). -/
def execTickIncrement (s : State) : Out :=
  .next (if s.clk.tickDue then { s with clk := { s.clk with tick := s.clk.tick + 1 }, m := chargeTick s.m } else s)

/-- TELEMETRY_RECORD: At every tick that is a multiple of 2,197, each die writes a telemetry record. (R405) -/
def execTelemetryRecord (d : Fin 16) (s : State) : Out := eventStep (fun e => telemetryAt e d.val) s

/-- LQ_CTL_WRITE: A host write of lq.ctl sets the queue's fields, and re-enabling a halted queue resumes it at or after the halted record. (R82) -/
def execLqCtlWrite (d : Fin 16) (q : Fin 1024) (v : BitVec 64) (s : State) : Out :=
  eventStep (fun e => hostLqCtl e d.val q.val v.toNat) s

/-- LQ_TAIL_WRITE: A host write of lq.tail publishes records, and an overrun halts the queue with cause 5. (R82) -/
def execLqTailWrite (d : Fin 16) (q : Fin 1024) (v : BitVec 64) (s : State) : Out :=
  eventStep (fun e => hostLqTail e d.val q.val v.toNat) s

/-- LQ_BASE_WRITE: A host write of lq.base takes effect unless the queue has work, in which case the queue halts with cause 5. (R82) -/
def execLqBaseWrite (d : Fin 16) (q : Fin 1024) (v : BitVec 64) (s : State) : Out :=
  eventStep (fun e => hostLqBase e d.val q.val v.toNat) s

/-- SRAM_SPLIT_WRITE: A host write of sram.split.l1 requests a new split of L1 and scratchpad for every core of the die. (R177) -/
def execSramSplitWrite (d : Fin 16) (v : BitVec 64) (s : State) : Out :=
  eventStep (fun e => hostSplit e d.val v.toNat) s

/-- PT_WAKE: A write of pt.wake rereads the leaf, rewrites the extent entries of the page and resumes tasks waiting on it. (R212) -/
def execPtWake (d : Fin 16) (v : BitVec 64) (s : State) : Out := eventStep (fun e => hostWake e d.val v.toNat) s

/-- TASK_RST: A host write of task.rst with go set ends the task in the named frame as a supervisor br.halt does. (R392) -/
def execTaskRst (d : Fin 16) (v : BitVec 64) (s : State) : Out := eventStep (fun e => hostTaskRst e d.val v.toNat) s

/-- LK_STAT_RETRAIN: A write of lk.stat.retrain retrains the link and brings into service the lanes of every lit fibre. (R398) -/
def execLkStatRetrain (l : Fin 128) (v : BitVec 64) (lit : BitVec 4) (s : State) : Out :=
  eventStep (fun e => hostLkStat e l.val v.toNat lit) s

/-- HOST_REGISTER_WRITE: A host write to a window register that has no row of its own sets its fields under R8. (R390) -/
def execHostRegisterWrite (d : Fin 16) (off : BitVec 18) (v : BitVec 64) (s : State) : Out :=
  eventStep (fun e => hostWrite e d.val off.toNat v.toNat) s

/-- HOST_MEMORY_ACCESS: The host reads or writes package memory at its home slices with system scope. (R390)  An access
of an unbacked address stops: no such byte exists (R207; log entry 99).  While no port has a trained module, a host memory access does
nothing, and the host's writes of the window and the dies' own accesses of host memory go on (R13; log entry 73). -/
def execHostMemoryAccess (a : HostAccess) (s : State) : Out :=
  let e : Env := ⟨s.boot, s.clk⟩
  if !(hostReached e s.m) then .next s
  else if !(backed e s.m (hostDie e (accessAddr a)) (accessAddr a)) then .fault .unbacked
  else eventStep (fun e => hostAccess e a) s

/-- RHAVOR_DATA_FLIT: The receiver checks a data flit's CRC and sequence, accepts it in order, or discards it and sends a NAK. (R397) -/
def execRhavorDataFlit (l : Fin 128) (flit : BitVec 256) (crc : BitVec 32) (s : State) : Out :=
  eventStep (fun e => flitArrives e l.val flit crc) s

/-- RHAVOR_ACK: An ACK frees every flit before the sequence number it names from the replay buffer. (R397) -/
def execRhavorAck (l : Fin 128) (n : BitVec 16) (s : State) : Out :=
  eventStep (fun e m => if receives e m l.val then ackArrives e l.val n.toNat m else m) s

/-- RHAVOR_NAK: A NAK makes the sender resend from the named flit, and 16 consecutive NAKs retrain the link. (R397) -/
def execRhavorNak (l : Fin 128) (n : BitVec 16) (s : State) : Out :=
  eventStep (fun e m => if receives e m l.val then nakArrives e l.val n.toNat m else m) s

/-- RHAVOR_IDLE: An idle control flit is received and carries no data. (R397)  It changes nothing. -/
def execRhavorIdle (l : Fin 128) (s : State) : Out := eventStep (fun e => controlArrives e l.val 3 0) s

/-- RHAVOR_LANE_MAP: A lane-map flit makes the sender restripe over the surviving lanes and resend from the oldest unacknowledged flit. (R398) -/
def execRhavorLaneMap (l : Fin 128) (mask : BitVec 16) (s : State) : Out :=
  eventStep (fun e m => if receives e m l.val then laneMapArrives e l.val mask m else m) s

/-- RHAVOR_ACK_TIMER: The receiver sends an acknowledgement after at most 64 flits or 1 µs. (R397) -/
def execRhavorAckTimer (l : Fin 128) (s : State) : Out :=
  eventStep (fun e m => if receives e m l.val && (m.link l.val).since != 0 then m.modLink l.val Link.ack else m) s

/-- LOSS_OF_LIGHT: The receiver detects loss of light on a fibre, stops accepting flits, sends lane maps and writes type 0x20 records. (R398) -/
def execLossOfLight (l : Fin 128) (fibre : Fin 4) (s : State) : Out :=
  eventStep (fun e => lightLost e l.val fibre.val) s

/-- RING_LINK_FAILURE: A ring or hub link that fails training or CRC is marked failed, and traffic is re-routed through the detour channel. (R402) -/
def execRingLinkFailure (k : RingLink) (s : State) : Out := eventStep (fun e => ringFails e k) s

/-- SECURITY_ALARM: A tamper or glitch detector raises the alarm, which acts under the fused policy after a type 0x30
record. (R407)  Policy 1 resets the module, policy 2 erases the device keys and resets it, and policy 0 records only, as
do the values that the spec does not list. -/
def execSecurityAlarm (a : Alarm) (s : State) : Out :=
  let e : Env := ⟨s.boot, s.clk⟩
  let m := e.dieList.foldl (fun m d => alarmOn e a d m) s.m
  let x := s.m.die (e.dieList.headD 0)
  if x.policy = 1 ∨ x.policy = 2 then
    .next (rebooted { Config.bootFinds m.seed with policy := x.policy, erased := x.erased || x.policy == 2 }
      { m with seed := m.seed + 1 })
  else .next { s with m := m }

/-- DROOP: A domain's supply falling below droop.th samples every core's issuing bundle and writes a type 0x31 record. (R411) -/
def execDroop (d : Fin 16) (dom : Fin 4) (depth : BitVec 64) (s : State) : Out :=
  eventStep (fun e => droopAt e d.val dom.val depth) s

/-- RHAVOR_LINK_TRAINED: A Rhavor link's training ends. Its state leaves training for up or down, with the lanes of the fibres then lit, and traffic held at the ring stop for a down link resumes. (R398)  The operand says
which fibres are lit of the direction that has been trained (log entry 81). -/
def execRhavorLinkTrained (l : Fin 128) (lit : BitVec 4) (s : State) : Out :=
  eventStep (fun e m =>
    if linkGone e l.val then m
    else { m with seed := m.seed + 1 }.modLink l.val (trained lit (Config.freeChoice m.seed))) s

/-- PEER_PACKAGE_REQUEST: A read, write or atomic request through a kind-2 handle arrives from a peer package over a Rhavor link. It is checked against this package's handle rh and offset, performed at the home slice, and answered with a response, an acknowledgement or a refusal. (R215) -/
def execPeerPackageRequest (l : Fin 128) (q : PeerRequest) (s : State) : Out :=
  eventStep (fun e => peerRequest e l.val q) s

end Sys2Proof.Machine
end

