-- ==== Sys2Proof/Machine/Integrity.lean ====
section
/-! DEFINITION. Checked execution: the unit ck (R382 to R388). -/

namespace Sys2Proof.Machine

/-- Deliver to ck.q (R384). -/
def ckResult (lat : Nat) (v : W64) : M Unit := result64 17 lat v

/-- One word folded into a signature (R385). -/
def foldStep (s x : W64) : W64 := (s.rotateLeft 1 ^^^ x) * 0x9E3779B97F4A7C15

/-- Fold (R385): the eight words of a 512-bit value, lowest first. -/
def foldSig (s : W64) (x : W512) : W64 :=
  (List.range 8).foldl (fun s j => foldStep s (BitVec.ofNat 64 (laneN x.toNat 64 j))) s

/-- Report a mismatch when the values differ or the context is armed, which uses up the arming (R385 to R387). -/
def reportMismatch (opcode : Nat) (differ : Bool) : M Unit := do
  let m ← get
  let armed := m.cur.armed
  set (m.modCur fun c => { c with armed := false })
  if differ || armed then throw (.mismatch (0x4000000000000000 + w64 opcode)) else pure ()

/-- R385: compares 64 bits. -/
def slotCkCmp (t : Trig) : M Unit := do
  let x ← operand t.src
  let a ← port 14 0
  reportMismatch 0 (a.setWidth 64 != x.setWidth 64)
  ckResult 1 0

/-- R385: compares 512 bits. -/
def slotCkCmpv (t : Trig) : M Unit := do
  let x ← operand t.src
  let a ← port 14 0
  reportMismatch 1 (a != x)
  ckResult 1 0

/-- R385: compares bit 0. -/
def slotCkCmpp (t : Trig) : M Unit := do
  let x ← operand t.src
  let a ← port 14 0
  reportMismatch 2 (a.getLsbD 0 != x.getLsbD 0)
  ckResult 1 0

/-- R385 -/
def slotCkSig (t : Trig) : M Unit := do
  let x ← operand t.src
  let a ← port 14 0
  ckResult 2 (foldSig (a.setWidth 64) x)

/-- R385: the signature is checked against port b. -/
def slotCkSigc (t : Trig) : M Unit := do
  let x ← operand t.src
  let a ← port 14 0
  let b ← port 14 1
  let s := foldSig (a.setWidth 64) x
  reportMismatch 4 (s != b.setWidth 64)
  ckResult 2 s

/-- Flip bit k of a stored copy: data bits 0 to 1,023, then check bits (R387). -/
def flipBit (k data chk : Nat) : Nat × Nat :=
  if k < 1024 then (data ^^^ 2 ^ k, chk) else (data, chk ^^^ 2 ^ (k - 1024))

/-- Flip a bit of the home copy of a location (R387): bank, L2 line, or memory. -/
def flipHome (l : Loc) (k : Nat) (m : Mach) : Mach :=
  match l with
  | .spad c o =>
    let la := spadAddr c o / 128
    let (d, x) := flipBit k (ofBytes (m.spad.bytes (la * 128) 128)) (ofBytes (m.spadChk.bytes (la * 16) 16))
    setSpadLine la d x m
  | .phys pa =>
    let la := pa / 128
    match m.l2.find la with
    | some y =>
      let (d, x) := flipBit k y.data.toNat y.chk.toNat
      { m with l2 := m.l2.put la { y with data := BitVec.ofNat 1024 d, chk := BitVec.ofNat 128 x } }
    | none =>
      let (d, x) := flipBit k (memData m la) (memCheck m la)
      setMemLine la d x m
  | .peer _ _ _ _ => m

/-- The context that port a of ck.inj names: rank in bits 9:2, context in bits 1:0 (R387). -/
def injectTarget (a : W64) : M Nat := do
  require (fld a.toNat 63 10 == 0 && decide (fld a.toNat 9 2 ≤ 191)) Cause.illegalSlot a
  pure (ctxKey (← get).issue.d (fld a.toNat 9 2) (a.toNat % 4))

/-- Source codes whose parity ck.inj can spoil: g1 to g127, v0 to v31, q0 to q18 (R387). -/
def spoilable (code : Nat) : Bool :=
  (decide (1 ≤ code) && decide (code < 0xA0)) || (decide (0xC0 ≤ code) && decide (code ≤ 0xD2))

/-- R387: injects a fault; privileged. -/
def slotCkInj (t : Trig) : M Unit := do
  let src ← operand64 t.src
  require (!(← get).user) Cause.priv src
  let x := src.toNat
  let a ← port64 14 0
  match x % 16 with
  | 0 =>
    require (fld x 63 15 == 0 && decide (fld x 14 4 < 1152)) Cause.illegalSlot src
    require (apOf a != 3) Cause.aperture a
    let acc ← check .write 1 1 a
    let e ← read
    modify fun m =>
      let m := match acc.loc with
        | .spad _ _ => m
        | l => (lineKeys l).foldl (fun m k => writeBack e m.issue.core k m) m
      flipHome acc.loc (fld x 14 4) m
  | 1 =>
    require (fld x 63 4 == 0) Cause.illegalSlot src
    let k ← injectTarget a
    modify fun m => m.modCtx k fun c => { c with armed := true }
  | 2 =>
    require (fld x 63 26 == 0 && fld x 15 4 == 0 && spoilable (fld x 25 16)) Cause.illegalSlot src
    let k ← injectTarget a
    modify fun m => m.modCtx k fun c =>
      let mark := if fld x 25 16 < 0x080 then c.markOfG (fld x 25 16) else fld x 25 16
      { c with bad := if c.bad.contains mark then c.bad else c.bad ++ [mark] }
  | _ => trap Cause.illegalSlot src
  ckResult 1 0

/-- CK_CMP: Compares 64 bits, and a mismatch traps or rewinds. (R385) -/
def execCkCmp (t : Trig) (s : State) : Out :=
  slotStep (.ckCmp t) t.guard (slotCkCmp t) s

/-- CK_CMPV: Compares 512 bits. (R385) -/
def execCkCmpv (t : Trig) (s : State) : Out :=
  slotStep (.ckCmpv t) t.guard (slotCkCmpv t) s

/-- CK_CMPP: Compares predicate bits. (R385) -/
def execCkCmpp (t : Trig) (s : State) : Out :=
  slotStep (.ckCmpp t) t.guard (slotCkCmpp t) s

/-- CK_SIG: Folds a value into a signature. (R385) -/
def execCkSig (t : Trig) (s : State) : Out :=
  slotStep (.ckSig t) t.guard (slotCkSig t) s

/-- CK_SIGC: Folds a value into a signature and checks it against an expected value. (R385) -/
def execCkSigc (t : Trig) (s : State) : Out :=
  slotStep (.ckSigc t) t.guard (slotCkSigc t) s

/-- CK_INJ: Injects a memory bit flip, an arming or a parity error. (R387) -/
def execCkInj (t : Trig) (s : State) : Out :=
  slotStep (.ckInj t) t.guard (slotCkInj t) s
end Sys2Proof.Machine
end

