-- ==== Sys2Proof/Machine/Scalar.lean ====
section
/-! DEFINITION. The integer units ix0 to ix2 (R141 to R149). -/

namespace Sys2Proof.Machine

/-- An operation of port a and the trigger operand, delivered to the unit's latch (R40, R141). -/
def ixBinary (u : Fin 3) (t : Trig) (lat : Nat) (f : W64 → W64 → W64) : M Unit := do
  let x ← operand64 t.src
  let a ← port64 u.val 0
  result64 u.val lat (f a x)

/-- An operation of ports a and b and the trigger operand. -/
def ixTernary (u : Fin 3) (t : Trig) (lat : Nat) (f : W64 → W64 → W64 → W64) : M Unit := do
  let x ← operand64 t.src
  let a ← port64 u.val 0
  let b ← port64 u.val 1
  result64 u.val lat (f a b x)

/-- An operation of the trigger operand alone. -/
def ixUnary (u : Fin 3) (t : Trig) (lat : Nat) (f : W64 → W64) : M Unit := do
  let x ← operand64 t.src
  result64 u.val lat (f x)

/-- The number of zero bits above the highest one bit, 64 for 0 (R147). -/
def clzValue (t : W64) : W64 := w64 (if t = 0 then 64 else 63 - t.toNat.log2)

/-- The number of one bits (R147). -/
def popcValue (t : W64) : W64 := w64 (popN t.toNat 64)

/-- The length of a field operation, Min(t[14:8], 64) (R148). -/
def fieldLen (t : W64) : Nat := min (fld t.toNat 14 8) 64

/-- The field of a at position t[5:0], zero-extended (R148). -/
def bextValue (a t : W64) : W64 := w64 (a.toNat / 2 ^ (t.toNat % 64) % 2 ^ fieldLen t)

/-- b inserted into a (R148). -/
def binsValue (a b t : W64) : W64 :=
  let p := t.toNat % 64
  let k := w64 (mask (fieldLen t)) <<< p
  (a &&& ~~~k) ||| ((b <<< p) &&& k)

/-- Sign extension from n = t[6:0] bits (R149). -/
def sextValue (a t : W64) : W64 :=
  let n := t.toNat % 128
  if n = 0 then 0 else if 64 ≤ n then a else w64I (sgn a.toNat n)

/-- Zero extension from n = t[6:0] bits (R149). -/
def zextValue (a t : W64) : W64 :=
  let n := t.toNat % 128
  if n = 0 then 0 else if 64 ≤ n then a else w64 (a.toNat % 2 ^ n)

/-- R142 -/
def slotIxAdd (u : Fin 3) (t : Trig) : M Unit := ixBinary u t 1 fun a t => a + t

/-- R142 -/
def slotIxSub (u : Fin 3) (t : Trig) : M Unit := ixBinary u t 1 fun a t => a - t

/-- R142 -/
def slotIxAddw (u : Fin 3) (t : Trig) : M Unit := ixBinary u t 1 fun a t => ((a.setWidth 32 + t.setWidth 32).signExtend 64)

/-- R142 -/
def slotIxSubw (u : Fin 3) (t : Trig) : M Unit := ixBinary u t 1 fun a t => ((a.setWidth 32 - t.setWidth 32).signExtend 64)

/-- R142 -/
def slotIxAnd (u : Fin 3) (t : Trig) : M Unit := ixBinary u t 1 fun a t => a &&& t

/-- R142 -/
def slotIxOr (u : Fin 3) (t : Trig) : M Unit := ixBinary u t 1 fun a t => a ||| t

/-- R142 -/
def slotIxXor (u : Fin 3) (t : Trig) : M Unit := ixBinary u t 1 fun a t => a ^^^ t

/-- R142 -/
def slotIxAndn (u : Fin 3) (t : Trig) : M Unit := ixBinary u t 1 fun a t => a &&& ~~~t

/-- R143 -/
def slotIxShl (u : Fin 3) (t : Trig) : M Unit := ixBinary u t 1 fun a t => a <<< (t.toNat % 64)

/-- R143 -/
def slotIxShr (u : Fin 3) (t : Trig) : M Unit := ixBinary u t 1 fun a t => a >>> (t.toNat % 64)

/-- R143 -/
def slotIxSha (u : Fin 3) (t : Trig) : M Unit := ixBinary u t 1 fun a t => a.sshiftRight (t.toNat % 64)

/-- R143 -/
def slotIxRotl (u : Fin 3) (t : Trig) : M Unit := ixBinary u t 1 fun a t => a.rotateLeft (t.toNat % 64)

/-- R144 -/
def slotIxCeq (u : Fin 3) (t : Trig) : M Unit := ixBinary u t 1 fun a t => truth (a == t)

/-- R144 -/
def slotIxCne (u : Fin 3) (t : Trig) : M Unit := ixBinary u t 1 fun a t => truth (a != t)

/-- R144 -/
def slotIxClt (u : Fin 3) (t : Trig) : M Unit := ixBinary u t 1 fun a t => truth (a.slt t)

/-- R144 -/
def slotIxCltu (u : Fin 3) (t : Trig) : M Unit := ixBinary u t 1 fun a t => truth (a.ult t)

/-- R144 -/
def slotIxCle (u : Fin 3) (t : Trig) : M Unit := ixBinary u t 1 fun a t => truth (a.sle t)

/-- R144 -/
def slotIxCleu (u : Fin 3) (t : Trig) : M Unit := ixBinary u t 1 fun a t => truth (a.ule t)

/-- R145 -/
def slotIxMin (u : Fin 3) (t : Trig) : M Unit := ixBinary u t 1 fun a t => if a.sle t then a else t

/-- R145 -/
def slotIxMax (u : Fin 3) (t : Trig) : M Unit := ixBinary u t 1 fun a t => if t.sle a then a else t

/-- R145 -/
def slotIxMinu (u : Fin 3) (t : Trig) : M Unit := ixBinary u t 1 fun a t => if a.ule t then a else t

/-- R145 -/
def slotIxMaxu (u : Fin 3) (t : Trig) : M Unit := ixBinary u t 1 fun a t => if t.ule a then a else t

/-- R146 -/
def slotIxMul (u : Fin 3) (t : Trig) : M Unit := ixBinary u t 3 fun a t => a * t

/-- R146 -/
def slotIxMulh (u : Fin 3) (t : Trig) : M Unit := ixBinary u t 3 fun a t => w64I (a.toInt * t.toInt / 2 ^ 64)

/-- R146 -/
def slotIxMulhu (u : Fin 3) (t : Trig) : M Unit := ixBinary u t 3 fun a t => w64 (a.toNat * t.toNat / 2 ^ 64)

/-- R148 -/
def slotIxBext (u : Fin 3) (t : Trig) : M Unit := ixBinary u t 1 fun a t => bextValue a t

/-- R149 -/
def slotIxSext (u : Fin 3) (t : Trig) : M Unit := ixBinary u t 1 fun a t => sextValue a t

/-- R149 -/
def slotIxZext (u : Fin 3) (t : Trig) : M Unit := ixBinary u t 1 fun a t => zextValue a t

/-- R145: a when t is not zero, otherwise b. -/
def slotIxSel (u : Fin 3) (t : Trig) : M Unit := ixTernary u t 1 fun a b t => if t = 0 then b else a

/-- R147 -/
def slotIxClz (u : Fin 3) (t : Trig) : M Unit := ixUnary u t 1 clzValue

/-- R147 -/
def slotIxPopc (u : Fin 3) (t : Trig) : M Unit := ixUnary u t 1 popcValue

/-- R148 -/
def slotIxBins (u : Fin 3) (t : Trig) : M Unit := ixTernary u t 1 binsValue

/-- IX_ADD: Adds a and t modulo 2^64. (R142) -/
def execIxAdd (u : Fin 3) (t : Trig) (s : State) : Out :=
  slotStep (.ixAdd u t) t.guard (slotIxAdd u t) s

/-- IX_SUB: Subtracts t from a modulo 2^64. (R142) -/
def execIxSub (u : Fin 3) (t : Trig) (s : State) : Out :=
  slotStep (.ixSub u t) t.guard (slotIxSub u t) s

/-- IX_ADDW: Adds in 32 bits and sign-extends the result. (R142) -/
def execIxAddw (u : Fin 3) (t : Trig) (s : State) : Out :=
  slotStep (.ixAddw u t) t.guard (slotIxAddw u t) s

/-- IX_SUBW: Subtracts in 32 bits and sign-extends the result. (R142) -/
def execIxSubw (u : Fin 3) (t : Trig) (s : State) : Out :=
  slotStep (.ixSubw u t) t.guard (slotIxSubw u t) s

/-- IX_AND: Bitwise AND of a and t. (R142) -/
def execIxAnd (u : Fin 3) (t : Trig) (s : State) : Out :=
  slotStep (.ixAnd u t) t.guard (slotIxAnd u t) s

/-- IX_OR: Bitwise OR of a and t. (R142) -/
def execIxOr (u : Fin 3) (t : Trig) (s : State) : Out :=
  slotStep (.ixOr u t) t.guard (slotIxOr u t) s

/-- IX_XOR: Bitwise XOR of a and t. (R142) -/
def execIxXor (u : Fin 3) (t : Trig) (s : State) : Out :=
  slotStep (.ixXor u t) t.guard (slotIxXor u t) s

/-- IX_ANDN: a AND NOT t. (R142) -/
def execIxAndn (u : Fin 3) (t : Trig) (s : State) : Out :=
  slotStep (.ixAndn u t) t.guard (slotIxAndn u t) s

/-- IX_SHL: Shifts a left by t[5:0]. (R143) -/
def execIxShl (u : Fin 3) (t : Trig) (s : State) : Out :=
  slotStep (.ixShl u t) t.guard (slotIxShl u t) s

/-- IX_SHR: Shifts a right logically by t[5:0]. (R143) -/
def execIxShr (u : Fin 3) (t : Trig) (s : State) : Out :=
  slotStep (.ixShr u t) t.guard (slotIxShr u t) s

/-- IX_SHA: Shifts a right arithmetically by t[5:0]. (R143) -/
def execIxSha (u : Fin 3) (t : Trig) (s : State) : Out :=
  slotStep (.ixSha u t) t.guard (slotIxSha u t) s

/-- IX_ROTL: Rotates a left by t[5:0]. (R143) -/
def execIxRotl (u : Fin 3) (t : Trig) (s : State) : Out :=
  slotStep (.ixRotl u t) t.guard (slotIxRotl u t) s

/-- IX_CEQ: Delivers 1 when a equals t. (R144) -/
def execIxCeq (u : Fin 3) (t : Trig) (s : State) : Out :=
  slotStep (.ixCeq u t) t.guard (slotIxCeq u t) s

/-- IX_CNE: Delivers 1 when a differs from t. (R144) -/
def execIxCne (u : Fin 3) (t : Trig) (s : State) : Out :=
  slotStep (.ixCne u t) t.guard (slotIxCne u t) s

/-- IX_CLT: Delivers 1 when a is signed less than t. (R144) -/
def execIxClt (u : Fin 3) (t : Trig) (s : State) : Out :=
  slotStep (.ixClt u t) t.guard (slotIxClt u t) s

/-- IX_CLTU: Delivers 1 when a is unsigned less than t. (R144) -/
def execIxCltu (u : Fin 3) (t : Trig) (s : State) : Out :=
  slotStep (.ixCltu u t) t.guard (slotIxCltu u t) s

/-- IX_CLE: Delivers 1 when a is signed less than or equal to t. (R144) -/
def execIxCle (u : Fin 3) (t : Trig) (s : State) : Out :=
  slotStep (.ixCle u t) t.guard (slotIxCle u t) s

/-- IX_CLEU: Delivers 1 when a is unsigned less than or equal to t. (R144) -/
def execIxCleu (u : Fin 3) (t : Trig) (s : State) : Out :=
  slotStep (.ixCleu u t) t.guard (slotIxCleu u t) s

/-- IX_MIN: Signed minimum of a and t. (R145) -/
def execIxMin (u : Fin 3) (t : Trig) (s : State) : Out :=
  slotStep (.ixMin u t) t.guard (slotIxMin u t) s

/-- IX_MAX: Signed maximum of a and t. (R145) -/
def execIxMax (u : Fin 3) (t : Trig) (s : State) : Out :=
  slotStep (.ixMax u t) t.guard (slotIxMax u t) s

/-- IX_MINU: Unsigned minimum of a and t. (R145) -/
def execIxMinu (u : Fin 3) (t : Trig) (s : State) : Out :=
  slotStep (.ixMinu u t) t.guard (slotIxMinu u t) s

/-- IX_MAXU: Unsigned maximum of a and t. (R145) -/
def execIxMaxu (u : Fin 3) (t : Trig) (s : State) : Out :=
  slotStep (.ixMaxu u t) t.guard (slotIxMaxu u t) s

/-- IX_SEL: Delivers a if t is nonzero, otherwise b. (R145) -/
def execIxSel (u : Fin 3) (t : Trig) (s : State) : Out :=
  slotStep (.ixSel u t) t.guard (slotIxSel u t) s

/-- IX_MUL: Low 64 bits of the product of a and t. (R146) -/
def execIxMul (u : Fin 3) (t : Trig) (s : State) : Out :=
  slotStep (.ixMul u t) t.guard (slotIxMul u t) s

/-- IX_MULH: High 64 bits of the signed product. (R146) -/
def execIxMulh (u : Fin 3) (t : Trig) (s : State) : Out :=
  slotStep (.ixMulh u t) t.guard (slotIxMulh u t) s

/-- IX_MULHU: High 64 bits of the unsigned product. (R146) -/
def execIxMulhu (u : Fin 3) (t : Trig) (s : State) : Out :=
  slotStep (.ixMulhu u t) t.guard (slotIxMulhu u t) s

/-- IX_CLZ: Counts the leading zero bits of t. (R147) -/
def execIxClz (u : Fin 3) (t : Trig) (s : State) : Out :=
  slotStep (.ixClz u t) t.guard (slotIxClz u t) s

/-- IX_POPC: Counts the one bits of t. (R147) -/
def execIxPopc (u : Fin 3) (t : Trig) (s : State) : Out :=
  slotStep (.ixPopc u t) t.guard (slotIxPopc u t) s

/-- IX_BEXT: Extracts a bit field of a, zero-extended. (R148) -/
def execIxBext (u : Fin 3) (t : Trig) (s : State) : Out :=
  slotStep (.ixBext u t) t.guard (slotIxBext u t) s

/-- IX_BINS: Inserts the low bits of b into a as a bit field. (R148) -/
def execIxBins (u : Fin 3) (t : Trig) (s : State) : Out :=
  slotStep (.ixBins u t) t.guard (slotIxBins u t) s

/-- IX_SEXT: Sign-extends a from n bits. (R149) -/
def execIxSext (u : Fin 3) (t : Trig) (s : State) : Out :=
  slotStep (.ixSext u t) t.guard (slotIxSext u t) s

/-- IX_ZEXT: Zero-extends a from n bits. (R149) -/
def execIxZext (u : Fin 3) (t : Trig) (s : State) : Out :=
  slotStep (.ixZext u t) t.guard (slotIxZext u t) s

end Sys2Proof.Machine
end

