-- ==== Sys2Proof/Machine/StreamOps.lean ====
section
/-! DEFINITION. The stream unit sq (R252 to R273). -/

namespace Sys2Proof.Machine

/-- Deliver to sq.q (R252). -/
def sqResult (lat : Nat) (v : W64) : M Unit := result64 13 lat v

/-- The issuing task's lease word, as it stood at the start of the bundle (R229). -/
def leaseWord : M W64 := do pure (← get).issue.lstat

/-! ### Lease, length and seeds -/

/-- R257 -/
def slotSqLease (t : Trig) : M Unit := do
  let x ← operand64 t.src
  require (x == 0) Cause.illegalSlot x
  if (← get).curTask.lease = .held then sqResult 2 (← leaseWord)
  else block .lease x false

/-- R258 -/
def slotSqRels (t : Trig) : M Unit := do
  let x ← operand64 t.src
  require (x == 0) Cause.illegalSlot x
  match (← get).curTask.lease with
  | .suspended => block .lease x false
  | .held =>
    sqResult 2 (← leaseWord)
    modify fun m => releaseLease m.tkey m
  | .none => sqResult 2 (← leaseWord)

/-- R254 -/
def slotSqLen (t : Trig) : M Unit := do
  let x ← operand64 t.src
  require (decide (4 ≤ x.toNat) && decide (x.toNat ≤ 12)) Cause.illegalSlot x
  sqResult 2 (w64 (← get).issue.start.csr.sqlen)
  modify (requestCsr 0x020 x.toNat true)

/-- R254 -/
def slotSqSeeda (t : Trig) : M Unit := do
  let x ← operand64 t.src
  require (fld x.toNat 63 32 == 0) Cause.illegalSlot x
  sqResult 2 ((← get).issue.start.csr.seedA.setWidth 64)
  modify (requestCsr 0x021 x.toNat true)

/-- R254 -/
def slotSqSeedb (t : Trig) : M Unit := do
  let x ← operand64 t.src
  require (fld x.toNat 63 32 == 0) Cause.illegalSlot x
  sqResult 2 ((← get).issue.start.csr.seedB.setWidth 64)
  modify (requestCsr 0x022 x.toNat true)

/-! ### Issue of array commands (R231, R255) -/

/-- The configuration in force at issue (R255). -/
def cfgInForce (m : Mach) : ArrCfg :=
  match m.curTask.lease with
  | .none => {}
  | .held => (m.arr (groupArr m.tkey)).issueCfg
  | .suspended => match m.spills.find m.tkey with | some r => r.issueCfg | none => {}

/-- Step 2 of R255: the lease, a grant that has ended (R230), and room in the queue. -/
def checkLease (t : W64) : M Unit := do
  let e ← read
  let m ← get
  let ak := groupArr m.tkey
  match m.curTask.lease with
  | .none => trap Cause.lease (← leaseWord)
  | .suspended => block .lease t false
  | .held =>
    let x := m.arr ak
    if x.grantOver e && !(othersAsk m ak) then set (m.modArr ak (Arr.renew e))
    else if 64 ≤ x.cmds then block .lease t false
    else pure ()
    if 16 ≤ x.queue.length then block .arrFull t false else pure ()

/-- Raise what a region check has found (R255). -/
def raiseSpan (f : Mach → Span × Mach) : M Unit := do
  let (x, m) := f (← get)
  set m
  match x with
  | .ok => pure ()
  | .stop s => throw s

/-- Step 4 of R255: the command enters the queue with its token or read number.  The entry holds the ports as they stand
(R247); a command reads, and so checks, only those of its row (R252, R260, R382). -/
def accept (op : Nat) (t : W64) (cfg : ArrCfg) (desc : List W64) : M Unit := do
  let raw (k : Nat) : M W64 := do pure (((← get).issue.ports.get 0 (portCode 10 k)).setWidth 64)
  let a ← raw 0
  let b ← raw 1
  let c ← raw 2
  let isRead := op == 14 || op == 15
  if isRead then pure () else tokenRoom 4 t
  awaitCommandFences
  let m ← get
  let rid := m.nextRead
  let csr := m.issue.start.csr
  let tok ←
    if isRead then do
      set ({ m with nextRead := m.nextRead + 1 }.modCurTask fun k => k.count 9)
      resultWith 13 8 0 (.arr rid) []
      pure 0
    else do
      let (s, h) ← takeToken 4 none
      sqResult 2 h
      pure s
  let cmd : Cmd :=
    { op := op, addr := m.issue.addr, t := t, a := a, b := b, c := c, tok := tok, k := csr.sqlen, seedA := csr.seedA,
      seedB := csr.seedB, cfg := cfg, phase := .queued, desc := desc, chunk := 0, prog := 0, rid := rid, val := 0 }
  modify fun m => m.modArr (groupArr m.tkey) fun x =>
    { x with cmds := x.cmds + 1, queue := x.queue ++ [cmd], issueCfg := cfg, lastAddr := cmd.addr }

/-- The configuration that sq.cfg asks for (R259), its fields as numbers. -/
def cfgOf (t a b c : W64) : ArrCfg :=
  let x := t.toNat
  let rule := fld x 29 28
  { mode := fld x 2 0, m := fld x 13 7 + 1, k := fld x 20 14 + 1, n := fld x 27 21 + 1, rule := rule
    cols := if rule = 0 then [] else
      (List.range (fld x 34 30)).map fun j => if j < 8 then laneN a.toNat 8 j else laneN b.toNat 8 (j - 8)
    margin := if rule = 2 then fld c.toNat 19 0 else 0 }

/-- Check the designated columns in use, and that the bytes beyond them are zero (R260): tval is the port. -/
def checkColumns (cfg : ArrCfg) (a b : W64) : M Unit :=
  (List.range 16).forM fun j => do
    let p := if j < 8 then a else b
    let v := laneN p.toNat 8 (j % 8)
    if j < cfg.cols.length then
      require (decide (v < cfg.n) && !((cfg.cols.take j).contains v)) Cause.illegalSlot p
    else require (v == 0) Cause.illegalSlot p

/-- R259, R260 -/
def slotSqCfg (t : Trig) : M Unit := do
  let src ← operand64 t.src
  let x := src.toNat
  let rule := fld x 29 28
  let ncol := fld x 34 30
  require (fld x 63 35 == 0 && fld x 6 3 == 0 && decide (fld x 2 0 ≤ 5) && rule != 3
    && (if rule = 0 then ncol == 0 else decide (2 ≤ ncol) && decide (ncol ≤ 16))) Cause.illegalSlot src
  let a ← if rule != 0 then port64 10 0 else pure 0
  let b ← if rule != 0 then port64 10 1 else pure 0
  let c ← if rule = 2 then port64 10 2 else pure 0
  let cfg := cfgOf src a b c
  if rule != 0 then checkColumns cfg a b else pure ()
  if rule = 2 then require (fld c.toNat 63 20 == 0 && c != 0) Cause.illegalSlot c else pure ()
  checkLease src
  accept 2 src cfg []

/-- A load command (R261, R262). -/
def loadCommand (op : Nat) (t : W64) : M Unit := do
  let a ← port64 10 0
  let b ← port64 10 1
  require (ctlOk a) Cause.illegalSlot a
  checkLease t
  let e ← read
  let m ← get
  let cfg := cfgInForce m
  raiseSpan (loadCheck e (arrWho m m.tkey) cfg (op == 7) t a b)
  accept op t cfg []

/-- R261 -/
def slotSqLda (t : Trig) : M Unit := do loadCommand 6 (← operand64 t.src)
/-- R261 -/
def slotSqLdb (t : Trig) : M Unit := do loadCommand 7 (← operand64 t.src)

/-- A command whose operand must be zero. -/
def plainCommand (op : Nat) (t : W64) (ok : Bool) : M Unit := do
  require ok Cause.illegalSlot t
  checkLease t
  accept op t (cfgInForce (← get)) []

/-- R264 -/
def slotSqRun (t : Trig) : M Unit := do
  let x ← operand64 t.src
  plainCommand 8 x (x == 0)

/-- R264: a rule must be in force. -/
def slotSqRunc (t : Trig) : M Unit := do
  let x ← operand64 t.src
  plainCommand 9 x (x == 0 && (cfgInForce (← get)).rule != 0)

/-- R265 -/
def slotSqClr (t : Trig) : M Unit := do
  let x ← operand64 t.src
  plainCommand 11 x (fld x.toNat 63 1 == 0)

/-- R265 -/
def slotSqPromo (t : Trig) : M Unit := do
  let x ← operand64 t.src
  plainCommand 12 x (x == 0)

/-- R270: the core reads the descriptor as eight ldd loads, and checks every chunk's regions. -/
def slotSqTile (t : Trig) : M Unit := do
  let src ← operand64 t.src
  let a ← port64 10 0
  let m ← get
  let cfg := cfgInForce m
  require (fld a.toNat 63 18 == 0 && fld a.toNat 15 13 == 0 && tileCount a != 0 && decide (tileCount a ≤ 4096)
    && (!(tileRunc a) || cfg.rule != 0)) Cause.illegalSlot a
  checkLease src
  raiseSpan fun m => (startCheck false src 64, m)
  let desc ← (List.range 8).mapM fun k => do
    let acc ← check .read 8 8 (src + w64 (8 * k))
    pure (w64 (ofBytes (← loadBytes acc 8)))
  require (ctlOk (desc.getD 4 0)) Cause.illegalSlot (desc.getD 4 0)
  require (ctlOk (desc.getD 5 0)) Cause.illegalSlot (desc.getD 5 0)
  let e ← read
  raiseSpan (tileCheck e (arrWho m m.tkey) cfg desc a 0)
  accept 10 src cfg desc

/-- R263 -/
def slotSqDrain (t : Trig) : M Unit := do
  let x ← operand64 t.src
  let a ← port64 10 0
  let cfg := cfgInForce (← get)
  require (ctlOk a && decide (cfg.n * drainBytes (ctlFmt a) ≤ ctlStride a)) Cause.illegalSlot a
  checkLease x
  let e ← read
  let m ← get
  raiseSpan (drainCheck e (arrWho m m.tkey) cfg x a)
  accept 13 x cfg []

/-- R266 -/
def slotSqRdc (t : Trig) : M Unit := do
  let x ← operand64 t.src
  plainCommand 14 x (x.toNat &&& 0x37F7F == x.toNat && fld x.toNat 17 16 != 3)

/-- R267 -/
def slotSqStat (t : Trig) : M Unit := do
  let x ← operand64 t.src
  let sel := fld x.toNat 4 0
  plainCommand 15 x (decide (sel ≤ 12) && x.toNat &&& (if sel = 7 then 0x7F1F else 0x1F) == x.toNat)

/-- R268 -/
def slotSqBar (t : Trig) : M Unit := do
  let x ← operand64 t.src
  plainCommand 16 x (fld x.toNat 63 4 == 0)

/-- R269 -/
def slotSqWait (t : Trig) : M Unit := do waitToken (← operand64 t.src) (fun k => k == 4) 13

/-- SQ_LEASE: Requests the array lease. (R257) -/
def execSqLease (t : Trig) (s : State) : Out :=
  slotStep (.sqLease t) t.guard (slotSqLease t) s

/-- SQ_RELS: Gives up the array lease. (R258) -/
def execSqRels (t : Trig) (s : State) : Out :=
  slotStep (.sqRels t) t.guard (slotSqRels t) s

/-- SQ_CFG: Queues a configuration of mode, extents and early-stop rule. (R259) -/
def execSqCfg (t : Trig) (s : State) : Out :=
  slotStep (.sqCfg t) t.guard (slotSqCfg t) s

/-- SQ_LEN: Sets the stream length k. (R254) -/
def execSqLen (t : Trig) (s : State) : Out :=
  slotStep (.sqLen t) t.guard (slotSqLen t) s

/-- SQ_SEEDA: Sets the A-side seed. (R254) -/
def execSqSeeda (t : Trig) (s : State) : Out :=
  slotStep (.sqSeeda t) t.guard (slotSqSeeda t) s

/-- SQ_SEEDB: Sets the B-side seed. (R254) -/
def execSqSeedb (t : Trig) (s : State) : Out :=
  slotStep (.sqSeedb t) t.guard (slotSqSeedb t) s

/-- SQ_LDA: Queues a load of the A back bank. (R261) -/
def execSqLda (t : Trig) (s : State) : Out :=
  slotStep (.sqLda t) t.guard (slotSqLda t) s

/-- SQ_LDB: Queues a load of the B back bank. (R261) -/
def execSqLdb (t : Trig) (s : State) : Out :=
  slotStep (.sqLdb t) t.guard (slotSqLdb t) s

/-- SQ_RUN: Queues a pass. (R264) -/
def execSqRun (t : Trig) (s : State) : Out :=
  slotStep (.sqRun t) t.guard (slotSqRun t) s

/-- SQ_RUNC: Queues a pass with early stop. (R264) -/
def execSqRunc (t : Trig) (s : State) : Out :=
  slotStep (.sqRunc t) t.guard (slotSqRunc t) s

/-- SQ_TILE: Queues a macro of loads, passes and promotions over K chunks. (R270) -/
def execSqTile (t : Trig) (s : State) : Out :=
  slotStep (.sqTile t) t.guard (slotSqTile t) s

/-- SQ_CLR: Queues a clear of the counter state. (R265) -/
def execSqClr (t : Trig) (s : State) : Out :=
  slotStep (.sqClr t) t.guard (slotSqClr t) s

/-- SQ_PROMO: Queues a promotion. (R265) -/
def execSqPromo (t : Trig) (s : State) : Out :=
  slotStep (.sqPromo t) t.guard (slotSqPromo t) s

/-- SQ_DRAIN: Queues a drain of the accumulators. (R263) -/
def execSqDrain (t : Trig) (s : State) : Out :=
  slotStep (.sqDrain t) t.guard (slotSqDrain t) s

/-- SQ_RDC: Reads one counter, accumulator or step count. (R266) -/
def execSqRdc (t : Trig) (s : State) : Out :=
  slotStep (.sqRdc t) t.guard (slotSqRdc t) s

/-- SQ_STAT: Reads array status. (R267) -/
def execSqStat (t : Trig) (s : State) : Out :=
  slotStep (.sqStat t) t.guard (slotSqStat t) s

/-- SQ_BAR: Queues a stream barrier. (R268) -/
def execSqBar (t : Trig) (s : State) : Out :=
  slotStep (.sqBar t) t.guard (slotSqBar t) s

/-- SQ_WAIT: Waits on an array token. (R269) -/
def execSqWait (t : Trig) (s : State) : Out :=
  slotStep (.sqWait t) t.guard (slotSqWait t) s
end Sys2Proof.Machine
end

