-- ==== Sys2Proof/Machine/TileOps.lean ====
section
/-! DEFINITION. The named-tile unit nt (R291 to R303). -/

namespace Sys2Proof.Machine

/-- Deliver to nt.q (R291). -/
def ntResult (lat : Nat) (v : W64) : M Unit := result64 14 lat v

/-- Does a context's nt.range hold the ids lo to hi (R275)? -/
def rangeHolds (m : Mach) (lo hi : Nat) : Bool :=
  let x := m.issue.start.csr.ntrange.toNat
  tst x 0 && decide (fld x 43 24 ≤ lo) && decide (hi ≤ fld x 63 44)

/-- RangeCheck (R275): a context at supervisor privilege passes. -/
def rangeCheck (id : Nat) (t : W64) : M Unit := do
  let m ← get
  require (!m.user || rangeHolds m id id) Cause.ntRange t

/-- A router operand in port a (R292). -/
def routerOperand (a : W64) : M Nat := do
  let e ← read
  let d := (← get).issue.d
  let v := fld a.toNat 4 0
  let r := if v = 31 then d else v
  require (fld a.toNat 63 5 == 0 && decide (r ≤ 16) && (r == hub || e.live r)) Cause.illegalSlot a
  pure r

/-- Check every byte of a G region, taking pages that are not there as fine when asked (R294, R295). -/
def regionCheck (e : Env) (who : Who) (k : Right) (absentOk : Bool) (a : W64) : Nat → Nat → Mach → Span × Mach
  | 0, _, m => (.ok, m)
  | fuel + 1, n, m =>
    if n = 0 then (.ok, m)
    else
      let (x, m) := checkAcc e who k 1 1 a m
      let len := min n (alikeBytes m who a)
      match x with
      | .fault f => (.stop (.trap f a), m)
      | .absent => if absentOk then regionCheck e who k absentOk (addA a (w64 len)) fuel (n - len) m else (.stop (.page a), m)
      | .ok _ => regionCheck e who k absentOk (addA a (w64 len)) fuel (n - len) m

/-- Check every byte of a tile's region of n bytes (R186, R294, R295): P is an APERTURE_FAULT, and the address is a
multiple of 64. A fault found in the region carries the failing byte's address (log entry 52). -/
def checkTile (k : Right) (absentOk : Bool) (a : W64) (n : Nat) : M Unit := do
  match startCheck true a 64 with
  | .stop s => throw s
  | .ok =>
    let e ← read
    let m ← get
    if apOf a = 0 then
      let (s, m) := regionCheck e m.who k absentOk a (spanFuel m.who n) n m
      set m
      match s with
      | .ok => pure ()
      | .stop s => throw s
    else
      let _ ← check k n 64 a
      pure ()

/-- Issue a token of an nt operation and deliver its handle: the sequence number (R291). -/
def ntToken (name : Option W64) : M Nat := do
  let (seq, h) ← takeToken 5 name
  ntResult 4 h
  pure seq

/-- A token that completes at once. -/
def ntDone (name : Option W64) (v : W64) : M Unit := do
  let seq ← ntToken name
  modify fun m => completeToken m.tkey 5 seq v m

/-- The binding that a descriptor's words say, none when a field is illegal (R276, R293). -/
def bindingOf (w : List Nat) : Option Binding :=
  let x := w.getD 0 0
  let y := w.getD 1 0
  if fld x 23 20 != 0 || fld x 31 27 != 0 || decide (4 < fld x 26 24) || fld y 15 12 != 0 || fld y 31 28 != 0
      || decide (9 < fld y 35 32) || fld y 39 36 != 0 || fld y 63 51 != 0 || (w.drop 2).any fun z => z != 0 then none
  else
    some { id := fld x 19 0, size := fld x 26 24, rows := fld x 47 32, cols := fld x 63 48, base := fld y 11 0
           win := fld y 27 16 + 1, legend := fld y 35 32, buf := fld y 47 40, hub := tst y 48, transit := tst y 49
           cons := tst y 50 }

/-- Send a change on its way with a token of its own. -/
def sendChange (c : NtChange) (todo : List Nat) : M Unit := do
  let seq ← ntToken none
  modify fun m =>
    { m with changes := m.changes ++ [{ chg := c, task := ownerOf m m.tkey, seq := seq, todo := todo, value := 0 }] }

/-- R293 -/
def slotNtDefn (t : Trig) : M Unit := do
  let x ← operand64 t.src
  require (fld x.toNat 5 0 == 0) Cause.align x
  match bindingOf (← readWords x 8) with
  | none => trap Cause.illegalSlot x
  | some b =>
    rangeCheck b.id x
    tokenRoom 5 x
    sendChange (.bind b) (routers (← read))

/-- R294: announces a tile. -/
def slotNtAnn (t : Trig) : M Unit := do
  let n ← operand64 t.src
  let a ← port64 11 0
  let b ← port64 11 1
  require (fld b.toNat 63 1 == 0) Cause.illegalSlot b
  rangeCheck (nameId n) n
  awaitCommandFences
  let e ← read
  let d := (← get).issue.d
  let bd := ((← get).router d).binding (nameId n)
  let outside := match bd with | some y => y.outside n | none => false
  if outside then
    tokenRoom 5 n
    ntDone none (ntNever 3)
  else
    match bd with
    | some y => checkTile .read false a y.bytes
    | none => pure ()
    tokenRoom 5 n
    modify fun m => releaseHomes e m.issue.ck m
    let seq ← ntToken none
    modify fun m =>
      let x : Ann :=
        { die := d, name := n, src := cvtFor m.who a, pin := tst b.toNat 0, task := ownerOf m m.tkey, seq := seq,
          launch := m.curTask.launch, core := m.issue.r, extents := m.curTask.extents }
      ({ m with anns := m.anns ++ [x] }).modLaunch x.launch fun l => { l with jobs := l.jobs + 1 }

/-- R295: asks for a tile. -/
def slotNtInt (t : Trig) : M Unit := do
  let n ← operand64 t.src
  let a ← port64 11 0
  let b ← port64 11 1
  require (fld b.toNat 63 32 == 0 && b != 0) Cause.illegalSlot b
  rangeCheck (nameId n) n
  awaitCommandFences
  let e ← read
  let d := (← get).issue.d
  match (((← get).router d).binding (nameId n)).filter fun y => !(y.outside n) with
  | none =>
    tokenRoom 5 n
    ntDone (some n) (ntNever 3)
  | some y =>
    checkTile .write true a y.bytes
    tokenRoom 5 n
    if !(vigilFree (← get) d) then
      modify (countNt d 3 1)
      ntDone (some n) ntBusy
    else
      let seq ← ntToken (some n)
      modify fun m =>
        let x : LocalEntry :=
          { name := n, dst := cvtFor m.who a, task := ownerOf m m.tkey, seq := seq, e := e.clk.tick + b.setWidth 48,
            core := m.issue.r, extents := m.curTask.extents }
        let m := m.modRouter d fun r => { r with locals := r.locals ++ [x] }
        interestArrives e d 0 n x.e 0 (some x) m

/-- R297: cancels an interest that no tile has claimed. -/
def slotNtCanc (t : Trig) : M Unit := do
  let h ← operand64 t.src
  let m ← get
  let d := m.issue.d
  let own := ownerOf m m.tkey
  match (m.router d).locals.find? fun x => x.task == own && tokenHandle 5 d m.cur.frame x.seq == h with
  | some x =>
    modify (endLocal d x ntExpired)
    ntResult 4 0
  | none => ntResult 4 1

/-- R298: retires iterations. -/
def slotNtRet (t : Trig) : M Unit := do
  let x ← operand64 t.src
  require (fld x.toNat 31 1 == 0) Cause.illegalSlot x
  rangeCheck (nameId x) x
  tokenRoom 5 x
  sendChange (.retire (nameId x) (nameIter x) (tst x.toNat 0)) (routers (← read))

/-- R299: writes a route. -/
def slotNtRout (t : Trig) : M Unit := do
  let x ← operand64 t.src
  let a ← port64 11 0
  let b ← port64 11 1
  let e ← read
  let r := fld x.toNat 4 0
  let idx := fld x.toNat 27 16
  require (fld x.toNat 63 28 == 0 && fld x.toNat 15 5 == 0 && decide (r ≤ 16) && (r == hub || e.live r)
    && decide (idx < if r = hub then 4096 else 1024)) Cause.illegalSlot x
  let lo := fld a.toNat 19 0
  let hi := fld a.toNat 39 20
  let face := fld a.toNat 44 40
  require (fld a.toNat 62 45 == 0 && decide (lo ≤ hi) && legalFace r face) Cause.illegalSlot a
  let rlo := fld b.toNat 15 0
  let rhi := fld b.toNat 31 16
  require (fld b.toNat 63 33 == 0 && (!(tst b.toNat 32) || decide (rlo ≤ rhi))) Cause.illegalSlot b
  let m ← get
  let old := (m.router r).routes.find idx
  let mine := (!(tst a.toNat 63) || rangeHolds m lo hi)
    && (match old with | some y => rangeHolds m y.lo y.hi | none => true)
  require (!m.user || mine) Cause.priv x
  tokenRoom 5 x
  let rt : Route := { lo := lo, hi := hi, rowEn := tst b.toNat 32, rlo := rlo, rhi := rhi, face := face }
  sendChange (.route r idx (if tst a.toNat 63 then some rt else none)) [r]

/-- R300: pins a copy. -/
def slotNtPin (t : Trig) : M Unit := do
  let n ← operand64 t.src
  let r ← routerOperand (← port64 11 0)
  rangeCheck (nameId n) n
  let (v, m) := pinCopy r n (← get)
  set m
  ntResult 16 v

/-- R300: unpins a copy. -/
def slotNtUnpn (t : Trig) : M Unit := do
  let n ← operand64 t.src
  let r ← routerOperand (← port64 11 0)
  rangeCheck (nameId n) n
  let held := match ((← get).router r).copy n with | some c => c.pinned | none => false
  if held then
    modify fun m => m.modRouter r fun x =>
      { x with copies := x.copies.map fun c => if c.name = n then { c with pinned := false } else c }
    ntResult 16 0
  else ntResult 16 1

/-- The state word of a name at a router (R300). -/
def probeWord (x : Router) (n : W64) : W64 :=
  let ts := x.transits.filter fun t => t.name == n
  let recs := match ts.find? fun t => !t.ended with | some t => t.recs.length | none => 0
  let c := x.copy n
  w64 (b2n c.isSome + b2n (match c with | some c => c.pinned | none => false) * 2
    + b2n (match c with | some c => c.origin | none => false) * 4 + b2n (!ts.isEmpty) * 8 + recs * 2 ^ 8
    + b2n (ts.any fun t => t.ended) * 2 ^ 12 + b2n (x.never n).isNone * 2 ^ 16)

/-- R300: reads the state of a name at a router. -/
def slotNtProb (t : Trig) : M Unit := do
  let n ← operand64 t.src
  let r ← routerOperand (← port64 11 0)
  rangeCheck (nameId n) n
  ntResult 16 (probeWord ((← get).router r) n)

/-- The counts of a router (R301). -/
def ntCount (m : Mach) (r sel : Nat) : W64 :=
  let x := m.router r
  match sel with
  | 0 => w64 (vigilUse m r)
  | 1 => w64 x.sconceBytes
  | 2 => w64 x.pinnedBytes
  | 8 => w64 x.binds.length
  | s => x.stats.get 0 s

/-- R301: reads a count of a router. -/
def slotNtStat (t : Trig) : M Unit := do
  let x ← operand64 t.src
  require (decide (x.toNat ≤ 8)) Cause.illegalSlot x
  let r ← routerOperand (← port64 11 0)
  ntResult 16 (ntCount (← get) r x.toNat)

/-- R302: waits for a token of an nt operation. -/
def slotNtWait (t : Trig) : M Unit := do
  waitToken (← operand64 t.src) (fun k => k == 5) 14

/-- NT_DEFN: Binds a tensor id from a descriptor. (R293) -/
def execNtDefn (t : Trig) (s : State) : Out :=
  slotStep (.ntDefn t) t.guard (slotNtDefn t) s

/-- NT_ANN: Announces a tile by name. (R294) -/
def execNtAnn (t : Trig) (s : State) : Out :=
  slotStep (.ntAnn t) t.guard (slotNtAnn t) s

/-- NT_INT: Expresses an interest in a tile by name. (R295) -/
def execNtInt (t : Trig) (s : State) : Out :=
  slotStep (.ntInt t) t.guard (slotNtInt t) s

/-- NT_CANC: Cancels an unclaimed interest. (R297) -/
def execNtCanc (t : Trig) (s : State) : Out :=
  slotStep (.ntCanc t) t.guard (slotNtCanc t) s

/-- NT_RET: Retires iterations, or unbinds a tensor. (R298) -/
def execNtRet (t : Trig) (s : State) : Out :=
  slotStep (.ntRet t) t.guard (slotNtRet t) s

/-- NT_ROUT: Writes a Gazetteer route. (R299) -/
def execNtRout (t : Trig) (s : State) : Out :=
  slotStep (.ntRout t) t.guard (slotNtRout t) s

/-- NT_PIN: Pins a Sconce copy. (R300) -/
def execNtPin (t : Trig) (s : State) : Out :=
  slotStep (.ntPin t) t.guard (slotNtPin t) s

/-- NT_UNPN: Unpins a Sconce copy. (R300) -/
def execNtUnpn (t : Trig) (s : State) : Out :=
  slotStep (.ntUnpn t) t.guard (slotNtUnpn t) s

/-- NT_PROB: Probes a router's state for a name. (R300) -/
def execNtProb (t : Trig) (s : State) : Out :=
  slotStep (.ntProb t) t.guard (slotNtProb t) s

/-- NT_STAT: Reads a router's use and event counts. (R301) -/
def execNtStat (t : Trig) (s : State) : Out :=
  slotStep (.ntStat t) t.guard (slotNtStat t) s

/-- NT_WAIT: Waits on a named-tile token. (R302) -/
def execNtWait (t : Trig) (s : State) : Out :=
  slotStep (.ntWait t) t.guard (slotNtWait t) s
end Sys2Proof.Machine
end

