-- ==== Sys2Proof/Machine/VecSpecial.lean ====
section
/-! DEFINITION. The vector unit vs (R167 to R175). -/

namespace Sys2Proof.Machine

/-- Deliver to vs.q, and to vs.q2. -/
def vsResult (x : W512) : M Unit := result 10 6 x
def vsResult2 (x : W512) : M Unit := result 11 6 x

/-! ### Conversions (R168 to R171) -/

/-- R168; the counter advances for integer formats too (R155, R167; log entry 94). -/
def slotVsVcvt (t : Trig) : M Unit := do
  let x ← operand64 t.src
  let v ← vstate
  let c := x.toNat
  let from_ := fld c 3 0
  let to_ := fld c 7 4
  let p := fld c 10 8
  require (fld c 63 11 == 0 && decide (from_ ≤ 8) && decide (to_ ≤ 8)) Cause.illegalSlot x
  let ef := elemOf from_
  let et := elemOf to_
  let nf := 512 / ef.w
  let nt := 512 / et.w
  require (decide (p < if nt ≤ nf then nf / nt else nt / nf)) Cause.illegalSlot x
  let a ← port 8 0
  if nt ≤ nf then do
    vsResult (fromLanes et.w ((List.range nt).map fun j =>
      et.round v.mode (v.bits j 0) (ef.read (laneN a.toNat ef.w (p * nt + j)))))
  else do
    let b ← port 8 1
    vsResult (fromLanes et.w ((List.range nt).map fun j =>
      if p * nf ≤ j ∧ j < p * nf + nf then
        et.round v.mode (v.bits j 0) (ef.read (laneN a.toNat ef.w (j - p * nf)))
      else laneN b.toNat et.w j))
  advance v 1

/-- The control word of vqnt and vdq: multiplier, format and part (R169). -/
def scaleControl (x : W64) : M (Num × Elem × Nat) := do
  let c := x.toNat
  let g := fld c 35 32
  let p := fld c 42 40
  require (fld c 39 36 == 0 && fld c 63 43 == 0 && decide (g ≤ 8)) Cause.illegalSlot x
  let el := elemOf g
  require (decide (p < 512 / el.w / 16)) Cause.illegalSlot x
  pure (f32 (c % 2 ^ 32), el, p)

/-- R169; the counter advances for integer formats too (R155, R167; log entry 94). -/
def slotVsVqnt (t : Trig) : M Unit := do
  let x ← operand64 t.src
  let v ← vstate
  let (k, el, p) ← scaleControl x
  let a ← port 8 0
  let b ← port 8 1
  vsResult (fromLanes el.w ((List.range (512 / el.w)).map fun j =>
    if p * 16 ≤ j ∧ j < p * 16 + 16 then
      el.round v.mode (v.bits j 0) (Num.mul (f32 (laneN a.toNat 32 (j - p * 16))) k)
    else laneN b.toNat el.w j))
  advance v 1

/-- R169 -/
def slotVsVdq (t : Trig) : M Unit := do
  let x ← operand64 t.src
  let v ← vstate
  let (k, el, p) ← scaleControl x
  let a ← port 8 0
  vsResult (fromLanes 32 ((List.range 16).map fun j =>
    Fmt.fp32.round v.mode (v.bits j 0) (Num.mul (el.read (laneN a.toNat el.w (p * 16 + j))) k)))
  advance v 1

/-- The exponent of a format's largest finite value (R153). -/
def emaxOf (code : Nat) : Int :=
  match code with
  | 0 => 127 | 1 => 30 | 2 => 127 | 3 => 15 | 4 => 14 | 5 => 8 | 6 => 6 | 7 => 2 | _ => 2

/-- The scale exponent of vmxe (R170). -/
def scaleExponent (g : Nat) (a : W512) : Int :=
  let exps : List Int := ((List.range 16).map fun j => f32 (laneN a.toNat 32 j)).filterMap fun y =>
    match y with
    | .fin _ m e _ => if m = 0 then none else some ((m.log2 : Int) + e)
    | _ => none
  match exps with
  | [] => 0
  | x :: r => max (-126) (min 127 (emaxOf g - r.foldl max x))

/-- R170 -/
def slotVsVmxe (t : Trig) : M Unit := do
  let x ← operand64 t.src
  require (decide (x.toNat ≤ 8)) Cause.illegalSlot x
  let a ← port 8 0
  let e := scaleExponent x.toNat a
  vsResult (w512 (rne32 (.exact false 1 e) + rne32 (.exact false 1 (-e)) * 2 ^ 32))

/-- R171 -/
def slotVsVpk (t : Trig) : M Unit := do
  let x ← operand t.src
  let v ← vstate
  require (v.fmt == 1 || v.fmt == 4 || v.fmt == 6) Cause.illegalSlot v.word
  let a ← port 8 0
  let h := v.w / 2
  vsResult (fromLanes h ((lanes a v.w ++ lanes x v.w).map fun y => roundInt h 0 0 (.ofInt (sgn y v.w))))

/-- R171 -/
def slotVsVupk (t : Trig) : M Unit := do
  let x ← operand t.src
  let v ← vstate
  require (v.fmt == 4 || v.fmt == 6 || v.fmt == 7) Cause.illegalSlot v.word
  let wide (ls : List Nat) : W512 := fromLanes (2 * v.w) (ls.map fun y => wrapI (sgn y v.w) (2 * v.w))
  vsResult (wide ((lanes x v.w).take (v.n / 2)))
  vsResult2 (wide ((lanes x v.w).drop (v.n / 2)))

/-! ### Divergence (R172) -/

/-- Is lane j of a mask true? -/
def maskLane (v : VState) (x : W512) (j : Nat) : Bool := laneN x.toNat v.w j != 0

/-- Index bytes, the rest 0xFF. -/
def indexBytes (l : List Nat) : W512 := fromLanes 8 (l ++ List.replicate (64 - l.length) 0xFF)

/-- R172 -/
def slotVsPart (t : Trig) : M Unit := do
  let x ← operand t.src
  let v ← vstate
  let a ← port 8 0
  let h := if v.n = 128 then a.toNat % 2 else 0
  let js := (List.range v.n).filter fun j => decide (64 * h ≤ j) && decide (j < 64 * h + 64)
  vsResult (indexBytes (js.filter (maskLane v x)))
  vsResult2 (indexBytes (js.filter fun j => !(maskLane v x j)))

/-- R172 -/
def slotVsPcnt (t : Trig) : M Unit := do
  let x ← operand t.src
  let v ← vstate
  vsResult (w512 ((List.range v.n).filter (maskLane v x)).length)

/-- R172 -/
def slotVsVcmp (t : Trig) : M Unit := do
  let x ← operand t.src
  let v ← vstate
  let a ← port 8 0
  let js := (List.range v.n).filter (maskLane v x)
  vsResult (fromLanes v.w (js.map (laneN a.toNat v.w)))
  vsResult2 (w512 js.length)

/-- R172 -/
def slotVsVexd (t : Trig) : M Unit := do
  let x ← operand t.src
  let v ← vstate
  let a ← port 8 0
  let b ← port 8 1
  let r := (List.range v.n).foldl (fun (st : Nat × List Nat) j =>
    if maskLane v x j then (st.1 + 1, st.2 ++ [laneN a.toNat v.w st.1]) else (st.1, st.2 ++ [laneN b.toNat v.w j]))
    (0, [])
  vsResult (fromLanes v.w r.2)

/-! ### Random numbers (R174, R175) -/

/-- R174 -/
def slotVsRand (t : Trig) : M Unit := do
  let x ← operand64 t.src
  let v ← vstate
  let a ← port 8 0
  let eight (from_ : Nat) : W512 :=
    fromLanes 64 ((List.range 8).map fun j => rand v.key ((a.toNat + from_ + j) % 2 ^ 24) x.toNat)
  vsResult (eight 0)
  vsResult2 (eight 8)

/-- T[0] to T[63], 32 bits each, the first lowest. -/
def normPiece0 : Nat :=
  0x3d9e130c3d9b8f773d990bf23d96887b3d9405143d9181bb3d8efe713d8c7b353d89f8063d8774e53d84f1d23d826ecb3d7fd7a43d7ad1ca3d75cc093d70c6603d6bc0cf3d66bb553d61b5f23d5cb0a53d57ab6e3d52a64c3d4da13f3d489c463d4397603d3e928e3d398dcf3d3489223d2f84873d2a7ffd3d257b833d20771a3d1b72c13d166e773d116a3c3d0c660f3d0761f03d025ddf3cfab3b33cf0abc23ce6a3e93cdc9c263cd294793cc88ce03cbe855b3cb47de93caa76893ca06f393c9667f93c8c60c83c8259a53c70a51d3c5c97073c4889073c347b1b3c206d413c0c5f763bf0a3733bc888113ba06cc33b70a3093b206ca33aa06c9c00000000

/-- T[64] to T[127], 32 bits each, the first lowest. -/
def normPiece1 : Nat :=
  0x3e1fd13e3e1e8c7e3e1d47ce3e1c032e3e1abe9e3e197a1d3e1835ac3e16f14a3e15acf73e1468b33e13247e3e11e0583e109c413e0f58383e0e143d3e0cd0503e0b8c723e0a48a13e0904df3e07c12a3e067d823e0539e83e03f65b3e02b2dc3e016f6a3e002c043dfdd1563dfb4abe3df8c43f3df63dd93df3b78b3df131553deeab373dec25323de99f433de7196c3de493ac3de20e023ddf886f3ddd02f33dda7d8c3dd7f83b3dd572ff3dd2edd93dd068c73dcde3ca3dcb5ee23dc8da0d3dc6554d3dc3d0a03dc14c073dbec7813dbc430e3db9bead3db73a5f3db4b6223db231f83dafade03dad29d83daaa5e23da821fd3da59e283da31a643da096b0

/-- T[128] to T[191], 32 bits each, the first lowest. -/
def normPiece2 : Nat :=
  0x3e719b283e70514d3e6f078b3e6dbde13e6c74513e6b2ad83e69e1793e6898313e674f013e6605e93e64bce93e6374013e622b303e60e2763e5f99d43e5e51493e5d08d43e5bc0763e5a782f3e592ffe3e57e7e43e569fdf3e5557f13e5410193e52c8563e5180a93e5039113e4ef18f3e4daa223e4c62c93e4b1b863e49d4583e488d3e3e4746383e45ff473e44b86a3e4371a13e422aec3e40e44b3e3f9dbd3e3e57433e3d10dc3e3bca883e3a84483e393e1a3e37f7ff3e36b1f73e356c013e34261e3e32e04d3e319a8e3e3054e13e2f0f463e2dc9bc3e2c84453e2b3ede3e29f9893e28b4453e276f123e2629f03e24e4de3e239fde3e225aed3e21160d

/-- T[192] to T[255], 32 bits each, the first lowest. -/
def normPiece3 : Nat :=
  0x3ea27bf43ea1d3483ea12aac3ea082233e9fd9aa3e9f31433e9e88ed3e9de0a93e9d38753e9c90523e9be8403e9b403f3e9a984f3e99f06f3e9948a03e98a0e13e97f9333e9751953e96aa073e9602893e955b1c3e94b3be3e940c703e9365323e92be043e9216e53e916fd63e90c8d63e9021e63e8f7b053e8ed4333e8e2d713e8d86be3e8ce0193e8c39843e8b92fd3e8aec853e8a461c3e899fc13e88f9753e8853373e87ad083e8706e73e8660d43e85bad03e8514d93e846ef03e83c9163e8323493e827d893e81d7d83e8132343e808c9e3e7fce2a3e7e83323e7d38563e7bed943e7aa2ec3e79585e3e780dea3e76c3903e7579503e742f293e72e51c

/-- T[256] to T[319], 32 bits each, the first lowest. -/
def normPiece4 : Nat :=
  0x3ecd45d33ecc98053ecbea4f3ecb3cb13eca8f293ec9e1b93ec934603ec8871e3ec7d9f33ec72cdf3ec67fe23ec5d2fb3ec5262b3ec479713ec3ccce3ec320413ec273ca3ec1c7693ec11b1e3ec06ee93ebfc2ca3ebf16c03ebe6acc3ebdbeee3ebd13243ebc67703ebbbbd23ebb10483eba64d33eb9b9733eb90e283eb862f23eb7b7d03eb70cc33eb661ca3eb5b6e63eb50c163eb461593eb3b6b13eb30c1d3eb2619d3eb1b7313eb10cd83eb062933eafb8613eaf0e433eae64383eadba403ead105c3eac668a3eabbccc3eab13203eaa69873ea9c0013ea9168d3ea86d2c3ea7c3dd3ea71aa13ea671773ea5c85f3ea51f593ea476653ea3cd833ea324b3

/-- T[320] to T[383], 32 bits each, the first lowest. -/
def normPiece5 : Nat :=
  0x3ef98c2f3ef8d7963ef8231d3ef76ec23ef6ba863ef606683ef552693ef49e883ef3eac53ef337203ef283993ef1d0303ef11ce53ef069b73eefb6a73eef03b43eee50de3eed9e253eeceb893eec390a3eeb86a83eead4623eea22393ee9702c3ee8be3b3ee80c663ee75aad3ee6a9103ee5f78f3ee5462a3ee494e03ee3e3b13ee3329e3ee281a63ee1d0c83ee120063ee06f5f3edfbed23edf0e603ede5e083eddadcb3edcfda83edc4d9f3edb9db03edaeddb3eda3e203ed98e7f3ed8def73ed82f893ed780343ed6d0f83ed621d53ed572cc3ed4c3db3ed415033ed366443ed2b79e3ed209103ed15a9a3ed0ac3d3ecffdf83ecf4fcb3ecea1b63ecdf3b8

/-- T[384] to T[447], 32 bits each, the first lowest. -/
def normPiece6 : Nat :=
  0x3f13e3303f1384733f1325ca3f12c7363f1268b53f120a483f11abef3f114daa3f10ef793f10915b3f1033513f0fd55a3f0f77763f0f19a63f0ebbe93f0e5e3f3f0e00a83f0da3243f0d45b33f0ce8553f0c8b0a3f0c2dd13f0bd0ab3f0b73973f0b16963f0ab9a73f0a5cca3f0a00003f09a3473f0946a13f08ea0c3f088d8a3f0831193f07d4ba3f07786d3f071c313f06c0073f0663ee3f0607e73f05abf13f05500c3f04f4393f0498763f043cc53f03e1243f0385953f032a163f02cea83f02734a3f0217fd3f01bcc13f0161953f01067a3f00ab6f3f0050743effeb133eff355e3efe7fc93efdca543efd14ff3efc5fca3efbaab43efaf5be3efa40e7

/-- T[448] to T[511], 32 bits each, the first lowest. -/
def normPiece7 : Nat :=
  0x3f2c46b63f2be22b3f2b7dbb3f2b19643f2ab5283f2a51063f29ecfe3f2989103f29253c3f28c1823f285de13f27fa593f2796eb3f2733973f26d05b3f266d383f260a2f3f25a73e3f2544663f24e1a63f247eff3f241c713f23b9fa3f23579c3f22f5563f2293283f2231123f21cf143f216d2d3f210b5e3f20a9a73f2048063f1fe67d3f1f850c3f1f23b13f1ec26e3f1e61413f1e002b3f1d9f2c3f1d3e433f1cdd713f1c7cb53f1c1c103f1bbb813f1b5b083f1afaa53f1a9a583f1a3a213f19d9ff3f1979f43f1919fd3f18ba1d3f185a523f17fa9c3f179afb3f173b6f3f16dbf93f167c973f161d4b3f15be133f155ef03f14ffe13f14a0e73f144201

/-- T[512] to T[575], 32 bits each, the first lowest. -/
def normPiece8 : Nat :=
  0x3f4657383f45eaff3f457eea3f4512f83f44a72a3f443b7d3f43cff43f43648d3f42f9493f428e263f4223263f41b8483f414d8b3f40e2f03f4078763f400e1d3f3fa3e63f3f39d03f3ecfda3f3e66053f3dfc503f3d92bc3f3d29483f3cbff43f3c56c13f3bedac3f3b84b83f3b1be33f3ab32d3f3a4a963f39e21f3f3979c63f39118d3f38a9713f3841753f37d9963f3771d63f370a343f36a2b03f363b4a3f35d4023f356cd73f3505c93f349ed93f3438063f33d1503f336ab73f33043b3f329ddb3f3237983f31d1723f316b673f3105793f309fa73f3039f13f2fd4563f2f6ed73f2f09743f2ea42c3f2e3f003f2dd9ee3f2d74f83f2d101d3f2cab5c

/-- T[576] to T[639], 32 bits each, the first lowest. -/
def normPiece9 : Nat :=
  0x3f62a53e3f622ea43f61b83a3f6142003f60cbf73f60561d3f5fe0723f5f6af73f5ef5ab3f5e808d3f5e0b9e3f5d96dd3f5d224a3f5cade53f5c39ae3f5bc5a33f5b51c63f5ade163f5a6a933f59f73b3f5984103f5911113f589e3e3f582b963f57b91a3f5746c83f56d4a23f5662a63f55f0d43f557f2d3f550db03f549c5c3f542b333f53ba323f53495b3f52d8ad3f5268273f51f7ca3f5187963f51178a3f50a7a63f5037e93f4fc8543f4f58e73f4ee9a13f4e7a823f4e0b893f4d9cb83f4d2e0c3f4cbf883f4c51293f4be2f03f4b74dd3f4b06ef3f4a99273f4a2b843f49be073f4950ad3f48e3793f4876693f48097e3f479cb63f4730133f46c394

/-- T[640] to T[703], 32 bits each, the first lowest. -/
def normPiece10 : Nat :=
  0x3f8104a33f80c20d3f807f9a3f803d493f7ff6363f7f721d3f7eee493f7e6ab83f7de76a3f7d645f3f7ce1963f7c5f0f3f7bdcca3f7b5ac53f7ad9023f7a577e3f79d63b3f7955373f78d4723f7853ed3f77d3a53f77539c3f76d3d03f7654423f75d4f13f7555dd3f74d7053f7458693f73da093f735be43f72ddf93f72604a3f71e2d53f71659a3f70e8983f706bd03f6fef413f6f72eb3f6ef6cd3f6e7ae73f6dff393f6d83c23f6d08823f6c8d7a3f6c12a73f6b980c3f6b1da63f6aa3753f6a297a3f69afb43f6936233f68bcc73f68439e3f67caaa3f6751e93f66d95c3f6661013f65e8da3f6570e53f64f9223f6481923f640a333f6393063f631c09

/-- T[704] to T[767], 32 bits each, the first lowest. -/
def normPiece11 : Nat :=
  0x3f92f1073f92a39f3f92566c3f92096d3f91bca43f91700f3f9123ae3f90d7803f908b863f903fbe3f8ff4293f8fa8c63f8f5d943f8f12943f8ec7c53f8e7d263f8e32b83f8de87a3f8d9e6b3f8d548c3f8d0adc3f8cc15a3f8c78073f8c2ee13f8be5e93f8b9d1f3f8b54823f8b0c113f8ac3cd3f8a7bb53f8a33c83f89ec083f89a4723f895d083f8915c83f88ceb23f8887c73f8841053f87fa6d3f87b3fe3f876db93f87279c3f86e1a73f869bdb3f8656363f8610b93f85cb643f8586363f85412e3f84fc4e3f84b7943f8473003f842e923f83ea493f83a6263f8362293f831e503f82da9c3f82970d3f8253a13f82105a3f81cd373f818a383f81475c

/-- T[768] to T[831], 32 bits each, the first lowest. -/
def normPiece12 : Nat :=
  0x3fa8552c3fa7f6203fa797703fa7391c3fa6db223fa67d823fa6203b3fa5c34b3fa566b33fa50a713fa4ae843fa452ec3fa3f7a83fa39cb63fa342173fa2e7ca3fa28dcd3fa234213fa1dac43fa181b53fa128f43fa0d0813fa0785a3fa0207f3f9fc8ef3f9f71aa3f9f1aae3f9ec3fc3f9e6d933f9e17713f9dc1973f9d6c033f9d16b63f9cc1ae3f9c6ceb3f9c186c3f9bc4313f9b703a3f9b1c853f9ac9123f9a75e13f9a22f13f99d0423f997dd23f992ba23f98d9b13f9887fe3f98368a3f97e5523f9794583f97439a3f96f3183f96a2d23f9652c73f9602f73f95b3603f9564033f9514e03f94c5f63f9477433f9428c93f93da863f938c7b3f933ea6

/-- T[832] to T[895], 32 bits each, the first lowest. -/
def normPiece13 : Nat :=
  0x3fc3dc5c3fc35b6f3fc2db483fc25be33fc1dd3d3fc15f543fc0e2253fc065ad3fbfe9eb3fbf6eda3fbef47a3fbe7ac73fbe01c03fbd89613fbd11a93fbc9a963fbc24253fbbae543fbb39223fbac48b3fba508f3fb9dd2b3fb96a5d3fb8f8233fb8867d3fb815663fb7a4df3fb734e53fb6c5773fb656923fb5e8363fb57a603fb50d103fb4a0423fb433f73fb3c82c3fb35ce03fb2f2113fb287bf3fb21de73fb1b4883fb14ba13fb0e3313fb07b363fb013ae3fafac9a3faf45f73faedfc43fae7a013fae14ab3fadafc13fad4b433face7303fac83863fac20443fabbd693fab5af43faaf8e43faa97383faa35ef3fa9d5083fa974823fa9145c3fa8b495

/-- T[896] to T[959], 32 bits each, the first lowest. -/
def normPiece14 : Nat :=
  0x3fed8c1f3fecad193febd0d83feaf7493fea20593fe94bf53fe87a0c3fe7aa8d3fe6dd673fe6128d3fe549ed3fe4837b3fe3bf293fe2fce83fe23cad3fe17e6a3fe0c2153fe007a23fdf4f053fde98353fdde3263fdd2fcf3fdc7e263fdbce223fdb1fb93fda72e43fd9c79a3fd91dd23fd875843fd7ceaa3fd7293c3fd685313fd5e2853fd5412e3fd4a1283fd4026c3fd364f33fd2c8b73fd22db33fd193e13fd0fb3b3fd063bc3fcfcd5f3fcf381f3fcea3f63fce10e03fcd7ed83fccedda3fcc5de13fcbcee93fcb40ed3fcab3e93fca27da3fc99cbc3fc9128a3fc889403fc800dc3fc7795a3fc6f2b63fc66cec3fc5e7fa3fc563dc3fc4e08f3fc45e10

/-- T[960] to T[1023], 32 bits each, the first lowest. -/
def normPiece15 : Nat :=
  0x40530537404639a8403e66bd4038ae3e4034237840305aea402d1a57402a3e8c4027b091402560944023432f40214fe9401f8045401dcf31401c38a0401ab94940194e7b4017f5f44016add14015747540144880401328c04012142d401109dc40100902400f10ea400e20f1400d3887400c572c400b7c6a400aa7d84009d91540090fcc40084bab40078c6b4006d1c840061b85400569694004bb3f400410d740036a044002c69b40022676400189704000ef674000583b3fff879d3ffe64093ffd45873ffc2be43ffb16f13ffa06833ff8fa6f3ff7f28e3ff6eebb3ff5eed23ff4f2b23ff3fa3a3ff3054d3ff213cd3ff1259f3ff03aa83fef52d03fee6dff

/-- T[i] := RNE(Φ^−1(0.5 + i/2048)) (R175). -/
def normTable (i : Nat) : Nat :=
  let piece := match i / 64 with
    | 0 => normPiece0
     | 1 => normPiece1
     | 2 => normPiece2
     | 3 => normPiece3
     | 4 => normPiece4
     | 5 => normPiece5
     | 6 => normPiece6
     | 7 => normPiece7
     | 8 => normPiece8
     | 9 => normPiece9
     | 10 => normPiece10
     | 11 => normPiece11
     | 12 => normPiece12
     | 13 => normPiece13
     | 14 => normPiece14
    | _ => normPiece15
  laneN piece 32 (i % 64)

/-- Norm(z) (R175). -/
def normOf (z : Nat) : Nat :=
  let i := fld z 62 53
  let y :=
    if i = 1023 then normTable 1023
    else
      let lo := normTable i
      let d := rne32 (Num.add 0 (f32 (normTable (i + 1))) (f32 lo).negate)
      add32 lo (rne32 (Num.mul (.exact false (fld z 52 29) (-24)) (f32 d)))
  if tst z 63 && y != 0 then y + 2 ^ 31 else y

/-- R175 -/
def slotVsNorm (t : Trig) : M Unit := do
  let x ← operand64 t.src
  let v ← vstate
  let a ← port 8 0
  let sixteen (n : Nat) : W512 :=
    fromLanes 32 ((List.range 16).map fun j => normOf (rand v.key ((a.toNat + j) % 2 ^ 24) n))
  vsResult (sixteen x.toNat)
  vsResult2 (sixteen ((x.toNat + 1) % 2 ^ 64))

/-- VS_VCVT: Converts lanes between formats. (R168) -/
def execVsVcvt (t : Trig) (s : State) : Out :=
  slotStep (.vsVcvt t) t.guard (slotVsVcvt t) s

/-- VS_VQNT: Scales FP32 lanes and quantises them to a target format. (R169) -/
def execVsVqnt (t : Trig) (s : State) : Out :=
  slotStep (.vsVqnt t) t.guard (slotVsVqnt t) s

/-- VS_VDQ: Dequantises lanes to FP32 with a scale. (R169) -/
def execVsVdq (t : Trig) (s : State) : Out :=
  slotStep (.vsVdq t) t.guard (slotVsVdq t) s

/-- VS_VPK: Narrows two integer registers into one. (R171) -/
def execVsVpk (t : Trig) (s : State) : Out :=
  slotStep (.vsVpk t) t.guard (slotVsVpk t) s

/-- VS_VUPK: Widens integer lanes into two latches. (R171) -/
def execVsVupk (t : Trig) (s : State) : Out :=
  slotStep (.vsVupk t) t.guard (slotVsVupk t) s

/-- VS_PART: Lists the true and false lanes of a mask. (R172) -/
def execVsPart (t : Trig) (s : State) : Out :=
  slotStep (.vsPart t) t.guard (slotVsPart t) s

/-- VS_PCNT: Counts the true lanes of a mask. (R172) -/
def execVsPcnt (t : Trig) (s : State) : Out :=
  slotStep (.vsPcnt t) t.guard (slotVsPcnt t) s

/-- VS_VCMP: Compacts the selected lanes. (R172) -/
def execVsVcmp (t : Trig) (s : State) : Out :=
  slotStep (.vsVcmp t) t.guard (slotVsVcmp t) s

/-- VS_VEXD: Expands compacted lanes back into place. (R172) -/
def execVsVexd (t : Trig) (s : State) : Out :=
  slotStep (.vsVexd t) t.guard (slotVsVexd t) s

/-- VS_VMXE: Computes a power-of-two quantisation scale. (R170) -/
def execVsVmxe (t : Trig) (s : State) : Out :=
  slotStep (.vsVmxe t) t.guard (slotVsVmxe t) s

/-- VS_RAND: Delivers counter-based random doublewords. (R174) -/
def execVsRand (t : Trig) (s : State) : Out :=
  slotStep (.vsRand t) t.guard (slotVsRand t) s

/-- VS_NORM: Delivers normal deviates in FP32. (R175) -/
def execVsNorm (t : Trig) (s : State) : Out :=
  slotStep (.vsNorm t) t.guard (slotVsNorm t) s
end Sys2Proof.Machine
end

