-- ==== Sys2Proof/Machine/Bundle.lean ====
section
/-! DEFINITION. The issue of a bundle: fetch, the conditions of issue, its slots in order, what follows it, blocking and
switching; and the events of a core's pipelines, L1 and stores (R26 to R51, R104 to R108, R121, R189, R214, R217, R306,
R311, R334, R338, R349, R410). -/

namespace Sys2Proof.Machine

/-- What a slot's operation does, guard and form apart: an event is no slot. -/
def bodyOf (i : Instr) : M Unit :=
  match i with
  | .tickIncrement => pure ()
  | .energyDemotion _ _ => pure ()
  | .telemetryRecord _ => pure ()
  | .bundleIssue _ _ => pure ()
  | .latchResultLand _ _ _ _ => pure ()
  | .lateLatchSwitch _ _ => pure ()
  | .contextReady _ _ _ => pure ()
  | .waitTimeout _ _ _ => pure ()
  | .stallWatchdog _ _ => pure ()
  | .userInterruptTake _ _ => pure ()
  | .preemption _ _ _ => pure ()
  | .pageFaultResume _ _ => pure ()
  | .quantumBoundary _ => pure ()
  | .queueAgeing _ _ => pure ()
  | .quantumPreemption _ _ _ => pure ()
  | .launchRecordAdmit _ _ => pure ()
  | .taskPlacement _ _ => pure ()
  | .gangPlacement _ _ => pure ()
  | .taskEnd _ _ => pure ()
  | .deferredCompletionWrite _ _ => pure ()
  | .splitAdopt _ _ => pure ()
  | .migrationPage _ => pure ()
  | .l1SectorWriteback _ _ _ => pure ()
  | .l1CleanExpiry _ _ _ => pure ()
  | .l2Eviction _ => pure ()
  | .storeAcknowledgement _ _ _ _ => pure ()
  | .leaseGrant _ _ => pure ()
  | .grantEnd _ _ => pure ()
  | .arraySpill _ _ => pure ()
  | .leaseFree _ _ => pure ()
  | .arrayLoad _ _ _ => pure ()
  | .arrayStart _ _ => pure ()
  | .arrayPassStart _ _ => pure ()
  | .arrayPassStep _ _ => pure ()
  | .arrayPromotion _ _ => pure ()
  | .arrayDrain _ _ _ => pure ()
  | .arrayClear _ _ => pure ()
  | .arrayCfgApply _ _ => pure ()
  | .arrayBarrier _ _ => pure ()
  | .arrayRead _ _ => pure ()
  | .ntRecordExpiry _ => pure ()
  | .flagWaitReread _ _ _ => pure ()
  | .moduleReset _ => pure ()
  | .hostPortTraining _ _ => pure ()
  | .lqCtlWrite _ _ _ => pure ()
  | .lqTailWrite _ _ _ => pure ()
  | .lqBaseWrite _ _ _ => pure ()
  | .sramSplitWrite _ _ => pure ()
  | .ptWake _ _ => pure ()
  | .taskRst _ _ => pure ()
  | .lkStatRetrain _ _ _ => pure ()
  | .hostRegisterWrite _ _ _ => pure ()
  | .hostMemoryAccess _ => pure ()
  | .peerRefusal _ _ _ _ => pure ()
  | .ntInterestArrival _ => pure ()
  | .ntTileArrival _ => pure ()
  | .ntAnswerArrival _ => pure ()
  | .ntAnnounceStore _ _ => pure ()
  | .ntRetirementApply _ => pure ()
  | .ntBindingApply _ => pure ()
  | .ntRouteApply _ => pure ()
  | .jobCardAdmit _ _ => pure ()
  | .copyExecute _ _ _ => pure ()
  | .engineTokenComplete _ _ _ _ => pure ()
  | .collOpStart _ => pure ()
  | .collPacketArrival _ => pure ()
  | .collIdFree _ _ => pure ()
  | .rhavorDataFlit _ _ _ => pure ()
  | .rhavorAck _ _ => pure ()
  | .rhavorNak _ _ => pure ()
  | .rhavorIdle _ => pure ()
  | .rhavorLaneMap _ _ => pure ()
  | .rhavorAckTimer _ => pure ()
  | .lossOfLight _ _ => pure ()
  | .ringLinkFailure _ => pure ()
  | .securityAlarm _ => pure ()
  | .droop _ _ _ => pure ()
  | .rhavorLinkTrained _ _ => pure ()
  | .peerPackageRequest _ _ => pure ()
  | .dataMove _ d s => slotDataMove d s
  | .ixAdd u t => slotIxAdd u t
  | .ixSub u t => slotIxSub u t
  | .ixAddw u t => slotIxAddw u t
  | .ixSubw u t => slotIxSubw u t
  | .ixAnd u t => slotIxAnd u t
  | .ixOr u t => slotIxOr u t
  | .ixXor u t => slotIxXor u t
  | .ixAndn u t => slotIxAndn u t
  | .ixShl u t => slotIxShl u t
  | .ixShr u t => slotIxShr u t
  | .ixSha u t => slotIxSha u t
  | .ixRotl u t => slotIxRotl u t
  | .ixCeq u t => slotIxCeq u t
  | .ixCne u t => slotIxCne u t
  | .ixClt u t => slotIxClt u t
  | .ixCltu u t => slotIxCltu u t
  | .ixCle u t => slotIxCle u t
  | .ixCleu u t => slotIxCleu u t
  | .ixMin u t => slotIxMin u t
  | .ixMax u t => slotIxMax u t
  | .ixMinu u t => slotIxMinu u t
  | .ixMaxu u t => slotIxMaxu u t
  | .ixSel u t => slotIxSel u t
  | .ixMul u t => slotIxMul u t
  | .ixMulh u t => slotIxMulh u t
  | .ixMulhu u t => slotIxMulhu u t
  | .ixClz u t => slotIxClz u t
  | .ixPopc u t => slotIxPopc u t
  | .ixBext u t => slotIxBext u t
  | .ixBins u t => slotIxBins u t
  | .ixSext u t => slotIxSext u t
  | .ixZext u t => slotIxZext u t
  | .agAdda t => slotAgAdda t
  | .agMkl t => slotAgMkl t
  | .agMkc t => slotAgMkc t
  | .agMkp t => slotAgMkp t
  | .agTag t => slotAgTag t
  | .agTsta t => slotAgTsta t
  | .agCvtc t => slotAgCvtc t
  | .agXlk t => slotAgXlk t
  | .lsLdb u t => slotLsLdb u t
  | .lsLdbu u t => slotLsLdbu u t
  | .lsLdh u t => slotLsLdh u t
  | .lsLdhu u t => slotLsLdhu u t
  | .lsLdw u t => slotLsLdw u t
  | .lsLdwu u t => slotLsLdwu u t
  | .lsLdd u t => slotLsLdd u t
  | .lsLdv u t => slotLsLdv u t
  | .lsStb u t => slotLsStb u t
  | .lsSth u t => slotLsSth u t
  | .lsStw u t => slotLsStw u t
  | .lsStd u t => slotLsStd u t
  | .lsStv u t => slotLsStv u t
  | .lsLddi u t => slotLsLddi u t
  | .lsLdvi u t => slotLsLdvi u t
  | .lsStdi u t => slotLsStdi u t
  | .lsStvi u t => slotLsStvi u t
  | .lsGath u t => slotLsGath u t
  | .lsScat u t => slotLsScat u t
  | .lsLdaq u t => slotLsLdaq u t
  | .lsStrl u t => slotLsStrl u t
  | .lsPref u t => slotLsPref u t
  | .lsWbk u t => slotLsWbk u t
  | .lsInv u t => slotLsInv u t
  | .lsAadd u t => slotLsAadd u t
  | .lsAmin u t => slotLsAmin u t
  | .lsAmax u t => slotLsAmax u t
  | .lsAand u t => slotLsAand u t
  | .lsAor u t => slotLsAor u t
  | .lsAxch u t => slotLsAxch u t
  | .lsAcas u t => slotLsAcas u t
  | .lsAfadd u t => slotLsAfadd u t
  | .vxVadd u t => slotVxVadd u t
  | .vxVsub u t => slotVxVsub u t
  | .vxVmul u t => slotVxVmul u t
  | .vxVfma u t => slotVxVfma u t
  | .vxVmax u t => slotVxVmax u t
  | .vxVmin u t => slotVxVmin u t
  | .vxVabs u t => slotVxVabs u t
  | .vxVneg u t => slotVxVneg u t
  | .vxVceq u t => slotVxVceq u t
  | .vxVclt u t => slotVxVclt u t
  | .vxVcle u t => slotVxVcle u t
  | .vxVsel u t => slotVxVsel u t
  | .vxVand u t => slotVxVand u t
  | .vxVor u t => slotVxVor u t
  | .vxVxor u t => slotVxVxor u t
  | .vxVshl u t => slotVxVshl u t
  | .vxVshr u t => slotVxVshr u t
  | .vxVsha u t => slotVxVsha u t
  | .vxVbc u t => slotVxVbc u t
  | .vxVext u t => slotVxVext u t
  | .vxVins u t => slotVxVins u t
  | .vxVshf u t => slotVxVshf u t
  | .vxVrsum u t => slotVxVrsum u t
  | .vxVrmax u t => slotVxVrmax u t
  | .vxVrmin u t => slotVxVrmin u t
  | .vxVrcp u t => slotVxVrcp u t
  | .vxVrsq u t => slotVxVrsq u t
  | .vxVexp u t => slotVxVexp u t
  | .vxVlog u t => slotVxVlog u t
  | .vxVdot u t => slotVxVdot u t
  | .vsVcvt t => slotVsVcvt t
  | .vsVqnt t => slotVsVqnt t
  | .vsVdq t => slotVsVdq t
  | .vsVpk t => slotVsVpk t
  | .vsVupk t => slotVsVupk t
  | .vsPart t => slotVsPart t
  | .vsPcnt t => slotVsPcnt t
  | .vsVcmp t => slotVsVcmp t
  | .vsVexd t => slotVsVexd t
  | .vsVmxe t => slotVsVmxe t
  | .vsRand t => slotVsRand t
  | .vsNorm t => slotVsNorm t
  | .brBr t => slotBrBr t
  | .brBra t => slotBrBra t
  | .brCall t => slotBrCall t
  | .brCalla t => slotBrCalla t
  | .brRet t => slotBrRet t
  | .brTrap t => slotBrTrap t
  | .brHalt t => slotBrHalt t
  | .brYield t => slotBrYield t
  | .brUiret t => slotBrUiret t
  | .brWait t => slotBrWait t
  | .sqLease t => slotSqLease t
  | .sqRels t => slotSqRels t
  | .sqCfg t => slotSqCfg t
  | .sqLen t => slotSqLen t
  | .sqSeeda t => slotSqSeeda t
  | .sqSeedb t => slotSqSeedb t
  | .sqLda t => slotSqLda t
  | .sqLdb t => slotSqLdb t
  | .sqRun t => slotSqRun t
  | .sqRunc t => slotSqRunc t
  | .sqTile t => slotSqTile t
  | .sqClr t => slotSqClr t
  | .sqPromo t => slotSqPromo t
  | .sqDrain t => slotSqDrain t
  | .sqRdc t => slotSqRdc t
  | .sqStat t => slotSqStat t
  | .sqBar t => slotSqBar t
  | .sqWait t => slotSqWait t
  | .ntDefn t => slotNtDefn t
  | .ntAnn t => slotNtAnn t
  | .ntInt t => slotNtInt t
  | .ntCanc t => slotNtCanc t
  | .ntRet t => slotNtRet t
  | .ntRout t => slotNtRout t
  | .ntPin t => slotNtPin t
  | .ntUnpn t => slotNtUnpn t
  | .ntProb t => slotNtProb t
  | .ntStat t => slotNtStat t
  | .ntWait t => slotNtWait t
  | .eqLnch t => slotEqLnch t
  | .eqPop t => slotEqPop t
  | .eqPush t => slotEqPush t
  | .eqQcls t => slotEqQcls t
  | .eqCpy t => slotEqCpy t
  | .eqFill t => slotEqFill t
  | .eqMig t => slotEqMig t
  | .eqMigs t => slotEqMigs t
  | .eqCopn t => slotEqCopn t
  | .eqCred t => slotEqCred t
  | .eqCmc t => slotEqCmc t
  | .eqCxp t => slotEqCxp t
  | .eqCcls t => slotEqCcls t
  | .syCsrr t => slotSyCsrr t
  | .syCsrw t => slotSyCsrw t
  | .syFnc t => slotSyFnc t
  | .syFncx t => slotSyFncx t
  | .syFncp t => slotSyFncp t
  | .syLayo t => slotSyLayo t
  | .sySetv t => slotSySetv t
  | .syFlar t => slotSyFlar t
  | .syUie t => slotSyUie t
  | .sySeed t => slotSySeed t
  | .syEvr t => slotSyEvr t
  | .ckCmp t => slotCkCmp t
  | .ckCmpv t => slotCkCmpv t
  | .ckCmpp t => slotCkCmpp t
  | .ckSig t => slotCkSig t
  | .ckSigc t => slotCkSigc t
  | .ckInj t => slotCkInj t
  | .gsJoin t => slotGsJoin t
  | .gsLeav t => slotGsLeav t
  | .gsMemb t => slotGsMemb t
  | .gsBarr t => slotGsBarr t
  | .gsBarw t => slotGsBarw t
  | .gsRdv t => slotGsRdv t
  | .gsSegb t => slotGsSegb t
  | .gsSegc t => slotGsSegc t
  | .gsFlgw t => slotGsFlgw t
  | .gsTokw t => slotGsTokw t
  | .gsWto t => slotGsWto t

/-! ### Fetch (R26 to R31, R214, R377) -/

/-- What a fetch finds of one 32-byte block: the leaf of its page, and its bits when the page is present and the line
not HIGH. -/
structure FetchBlock where
  leaf : Option Leaf
  bits : Option (BitVec 256)

/-- Read the block at a virtual address; one at or beyond 2^48 is in no page (log entry 103). -/
def fetchBlock (e : Env) (d frame va : Nat) (m : Mach) : FetchBlock × Mach :=
  if 2 ^ 48 ≤ va then (⟨none, none⟩, m)
  else
    let (l, m) := walk e d va m
    match l with
    | none => (⟨none, none⟩, m)
    | some (_, l) =>
      if !l.pr then (⟨some l, none⟩, m)
      else
        let pa := l.pa + va % 2 ^ 21
        let (g, m) := homeRead e ⟨1, d, frame⟩ l.legend (pa / 128) m
        (⟨some l, if g.sev = 3 then none else some (BitVec.ofNat 256 (laneN g.data 256 (pa % 128 / 32)))⟩, m)

/-- What a fetch finds: a fetch fault, an absent page by the block's address, or the blocks of the bundle. -/
inductive Fetched where
  | fault (cause : Nat)
  | absent (va : Nat)
  | ok (blocks : List (BitVec 256))
  deriving DecidableEq, Repr

/-- The fault of a base block's header (R31, third and fourth row). -/
def headerFault (b : BitVec 256) : Option Nat :=
  if fld (blockWord b 0).toNat 31 30 = 3 then some Cause.extBlockTarget
  else if (decodeHeader (blockWord b 0)).isNone then some Cause.illegalBundle
  else none

/-- Extension blocks that a header names (R27). -/
def extBlocks (b : BitVec 256) : Nat := ((decodeHeader (blockWord b 0)).map (·.1)).getD 0

/-- The tag word of an extension block (R28). -/
def extTag : W32 := 0xC0000000

/-- The translation check of one block (R214, R377). -/
def FetchBlock.fault (b : FetchBlock) (va : Nat) : Option Fetched :=
  match b.leaf with
  | none => some (.fault Cause.undeclared)
  | some l =>
    if !l.x then some (.fault Cause.undeclared)
    else if !l.pr then some (.absent va)
    else if b.bits.isNone then some (.fault Cause.poison)
    else none

/-- Fetch the bundle at an address from memory and check it (R31): the rows of the table first, then translation. -/
def fetchMemory (e : Env) (d frame : Nat) (a : W64) (m : Mach) : Fetched × Mach :=
  if fld a.toNat 63 48 ≠ 0 then (.fault Cause.aperture, m)
  else if a.toNat % 32 ≠ 0 then (.fault Cause.misalignedTarget, m)
  else
    let (b, m) := fetchBlock e d frame a.toNat m
    match b.bits.bind headerFault with
    | some c => (.fault c, m)
    | none =>
      let n := (b.bits.map extBlocks).getD 0
      let (xs, m) := (List.range n).foldl (fun (p : List FetchBlock × Mach) k =>
        let (x, m) := fetchBlock e d frame (a.toNat + 32 * (k + 1)) p.2
        (p.1 ++ [x], m)) ([], m)
      if xs.any fun x => (x.bits.map fun y => blockWord y 0 != extTag).getD false then (.fault Cause.illegalBundle, m)
      else
        match ((b :: xs).zipIdx.findSome? fun p => p.1.fault (a.toNat + 32 * p.2)) with
        | some f => (f, m)
        | none => (.ok ((b :: xs).filterMap (·.bits)), m)

/-- The bundle that a core's bundle buffer holds at an address, if it holds all its blocks (R214). -/
def bufferedBundle (k : Core) (a : Nat) : Option (List (BitVec 256)) :=
  match k.fetchBuf.find a with
  | none => none
  | some b =>
    let xs := (List.range (extBlocks b)).map fun i => k.fetchBuf.find (a + 32 * (i + 1))
    if (headerFault b).isNone && xs.all fun x => (x.map fun y => blockWord y 0 == extTag).getD false then
      some (b :: xs.filterMap id)
    else none

/-- Does what memory holds differ from a buffered bundle in its content alone? -/
def Fetched.stale (f : Fetched) (old : List (BitVec 256)) : Bool :=
  match f with
  | .ok bs => bs != old
  | .fault c => c == Cause.illegalBundle || c == Cause.extBlockTarget
  | .absent _ => false

/-- Fetch a bundle: where the core's buffer holds an older copy, either is used (R214, log entry 7).  The blocks that the
buffer did not hold are charged to the task (R403; log entry 16). -/
def fetch (e : Env) (core frame : Nat) (a : W64) (m : Mach) : Fetched × Mach :=
  let (new, m) := fetchMemory e (coreDie core) frame a m
  let (f, m) := match bufferedBundle (m.core core) a.toNat with
    | some old =>
      if new.stale old then
        (if Config.fetchOld m.seed then Fetched.ok old else new, { m with seed := m.seed + 1 })
      else (new, m)
    | none => (new, m)
  match f with
  | .ok bs =>
    let held := (m.core core).fetchBuf
    let new := (bs.zipIdx.filter fun p => held.find (a.toNat + 32 * p.2) != some p.1).length
    (f, (chargeHub e ⟨1, coreDie core, frame⟩ (32 * new) m).modCore core fun k =>
      { k with fetchBuf := bs.zipIdx.foldl (fun b p => b.put (a.toNat + 32 * p.2) p.1) k.fetchBuf })
  | _ => (f, m)

/-- A fetched bundle: its size, static stall, slots and literal pool (R27 to R30). -/
structure Bundle where
  lx : Nat := 0
  stall : Nat := 0
  slots : List SlotRec := []
  lits : List W32 := []

/-- The bundle that blocks spell. -/
def bundleOf (bs : List (BitVec 256)) : Bundle :=
  match bs with
  | [] => {}
  | b :: xs =>
    let h := (decodeHeader (blockWord b 0)).getD (0, 0)
    { lx := h.1, stall := h.2, slots := (slotsOf b).map fun w => ⟨w, decodeSlot w⟩, lits := litsOf b xs }

/-- The size of a bundle (R30). -/
def Bundle.size (b : Bundle) : W64 := w64 (32 * (1 + b.lx))

/-! ### The slots that take part -/

/-- The predicates, the done slots and the snapshots with which a context's next bundle issues (R33, R116). -/
def startPreds (c : Ctx) : BitVec 8 :=
  match c.resume with
  | some r => if r.issued then r.preds ||| 1 else c.p ||| 1
  | none => c.p ||| 1

def startDone (c : Ctx) : BitVec 8 := match c.resume with | some r => r.done | none => 0

def startSnaps (c : Ctx) : Option (List W512) :=
  match c.resume with
  | some r => if r.issued then some r.snaps else none
  | none => none

/-- The slots of a bundle that are enabled and not done. -/
def activeSlots (c : Ctx) (b : Bundle) : List SlotRec :=
  (b.slots.zipIdx.filter fun p =>
    let g := slotGuard p.1.raw
    !((startDone c).getLsbD p.2) && ((startPreds c).getLsbD g.p.val != g.inv)).map (·.1)

/-- What a slot's trigger keeps as its operand when it blocks: the value of the latch from which it takes it (R50). -/
def operandLatch (c : Ctx) (b : Bundle) (slot : Nat) : List Kept :=
  if (startSnaps c).isSome || (c.keptFor slot).isSome then []
  else
    match b.slots[slot]?.bind fun s => decodeSrc (fld s.raw.toNat 9 0) with
    | some (.q n) => [⟨slot, c.latch n.val, c.badSrc (.q n)⟩]
    | _ => []

/-- The latches that a bundle's slots read. -/
def latchesRead (c : Ctx) (b : Bundle) : List Nat :=
  if (startSnaps c).isSome then []
  else (activeSlots c b).filterMap fun s =>
    match decodeSrc (fld s.raw.toNat 9 0) with
    | some (.q n) => some n.val
    | _ => none

/-- Unit and opcode of the triggers of a bundle's slots. -/
def triggersOf (c : Ctx) (b : Bundle) : List (Nat × Nat) :=
  (activeSlots c b).filterMap fun s => (s.instr.bind opCode).map fun p => (p.1, p.2.1)

/-- Results that an operation delivers to latches (R46, R108); ls.wbk and ls.inv deliver 0 to q2 (R205). -/
def resultCount (unit opcode : Nat) : Nat :=
  if unit = 4 ∨ unit = 5 then
    if opcode = 13 ∨ opcode = 14 then 2
    else if opcode ≤ 7 ∨ opcode = 15 ∨ opcode = 16 ∨ opcode = 17 ∨ opcode = 19 ∨ 22 ≤ opcode then 1 else 0
  else if unit = 8 then (if opcode = 4 ∨ opcode = 5 ∨ opcode = 7 ∨ opcode = 10 ∨ opcode = 11 then 2 else 1)
  else if unit = 9 then (if opcode = 2 ∨ opcode = 3 ∨ opcode = 9 then 1 else 0)
  else 1

/-- Does a fence hold an operation (R317 to R319, R381)? -/
def FenceKind.holds (k : FenceKind) (unit opcode : Nat) : Bool :=
  let ls := unit == 4 || unit == 5
  let load := decide (opcode ≤ 7) || opcode == 13 || opcode == 14 || opcode == 17 || opcode == 19 || opcode == 21
  let command :=
    (unit == 12 && (opcode == 4 || opcode == 5 || opcode == 6 || (decide (9 ≤ opcode) && decide (opcode ≤ 11))))
      || (unit == 10 && (opcode == 2 || (decide (6 ≤ opcode) && decide (opcode ≤ 16))))
      || (unit == 11 && (opcode == 1 || opcode == 2))
  match k with
  | .fnc _ acq _ => ls && (acq || !load)
  | .fncx => command
  | .fncp => ls || command
  | .layo _ => ls
  | .line _ => false

/-! ### Trace (R410) -/

/-- Write a trace record: address, slot, enabled, event, and the cycles since the last record. -/
def traceRecord (e : Env) (d : Nat) (addr : W64) (slot : Nat) (en : Bool) (ev : Nat) (m : Mach) : Mach :=
  traceWrite e d (addr.toNat % 2 ^ 48 + slot * 2 ^ 48 + b2n en * 2 ^ 52 + ev * 2 ^ 53) (e.clk.cycle - (m.die d).trcLast) m

/-- Is a trigger br.ret, which trace records mark as a return (R125)? -/
def SlotRec.returns (s : SlotRec) : Bool := match s.instr with | some (.brRet _) => true | _ => false

/-- Trace a bundle of a die's frame that has issued, or that a fault of the given slot has stopped (8: a fetch), in modes 1
and 2. -/
def traceIssue (e : Env) (d f : Nat) (addr : W64) (slots : List SlotRec) (preds : BitVec 8) (fault : Option Nat)
    (m : Mach) : Mach :=
  let x := m.die d
  if !(traced x f) then m
  else
    match x.trcCtl % 4, fault with
    | 1, some 8 => traceRecord e d addr 8 true 1 m
    | 1, _ =>
      (slots.zipIdx.filter fun p => decide (p.2 ≤ fault.getD 8)).foldl (fun m p =>
        let g := slotGuard p.1.raw
        let en := preds.getLsbD g.p.val != g.inv
        let ev := if fault = some p.2 then 1 else if en && p.1.returns then 3 else 0
        traceRecord e d addr p.2 en ev m) m
    | 2, _ =>
      let n := x.trcBundles
      let m := m.modDie d fun x => { x with trcBundles := n + 1 }
      if n % 2 ^ fld x.trcCtl 7 4 = 0 then traceRecord e d addr 8 true (if fault.isSome then 1 else 0) m else m
    | _, _ => m

/-- Trace a bundle that blocks at a slot; in mode 2 only where the record of its issue would stand. -/
def traceBlock (e : Env) (ck : Nat) (addr : W64) (slot : Nat) (m : Mach) : Mach :=
  let d := ctxDie ck
  let x := m.die d
  if !(traced x (m.ctx ck).frame) then m
  else
    match x.trcCtl % 4 with
    | 1 => traceRecord e d addr slot true 2 m
    | 2 => if x.trcBundles % 2 ^ fld x.trcCtl 7 4 = 0 then traceRecord e d addr 8 true 2 m else m
    | _ => m

/-- Does a trace ring without room for every record of a traced bundle hold its issue (R410)? -/
def traceHolds (m : Mach) (ck slots : Nat) : Bool :=
  let x := m.die (ctxDie ck)
  let need := if x.trcCtl % 4 = 1 then slots else 1
  traced x (m.ctx ck).frame && tst x.trcCtl 8 && x.trc.en
    && decide (2 ^ ringLog x.trc.lsize < (x.trc.tail - x.trc.head).toNat + need)

/-! ### When a bundle issues (R41, R49, R107, R108, R121, R338) -/

/-- May a context issue, or be chosen to? -/
def Ctx.isReady (c : Ctx) : Bool := c.st == .ready

/-- The core takes the next ready context in rotation while none issues (R107). -/
def pickCur (core : Nat) (m : Mach) : Mach :=
  let k := m.core core
  let stays := match k.cur with | some x => (m.ctx (core * 4 + x)).isReady | none => false
  if stays then m
  else m.modCore core fun k =>
    { k with cur := (rotation k.last).find? fun x => (m.ctx (core * 4 + x)).isReady }

/-- What stands in the way of a context's next bundle. -/
inductive IssueVerdict where
  /-- it is not the bundle's time yet -/
  | early
  /-- late latches that it reads, none when a fence holds one of its accesses (R49, R317) -/
  | waits (late : List Nat)
  /-- another condition of issue -/
  | held
  /-- a fetch fault -/
  | fault (cause : Nat)
  /-- a fetch from an absent page: the block's address -/
  | absent (va : Nat)
  /-- a user interrupt is to be taken (R121) -/
  | interrupt
  /-- the watchdog's limit is reached (R338) -/
  | watchdog (b : Bundle)
  | go (b : Bundle)

/-- Restore what a resumed context still misses, and settle its fences (R113, R316). -/
def prepare (e : Env) (ck : Nat) (m : Mach) : Mach :=
  let m := if (m.ctx ck).restore then
      (restoreFrom e ck 0x1000 e.clk.cycle m).modCtx ck fun c =>
        { c with restore := false, lastIssue := e.clk.cycle - 1 }
    else m
  settleFences e ck m

/-- The link of a call lands by the issue of its delay bundle, whose header tells its size (R125). -/
def formLink (e : Env) (ck : Nat) (b : Bundle) (m : Mach) : Mach :=
  if (m.ctx ck).link then
    m.modCtx ck fun c =>
      { c with link := false
               res := c.res ++ [{ latch := 12, value := (c.pc + b.size).setWidth 512, due := e.clk.cycle, wait := .none,
                                  buf := [] }] }
  else m

/-- Must a sy.fncx or sy.fncp of the bundle still wait for peer packages' answers (R215, R318, R319)? -/
def awaitsPeers (m : Mach) (core : Nat) : Bool :=
  (List.range 4).any fun x => (m.ctx (core * 4 + x)).stq.any PStore.isPeer

/-- Does a gs.segc of the bundle wait for a page of a held store (R341)? -/
def segmentPageGone (m : Mach) (ck : Nat) : Bool :=
  let c := m.ctx ck
  let t := m.task (taskKey (ctxDie ck) c.frame)
  match c.seg with
  | some s => s.held.any fun h => apOf h.gaddr == 0 && checkG t.extents (ctxDie ck) .write h.gaddr == .absent
  | none => false

/-- Is a user interrupt to be taken at the bundle boundary (R121)? -/
def Ctx.interruptDue (c : Ctx) : Bool :=
  !c.uiq.isEmpty && c.csr.uien && !c.csr.inui && !c.csr.priv && c.pend.isNone && c.retPend == 0 && c.seg.isNone
    && c.resume.isNone && !c.woken

/-- Judge whether a context's next bundle issues in this cycle. -/
def judgeIssue (e : Env) (ck : Nat) (m : Mach) : IssueVerdict × Mach :=
  let now := e.clk.cycle
  let core := ctxCore ck
  let c := m.ctx ck
  if now < (m.core core).notBefore ∨ now < c.notBefore ∨ now ≤ c.lastIssue then (.early, m)
  else
    let m := prepare e ck m
    let (f, m) := fetch e core c.frame (m.ctx ck).pc m
    match f with
    | .fault k => (if traceHolds m ck 1 then .held else .fault k, m)
    | .absent va => (if traceHolds m ck 1 then .held else .absent va, m)
    | .ok bs =>
      let b := bundleOf bs
      let m := formLink e ck b m
      let c := m.ctx ck
      let trigs := triggersOf c b
      let late := (latchesRead c b).filter fun q => lateLatch now q (landDue now c)
      let peers := trigs.any fun t => t.1 == 13 && (t.2 == 3 || t.2 == 4)
      let m := if peers then writeBackPeers e core m else m
      if !c.stallServed && decide (now < c.lastIssue + 1 + b.stall) then (.early, m)
      else if !late.isEmpty then (.waits late.eraseDups, m)
      else if c.fences.any fun f => trigs.any fun t => f.kind.holds t.1 t.2 then (.waits [], m)
      else if 48 < (landDue now c).res.length + (trigs.map fun t => resultCount t.1 t.2).sum then (.held, m)
      else if peers && awaitsPeers m core then (.held, m)
      else if trigs.contains (15, 7) && segmentPageGone m ck then (.held, m)
      else if traceHolds m ck b.slots.length then (.held, m)
      else if c.interruptDue then (.interrupt, m)
      else if !c.csr.priv && c.csr.wdLimit != 0 && decide (c.csr.wdLimit.toNat < c.wdCount + 1) then (.watchdog b, m)
      else (.go b, m)

/-! ### Issue (R41 to R45, R51, R116, R154) -/

/-- The units that the enabled triggers among a bundle's done slots name: they count for R44 when the bundle issues
again (R116, R119). -/
def doneUnits (c : Ctx) (b : Bundle) : List Nat :=
  b.slots.zipIdx.filterMap fun p =>
    let g := slotGuard p.1.raw
    if (startDone c).getLsbD p.2 && ((startPreds c).getLsbD g.p.val != g.inv) then
      (p.1.instr.bind opCode).map (·.1)
    else none

/-- What the done slots of a bundle have moved and delivered comes about again when the bundle issues again after a block,
as in the run without the stop (R50, R119). -/
def Ctx.regain (now : Nat) (c : Ctx) : Ctx :=
  match c.resume with
  | some r =>
    if r.lost then
      { c with ports := r.moves.foldl (fun ps p => ps.put p.1 p.2) c.ports
               res := c.res ++ r.own.map fun x => { x with due := now + x.due } }
    else c
  | none => c

/-- Start the issue record of a context's bundle: what the bundle reads is as at the start of the cycle (R42), and what
its done slots have set going goes on (R116): after a counter write that stands, the other slots go on from the counter
before it (R155, R176), and after a CSR write they use the CSRs from before it (R131). -/
def beginIssue (e : Env) (ck : Nat) (b : Bundle) (m : Mach) : Mach :=
  let m := m.modCtx ck fun c => (landDue (e.clk.cycle - 1) c).regain e.clk.cycle
  let c := landDue e.clk.cycle (m.ctx ck)
  let r := c.resume
  let fmt := (r.bind (·.fmt)).getD (c.csr.fmt, c.csr.seed, c.csr.mode)
  let old := r.bind (·.csr)
  let m := m.modCtx ck fun y => { y with csr := { y.csr with rctr := (r.bind (·.rctr)).getD y.csr.rctr } }
  { m with issue :=
      { d := ctxDie ck, r := ctxCore ck % 192, x := ck % 4, addr := c.pc, lx := b.lx, lits := b.lits, slots := b.slots
        units := doneUnits c b, base := (m.ctx ck).res.length, oldCsr := old, lstat := lstatWord e m (ctxDie ck) (ctxCore ck % 192) c.frame
        start := { c with csr := old.getD c.csr }, ports := c.ports, done := startDone c, preds := startPreds c, snaps := startSnaps c
        pend := r.bind (·.pend), link := (r.map (·.link)).getD false, ret := (r.map (·.ret)).getD 0
        yield_ := (r.map (·.yield_)).getD false, rctr := (r.bind (·.rctr)).map fun _ => c.csr.rctr
        fmt := fmt.1, key := fmt.2.1, mode := fmt.2.2 } }

/-- Make the port moves of the bundle visible to its triggers (R43). -/
def movePorts (e : Env) (m : Mach) : Mach :=
  m.issue.slots.zipIdx.foldl (fun m p =>
    match p.1.instr with
    | some (.dataMove g (.port f k) s) =>
      if m.issue.done.getLsbD p.2 || !(enabled m g) then m
      else
        match slotSource e m p.2 s with
        | some v =>
          m.modIssue fun i =>
            { i with ports := i.ports.put (portCode f.val k.val) (portValue f.val k.val v),
                     moved := portCode f.val k.val :: i.moved }
        | none => m
    | _ => m) m

/-- Is a tick past a deadline, no longer the one that reaches it (R334)? -/
def pastDeadline (e : Env) (x : Option (BitVec 48)) : Bool := x.any fun t => reached e.clk.tick t && t != e.clk.tick

/-- The wait at a slot of a re-issued bundle that had not come about by the end of the tick of its deadline: a condition
that has come to hold since does not count (R334). -/
def Issue.expired (slot : Nat) (i : Issue) : Option Block := i.start.timedOut.filter fun b => b.slot == slot

/-- Let one slot act: nothing once a slot has stopped the bundle, or when it is done; a wait that is over in vain raises
its time-out, and a reserved code is illegal. -/
def actSlot (e : Env) (p : SlotRec × Nat) (m : Mach) : Mach :=
  if m.issue.out ≠ .going ∨ m.issue.done.getLsbD p.2 then m
  else
    let m := m.modIssue fun i => { i with slot := p.2, raw := p.1.raw }
    match m.issue.expired p.2, p.1.instr with
    | some b, _ =>
      if enabled m (slotGuard p.1.raw) then stopSlot e (.trap Cause.waitTimeout b.operand) m else m
    | none, some i => runSlot e i (slotGuard p.1.raw) (bodyOf i) m
    | none, none =>
      if enabled m (slotGuard p.1.raw) then stopSlot e (.trap Cause.illegalSlot (p.1.raw.setWidth 64)) m else m

/-- Let the bundle's slots act in ascending order (R45). -/
def actSlots (e : Env) (m : Mach) : Mach := m.issue.slots.zipIdx.foldl (fun m p => actSlot e p m) m

/-- The energy of a bundle, 89 pJ in units of 0.1 fJ (R403). -/
def bundleEnergy : Nat := 890000

/-- Count an issued bundle: its energy, and for the watchdog a bundle at user privilege (R338, R403). -/
def countBundle (ck tk : Nat) (user : Bool) (m : Mach) : Mach :=
  (m.charge tk bundleEnergy).modCtx ck fun c => { c with wdCount := if user then c.wdCount + 1 else c.wdCount }

/-- Where the context goes after a bundle (R30, R51): the target of a transfer whose delay bundle this was, else on, with
the transfer that this bundle makes pending. -/
def stepPc (size : W64) (i : Issue) (c : Ctx) : Ctx :=
  match i.start.pend with
  | some t => { c with pc := t, src := c.psrc, pend := none, link := false }
  | none =>
    { c with pc := i.addr + size, src := i.addr, pend := i.pend, psrc := i.addr, link := i.link, retPend := i.ret }

/-- Issue ends whole: settings act, and the context goes on, halts, returns or yields (R51, R116, R127 to R130, R154,
R155).  A yield in the delay bundle of a return loses what the handler had, before the return restores (R128, R130). -/
def endBundle (e : Env) (b : Bundle) (m : Mach) : Mach :=
  let i := m.issue
  let ck := i.ck
  let m := applySettings m
  let m := m.modCtx ck fun c =>
    { c with csr := { c.csr with rctr := i.rctr.getD c.csr.rctr }, resume := none, stallServed := false, lateSince := none,
             lastIssue := e.clk.cycle }
  if i.halt || (m.ctx ck).haltPend then haltCtx e ck m
  else
    let m := m.modCtx ck (stepPc b.size i)
    let m := if i.yield_ then m.modCtx ck fun c => (c.lose fun _ => false) else m
    let m :=
      if i.start.retPend = 1 then
        returnFromInterrupt e ck (e.clk.cycle + 1) (i.start.pend.getD ((m.ctx ck).csr.uiepc.setWidth 64))
          (m.modCtx ck fun c => { c with retPend := 0 })
      else if i.start.retPend = 2 then returnFromTrap e ck (m.modCtx ck fun c => { c with retPend := 0 })
      else m
    if i.yield_ then leaveCore ck m else m

/-- What a blocked bundle makes known as it blocks: an arrival, or what it asks for (R230, R339, R346, R347). -/
def announceBlock (e : Env) (ck : Nat) (w : Wait) (m : Mach) : Mach :=
  match w with
  | .lease => askLease (taskKey (ctxDie ck) (m.ctx ck).frame) m
  | .seg _ =>
    m.modCore (ctxCore ck) fun k =>
      { k with segAsk := if k.segAsk.contains (ck % 4) then k.segAsk else k.segAsk ++ [ck % 4] }
  | .barrier h _ => recordArrival e ck h false m
  | .arrive h => recordArrival e ck h true m
  | .round h s _ => recordRound e ck h s m
  | _ => m

/-- The bundle blocks (R50, R106, R334): m is the machine as it stood before the bundle's slots.  Every port and latch is
lost; the operation that blocks keeps the operand that it has read from a latch for the re-issue, in which it completes with
its normal effect. -/
def blockBundle (e : Env) (ck : Nat) (bl : Block) (b : Bundle) (m : Mach) : Mach :=
  let m := m.modCtx ck fun c =>
    let c := landDue e.clk.cycle c
    { c.lose (fun _ => false) with
      st := .blocked bl, lateSince := none, kept := c.kept ++ operandLatch c b bl.slot
      deadline := if bl.bounded && c.deadline.isNone then some (e.clk.tick + c.csr.waitTo.setWidth 48) else c.deadline }
  let m := announceBlock e ck bl.wait m
  leaveCore ck (traceBlock e ck (m.ctx ck).pc bl.slot m)

/-- An arrival that a wait has made stays recorded when the wait times out (R346, R347). -/
def keepArrival (e : Env) (ck : Nat) (w : Wait) (m : Mach) : Mach :=
  match w with
  | .barrier h ph =>
    m.modCtx ck fun c =>
      if (c.pending h 64).isSome then c else { c with pendArr := some { handle := h, slot := 64, no := ph } }
  | w => announceBlock e ck w m

/-- A bounded wait whose deadline has passed raises WAIT_TIMEOUT at its slot (R334). -/
def timeOut (e : Env) (ck : Nat) (bl : Block) (m : Mach) : Mach :=
  let m := applySettings (keepArrival e ck bl.wait m)
  takeTrap e ck Cause.waitTimeout bl.operand (struckNow e m bl.slot) m

/-- Issue a bundle (R41 to R45). -/
def issueBundle (e : Env) (ck : Nat) (b : Bundle) (m0 : Mach) : Mach :=
  let c := m0.ctx ck
  let tk := taskKey (ctxDie ck) c.frame
  let m := actSlots e (movePorts e ((beginIssue e ck b m0).modCtx ck Ctx.unblock))
  let traceAs (fault : Option Nat) (m : Mach) : Mach := traceIssue e (ctxDie ck) c.frame c.pc b.slots (startPreds c) fault m
  match m.issue.out with
  | .going => endBundle e b (countBundle ck tk (!c.csr.priv) (traceAs none m))
  | .stopped => traceAs (some m.issue.slot) (m.charge tk bundleEnergy)
  | .blocked bl =>
    if bl.bounded && (c.timedOut.isSome || pastDeadline e c.deadline) then traceAs (some bl.slot) (timeOut e ck bl (m.charge tk bundleEnergy))
    else blockBundle e ck bl b m0

/-! ### Fetch faults and the watchdog (R31, R119, R338) -/

/-- What an exception before the slots needs: the slots and sources of a bundle that had issued stay as they are. -/
def struckBefore (e : Env) (slot : Nat) (issued : Bool) (m : Mach) : Struck :=
  let i := m.issue
  { addr := i.addr, cs := e.clk.cycle, slot := slot, done := i.done, issued := issued || i.snaps.isSome, preds := i.preds
    snaps := (List.range 8).map fun k =>
      match i.slots[k]?.bind fun r => decodeSrc (r.raw.toNat % 2 ^ 10) with
      | some s => (slotSource e m k s).getD 0
      | none => (i.snaps.getD []).getD k 0 }

/-- The start of a bundle that does not issue since its fetch fails: the machine and what its exception needs, as of the
cycle after the last bundle that issued, from which its static stall would count (R112, R113). -/
def beginFetchStop (e : Env) (ck : Nat) (m : Mach) : Struck × Mach :=
  let e : Env := { e with clk := { e.clk with cycle := (m.ctx ck).lastIssue + 1 } }
  let m := beginIssue e ck {} m
  (struckBefore e 8 false m, m)

/-- Raise a fetch fault (R31, R114): tval is the bundle that led to the fetch, tslot 8, and no slot of the bundle counts as
done, which it takes up from its first slot. -/
def fetchFault (e : Env) (ck cause : Nat) (m : Mach) : Mach :=
  let (b, m) := beginFetchStop e ck (m.modCtx ck fun c => { c with resume := none })
  let f := (m.ctx ck).frame
  traceIssue e (ctxDie ck) f b.addr [] 1 (some 8) (takeTrap e ck cause (m.ctx ck).src b m)

/-- A fetch reaches an absent page (R119, R214), in a handler a double fault at the bundle (R117). -/
def fetchAbsent (e : Env) (ck va : Nat) (m : Mach) : Mach :=
  let (b, m) := beginFetchStop e ck m
  let f := (m.ctx ck).frame
  let m := if (m.ctx ck).csr.intrap then doubleFault e ck 0 b.addr b.addr m else takePageFault e ck (w64 va) b m
  traceIssue e (ctxDie ck) f b.addr [] 1 (some 8) m

/-- Raise STALL_WATCHDOG before any slot acts (R338). -/
def watchdogTrap (e : Env) (ck : Nat) (b : Bundle) (m : Mach) : Mach :=
  let m := beginIssue e ck b m
  let s := struckBefore e 0 true m
  let m := takeTrap e ck Cause.stallWatchdog (w64 (m.ctx ck).wdCount) s m
  let m := m.modCtx ck fun c => { c with csr := { c.csr with tdone := 0 } }
  traceIssue e (ctxDie ck) (m.ctx ck).frame s.addr b.slots s.preds (some 0) m

/-- Wait on late latches (R49, R225): each cycle counts for the buffers of the loads whose data is waited for. -/
def waitLate (e : Env) (ck : Nat) (late : List Nat) (m : Mach) : Mach :=
  let bufs := ((m.ctx ck).res.filter fun r =>
    late.contains r.latch && decide (r.due ≤ e.clk.cycle) && r.wait == .data).flatMap (·.buf)
  let m := bufs.eraseDups.foldl (fun m b => m.addHot (ctxDie ck) (256 + b) 1) m
  m.modCtx ck fun c => { c with lateSince := some (c.lateSince.getD e.clk.cycle) }

/-- The issuing context of a core, once it has been chosen. -/
def issuer (core : Nat) (m : Mach) : Option Nat := ((m.core core).cur).map fun x => core * 4 + x

/-- Do something with the verdict on a core's next bundle. -/
def onVerdict (e : Env) (d r : Nat) (f : Nat → IssueVerdict → Mach → Mach) (m : Mach) : Mach :=
  let core := coreKey d r
  if !(e.live d) || e.boot.failed then m
  else
    let m := pickCur core m
    match issuer core m with
    | none => m
    | some ck =>
      let (v, m) := judgeIssue e ck m
      pickCur core (f ck v m)

/-- BUNDLE_ISSUE (R41): the verdict's outcome; a user interrupt and the watchdog are steps of their own. -/
def bundleIssueAt (e : Env) (d r : Nat) (m : Mach) : Mach :=
  onVerdict e d r (fun ck v m =>
    match v with
    | .go b => issueBundle e ck b m
    | .fault c => fetchFault e ck c m
    | .absent va => fetchAbsent e ck va m
    | .waits late => waitLate e ck late m
    | _ => m) m

/-- STALL_WATCHDOG (R338). -/
def stallWatchdogAt (e : Env) (d r : Nat) (m : Mach) : Mach :=
  onVerdict e d r (fun ck v m => match v with | .watchdog b => watchdogTrap e ck b m | _ => m) m

/-- USER_INTERRUPT_TAKE (R121). -/
def userInterruptTakeAt (e : Env) (d r : Nat) (m : Mach) : Mach :=
  onVerdict e d r (fun ck v m => match v with | .interrupt => takeInterrupt e ck m | _ => m) m

/-- LATE_LATCH_SWITCH (R49, R50, R106): after more than 64 cycles the core leaves the context; the late latches keep their
outstanding operations. -/
def lateLatchSwitchAt (e : Env) (d r : Nat) (m : Mach) : Mach :=
  onVerdict e d r (fun ck v m =>
    match v, (m.ctx ck).lateSince with
    | .waits late, some s =>
      if 64 < e.clk.cycle - s then
        leaveCore ck (m.modCtx ck fun c =>
          { c.lose (fun q => late.contains q) with st := .late late.isEmpty, lateSince := none })
      else m
    | _, _ => m) m

/-! ### Blocked contexts (R106, R129, R334, R349) -/

/-- The access rights of the task of a context x of a core. -/
def contextWho (m : Mach) (core : Nat) (x : Ctx) : Who :=
  let d := coreDie core
  { die := d, rank := core % 192, frame := x.frame, extents := (m.task (taskKey d x.frame)).extents
    spadBase := x.csr.spadBase, spadSize := x.csr.spadSize }

/-- Reread the word of a blocked gs.flgw of a context x of a core at its home, the core's own dirty sector written back
first (R349): does it satisfy the relation, or is the access to fault?  A peer package's word is a free value. -/
def flagHolds (e : Env) (core : Nat) (x : Ctx) (t a b c : W64) (m : Mach) : Bool × Mach :=
  let w := if tst c.toNat 3 then 4 else 8
  let d := coreDie core
  let agent : Agent := ⟨0, d, x.frame⟩
  let test (bs : List Byte) : Bool :=
    let v := ofBytes bs
    relation (fld c.toNat 2 0) (8 * w) ((v &&& b.toNat) % 2 ^ (8 * w)) (a.toNat % 2 ^ (8 * w)) == some true
  let (acc, m) := checkAcc e (contextWho m core x) .read w w t m
  match acc with
  | .ok acc =>
    match acc.loc with
    | .spad k o =>
      let (g, m) := spadRead e agent k o m
      (g.sev == 3 || test (overlay x.stq acc.acls acc.loc (((bytesOf g.data 128).drop (o % 128)).take w)), m)
    | .phys pa =>
      let (g, m) := homeRead e agent acc.legend (pa / 128) (flushOwn e (4 * core) acc.loc m)
      (g.sev == 3 || test (overlay x.stq acc.acls acc.loc (((bytesOf g.data 128).drop (pa % 128)).take w)),
        trafficFor e d x.frame acc.loc acc.buf w m)
    | .peer _ _ o _ =>
      let (g, m) := peerGot (flushOwn e (4 * core) acc.loc m)
      (g.sev == 3 || test (((bytesOf g.data 128).drop (o % 128)).take w),
        trafficFor e d x.frame acc.loc acc.buf w (toPeer e d acc.loc [] m))
  | _ => (true, m)

/-- Has a write reached the home line of the word that a gs.flgw waits on (R349)? -/
def flagTouched (e : Env) (m : Mach) (ck : Nat) : Bool :=
  let c := m.ctx ck
  match c.st with
  | .blocked b =>
    match b.wait with
    | .flag t _ _ f =>
      let w := if tst f.toNat 3 then 4 else 8
      match (checkAcc e (contextWho m (ctxCore ck) c) .read w w t m).1 with
      | .ok acc => m.touched.any fun k => homeKey acc.loc == some k
      | _ => true
    | _ => false
  | _ => false

/-- Has what context x of a core waits for, in state c, come about (R106)? gs.flgw is told by its rereads. -/
def waitOver (e : Env) (core x : Nat) (c : Ctx) (w : Wait) (m : Mach) : Bool :=
  let d := coreDie core
  let t := m.task (taskKey d c.frame)
  let set (h : Nat) (f : MSet → Bool) : Bool :=
    match namedSet m d h with
    | some k => f (m.mset k)
    | none => true
  let member (s : MSet) : Bool := s.members.contains c.frame
  match w with
  | .token h => match t.token d c.frame h with | some k => k.done.isSome | none => true
  | .flag _ _ _ _ => false
  | .phase h ph => set h fun s => completed s.phase ph
  | .barrier h ph => set h fun s => !(member s) || completed s.phase ph
  | .arrive h =>
    set h fun s =>
      !(member s) || (match c.pending h 64 with | some ph => s.phase.toNat == ph || completed s.phase ph | none => true)
  | .round h slot no => set h fun s => !(member s) || completed (s.rounds.get 0 slot) no
  | .lease => t.lease == .held && !(m.arr (groupArr (taskKey d c.frame))).spill
  | .arrFull => t.lease != .held || decide ((m.arr (groupArr (taskKey d c.frame))).queue.length < 16)
  | .tokens k => t.tokenRoom k
  | .pop w => let q := m.hwq (hwqKey d w); q.st != .opened || !q.items.isEmpty
  | .push w => let q := m.hwq (hwqKey d w); q.st != .opened || decide (q.items.length < 256)
  | .ring q => !(m.lq (lqKey d q)).full
  | .mig => decide ((m.die d).migQ.length < 64)
  | .card g => !(cardsFull m d g)
  | .closing g => (m.grp (grpKey d g)).st != .closing
  | .seg n => (m.core core).grants x n
  | .tick x => reached e.clk.tick x || (!c.uiq.isEmpty && c.csr.uien)

/-- Is it a br.wait whose tick has not come, so that a user interrupt ends it (R129)? -/
def Wait.byInterrupt (e : Env) : Wait → Bool
  | .tick x => !(reached e.clk.tick x)
  | _ => false

/-- A context becomes ready: it may then be chosen to issue. -/
def makeReady (ck : Nat) (m : Mach) : Mach := m.modCtx ck fun c => { c with st := .ready }

/-- CONTEXT_READY (R106): the condition that stopped the context has cleared. -/
def contextReadyAt (e : Env) (ck : Nat) (m : Mach) : Mach :=
  match (m.ctx ck).st with
  | .blocked b =>
    if waitOver e (ctxCore ck) (ck % 4) (m.ctx ck) b.wait m then
      (makeReady ck m).modCtx ck fun c => { c with woken := b.wait.byInterrupt e }
    else m
  | .late fence =>
    let m := settleFences e ck m
    let c := landDue e.clk.cycle (m.ctx ck)
    if (if fence then c.fences.all (fun f => !f.kind.orders && !f.kind.holdsAccess) else c.res.all fun r => decide (e.clk.cycle < r.due)) then makeReady ck m else m
  | _ => m

/-- FLAG_WAIT_REREAD (R349). -/
def flagRereadAt (e : Env) (ck : Nat) (m : Mach) : Mach :=
  match (m.ctx ck).st with
  | .blocked b =>
    match b.wait with
    | .flag t a x c =>
      let (ok, m) := flagHolds e (ctxCore ck) (m.ctx ck) t a x c m
      if ok then makeReady ck m else m
    | _ => m
  | _ => m

/-- The bounded wait of a blocked context whose deadline has passed (R334). -/
def Ctx.overdue (e : Env) (c : Ctx) : Option Block :=
  match c.st with
  | .blocked b => if b.bounded && pastDeadline e c.deadline then some b else none
  | _ => none

/-- A blocked task that has been pre-empted is judged at its deadline too: the word of a gs.flgw is reread (R334, R349). -/
def timeOutSuspended (e : Env) (core tk : Nat) (m : Mach) : Mach :=
  let c := (m.task tk).saved
  match (if (m.task tk).st = .suspended then c.overdue e else none) with
  | some b =>
    let (met, m) := match b.wait with
      | .flag t a x y => flagHolds e core c t a x y m
      | w => (waitOver e core 4 c w m, m)
    if met then m else m.modTask tk fun t => { t with saved := { t.saved with st := .ready, timedOut := some b } }
  | none => m

/-- WAIT_TIMEOUT (R334): the tick that reaches the deadline of a bounded wait has passed, and its condition has not come to
hold; the bundle re-issues and raises the time-out at its slot.  The core's pre-empted tasks are judged with it (log entry 43). -/
def waitTimeoutAt (e : Env) (ck : Nat) (m : Mach) : Mach :=
  let m := ((coreTasks m (ctxCore ck)).map (·.1)).foldl (fun m tk => timeOutSuspended e (ctxCore ck) tk m) m
  match (m.ctx ck).overdue e with
  | some b =>
    if waitOver e (ctxCore ck) (ck % 4) (m.ctx ck) b.wait m then m
    else m.modCtx ck fun c => { c with st := .ready, timedOut := some b }
  | none => m

/-! ### Pipelines, L1, L2 and stores (R47 to R49, R189, R217, R306, R311) -/

/-- The data of the oldest load on a latch that still waits for it arrive. -/
def arrive (q : Nat) : List Res → List Res
  | [] => []
  | r :: rest => if r.latch = q ∧ r.wait = .data then { r with wait := .none } :: rest else r :: arrive q rest

/-- LATCH_RESULT_LAND (R48, R49): the data of the oldest load on a latch that still waits for it arrive, and what is due
lands. -/
def latchResultLandAt (e : Env) (ck q : Nat) (m : Mach) : Mach :=
  m.modCtx ck fun c =>
    landLatch e.clk.cycle q { c with res := arrive q c.res }

/-- STORE_ACKNOWLEDGEMENT (R304, R311): a store on its way is performed at its home and acknowledged. -/
def storeAcknowledgedAt (e : Env) (ck k : Nat) (m : Mach) : Mach :=
  let c := m.ctx ck
  match c.stq[k]? with
  | some s => if mayPerform c s then settleFences e ck (performStore e ck s m) else m
  | none => m

/-- PEER_REFUSAL (R215): a peer package refuses a store on its way. -/
def peerRefusalAt (e : Env) (ck k : Nat) (m : Mach) : Mach :=
  match (m.ctx ck).stq[k]? with
  | some s => if s.isPeer then settleFences e ck (refuseStore ck s m) else m
  | none => m

/-- L1_CLEAN_EXPIRY (R306): a clean sector is invalidated. -/
def cleanExpiryAt (core tag : Nat) (m : Mach) : Mach :=
  match (m.core core).sectors.find tag with
  | some s => if s.dirty then m else m.modCore core fun c => { c with sectors := c.sectors.del tag }
  | none => m

/-- L2_EVICTION (R217, R376). -/
def l2EvictionAt : Env → Nat → Mach → Mach := l2EvictWith event

/-! ### The events -/

/-- BUNDLE_ISSUE: The core fetches and checks the next bundle and issues it, so that all its enabled slots act in one cycle. (R41) -/
def execBundleIssue (d : Fin 16) (r : Fin 192) (s : State) : Out := eventStep (fun e => bundleIssueAt e d.val r.val) s

/-- LATCH_RESULT_LAND: An operation's result lands in its bypass latch at its due cycle, or later if it arrives late. (R49) -/
def execLatchResultLand (d : Fin 16) (r : Fin 192) (x : Fin 4) (q : Fin 19) (s : State) : Out :=
  eventStep (fun e => latchResultLandAt e (ctxKey d.val r.val x.val) q.val) s

/-- LATE_LATCH_SWITCH: A bundle that has waited more than 64 cycles on a late latch becomes a context-switch point. (R106) -/
def execLateLatchSwitch (d : Fin 16) (r : Fin 192) (s : State) : Out :=
  eventStep (fun e => lateLatchSwitchAt e d.val r.val) s

/-- CONTEXT_READY: A blocked context becomes ready again when the condition that blocked it clears. (R106) -/
def execContextReady (d : Fin 16) (r : Fin 192) (x : Fin 4) (s : State) : Out :=
  eventStep (fun e => contextReadyAt e (ctxKey d.val r.val x.val)) s

/-- WAIT_TIMEOUT: A bounded wait whose deadline is reached while its condition still fails raises WAIT_TIMEOUT. (R334) -/
def execWaitTimeout (d : Fin 16) (r : Fin 192) (x : Fin 4) (s : State) : Out :=
  eventStep (fun e => waitTimeoutAt e (ctxKey d.val r.val x.val)) s

/-- STALL_WATCHDOG: When the bundle count is about to pass wd.limit, the context raises STALL_WATCHDOG instead of issuing. (R338) -/
def execStallWatchdog (d : Fin 16) (r : Fin 192) (s : State) : Out :=
  eventStep (fun e => stallWatchdogAt e d.val r.val) s

/-- USER_INTERRUPT_TAKE: At an eligible bundle boundary the core stops the context, switches to the shadow bank and starts at uivec. (R121) -/
def execUserInterruptTake (d : Fin 16) (r : Fin 192) (s : State) : Out :=
  eventStep (fun e => userInterruptTakeAt e d.val r.val) s

/-- FLAG_WAIT_REREAD: A blocked gs.flgw rereads its word after each store to it and at least once per tick. (R349) -/
def execFlagWaitReread (d : Fin 16) (r : Fin 192) (x : Fin 4) (s : State) : Out :=
  eventStep (fun e => flagRereadAt e (ctxKey d.val r.val x.val)) s

/-- STORE_ACKNOWLEDGEMENT: A store's home acknowledges it, and the context's unacknowledged count for that class falls. (R311) -/
def execStoreAcknowledgement (d : Fin 16) (r : Fin 192) (x : Fin 4) (k : Nat) (s : State) : Out :=
  eventStep (fun e => storeAcknowledgedAt e (ctxKey d.val r.val x.val) k) s

/-- PEER_REFUSAL: A peer package's refusal of a kind-2 store takes the place of its acknowledgement and is raised at the next package or engine fence. (R215) -/
def execPeerRefusal (d : Fin 16) (r : Fin 192) (x : Fin 4) (k : Nat) (s : State) : Out :=
  eventStep (fun e => peerRefusalAt e (ctxKey d.val r.val x.val) k) s

/-- L1_SECTOR_WRITEBACK: The L1 writes back a dirty sector to its home slice, on eviction or within 4,096 cycles. (R189) -/
def execL1SectorWriteback (d : Fin 16) (r : Fin 192) (tag : Nat) (s : State) : Out :=
  eventStep (fun e => writeBack e (coreKey d.val r.val) tag) s

/-- L1_CLEAN_EXPIRY: The L1 invalidates a clean sector of G or P memory within 4,096 cycles after filling it. (R306) -/
def execL1CleanExpiry (d : Fin 16) (r : Fin 192) (tag : Nat) (s : State) : Out :=
  eventStep (fun _ => cleanExpiryAt (coreKey d.val r.val) tag) s

/-- L2_EVICTION: The L2 evicts a line and writes it back whole when it holds a dirty sector. (R217) -/
def execL2Eviction (line : Nat) (s : State) : Out := eventStep (fun e => l2EvictionAt e line) s

end Sys2Proof.Machine
end

