-- ==== Sys2Proof/Machine/Advance.lean ====
section
/-! DEFINITION. The passing of a core cycle: the clock, what the spec ties to cycles and ticks, and the steps due in the
cycle (R3, R22, R41, R91 to R94, R121, R127, R178, R225, R267, R301, R306, R334, R338, R349, R405; log entry 4). -/

namespace Sys2Proof.Machine

/-- The clock one core cycle later (R3); the tick counter follows by TICK_INCREMENT (R22). -/
def Clock.next (c : Clock) : Clock := { c with cycle := c.cycle + 1 }

/-- Cores that have a context which is not free, as (die, rank), in rising order. -/
def busyCores (m : Mach) : List Nat := ((m.ctxs.filter fun (p : Nat × Ctx) => p.2.st != .free).map fun p => p.1 / 4).eraseDups

/-- The contexts that meet a condition, by their keys. -/
def ctxsWhere (f : Ctx → Bool) (m : Mach) : List Nat := (m.ctxs.filter fun (p : Nat × Ctx) => f p.2).map (·.1)

/-- The die, rank and context number of a context key, or of four times a core key. -/
def dieFin (ck : Nat) : Fin 16 := Fin.ofNat 16 (ctxDie ck)
def rankFin (ck : Nat) : Fin 192 := Fin.ofNat 192 (ck / 4 % 192)
def slotFin (ck : Nat) : Fin 4 := Fin.ofNat 4 (ck % 4)

/-- The steps that a package tick brings, once it has been counted as the next value of the counter (R91 to R94, R301, R334, R349, R405). -/
def tickSteps (e : Env) (m : Mach) : List Instr :=
  (e.dieList.flatMap fun d =>
      (if (e.clk.tick + 1).toNat % 110 = 0 then [Instr.quantumBoundary (Fin.ofNat 16 d)] else [])
        ++ (if (e.clk.tick + 1).toNat % 2197 = 0 then [Instr.telemetryRecord (Fin.ofNat 16 d)] else []))
    ++ ((m.lqs.filter fun (p : Nat × Lq) => p.2.since.isSome).map fun p =>
        Instr.queueAgeing (Fin.ofNat 16 (p.1 / 1024)) (Fin.ofNat 1024 (p.1 % 1024)))
    ++ ((m.launches.filter fun (p : Nat × Launch) => p.2.live && p.2.budget != 0).map fun p =>
        Instr.energyDemotion (Fin.ofNat 16 p.2.die) p.1)
    ++ ((m.routers.filter fun (p : Nat × Router) => decide (p.1 < 17)).map fun p => Instr.ntRecordExpiry (Fin.ofNat 17 p.1))
    ++ ((ctxsWhere (fun c => match c.st with | .blocked _ => true | _ => false) m).flatMap fun k =>
        [Instr.flagWaitReread (dieFin k) (rankFin k) (slotFin k), Instr.waitTimeout (dieFin k) (rankFin k) (slotFin k)])
    ++ ((m.tasks.filter fun (p : Nat × Task) =>
        p.2.st == .suspended && (match p.2.saved.st with | .blocked _ => true | _ => false)).map fun p =>
          Instr.waitTimeout (Fin.ofNat 16 (p.1 / 3072)) (Fin.ofNat 192 (p.1 % 3072 / 16)) 0)
    ++ ((ctxsWhere Ctx.preemptible m).map fun k => Instr.quantumPreemption (dieFin k) (rankFin k) (slotFin k))

/-- The sectors whose time is over (R306): they have been dirty, or clean and of G or P memory, for 4,096 cycles. -/
def agedSteps (e : Env) (m : Mach) : List Instr :=
  m.cores.flatMap fun (p : Nat × Core) =>
    (p.2.sectors.filter fun (q : Nat × Sector) =>
        decide ((if q.2.dirty then q.2.since else q.2.filled) + 4096 ≤ e.clk.cycle)).map fun q =>
      if q.2.dirty then Instr.l1SectorWriteback (dieFin (4 * p.1)) (rankFin (4 * p.1)) q.1
      else Instr.l1CleanExpiry (dieFin (4 * p.1)) (rankFin (4 * p.1)) q.1

/-- The stores whose time to be performed has come (R306), the first of each context; a peer package that refuses one does
so before (R215). -/
def storeSteps (e : Env) (m : Mach) : List Instr :=
  m.ctxs.filterMap fun (p : Nat × Ctx) =>
    (p.2.stq.zipIdx.find? fun q => mayPerform p.2 q.1 && decide (q.1.sent + Config.storeTime q.1.no ≤ e.clk.cycle)).map
      fun q => Instr.storeAcknowledgement (dieFin p.1) (rankFin p.1) (slotFin p.1) q.2

/-- The cores of a die that have not taken its split (R178). -/
def splitSteps (e : Env) (m : Mach) : List Instr :=
  e.dieList.flatMap fun d =>
    ((List.range 192).filter fun r => !(splitTaken m d r)).map fun r => Instr.splitAdopt (Fin.ofNat 16 d) (Fin.ofNat 192 r)

/-- The arrays of a grant that has ended (R230). -/
def grantSteps (e : Env) (m : Mach) : List Instr :=
  (m.arrs.filter fun (p : Nat × Arr) => p.2.holder.isSome && !p.2.leaving && !p.2.spill && p.2.grantOver e).map fun p =>
    Instr.grantEnd (Fin.ofNat 16 (p.1 / 8)) (Fin.ofNat 8 (p.1 % 8))

/-- The steps that must come about in a cycle, after those whose time is open: contexts that become ready, tasks that end
or resume, grants that end, and for each core what its issuing context does. -/
def cycleSteps (e : Env) (m : Mach) : List Instr :=
  ((ctxsWhere (fun c => match c.st with | .blocked _ => true | .late _ => true | _ => false) m).map fun k =>
      Instr.contextReady (dieFin k) (rankFin k) (slotFin k))
    ++ ((m.tasks.filter fun (p : Nat × Task) => (taskHalted m p.1).isSome).map fun p =>
        Instr.taskEnd (Fin.ofNat 16 (p.1 / 3072)) (Fin.ofNat 3072 (p.1 % 3072)))
    ++ splitSteps e m
    ++ grantSteps e m
    ++ ((m.tasks.filter fun (p : Nat × Task) => p.2.st == .suspended).map fun p =>
        Instr.pageFaultResume (Fin.ofNat 16 (p.1 / 3072)) (Fin.ofNat 3072 (p.1 % 3072)))
    ++ agedSteps e m
    ++ storeSteps e m
    ++ ((busyCores m).flatMap fun k =>
        [Instr.lateLatchSwitch (dieFin (4 * k)) (rankFin (4 * k)),
         Instr.userInterruptTake (dieFin (4 * k)) (rankFin (4 * k)),
         Instr.stallWatchdog (dieFin (4 * k)) (rankFin (4 * k)),
         Instr.bundleIssue (dieFin (4 * k)) (rankFin (4 * k))])

/-- The waits on flags whose word's home line a write has reached in the cycle before (R349). -/
def rereadSteps (e : Env) (m : Mach) : List Instr :=
  if m.touched.isEmpty then []
  else ((m.ctxs.map (·.1)).filter (flagTouched e m)).map fun k =>
    Instr.flagWaitReread (dieFin k) (rankFin k) (slotFin k)

/-- The steps of a cycle, in their order (log entry 4). A package whose boot has failed runs no task (R19). -/
def due (e : Env) (m : Mach) : List Instr :=
  (if e.clk.cycle % 1024 = 0 then [Instr.tickIncrement] else [])
    ++ (if e.boot.failed then [] else rereadSteps e m ++ (if e.clk.cycle % 1024 = 0 then tickSteps e m else []))
    ++ Config.arrivals e.clk.cycle
    ++ (if e.boot.failed then [] else cycleSteps e m)

/-- A core cycle passes: every held array counts it (R267), claimed tiles whose page has come are written (R295), event
records that wait are placed in their rings (R393), and the steps of the new cycle are due. -/
def passCycle (s : State) : State :=
  let clk := s.clk.next
  let e : Env := ⟨s.boot, clk⟩
  let m := countClasses ⟨s.boot, s.clk⟩ s.m
  let m := (e.dieList.filter fun d => m.claims.any fun c => ownerKey c.ent.task / 3072 == d).foldl
    (fun m d => deliverWaiting e d m) m
  let m := (m.links.map fun (p : Nat × Link) => p.1).foldl (fun m l => linkCycle e l m) m
  let m := (e.dieList.filter fun d => !(m.die d).evWait.isEmpty).foldl (fun m d => drainEvents 8 e d m) m
  { s with clk := clk, m := { m with agenda := due e m, touched := [] } }

/-! ### A program placed for a step (log entry 40) -/

/-- The base block whose slot 0 is a word and whose other slots are never enabled (R27, R32, R33): header 0x80000000,
slots packed from bit 32. -/
def lonelyBlock (w : Nat) : Nat :=
  (List.range 7).foldl (fun b k => b + 0x400000 * 2 ^ (56 + 24 * k)) (0x80000000 + w % 2 ^ 24 * 2 ^ 32)

/-- Where the tables and the code are placed: level tables from 2 MiB of the die's memory, the page of code at 4 MiB. -/
def placeTables (d : Nat) : Nat := d * 2 ^ 40 + 2 ^ 21
def placeCode (d : Nat) : Nat := d * 2 ^ 40 + 2 ^ 22

/-- Write a whole line of memory that no L2 copy hides, under RAW. -/
def placeLine (pa x : Nat) (m : Mach) : Mach :=
  setMemLine (pa / 128) x (checkBits 0 x) { m with l2 := m.l2.del (pa / 128) }

/-- Page tables that map the page of virtual address 0, to be executed, and the bundle there (R209 to R211). -/
def placeMemory (d w : Nat) (m : Mach) : Mach :=
  placeLine (placeCode d) (lonelyBlock w)
    (placeLine (placeTables d + 8192) (placeCode d + 0x13)
      (placeLine (placeTables d + 4096) (placeTables d + 8192 + 1)
        (placeLine (placeTables d) (placeTables d + 4096 + 1)
          (m.modDie d fun x => { x with ptRoot := placeTables d }))))

/-- A task on the lowest die's core 0, context 0, whose next bundle lies at virtual address 0, in a cycle in which it may
issue, with that issue due next (log entry 40). -/
def place (w : Nat) (s : State) : State :=
  let clk := s.clk.next
  let e : Env := ⟨s.boot, clk⟩
  let d := e.dieList.headD 0
  let m := placeMemory d w s.m
  let m := m.setCtx (ctxKey d 0 0) { st := .ready, lastIssue := s.clk.cycle }
  let m := m.setTask (taskKey d 0) { st := .running 0, startTick := clk.tick }
  let m := m.modCore (coreKey d 0) fun k => { k with cur := some 0, notBefore := 0, fetchBuf := [] }
  { s with clk := clk, m := { m with touched := [], agenda := [.bundleIssue (Fin.ofNat 16 d) 0] } }

end Sys2Proof.Machine
end

