-- ==== Sys2Proof/Machine/Dispatch.lean ====
section
/-! DEFINITION. The meaning of every row of spec/opcode_table.json, one arm each. -/

namespace Sys2Proof.Machine

def exec (i : Instr) (s : State) : Host.Outcome State Fault Refusal :=
  match i with
  | .tickIncrement => Sys2Proof.Machine.execTickIncrement s
  | .energyDemotion d l => Sys2Proof.Machine.execEnergyDemotion d l s
  | .telemetryRecord d => Sys2Proof.Machine.execTelemetryRecord d s
  | .bundleIssue d r => Sys2Proof.Machine.execBundleIssue d r s
  | .latchResultLand d r x q => Sys2Proof.Machine.execLatchResultLand d r x q s
  | .lateLatchSwitch d r => Sys2Proof.Machine.execLateLatchSwitch d r s
  | .contextReady d r x => Sys2Proof.Machine.execContextReady d r x s
  | .waitTimeout d r x => Sys2Proof.Machine.execWaitTimeout d r x s
  | .stallWatchdog d r => Sys2Proof.Machine.execStallWatchdog d r s
  | .userInterruptTake d r => Sys2Proof.Machine.execUserInterruptTake d r s
  | .preemption d r x => Sys2Proof.Machine.execPreemption d r x s
  | .pageFaultResume d f => Sys2Proof.Machine.execPageFaultResume d f s
  | .quantumBoundary d => Sys2Proof.Machine.execQuantumBoundary d s
  | .queueAgeing d q => Sys2Proof.Machine.execQueueAgeing d q s
  | .quantumPreemption d r x => Sys2Proof.Machine.execQuantumPreemption d r x s
  | .launchRecordAdmit d q => Sys2Proof.Machine.execLaunchRecordAdmit d q s
  | .taskPlacement d q => Sys2Proof.Machine.execTaskPlacement d q s
  | .gangPlacement d q => Sys2Proof.Machine.execGangPlacement d q s
  | .taskEnd d f => Sys2Proof.Machine.execTaskEnd d f s
  | .deferredCompletionWrite d l => Sys2Proof.Machine.execDeferredCompletionWrite d l s
  | .splitAdopt d r => Sys2Proof.Machine.execSplitAdopt d r s
  | .migrationPage d => Sys2Proof.Machine.execMigrationPage d s
  | .l1SectorWriteback d r tag => Sys2Proof.Machine.execL1SectorWriteback d r tag s
  | .l1CleanExpiry d r tag => Sys2Proof.Machine.execL1CleanExpiry d r tag s
  | .l2Eviction line => Sys2Proof.Machine.execL2Eviction line s
  | .storeAcknowledgement d r x k => Sys2Proof.Machine.execStoreAcknowledgement d r x k s
  | .leaseGrant d a => Sys2Proof.Machine.execLeaseGrant d a s
  | .grantEnd d a => Sys2Proof.Machine.execGrantEnd d a s
  | .arraySpill d a => Sys2Proof.Machine.execArraySpill d a s
  | .leaseFree d a => Sys2Proof.Machine.execLeaseFree d a s
  | .arrayLoad d a k => Sys2Proof.Machine.execArrayLoad d a k s
  | .arrayStart d a => Sys2Proof.Machine.execArrayStart d a s
  | .arrayPassStart d a => Sys2Proof.Machine.execArrayPassStart d a s
  | .arrayPassStep d a => Sys2Proof.Machine.execArrayPassStep d a s
  | .arrayPromotion d a => Sys2Proof.Machine.execArrayPromotion d a s
  | .arrayDrain d a k => Sys2Proof.Machine.execArrayDrain d a k s
  | .arrayClear d a => Sys2Proof.Machine.execArrayClear d a s
  | .arrayCfgApply d a => Sys2Proof.Machine.execArrayCfgApply d a s
  | .arrayBarrier d a => Sys2Proof.Machine.execArrayBarrier d a s
  | .arrayRead d a => Sys2Proof.Machine.execArrayRead d a s
  | .ntRecordExpiry r => Sys2Proof.Machine.execNtRecordExpiry r s
  | .flagWaitReread d r x => Sys2Proof.Machine.execFlagWaitReread d r x s
  | .moduleReset b => Sys2Proof.Machine.execModuleReset b s
  | .hostPortTraining port mods => Sys2Proof.Machine.execHostPortTraining port mods s
  | .lqCtlWrite d q v => Sys2Proof.Machine.execLqCtlWrite d q v s
  | .lqTailWrite d q v => Sys2Proof.Machine.execLqTailWrite d q v s
  | .lqBaseWrite d q v => Sys2Proof.Machine.execLqBaseWrite d q v s
  | .sramSplitWrite d v => Sys2Proof.Machine.execSramSplitWrite d v s
  | .ptWake d v => Sys2Proof.Machine.execPtWake d v s
  | .taskRst d v => Sys2Proof.Machine.execTaskRst d v s
  | .lkStatRetrain l v lit => Sys2Proof.Machine.execLkStatRetrain l v lit s
  | .hostRegisterWrite d off v => Sys2Proof.Machine.execHostRegisterWrite d off v s
  | .hostMemoryAccess a => Sys2Proof.Machine.execHostMemoryAccess a s
  | .peerRefusal d r x k => Sys2Proof.Machine.execPeerRefusal d r x k s
  | .ntInterestArrival m => Sys2Proof.Machine.execNtInterestArrival m s
  | .ntTileArrival m => Sys2Proof.Machine.execNtTileArrival m s
  | .ntAnswerArrival m => Sys2Proof.Machine.execNtAnswerArrival m s
  | .ntAnnounceStore d k => Sys2Proof.Machine.execNtAnnounceStore d k s
  | .ntRetirementApply k => Sys2Proof.Machine.execNtRetirementApply k s
  | .ntBindingApply k => Sys2Proof.Machine.execNtBindingApply k s
  | .ntRouteApply k => Sys2Proof.Machine.execNtRouteApply k s
  | .jobCardAdmit d e => Sys2Proof.Machine.execJobCardAdmit d e s
  | .copyExecute d k line => Sys2Proof.Machine.execCopyExecute d k line s
  | .engineTokenComplete d e k refused => Sys2Proof.Machine.execEngineTokenComplete d e k refused s
  | .collOpStart d => Sys2Proof.Machine.execCollOpStart d s
  | .collPacketArrival p => Sys2Proof.Machine.execCollPacketArrival p s
  | .collIdFree d g => Sys2Proof.Machine.execCollIdFree d g s
  | .rhavorDataFlit l flit crc => Sys2Proof.Machine.execRhavorDataFlit l flit crc s
  | .rhavorAck l n => Sys2Proof.Machine.execRhavorAck l n s
  | .rhavorNak l n => Sys2Proof.Machine.execRhavorNak l n s
  | .rhavorIdle l => Sys2Proof.Machine.execRhavorIdle l s
  | .rhavorLaneMap l mask => Sys2Proof.Machine.execRhavorLaneMap l mask s
  | .rhavorAckTimer l => Sys2Proof.Machine.execRhavorAckTimer l s
  | .lossOfLight l fibre => Sys2Proof.Machine.execLossOfLight l fibre s
  | .ringLinkFailure k => Sys2Proof.Machine.execRingLinkFailure k s
  | .securityAlarm a => Sys2Proof.Machine.execSecurityAlarm a s
  | .droop d dom depth => Sys2Proof.Machine.execDroop d dom depth s
  | .rhavorLinkTrained l lit => Sys2Proof.Machine.execRhavorLinkTrained l lit s
  | .peerPackageRequest l q => Sys2Proof.Machine.execPeerPackageRequest l q s
  | .dataMove g dst src => Sys2Proof.Machine.execDataMove g dst src s
  | .ixAdd u t => Sys2Proof.Machine.execIxAdd u t s
  | .ixSub u t => Sys2Proof.Machine.execIxSub u t s
  | .ixAddw u t => Sys2Proof.Machine.execIxAddw u t s
  | .ixSubw u t => Sys2Proof.Machine.execIxSubw u t s
  | .ixAnd u t => Sys2Proof.Machine.execIxAnd u t s
  | .ixOr u t => Sys2Proof.Machine.execIxOr u t s
  | .ixXor u t => Sys2Proof.Machine.execIxXor u t s
  | .ixAndn u t => Sys2Proof.Machine.execIxAndn u t s
  | .ixShl u t => Sys2Proof.Machine.execIxShl u t s
  | .ixShr u t => Sys2Proof.Machine.execIxShr u t s
  | .ixSha u t => Sys2Proof.Machine.execIxSha u t s
  | .ixRotl u t => Sys2Proof.Machine.execIxRotl u t s
  | .ixCeq u t => Sys2Proof.Machine.execIxCeq u t s
  | .ixCne u t => Sys2Proof.Machine.execIxCne u t s
  | .ixClt u t => Sys2Proof.Machine.execIxClt u t s
  | .ixCltu u t => Sys2Proof.Machine.execIxCltu u t s
  | .ixCle u t => Sys2Proof.Machine.execIxCle u t s
  | .ixCleu u t => Sys2Proof.Machine.execIxCleu u t s
  | .ixMin u t => Sys2Proof.Machine.execIxMin u t s
  | .ixMax u t => Sys2Proof.Machine.execIxMax u t s
  | .ixMinu u t => Sys2Proof.Machine.execIxMinu u t s
  | .ixMaxu u t => Sys2Proof.Machine.execIxMaxu u t s
  | .ixSel u t => Sys2Proof.Machine.execIxSel u t s
  | .ixMul u t => Sys2Proof.Machine.execIxMul u t s
  | .ixMulh u t => Sys2Proof.Machine.execIxMulh u t s
  | .ixMulhu u t => Sys2Proof.Machine.execIxMulhu u t s
  | .ixClz u t => Sys2Proof.Machine.execIxClz u t s
  | .ixPopc u t => Sys2Proof.Machine.execIxPopc u t s
  | .ixBext u t => Sys2Proof.Machine.execIxBext u t s
  | .ixBins u t => Sys2Proof.Machine.execIxBins u t s
  | .ixSext u t => Sys2Proof.Machine.execIxSext u t s
  | .ixZext u t => Sys2Proof.Machine.execIxZext u t s
  | .agAdda t => Sys2Proof.Machine.execAgAdda t s
  | .agMkl t => Sys2Proof.Machine.execAgMkl t s
  | .agMkc t => Sys2Proof.Machine.execAgMkc t s
  | .agMkp t => Sys2Proof.Machine.execAgMkp t s
  | .agTag t => Sys2Proof.Machine.execAgTag t s
  | .agTsta t => Sys2Proof.Machine.execAgTsta t s
  | .agCvtc t => Sys2Proof.Machine.execAgCvtc t s
  | .agXlk t => Sys2Proof.Machine.execAgXlk t s
  | .lsLdb u t => Sys2Proof.Machine.execLsLdb u t s
  | .lsLdbu u t => Sys2Proof.Machine.execLsLdbu u t s
  | .lsLdh u t => Sys2Proof.Machine.execLsLdh u t s
  | .lsLdhu u t => Sys2Proof.Machine.execLsLdhu u t s
  | .lsLdw u t => Sys2Proof.Machine.execLsLdw u t s
  | .lsLdwu u t => Sys2Proof.Machine.execLsLdwu u t s
  | .lsLdd u t => Sys2Proof.Machine.execLsLdd u t s
  | .lsLdv u t => Sys2Proof.Machine.execLsLdv u t s
  | .lsStb u t => Sys2Proof.Machine.execLsStb u t s
  | .lsSth u t => Sys2Proof.Machine.execLsSth u t s
  | .lsStw u t => Sys2Proof.Machine.execLsStw u t s
  | .lsStd u t => Sys2Proof.Machine.execLsStd u t s
  | .lsStv u t => Sys2Proof.Machine.execLsStv u t s
  | .lsLddi u t => Sys2Proof.Machine.execLsLddi u t s
  | .lsLdvi u t => Sys2Proof.Machine.execLsLdvi u t s
  | .lsStdi u t => Sys2Proof.Machine.execLsStdi u t s
  | .lsStvi u t => Sys2Proof.Machine.execLsStvi u t s
  | .lsGath u t => Sys2Proof.Machine.execLsGath u t s
  | .lsScat u t => Sys2Proof.Machine.execLsScat u t s
  | .lsLdaq u t => Sys2Proof.Machine.execLsLdaq u t s
  | .lsStrl u t => Sys2Proof.Machine.execLsStrl u t s
  | .lsPref u t => Sys2Proof.Machine.execLsPref u t s
  | .lsWbk u t => Sys2Proof.Machine.execLsWbk u t s
  | .lsInv u t => Sys2Proof.Machine.execLsInv u t s
  | .lsAadd u t => Sys2Proof.Machine.execLsAadd u t s
  | .lsAmin u t => Sys2Proof.Machine.execLsAmin u t s
  | .lsAmax u t => Sys2Proof.Machine.execLsAmax u t s
  | .lsAand u t => Sys2Proof.Machine.execLsAand u t s
  | .lsAor u t => Sys2Proof.Machine.execLsAor u t s
  | .lsAxch u t => Sys2Proof.Machine.execLsAxch u t s
  | .lsAcas u t => Sys2Proof.Machine.execLsAcas u t s
  | .lsAfadd u t => Sys2Proof.Machine.execLsAfadd u t s
  | .vxVadd u t => Sys2Proof.Machine.execVxVadd u t s
  | .vxVsub u t => Sys2Proof.Machine.execVxVsub u t s
  | .vxVmul u t => Sys2Proof.Machine.execVxVmul u t s
  | .vxVfma u t => Sys2Proof.Machine.execVxVfma u t s
  | .vxVmax u t => Sys2Proof.Machine.execVxVmax u t s
  | .vxVmin u t => Sys2Proof.Machine.execVxVmin u t s
  | .vxVabs u t => Sys2Proof.Machine.execVxVabs u t s
  | .vxVneg u t => Sys2Proof.Machine.execVxVneg u t s
  | .vxVceq u t => Sys2Proof.Machine.execVxVceq u t s
  | .vxVclt u t => Sys2Proof.Machine.execVxVclt u t s
  | .vxVcle u t => Sys2Proof.Machine.execVxVcle u t s
  | .vxVsel u t => Sys2Proof.Machine.execVxVsel u t s
  | .vxVand u t => Sys2Proof.Machine.execVxVand u t s
  | .vxVor u t => Sys2Proof.Machine.execVxVor u t s
  | .vxVxor u t => Sys2Proof.Machine.execVxVxor u t s
  | .vxVshl u t => Sys2Proof.Machine.execVxVshl u t s
  | .vxVshr u t => Sys2Proof.Machine.execVxVshr u t s
  | .vxVsha u t => Sys2Proof.Machine.execVxVsha u t s
  | .vxVbc u t => Sys2Proof.Machine.execVxVbc u t s
  | .vxVext u t => Sys2Proof.Machine.execVxVext u t s
  | .vxVins u t => Sys2Proof.Machine.execVxVins u t s
  | .vxVshf u t => Sys2Proof.Machine.execVxVshf u t s
  | .vxVrsum u t => Sys2Proof.Machine.execVxVrsum u t s
  | .vxVrmax u t => Sys2Proof.Machine.execVxVrmax u t s
  | .vxVrmin u t => Sys2Proof.Machine.execVxVrmin u t s
  | .vxVrcp u t => Sys2Proof.Machine.execVxVrcp u t s
  | .vxVrsq u t => Sys2Proof.Machine.execVxVrsq u t s
  | .vxVexp u t => Sys2Proof.Machine.execVxVexp u t s
  | .vxVlog u t => Sys2Proof.Machine.execVxVlog u t s
  | .vxVdot u t => Sys2Proof.Machine.execVxVdot u t s
  | .vsVcvt t => Sys2Proof.Machine.execVsVcvt t s
  | .vsVqnt t => Sys2Proof.Machine.execVsVqnt t s
  | .vsVdq t => Sys2Proof.Machine.execVsVdq t s
  | .vsVpk t => Sys2Proof.Machine.execVsVpk t s
  | .vsVupk t => Sys2Proof.Machine.execVsVupk t s
  | .vsPart t => Sys2Proof.Machine.execVsPart t s
  | .vsPcnt t => Sys2Proof.Machine.execVsPcnt t s
  | .vsVcmp t => Sys2Proof.Machine.execVsVcmp t s
  | .vsVexd t => Sys2Proof.Machine.execVsVexd t s
  | .vsVmxe t => Sys2Proof.Machine.execVsVmxe t s
  | .vsRand t => Sys2Proof.Machine.execVsRand t s
  | .vsNorm t => Sys2Proof.Machine.execVsNorm t s
  | .brBr t => Sys2Proof.Machine.execBrBr t s
  | .brBra t => Sys2Proof.Machine.execBrBra t s
  | .brCall t => Sys2Proof.Machine.execBrCall t s
  | .brCalla t => Sys2Proof.Machine.execBrCalla t s
  | .brRet t => Sys2Proof.Machine.execBrRet t s
  | .brTrap t => Sys2Proof.Machine.execBrTrap t s
  | .brHalt t => Sys2Proof.Machine.execBrHalt t s
  | .brYield t => Sys2Proof.Machine.execBrYield t s
  | .brUiret t => Sys2Proof.Machine.execBrUiret t s
  | .brWait t => Sys2Proof.Machine.execBrWait t s
  | .sqLease t => Sys2Proof.Machine.execSqLease t s
  | .sqRels t => Sys2Proof.Machine.execSqRels t s
  | .sqCfg t => Sys2Proof.Machine.execSqCfg t s
  | .sqLen t => Sys2Proof.Machine.execSqLen t s
  | .sqSeeda t => Sys2Proof.Machine.execSqSeeda t s
  | .sqSeedb t => Sys2Proof.Machine.execSqSeedb t s
  | .sqLda t => Sys2Proof.Machine.execSqLda t s
  | .sqLdb t => Sys2Proof.Machine.execSqLdb t s
  | .sqRun t => Sys2Proof.Machine.execSqRun t s
  | .sqRunc t => Sys2Proof.Machine.execSqRunc t s
  | .sqTile t => Sys2Proof.Machine.execSqTile t s
  | .sqClr t => Sys2Proof.Machine.execSqClr t s
  | .sqPromo t => Sys2Proof.Machine.execSqPromo t s
  | .sqDrain t => Sys2Proof.Machine.execSqDrain t s
  | .sqRdc t => Sys2Proof.Machine.execSqRdc t s
  | .sqStat t => Sys2Proof.Machine.execSqStat t s
  | .sqBar t => Sys2Proof.Machine.execSqBar t s
  | .sqWait t => Sys2Proof.Machine.execSqWait t s
  | .ntDefn t => Sys2Proof.Machine.execNtDefn t s
  | .ntAnn t => Sys2Proof.Machine.execNtAnn t s
  | .ntInt t => Sys2Proof.Machine.execNtInt t s
  | .ntCanc t => Sys2Proof.Machine.execNtCanc t s
  | .ntRet t => Sys2Proof.Machine.execNtRet t s
  | .ntRout t => Sys2Proof.Machine.execNtRout t s
  | .ntPin t => Sys2Proof.Machine.execNtPin t s
  | .ntUnpn t => Sys2Proof.Machine.execNtUnpn t s
  | .ntProb t => Sys2Proof.Machine.execNtProb t s
  | .ntStat t => Sys2Proof.Machine.execNtStat t s
  | .ntWait t => Sys2Proof.Machine.execNtWait t s
  | .eqLnch t => Sys2Proof.Machine.execEqLnch t s
  | .eqPop t => Sys2Proof.Machine.execEqPop t s
  | .eqPush t => Sys2Proof.Machine.execEqPush t s
  | .eqQcls t => Sys2Proof.Machine.execEqQcls t s
  | .eqCpy t => Sys2Proof.Machine.execEqCpy t s
  | .eqFill t => Sys2Proof.Machine.execEqFill t s
  | .eqMig t => Sys2Proof.Machine.execEqMig t s
  | .eqMigs t => Sys2Proof.Machine.execEqMigs t s
  | .eqCopn t => Sys2Proof.Machine.execEqCopn t s
  | .eqCred t => Sys2Proof.Machine.execEqCred t s
  | .eqCmc t => Sys2Proof.Machine.execEqCmc t s
  | .eqCxp t => Sys2Proof.Machine.execEqCxp t s
  | .eqCcls t => Sys2Proof.Machine.execEqCcls t s
  | .syCsrr t => Sys2Proof.Machine.execSyCsrr t s
  | .syCsrw t => Sys2Proof.Machine.execSyCsrw t s
  | .syFnc t => Sys2Proof.Machine.execSyFnc t s
  | .syFncx t => Sys2Proof.Machine.execSyFncx t s
  | .syFncp t => Sys2Proof.Machine.execSyFncp t s
  | .syLayo t => Sys2Proof.Machine.execSyLayo t s
  | .sySetv t => Sys2Proof.Machine.execSySetv t s
  | .syFlar t => Sys2Proof.Machine.execSyFlar t s
  | .syUie t => Sys2Proof.Machine.execSyUie t s
  | .sySeed t => Sys2Proof.Machine.execSySeed t s
  | .syEvr t => Sys2Proof.Machine.execSyEvr t s
  | .ckCmp t => Sys2Proof.Machine.execCkCmp t s
  | .ckCmpv t => Sys2Proof.Machine.execCkCmpv t s
  | .ckCmpp t => Sys2Proof.Machine.execCkCmpp t s
  | .ckSig t => Sys2Proof.Machine.execCkSig t s
  | .ckSigc t => Sys2Proof.Machine.execCkSigc t s
  | .ckInj t => Sys2Proof.Machine.execCkInj t s
  | .gsJoin t => Sys2Proof.Machine.execGsJoin t s
  | .gsLeav t => Sys2Proof.Machine.execGsLeav t s
  | .gsMemb t => Sys2Proof.Machine.execGsMemb t s
  | .gsBarr t => Sys2Proof.Machine.execGsBarr t s
  | .gsBarw t => Sys2Proof.Machine.execGsBarw t s
  | .gsRdv t => Sys2Proof.Machine.execGsRdv t s
  | .gsSegb t => Sys2Proof.Machine.execGsSegb t s
  | .gsSegc t => Sys2Proof.Machine.execGsSegc t s
  | .gsFlgw t => Sys2Proof.Machine.execGsFlgw t s
  | .gsTokw t => Sys2Proof.Machine.execGsTokw t s
  | .gsWto t => Sys2Proof.Machine.execGsWto t s

end Sys2Proof.Machine
end

