-- ==== Sys2Proof/WellFormed.lean ====
section
/-! DEFINITION. Which terms are steps of the machine. -/

namespace Sys2Proof

/-- Bytes of a host access stay below one line and it has some (R390). -/
def HostAccess.wf : HostAccess → Bool
  | .read pa _ n => decide (0 < n) && decide (pa % 128 + n ≤ 128)
  | .write pa _ bytes => decide (0 < bytes.length) && decide (pa % 128 + bytes.length ≤ 128)

/-- A term is a step of the table: a data move names no reserved destination (R37), and a host access is one transfer
of at most one line. -/
def Instr.wf : Instr → Bool
  | .dataMove _ (.p n) _ => n != 0
  | .hostMemoryAccess a => a.wf
  | _ => true

end Sys2Proof
end

