-- ==== Sys2Proof/Machine/Step.lean ====
section
/-! DEFINITION. One step of the machine: the step that is due, or, when none is, the passing of a core cycle
(log entry 4). -/

namespace Sys2Proof.Machine

/-- One step: the first step of the agenda, which the others then follow; with nothing due, a core cycle passes. -/
def step (s : State) : Host.Outcome State Fault Refusal :=
  match s.m.agenda with
  | [] => .next (passCycle s)
  | i :: rest => if i.wf then exec i { s with m := { s.m with agenda := rest } } else .refused .illFormed

/-- A task whose next bundle holds an instruction's word in slot 0, with that bundle's issue due next (log entry 40): the
bundle is fetched and issues in the next step. The bits above nbits are zero. -/
def State.withFetchWord (s : State) (nbits w : Nat) : State := place (w % 2 ^ min nbits 24) s

end Sys2Proof.Machine
end

