-- ==== Sys2Proof/Safety.lean ====
section
/-! DEFINITION. What a sound state is, in the terms that statements use. -/

namespace Sys2Proof

open Sys2Proof.Machine

/-- A step answers a next state. -/
def Machine.Goes (o : Out) : Prop := ∃ t, o = .next t

/-- The number of tick boundaries that have passed, as the 48-bit counter counts them (R22). -/
def Machine.Clock.ticks (c : Clock) : BitVec 48 := BitVec.ofNat 48 (c.cycle / 1024)

/-- The tick counter has counted every boundary that has passed, but for one whose TICK_INCREMENT is the very next step
(R22). -/
def Machine.State.TickFollows (s : State) : Prop :=
  s.clk.tick = s.clk.ticks ∨ (s.m.agenda.head? = some .tickIncrement ∧ s.clk.tick + 1 = s.clk.ticks)

/-- Every memory is in its canonical form. -/
def Machine.Mach.MemWf (m : Mach) : Prop :=
  m.mem.wf = true ∧ m.memChk.wf = true ∧ m.spad.wf = true ∧ m.spadChk.wf = true

/-! ### A slot that acts -/

/-- The trigger move i acts in the bundle being issued: no earlier slot has stopped the bundle, the guard is true, no
earlier trigger of the bundle has named the unit, and no open segment forbids the operation (R33, R34, R44, R340). -/
def Machine.State.acts (s : State) (i : Instr) : Bool :=
  match opCode i with
  | some (u, o, t) =>
    decide (s.m.issue.out = .going) && enabled s.m t.guard && !s.m.issue.units.contains u
      && !(inSegment s.m && segmentForbids u o)
  | none => false

/-- The slot's source delivers x: it is no literal outside the pool, and no item of bad parity (R35, R42, R382). -/
abbrev Machine.State.Reads (s : State) (src : Src) (x : W512) : Prop :=
  slotSource ⟨s.boot, s.clk⟩ s.m s.m.issue.slot src = some x
    ∧ badOperand s.m s.m.issue.slot src = false

/-- Port k of unit f holds x, with good parity, as the bundle's triggers see it (R43, R382). -/
abbrev Machine.State.Port (s : State) (f k : Nat) (x : W512) : Prop :=
  s.m.issue.ports.get 0 (portCode f k) = x
    ∧ (s.m.issue.start.bad.contains (0x1000 + portCode f k) && !(s.m.issue.moved.contains (portCode f k))) = false

/-- The bundle's record once the trigger i acts: the slot's encoding, and that its unit has been named (R44, R426). -/
def Machine.Mach.began (m : Mach) (i : Instr) : Mach :=
  match opCode i with
  | some (u, _, _) => m.modIssue fun x => { x with raw := (encode i).getD 0, units := u :: x.units }
  | none => m.modIssue fun x => { x with raw := (encode i).getD 0 }

/-- The state once the trigger i acts, before its effect. -/
def Machine.State.began (s : State) (i : Instr) : State := { s with m := s.m.began i }

/-- A value on its way to latch q of the issuing context, due lat cycles after issue (R47). -/
def Machine.State.sends (s : State) (q lat : Nat) (v : W512) : State :=
  { s with m := s.m.modCur fun c =>
      { c with res := c.res ++ [{ latch := q, value := v, due := s.clk.cycle + lat, wait := .none, buf := [] }] } }

/-- Loaded data on its way to latch q of the issuing context, due lat cycles after issue or when it arrives (R49, R200). -/
def Machine.State.sendsLoad (s : State) (q lat : Nat) (v : W512) (buf : List Nat) : State :=
  { s with m := s.m.modCur fun c =>
      { c with res := c.res ++ [{ latch := q, value := v, due := s.clk.cycle + lat, wait := .data, buf := buf }] } }

/-- A store of the issuing context on its way to its home (R304, R311), with the free values that say when it is performed
and which loads of another alias class see it before (R306, R307). -/
def Machine.State.sendsStore (s : State) (a : Acc) (bs : List Byte) : State :=
  { s with m := ({ s.m with seed := s.m.seed + 1 } : Mach).modCur fun c =>
      { c with nextStore := c.nextStore + 1,
               stq := c.stq ++ [{ id := c.nextStore, loc := a.loc, bytes := bs, cls := a.cls, acls := a.acls,
                                  gaddr := a.gaddr, legend := a.legend, buf := a.buf, sent := s.clk.cycle,
                                  no := s.m.seed }] } }

/-- The trigger i, when it acts, answers the state in which v is on its way to latch q, due lat cycles after issue, and
nothing else has changed but the bundle's record. -/
def Machine.State.Delivers (s : State) (i : Instr) (q lat : Nat) (v : W512) : Prop :=
  s.acts i = true → exec i s = .next ((s.began i).sends q lat v)

/-- The same for a value of 64 bits. -/
def Machine.State.DeliversWord (s : State) (i : Instr) (q lat : Nat) (v : W64) : Prop :=
  s.Delivers i q lat (v.setWidth 512)

/-- The state once the trigger i acts and changes nothing but the bundle's record. -/
def Machine.State.notes (s : State) (i : Instr) (f : Issue → Issue) : State := { s with m := (s.m.began i).modIssue f }

/-- The slot at hand has raised a fault with a cause and a tval, from s to t (R45, R114): the slots below it, and those
named, count as done; tbundle, tslot, tdone, tcause and tval say so; the privilege is saved and becomes supervisor inside
a trap; the context starts at tvec with no transfer pending, ports and latches reading zero and no results due; and g, v,
p and i are left as they stand. -/
def Machine.State.Trapped (s t : State) (cause : Nat) (tval : W64) (done : Nat) : Prop :=
  t.m.issue.out = .stopped
  ∧ t.m.cur.csr.tcause = BitVec.ofNat 8 cause ∧ t.m.cur.csr.tval = tval ∧ t.m.cur.csr.tslot = s.m.issue.slot
  ∧ t.m.cur.csr.tdone = s.m.issue.done ||| BitVec.ofNat 8 (2 ^ done - 1) ∧ t.m.cur.csr.tbundle = s.m.issue.addr
  ∧ t.m.cur.csr.ppriv = s.m.cur.csr.priv ∧ t.m.cur.csr.priv = true ∧ t.m.cur.csr.intrap = true
  ∧ t.m.cur.pc = (t.m.die (s.m.issue.ck / 768)).tvec.setWidth 64 ∧ t.m.cur.pend = none
  ∧ t.m.cur.ports = [] ∧ t.m.cur.latches = [] ∧ t.m.cur.res = []
  ∧ t.m.cur.g = s.m.cur.g ∧ t.m.cur.v = s.m.cur.v ∧ t.m.cur.p = s.m.cur.p ∧ t.m.cur.i = s.m.cur.i

/-- The trigger i, when it acts outside a trap handler, raises a fault with a cause and a tval at its slot. -/
def Machine.State.Faults (s : State) (i : Instr) (cause : Nat) (tval : W64) : Prop :=
  s.acts i = true → s.m.cur.csr.intrap = false → ∃ t, exec i s = .next t ∧ s.Trapped t cause tval s.m.issue.slot

/-- The trigger i, when it acts, blocks its bundle (R106): the bundle's record says what it waits for, and nothing else
has changed. -/
def Machine.State.Blocks (s : State) (i : Instr) (w : Wait) (operand : W64) (bounded : Bool) : Prop :=
  s.acts i = true → exec i s = .next (s.notes i fun x => { x with out := .blocked ⟨w, s.m.issue.slot, operand, bounded⟩ })

/-- From s to t an operation has sent a value to latch q, due lat cycles after issue, and has changed nothing else of its
context, no byte of scratchpad and not the clock. -/
def Machine.State.Answered (s t : State) (q lat : Nat) (v : W64) : Prop :=
  t.m.issue.out = .going ∧ t.m.cur = (s.sends q lat (v.setWidth 512)).m.cur ∧ t.m.spad = s.m.spad
    ∧ t.clk = s.clk ∧ t.boot = s.boot

/-- The issuing context's stores that are on their way, ordered before its later accesses of every alias class, as an
acquire, a release and a fence order them (R312). -/
def Machine.State.ordered (s : State) : State := { s with m := orderClasses s.m.issue.ck s.m.cur.nextStore s.m }

/-- The number of the issuing task's next operation of a kind (R332). -/
def Machine.State.nextSeq (s : State) (kind : Nat) : Nat := s.m.curTask.seqs.get 0 kind % (2 ^ 32 - 1) + 1

/-- From s to t an operation has issued the task's next token of a kind, sent its handle to latch q, due lat cycles after
issue, and changed nothing else of its context (R332, R333). -/
def Machine.State.TokenIssued (s t : State) (kind q lat : Nat) : Prop :=
  s.Answered t q lat (BitVec.ofNat 64
      (kind * 2 ^ 52 + s.m.issue.d * 2 ^ 48 + s.m.cur.frame * 2 ^ 32 + s.nextSeq kind))
    ∧ ∃ k ∈ t.m.curTask.toks, k.kind = kind ∧ k.seq = s.nextSeq kind ∧ k.done = none

/-- From m to n the token of a number of the task of an owner completes with a value, if that task is still there and the
token is not complete (R332). -/
def Machine.Mach.Completes (m n : Mach) (owner kind seq : Nat) (v : W64) : Prop :=
  ownerLives m owner = true → ∀ k ∈ (m.task (owner % 49152)).toks, k.kind = kind → k.seq = seq → k.done = none →
    { k with done := some v } ∈ (n.task (owner % 49152)).toks

/-- From m to n the token of a kind and number of a task completes with a value, if it is not complete, and the task's other
tokens stay as they are (R256, R332). -/
def Machine.Mach.TokenDone (m n : Mach) (tk kind seq : Nat) (v : W64) : Prop :=
  (n.task tk).toks = (m.task tk).toks.map fun k =>
    if k.kind = kind ∧ k.seq = seq ∧ k.done = none then { k with done := some v } else k

/-- The issuing core's L1 holds no bytes of a peer package. -/
def Machine.State.NoPeerBytes (s : State) : Prop := ∀ p ∈ (s.m.core s.m.issue.core).sectors, p.2.isPeer = false

/-- The sectors of the issuing core's L1 are listed by rising keys, and none holds stores for a peer package. -/
def Machine.State.NoPeerSectors (s : State) : Prop :=
  (s.m.core s.m.issue.core).sectors.rising = true ∧ ∀ k sec, (s.m.core s.m.issue.core).sectors.find k = some sec → sec.stores = []

/-! ### Vector operations -/

/-- The element format in force for the bundle's operations (R153, R154). -/
def Machine.State.elem (s : State) : Elem := elemOf s.m.issue.fmt

/-- The 24 random bits of the rounding in lane j at step k (R155): only RSTO reads them. -/
def Machine.State.randomBits (s : State) (j k : Nat) : Nat :=
  if s.m.issue.mode = 4 then rand s.m.issue.key.toNat j ((s.m.cur.csr.rctr.toNat + k) % 2 ^ 40) / 2 ^ 40 else 0

/-- In RSTO the counter advances by k, else nothing changes (R155). -/
def Machine.State.counts (s : State) (k : Nat) : State :=
  if s.m.issue.mode = 4 then
    { s with m := s.m.modCur fun c => { c with csr := { c.csr with rctr := c.csr.rctr + BitVec.ofNat 40 k } } }
  else s

/-- The rounding steps of an operation that has k of them in a float format and none in an integer one (R155). -/
def Machine.State.floatSteps (s : State) (k : Nat) : Nat :=
  match s.elem with
  | .flt _ => k
  | .int _ => 0

/-- The trigger i, when it acts, sends a value to latch q that is determined lane by lane, lanes of w bits, after the
counter has advanced by k steps; nothing else changes. -/
def Machine.State.DeliversLanes (s : State) (i : Instr) (q lat k w : Nat) (lane : Nat → Nat) : Prop :=
  s.acts i = true → ∃ v : W512, exec i s = .next (((s.began i).counts k).sends q lat v)
    ∧ ∀ j < 512 / w, laneN v.toNat w j = lane j % 2 ^ w

/-! ### Memory as its homes hold it -/

/-- The scratchpad line that holds a byte reads CLEAN (R375). -/
def Machine.Mach.spadClean (m : Mach) (core off : Nat) : Bool :=
  (decodeCopy (spadLegend m core off) (ofBytes (m.spad.bytes (spadAddr core off / 128 * 128) 128))
    (ofBytes (m.spadChk.bytes (spadAddr core off / 128 * 16) 16))).sev == 0

/-- Moving a line at its home evicts no other: the L2 holds it, or its set of 16 ways has room, or every way of the set is
pinned (R217). -/
def Machine.Mach.l2Room (m : Mach) (la : Nat) : Bool :=
  (m.l2.find la).isSome || decide ((l2Ways m la).length < 16) || l2AllPinned m la

/-- The line of physical memory that holds a byte reads CLEAN at its home under a legend (R217, R375), and moving it evicts
no other line. -/
def Machine.Mach.homeClean (m : Mach) (legend pa : Nat) : Bool :=
  m.l2Room (pa / 128) &&
  match m.l2.find (pa / 128) with
  | some l => (decodeCopy l.legend l.data.toNat l.chk.toNat).sev == 0
  | none => (decodeCopy legend (memData m (pa / 128)) (memCheck m (pa / 128))).sev == 0

/-- The byte that the home of a physical address holds: the L2's copy of its line, else memory's (R217). -/
def Machine.Mach.byteAt (m : Mach) (pa : Nat) : Byte :=
  match m.l2.find (pa / 128) with
  | some l => BitVec.ofNat 8 (l.data.toNat >>> (8 * (pa % 128)))
  | none => m.mem.read pa

/-- The n bytes of a core's scratchpad from an offset. -/
def Machine.Mach.spadBytesAt (m : Mach) (core off n : Nat) : List Byte :=
  (List.range n).map fun i => m.spad.read (spadAddr core off + i)

/-- A C address names an offset of a core's scratchpad, and n bytes from there lie in it (R182, R184, R186). -/
def Machine.Mach.NamesSpad (m : Mach) (d : Nat) (a : W64) (n core off : Nat) : Prop :=
  a.toNat / 2 ^ 58 % 8 = 2 ∧ a.toNat / 2 ^ 30 % 2 ^ 28 = 0 ∧ a.toNat / 2 ^ 22 % 2 ^ 8 < 192
    ∧ core = d * 192 + a.toNat / 2 ^ 22 % 2 ^ 8 ∧ off = a.toNat % 2 ^ 22 ∧ off + n ≤ spadBytes (m.core core).l1

/-- From m to n the bytes of a core's scratchpad from an offset have become those of a list, and no others of any have
changed. -/
def Machine.Mach.SpadWritten (m n : Mach) (core off : Nat) (bs : List Byte) : Prop :=
  ∀ a, n.spad.read a = if core * 2 ^ 22 + off ≤ a ∧ a < core * 2 ^ 22 + off + bs.length then
    bs.getD (a - (core * 2 ^ 22 + off)) 0 else m.spad.read a

/-- From m to n the bytes that their homes hold from a physical address have become those of a list, and no others have
changed. -/
def Machine.Mach.HomeWritten (m n : Mach) (pa : Nat) (bs : List Byte) : Prop :=
  ∀ a, n.byteAt a = if pa ≤ a ∧ a < pa + bs.length then bs.getD (a - pa) 0 else m.byteAt a

/-- An L address of the issuing context with offset `off`: its fields, and an access of w bytes within the run and
aligned (R182, R183, R186). -/
def Machine.State.InRun (s : State) (x : W64) (w : Nat) : Prop :=
  x.toNat / 2 ^ 58 % 8 = 1 ∧ x.toNat / 2 ^ 22 % 2 ^ 36 = 0 ∧ x.toNat % w = 0
    ∧ x.toNat % 2 ^ 22 + w ≤ s.m.cur.csr.spadSize

/-- The offset in the issuing core's scratchpad that an L address names (R183). -/
def Machine.State.runOffset (s : State) (x : W64) : Nat := s.m.cur.csr.spadBase + x.toNat % 2 ^ 22

/-- The access that an L address makes (R183, R370). -/
def Machine.State.runAcc (s : State) (x : W64) : Acc :=
  { loc := .spad s.m.issue.core (s.runOffset x), cls := .bank, legend := 0, buf := 0, gaddr := x,
    acls := x.toNat / 2 ^ 61 }

/-- The tree of R363 over at most 2^k elements: the first half of them that a power of two counts, and the rest. -/
def Machine.splitTree (op : Nat → Nat → Nat) : Nat → List Nat → Nat
  | 0, xs => xs.getD 0 0
  | k + 1, xs =>
    if xs.length ≤ 2 ^ k then Machine.splitTree op k xs
    else op (Machine.splitTree op k (xs.take (2 ^ k))) (Machine.splitTree op k (xs.drop (2 ^ k)))

/-- From m to n the k-th copy job of a die has written line i: it is marked as done, and the bytes at the location of acc
are those of a list. -/
def Machine.Mach.LineCopied (m n : Mach) (d k i : Nat) (j : Job) (acc : Acc) (bs : List Byte) : Prop :=
  (∃ j2, (n.die d).copyQ[k]? = some j2 ∧ j2.doneLines = i :: j.doneLines)
    ∧ (∀ core off, acc.loc = .spad core off → m.SpadWritten n core off bs ∧ n.mem = m.mem)
    ∧ ∀ pa, acc.loc = .phys pa → m.HomeWritten n pa bs ∧ n.spad = m.spad

/-- The line of a location of this package reads CLEAN, n bytes from the location lie in it, and moving it evicts no other
line. -/
def Machine.Mach.lineClean (m : Mach) (acc : Acc) (n : Nat) : Bool :=
  match acc.loc with
  | .spad core off => decide (off < 2 ^ 22) && decide (off % 128 + n ≤ 128) && m.spadClean core off
  | .phys pa => decide (pa % 128 + n ≤ 128) && m.homeClean acc.legend pa
  | .peer _ _ _ _ => false

/-- The n bytes from a location of this package, as its home holds them. -/
def Machine.Mach.bytesAt (m : Mach) (l : Loc) (n : Nat) : List Byte :=
  match l with
  | .spad core off => m.spadBytesAt core off n
  | .phys pa => (List.range n).map fun i => m.byteAt (pa + i)
  | .peer _ _ _ _ => []

/-! ### Placement -/

/-- The granules g to g + need - 1 of a core's scratchpad are free (R88, R95). -/
def Machine.Mach.FreeRun (m : Mach) (core need g : Nat) : Prop :=
  g + need ≤ spadBytes (m.core core).l1 / 16384
    ∧ ∀ p ∈ m.tasks, p.1 / 3072 = core / 192 → p.1 % 3072 / 16 = core % 192 → p.2.st ≠ .free →
        g + need ≤ p.2.spadBase / 16384 ∨ p.2.spadBase / 16384 + p.2.granules ≤ g

/-- A launch's affinity permits a rank's lease group (R83). -/
def Machine.Launch.Permits (l : Launch) (r : Nat) : Prop := l.affinity = 0 ∨ l.affinity / 2 ^ (r / 24) % 2 = 1

/-- The granules that a task of a launch takes (R88, R95). -/
def Machine.Launch.need (l : Launch) : Nat := (l.spad + 16383) / 16384

/-- A core is eligible for a task of a launch (R88), has a free frame (R109), and has taken its die's split (R178). -/
def Machine.Mach.Eligible (m : Mach) (d : Nat) (l : Launch) (r : Nat) : Prop :=
  r < 192 ∧ l.Permits r ∧ splitTaken m d r = true ∧ (∃ x < 4, (m.ctx (d * 768 + r * 4 + x)).st = .free)
    ∧ (∃ j < 16, (m.task (d * 3072 + 16 * r + j)).st = .free) ∧ ∃ g, m.FreeRun (d * 192 + r) l.need g

/-- A rank's turn in the rotation of a die's placements (R88). -/
def Machine.Mach.turn (m : Mach) (d r : Nat) : Nat := (r + 191 - (m.die d).lastRank) % 192

/-- A core is a candidate for pre-emption for a task of a launch (R94), and has taken its die's split (R178). -/
def Machine.Mach.Candidate (m : Mach) (d : Nat) (l : Launch) (r : Nat) : Prop :=
  r < 192 ∧ l.Permits r ∧ splitTaken m d r = true ∧ (∀ x < 4, (m.ctx (d * 768 + r * 4 + x)).st ≠ .free)
    ∧ (coreTasks m (d * 192 + r)).length < 16 ∧ ∃ g, m.FreeRun (d * 192 + r) l.need g

/-- Context x of rank r runs the task that is to give way to one of a launch (R94): of a class below the launch's, and
among those on candidate cores of the lowest class, then of the lowest rank, then of the highest context number. -/
def Machine.Mach.GivesWay (m : Mach) (d : Nat) (l : Launch) (r x : Nat) : Prop :=
  m.Candidate d l r ∧ x < 4 ∧ (m.ctx (d * 768 + r * 4 + x)).preemptible = true
    ∧ l.cls < ctxClass m (d * 768 + r * 4 + x)
    ∧ ∀ r' x', m.Candidate d l r' → x' < 4 → (m.ctx (d * 768 + r' * 4 + x')).preemptible = true →
        ctxClass m (d * 768 + r' * 4 + x') < ctxClass m (d * 768 + r * 4 + x)
        ∨ ctxClass m (d * 768 + r' * 4 + x') = ctxClass m (d * 768 + r * 4 + x) ∧ (r < r' ∨ r = r' ∧ x' ≤ x)

/-! ### Events -/

/-- From s to t one context has become c, and nothing else has changed. -/
def Machine.State.CtxBecomes (s t : State) (ck : Nat) (c : Ctx) : Prop :=
  (∀ k, t.m.ctx k = if k = ck then c else s.m.ctx k) ∧ t.m = { s.m with ctxs := t.m.ctxs } ∧ t.clk = s.clk ∧ t.boot = s.boot

/-- From s to t one Rhavor link has become x, and no other part of the machine but dies has changed. -/
def Machine.State.LinkBecomes (s t : State) (l : Nat) (x : Link) : Prop :=
  (∀ k, t.m.link k = if k = l then x else s.m.link k) ∧ t.m.mem = s.m.mem ∧ t.m.ctxs = s.m.ctxs ∧ t.m.tasks = s.m.tasks
    ∧ t.clk = s.clk ∧ t.boot = s.boot

/-- From s to the machine n a die has numbered one more event record and put it first in its event store: its type, the
tick, and the other bits of its body (R393). -/
def Machine.State.Recorded (s : State) (n : Mach) (d type body : Nat) : Prop :=
  (n.die d).evCount = (s.m.die d).evCount + 1
    ∧ (n.die d).evStore = (⟨type, BitVec.ofNat 512 (type + body + s.clk.tick.toNat * 2 ^ 128)⟩ :: (s.m.die d).evStore).take 256

/-- The core of a die and rank takes the context ck as the one to issue, which stands in the way of its next bundle as the
verdict v says, in the machine n that fetching it has led to (R41, R107). -/
def Machine.State.Judged (s : State) (d r ck : Nat) (v : IssueVerdict) (n : Mach) : Prop :=
  Env.live ⟨s.boot, s.clk⟩ d = true ∧ s.boot.failed = false ∧ issuer (coreKey d r) (pickCur (coreKey d r) s.m) = some ck
    ∧ judgeIssue ⟨s.boot, s.clk⟩ ck (pickCur (coreKey d r) s.m) = (v, n)

end Sys2Proof
end

