-- ==== Sys2Proof/Certificates/Slice0/Obligations.lean ====
section
/-! DEFINITION. The statements for the provers: what the numbered rules of spec/ say the machine does. -/

open Sys2Proof Sys2Proof.Machine

/-! ### Steps, decoding, and what every step keeps -/

/-- A step carries out the step that is due; with nothing due, a core cycle passes (log entry 4).
Within a bundle, a slot whose bits decode to an instruction runs exactly that instruction, but for a wait of a re-issued
bundle whose time is over (R32, R45, R334). -/
def Obligations.StepsRunInstructions : Prop :=
  ((∀ (s : State) (i : Instr) (rest : List Instr), s.m.agenda = i :: rest → i.wf = true →
        step s = exec i { s with m := { s.m with agenda := rest } })
    ∧ ∀ s : State, s.m.agenda = [] → step s = .next (passCycle s))
  ∧ (∀ (s : State) (w : BitVec 24) (k : Nat) (i : Instr), decodeSlot w = some i →
      s.m.issue.out = .going → s.m.issue.done.getLsbD k = false → s.m.issue.start.timedOut = none →
      exec i { s with m := s.m.modIssue fun x => { x with slot := k, raw := w } }
        = .next { s with m := actSlot ⟨s.boot, s.clk⟩ (⟨w, decodeSlot w⟩, k) s.m })

/-- BUNDLE_ISSUE lets the slots of the bundle that was fetched act in ascending order after its port moves; when none of
them stops it, and it makes no halt or yield and is no delay bundle of a return, the context goes on after it, or at the
target of the transfer whose delay bundle it is, which is then no longer pending, with the registers as the slots left
them and the control and status registers as the bundle's setting operations ask (R30, R41, R43, R45, R51, R131, R154).
The bundle charges its task 89 pJ (R403).  Traced in mode 2, where its turn comes, it writes a record of its address and of
the cycles since the last one to the trace ring; not traced, it writes none (R410).
A call's link is due on br.q as its delay bundle issues: the address after that bundle (R125).
In the delay bundle of a return from a user interrupt, the main bank of g112 to g127 and p1 to p7 return, inui becomes 0,
and the context goes on at the target of the return (R130); that p1 to p7 stand in the byte at frame + 0x6700, and that
the target is the return's pending transfer, are the model's choices (log entries 66 and 67).
A bundle that is not fetched does not issue: the first condition of R31 that holds decides the fault, and after those the
translation (R214); that the page is judged before the words read is the model's choice (log entry 41).  The fault is
raised with tslot 8, tdone 0, the fetched address in tbundle and the bundle that led to it in tval, and an absent page
suspends the task on it (R31, R119, R214). -/
def Obligations.BundleIssueRunsItsSlots : Prop :=
  (∀ (s : State) (d : Fin 16) (r : Fin 192) (ck : Nat) (b : Bundle) (m m1 : Mach),
    s.Judged d.val r.val ck (.go b) m →
    m1 = b.slots.zipIdx.foldl (fun m p => actSlot ⟨s.boot, s.clk⟩ p m)
      (movePorts ⟨s.boot, s.clk⟩ ((beginIssue ⟨s.boot, s.clk⟩ ck b m).modCtx ck Ctx.unblock)) →
    m1.issue.out = .going → m1.issue.halt = false → (m1.ctx ck).haltPend = false → m1.issue.yield_ = false →
    m1.issue.ck = ck →
    (m1.issue.start.retPend = 0 → ∃ t, exec (.bundleIssue d r) s = .next t
      ∧ (t.m.ctx ck).pc
          = (match m1.issue.start.pend with
             | some target => target
             | none => m1.issue.addr + BitVec.ofNat 64 (32 * (1 + b.lx)))
      ∧ (t.m.ctx ck).pend = (match m1.issue.start.pend with | some _ => none | none => m1.issue.pend)
      ∧ (t.m.ctx ck).link = (match m1.issue.start.pend with | some _ => false | none => m1.issue.link)
      ∧ (t.m.ctx ck).lastIssue = s.clk.cycle
      ∧ (t.m.ctx ck).g = (m1.ctx ck).g ∧ (t.m.ctx ck).v = (m1.ctx ck).v ∧ (t.m.ctx ck).p = (m1.ctx ck).p
      ∧ (t.m.ctx ck).ports = (m1.ctx ck).ports ∧ (t.m.ctx ck).res = (m1.ctx ck).res
      ∧ (t.m.ctx ck).csr
          = { ((applySettings m1).ctx ck).csr with rctr := m1.issue.rctr.getD (m1.ctx ck).csr.rctr }
      ∧ ∀ (tk f : Nat) (y : Die), f = (m.ctx ck).frame → tk = ck / 768 * 3072 + f → y = m1.die (ck / 768) →
        m1.issue.newCsr = [] →
        (y.trcCtl % 4 = 0 ∨ y.trcStop = true ∨ y.trcCtl.testBit 28 = true ∧ y.trcCtl / 2 ^ 16 % 2 ^ 12 ≠ f →
          t.m.mem = m1.mem ∧ (t.m.die (ck / 768)).trc = y.trc
          ∧ ((m1.task tk).st ≠ .free → (t.m.task tk).energy = (m1.task tk).energy + 890000))
        ∧ ∀ (word : Nat) (m2 : Mach), y.trcCtl % 4 = 2 → y.trcStop = false →
            (y.trcCtl.testBit 28 = true → y.trcCtl / 2 ^ 16 % 2 ^ 12 = f) →
            y.trcBundles % 2 ^ (y.trcCtl / 2 ^ 4 % 2 ^ 4) = 0 → y.trc.en = true → y.trc.full = false →
            word = (m.ctx ck).pc.toNat % 2 ^ 48 + 8 * 2 ^ 48 + 2 ^ 52 →
            ringWriteWith event ⟨s.boot, s.clk⟩ (ck / 768) y.trc (bytesOf word 8 ++ bytesOf (s.clk.cycle - y.trcLast) 8)
              (m1.modDie (ck / 768) fun z => { z with trcBundles := y.trcBundles + 1, trcLast := s.clk.cycle }) = (true, m2) →
            t.m.mem = m2.mem ∧ (t.m.die (ck / 768)).trc.tail = (m2.die (ck / 768)).trc.tail + 1)
    ∧ (m1.issue.start.retPend = 1 → m1.issue.newCsr = [] → (m1.die (ck / 768)).trcCtl = 0 →
      m1.homeClean 0 (frameAddr m1 (ck / 768) (m1.ctx ck).frame + 0x6700) = true →
      frameAddr m1 (ck / 768) (m1.ctx ck).frame % 128 = 0 → ∃ t, exec (.bundleIssue d r) s = .next t
      ∧ (t.m.ctx ck).csr.inui = false
      ∧ (t.m.ctx ck).pc = m1.issue.start.pend.getD ((m1.ctx ck).csr.uiepc.setWidth 64)
      ∧ (t.m.ctx ck).pend = none ∧ (t.m.ctx ck).retPend = 0
      ∧ (t.m.ctx ck).p = m1.byteAt (frameAddr m1 (ck / 768) (m1.ctx ck).frame + 0x6700) ||| 1
      ∧ (t.m.ctx ck).g = (m1.ctx ck).g ∧ (t.m.ctx ck).shadow = (m1.ctx ck).shadow
      ∧ (t.m.ctx ck).v = (m1.ctx ck).v ∧ (t.m.ctx ck).uiq = (m1.ctx ck).uiq
      ∧ (∀ n, 112 ≤ n → n < 128 → (t.m.ctx ck).readG n = (m1.ctx ck).g.get 0 n)))
  ∧ (∀ (s : State) (d : Fin 16) (r : Fin 192) (ck : Nat) (b : Bundle) (m : Mach),
    s.Judged d.val r.val ck (.go b) m → ((pickCur (coreKey d.val r.val) s.m).ctx ck).link = true →
      (m.ctx ck).link = false ∧ (m.ctx ck).pc = ((pickCur (coreKey d.val r.val) s.m).ctx ck).pc
      ∧ ({ latch := 12, value := ((m.ctx ck).pc + BitVec.ofNat 64 (32 * (1 + b.lx))).setWidth 512, due := s.clk.cycle,
           wait := .none, buf := [] } : Res) ∈ (m.ctx ck).res)
  ∧ (∀ (e : Env) (d frame : Nat) (a : W64) (m m' : Mach) (l : Option (Nat × Leaf)), walk e d a.toNat m = (l, m') →
    (2 ^ 48 ≤ a.toNat → (fetchMemory e d frame a m).1 = .fault 5)
    ∧ (a.toNat < 2 ^ 48 → a.toNat % 32 ≠ 0 → (fetchMemory e d frame a m).1 = .fault 3)
    ∧ (a.toNat < 2 ^ 48 → a.toNat % 32 = 0 →
        (l = none → (fetchMemory e d frame a m).1 = .fault 6)
        ∧ ∀ (p : Nat) (f : Leaf), l = some (p, f) →
          (f.pr = false → f.x = false → (fetchMemory e d frame a m).1 = .fault 6)
          ∧ (f.pr = false → f.x = true → (fetchMemory e d frame a m).1 = .absent a.toNat)
          ∧ ∀ (g : Got) (m2 : Mach) (w : Nat),
              homeRead e ⟨1, d, frame⟩ f.legend ((f.pa + a.toNat % 2 ^ 21) / 128) m' = (g, m2) → f.pr = true →
              w = g.data / 2 ^ (8 * ((f.pa + a.toNat % 2 ^ 21) % 128 / 32 * 32)) % 2 ^ 32 →
              (g.sev = 3 → f.x = true → (fetchMemory e d frame a m).1 = .fault 9)
              ∧ (g.sev ≠ 3 →
                (w / 2 ^ 30 = 3 → (fetchMemory e d frame a m).1 = .fault 4)
                ∧ (w / 2 ^ 30 < 2 ∨ w / 2 ^ 30 = 2 ∧ (w / 2 ^ 28 % 4 = 3 ∨ w % 2 ^ 24 ≠ 0) →
                    (fetchMemory e d frame a m).1 = .fault 2)
                ∧ (w / 2 ^ 28 = 8 → w % 2 ^ 24 = 0 → f.x = false → (fetchMemory e d frame a m).1 = .fault 6)
                ∧ (w / 2 ^ 28 = 8 → w % 2 ^ 24 = 0 → f.x = true →
                    ∃ block : BitVec 256, (fetchMemory e d frame a m).1 = .ok [block] ∧ block.toNat % 2 ^ 32 = w)
                ∧ ∀ (x : FetchBlock) (m3 : Mach), fetchBlock e d frame (a.toNat + 32) m2 = (x, m3) → w / 2 ^ 28 = 9 →
                    w % 2 ^ 24 = 0 → ∀ y : BitVec 256, x.bits = some y →
                    (y.toNat % 2 ^ 32 ≠ 0xC0000000 → (fetchMemory e d frame a m).1 = .fault 2)
                    ∧ ∀ k : Leaf, y.toNat % 2 ^ 32 = 0xC0000000 → x.leaf = some k → k.x = true → k.pr = true → f.x = true →
                        ∃ block : BitVec 256, (fetchMemory e d frame a m).1 = .ok [block, y]
                          ∧ block.toNat % 2 ^ 32 = w)))
  ∧ ∀ (s : State) (d : Fin 16) (r : Fin 192) (ck : Nat) (m : Mach), (m.ctx ck).csr.intrap = false →
      (∀ va : Nat, s.Judged d.val r.val ck (.absent va) m → ∃ t, exec (.bundleIssue d r) s = .next t
        ∧ (t.m.task (taskKey (ck / 768) (m.ctx ck).frame)).page = some (va / 2 ^ 21 % 2 ^ 27)
        ∧ ((t.m.task (taskKey (ck / 768) (m.ctx ck).frame)).st = .waitPage ∨ (t.m.ctx ck).st = .page))
      ∧ ∀ cause : Nat, s.Judged d.val r.val ck (.fault cause) m → ∃ t, exec (.bundleIssue d r) s = .next t
        ∧ (t.m.ctx ck).csr.tcause = BitVec.ofNat 8 cause ∧ (t.m.ctx ck).csr.tval = (m.ctx ck).src
        ∧ (t.m.ctx ck).csr.tslot = 8 ∧ (t.m.ctx ck).csr.tdone = 0 ∧ (t.m.ctx ck).csr.tbundle = (m.ctx ck).pc
        ∧ (t.m.ctx ck).csr.ppriv = (m.ctx ck).csr.priv ∧ (t.m.ctx ck).csr.priv = true
        ∧ (t.m.ctx ck).csr.intrap = true ∧ (t.m.ctx ck).pc = (t.m.die (ck / 768)).tvec.setWidth 64
        ∧ (t.m.ctx ck).ports = [] ∧ (t.m.ctx ck).latches = [] ∧ (t.m.ctx ck).res = []
        ∧ (t.m.ctx ck).g = (m.ctx ck).g ∧ (t.m.ctx ck).v = (m.ctx ck).v ∧ (t.m.ctx ck).p = (m.ctx ck).p

/-- Words written out from the spec's encodings decode to the slots they stand for (R32, R33, R35, R37, R52, R140). -/
def Obligations.WordsOfTheSpec : Prop :=
  decodeSlot 0x805C03 = some (.ixMul 0 ⟨⟨false, 0⟩, .g 3⟩)
  ∧ decodeSlot 0x813C08 = some (.ixCltu 2 ⟨⟨false, 0⟩, .g 8⟩)
  ∧ decodeSlot 0x8064F0 = some (.ixMulhu 0 ⟨⟨false, 0⟩, .pair 0⟩)
  ∧ decodeSlot 0x400000 = some (.dataMove ⟨true, 0⟩ (.g 0) (.g 0))
  ∧ decodeSlot 0x040005 = some (.dataMove ⟨false, 0⟩ (.port 0 0) (.g 5))
  ∧ decodeSlot 0x81981E = some (.agCvtc ⟨⟨false, 0⟩, .g 30⟩)
  ∧ decodeTableWord 24 0x805C03 = some (.ixMul 0 ⟨⟨false, 0⟩, .g 3⟩)

/-- Decoding the encoding of a slot gives it back, for every move slot with every operand at every value: a trigger of
any of the 194 operations, and a data move to any destination but p0 (R32 to R37, R52).
A word that decodes to a slot is that slot's encoding: every bit of the word is read, and no two words stand for one
slot (R32). -/
def Obligations.EncodingRoundTrip : Prop :=
  (∀ (i : Instr) (w : BitVec 24), i.wf = true → encode i = some w → decodeSlot w = some i)
  ∧ (∀ (i : Instr) (w : BitVec 24), decodeSlot w = some i → encode i = some w)

/-- A reserved source code, destination code or opcode cell decodes to no instruction: the reserved cells are those of ag
from opcode 8, vx from 30, vs from 12, br from 10, sq from 18, nt from 11, eq from 13, sy from 11, ck from 6 and gs from
11, and every other cell is an operation (R35, R37, R52).
An enabled slot that decodes to no instruction raises ILLEGAL_SLOT with its own bits in tval; one that is not enabled
does nothing but be the slot at hand (R34, R35, R37, R52). -/
def Obligations.ReservedCodes : Prop :=
  (∀ w : BitVec 24,
      ((0xA8 ≤ w.toNat % 2 ^ 10 ∧ w.toNat % 2 ^ 10 < 0xC0) ∨ (0xD3 ≤ w.toNat % 2 ^ 10 ∧ w.toNat % 2 ^ 10 < 0xE0)
          ∨ w.toNat % 2 ^ 10 = 0xEF ∨ (0xF7 ≤ w.toNat % 2 ^ 10 ∧ w.toNat % 2 ^ 10 < 0x100)
          ∨ (0x110 ≤ w.toNat % 2 ^ 10 ∧ w.toNat % 2 ^ 10 < 0x200) → decodeSlot w = none)
      ∧ (w.getLsbD 23 = false →
          (w.toNat / 2 ^ 10 % 2 ^ 9 = 0xA0 ∨ (0xA8 ≤ w.toNat / 2 ^ 10 % 2 ^ 9 ∧ w.toNat / 2 ^ 10 % 2 ^ 9 < 0x100)
            ∨ (0x100 ≤ w.toNat / 2 ^ 10 % 2 ^ 9 ∧ w.toNat / 2 ^ 10 % 4 = 3) ∨ 0x140 ≤ w.toNat / 2 ^ 10 % 2 ^ 9) →
          decodeSlot w = none)
      ∧ (w.getLsbD 23 = true → ∀ unit opcode : Nat, unit = w.toNat / 2 ^ 15 % 2 ^ 4 → opcode = w.toNat / 2 ^ 10 % 2 ^ 5 →
          ∀ reserved : Bool, (reserved = true ↔ ∃ first, (unit, first) ∈ [(3, 8), (6, 30), (7, 30), (8, 12), (9, 10),
              (10, 18), (11, 11), (12, 13), (13, 11), (14, 6), (15, 11)] ∧ first ≤ opcode) →
            (reserved = true → decodeSlot w = none)
            ∧ (reserved = false → (decodeSrc (w.toNat % 2 ^ 10)).isSome = true → (decodeSlot w).isSome = true)))
  ∧ (∀ (e : Env) (m : Mach) (w : BitVec 24) (k : Nat), decodeSlot w = none → m.issue.out = .going →
      m.issue.done.getLsbD k = false → m.issue.start.timedOut = none →
      (enabled m (slotGuard w) = false →
        actSlot e (⟨w, none⟩, k) m = m.modIssue fun x => { x with slot := k, raw := w })
      ∧ (enabled m (slotGuard w) = true → m.cur.csr.intrap = false →
        let c := (actSlot e (⟨w, none⟩, k) m).ctx m.issue.ck
        c.csr.tcause = 1 ∧ c.csr.tval = w.setWidth 64 ∧ c.csr.tslot = k ∧ c.csr.tbundle = m.issue.addr
          ∧ c.csr.priv = true ∧ c.csr.intrap = true ∧ c.csr.ppriv = m.cur.csr.priv
          ∧ c.pc = ((actSlot e (⟨w, none⟩, k) m).die (m.issue.ck / 768)).tvec.setWidth 64))

/-- A slot, trigger or data move, whose guard is false, or that follows a slot that stopped the bundle, changes nothing
(R33, R34, R45).
The higher-numbered of two enabled triggers that name one unit raises ILLEGAL_SLOT at its slot, with its encoding in
tval and the slots below it done (R44, R45, R114, R426).
The literal pool of a bundle with lx extension blocks has 1 + 7 lx words; an enabled slot, data move or trigger, that names
a literal, or a pair of literals, beyond it raises ILLEGAL_SLOT in the same way (R30, R35, R426). -/
def Obligations.SlotsThatDoNotAct : Prop :=
  (∀ (s : State) (i : Instr) (g : Guard), ((∃ u o t, opCode i = some (u, o, t) ∧ t.guard = g) ∨ ∃ d src, i = .dataMove g d src) →
      (s.m.issue.out ≠ .going
        ∨ (g.inv = false ∧ g.p ≠ 0 ∧ s.m.issue.preds.getLsbD g.p.val = false)
        ∨ (g.inv = true ∧ (g.p = 0 ∨ s.m.issue.preds.getLsbD g.p.val = true))) →
      exec i s = .next s)
  ∧ (∀ (s : State) (i : Instr) (u o : Nat) (t : Trig), opCode i = some (u, o, t) → s.m.issue.out = .going →
      enabled s.m t.guard = true → s.m.issue.units.contains u = true → s.m.cur.csr.intrap = false →
      ∃ s', exec i s = .next s' ∧ s.Trapped s' 1 (((encode i).getD 0).setWidth 64) s.m.issue.slot)
  ∧ (∀ (base : BitVec 256) (ext : List (BitVec 256)), (bundleOf (base :: ext)).lits.length = 1 + 7 * ext.length)
  ∧ ∀ (s : State) (src : Src) (lx : Nat), s.m.issue.lits.length = 1 + 7 * lx →
      ((∃ k : Fin 15, src = .lit k ∧ 1 + 7 * lx ≤ k.val) ∨ ∃ k : Fin 7, src = .pair k ∧ 1 + 7 * lx ≤ 2 * k.val + 1) →
      (∀ (g : Guard) (d : Dst), s.m.issue.out = .going → enabled s.m g = true → s.m.cur.csr.intrap = false →
        ∃ s', exec (.dataMove g d src) s = .next s'
          ∧ s.Trapped s' 1 (((encode (.dataMove g d src)).getD 0).setWidth 64) s.m.issue.slot)
      ∧ ∀ (i : Instr) (u o : Nat) (t : Trig), opCode i = some (u, o, t) → t.src = src →
          s.Faults i 1 (((encode i).getD 0).setWidth 64)

/-- The tick counter has counted every boundary that has passed, but for one whose TICK_INCREMENT is the very next step:
every step keeps this (R22). -/
def Obligations.TicksFollowCycles : Prop :=
  ∀ s t : State, s.TickFollows → step s = .next t → t.TickFollows

/-- What module reset leaves: the tick counter and the cycle counter at 0, every C-die active, frame.base of each die as
boot writes it, memory with nothing listed and in canonical form, no context running, every register of a context at 0
(g, v, i, ports and latches, and p but for p0), and its control and status registers at 0 but for wait.to, 16384, and
sq.len, 6 (R8, R20, R22, R33, R123, R152, R253, R336; the boot outcome is log entry 1, the registers log entry 2). -/
def Obligations.ResetState : Prop :=
  State.reset.clk.tick = 0 ∧ State.reset.clk.cycle = 0 ∧ State.reset.TickFollows ∧ State.reset.m.MemWf
  ∧ State.reset.boot.active = 0xFFFF ∧ State.reset.boot.failed = false
  ∧ (∀ d : Fin 16, (State.reset.m.die d.val).frameBase = d.val * 2 ^ 40 + 0x17FA000000
      ∧ (State.reset.m.die d.val).tvec = 0 ∧ (State.reset.m.die d.val).sramL1 = 2)
  ∧ ∀ (k : Nat) (c : Ctx), c = State.reset.m.ctx k →
      c.st = .free ∧ c.pend = none ∧ c.res = [] ∧ (∀ n, c.readG n = 0) ∧ (∀ n, c.readV n = 0)
      ∧ (∀ n, c.readP n = decide (n = 0)) ∧ (∀ n, c.i.get 0 n = 0) ∧ (∀ n, c.ports.get 0 n = 0) ∧ (∀ q, c.latch q = 0)
      ∧ c.csr.uien = false ∧ c.csr.uimask = 0 ∧ c.csr.inui = false ∧ c.csr.uiovf = false ∧ c.uiq = []
      ∧ c.csr.uivec = 0 ∧ c.csr.uiepc = 0 ∧ c.csr.vfmt = 0 ∧ c.csr.rmode = 0 ∧ c.csr.sqlen = 6 ∧ c.csr.seedA = 0
      ∧ c.csr.seedB = 0 ∧ c.csr.waitTo = 16384 ∧ c.csr.wdLimit = 0 ∧ c.csr.spadBase = 0 ∧ c.csr.spadSize = 0
      ∧ c.csr.ntrange = 0 ∧ c.csr.tstat = 0 ∧ c.csr.tbundle = 0 ∧ c.csr.tslot = 0 ∧ c.csr.tdone = 0 ∧ c.csr.tcause = 0
      ∧ c.csr.tval = 0 ∧ c.csr.tscr0 = 0 ∧ c.csr.tscr1 = 0 ∧ c.csr.tscr2 = 0 ∧ c.csr.tscr3 = 0

/-- TICK_INCREMENT, when a tick boundary has passed, adds 1 to the 48-bit tick counter and leaves the cycle counter
(R22); each task's energy of the tick is charged to its launch, and to its die's telemetry (R93, R403, R405).
The boot outcome changes only by a module reset or the security alarm, which may lead to one, and the cycle counter
by no other instruction either (R20, R36, R407). -/
def Obligations.TickAndBoot : Prop :=
  (∀ s : State, s.clk.tick ≠ s.clk.ticks →
      ∃ t, exec .tickIncrement s = .next t ∧ t.clk.tick.toNat = (s.clk.tick.toNat + 1) % 2 ^ 48
        ∧ t.clk.cycle = s.clk.cycle ∧ t.boot = s.boot ∧ t.m.mem = s.m.mem ∧ t.m.ctxs = s.m.ctxs
        ∧ (s.m.tasks.rising = true →
          (∀ l, (t.m.launch l).charge = (s.m.launch l).charge
            + ((s.m.tasks.filter fun p => decide (p.2.st ≠ .free ∧ p.2.launch = l)).map fun p => p.2.energy).sum)
          ∧ (∀ d, (t.m.die d).telCharge = (s.m.die d).telCharge
            + ((s.m.tasks.filter fun p => decide (p.2.st ≠ .free ∧ p.1 / 3072 = d)).map fun p => p.2.energy).sum)
          ∧ ∀ k, (t.m.task k).energy = if (s.m.task k).st = .free then (s.m.task k).energy else 0))
  ∧ (∀ (i : Instr) (s t : State), exec i s = .next t → (∀ b, i ≠ .moduleReset b) → (∀ a, i ≠ .securityAlarm a) →
      t.boot = s.boot ∧ t.clk.cycle = s.clk.cycle)

/-! ### Data moves (R32, R37, R38, R42, R43) -/

/-- A data move to a general, vector or predicate register writes it, cut or extended to its width, and changes no other
register: a write to g0 is discarded, and of a predicate bit 0 is written (R37, R38, R132, R133).
A data move to an operand port writes it at the port's width: 512 bits for ports a and b of vx0, vx1, vs, c of vx0,
vx1, vs, a and b of ls0, ls1 and ck, else the low 64 bits; it changes no register and no other port (R37 to R39).
A literal of the bundle's pool reads sign-extended from 32 bits, and a pair of literals reads as its 64 bits (R35). -/
def Obligations.DataMoves : Prop :=
  (∀ (s : State) (g : Guard) (src : Src) (X : W512) (dst : Dst), s.m.issue.out = .going → enabled s.m g = true →
      s.Reads src X → (∀ f k, dst ≠ .port f k) → dst ≠ .p 0 →
      ∃ c : Ctx,
        exec (.dataMove g dst src) s = .next { s with m := (s.m.began (.dataMove g dst src)).modCur fun _ => c }
        ∧ (∀ n < 128, c.readG n = if n ≠ 0 ∧ ∃ k : Fin 128, dst = .g k ∧ k.val = n then X.setWidth 64 else s.m.cur.readG n)
        ∧ (∀ n < 32, c.readV n = if ∃ k : Fin 32, dst = .v k ∧ k.val = n then X else s.m.cur.readV n)
        ∧ (∀ n < 8, c.readP n = if ∃ k : Fin 8, dst = .p k ∧ k.val = n then X.getLsbD 0 else s.m.cur.readP n)
        ∧ { c with g := s.m.cur.g, shadow := s.m.cur.shadow, v := s.m.cur.v, p := s.m.cur.p, bad := s.m.cur.bad } = s.m.cur)
  ∧ (∀ (s : State) (g : Guard) (src : Src) (X : W512) (f : Fin 16) (k : Fin 3), s.m.issue.out = .going →
      enabled s.m g = true → s.Reads src X →
      ∃ c : Ctx,
        exec (.dataMove g (.port f k) src) s
          = .next { s with m := (s.m.began (.dataMove g (.port f k) src)).modCur fun _ => c }
        ∧ (∀ j : Nat, c.ports.get 0 j
            = if j = 0x100 + 4 * f.val + k.val then
                (if (k.val = 2 ∧ 6 ≤ f.val ∧ f.val ≤ 8) ∨ (k.val ≠ 2 ∧ (4 ≤ f.val ∧ f.val ≤ 8 ∨ f.val = 14)) then X
                 else (X.setWidth 64).setWidth 512)
              else s.m.cur.ports.get 0 j)
        ∧ { c with ports := s.m.cur.ports, bad := s.m.cur.bad } = s.m.cur)
  ∧ (∀ (s : State) (k : Nat) (lo hi : W32), s.m.issue.snaps = none → s.m.issue.start.bad = [] →
      s.m.issue.lits[k]? = some lo →
      (∀ j : Fin 15, j.val = k → s.Reads (.lit j) (BitVec.ofNat 512 (lo.signExtend 64).toNat))
      ∧ ∀ j : Fin 7, 2 * j.val = k → s.m.issue.lits[k + 1]? = some hi →
          s.Reads (.pair j) (BitVec.ofNat 512 (hi.toNat * 2 ^ 32 + lo.toNat)))

/-! ### The integer units (R142 to R149) -/

/-- R142, R143: the additive and logical operations and the shifts, on port a and the trigger operand. -/
def Obligations.IntegerAddLogicShift : Prop :=
  ∀ (s : State) (u : Fin 3) (t : Trig) (A X : W512), s.Port u.val 0 A → s.Reads t.src X →
    ∀ (a x : W64) (c : Nat), a = A.setWidth 64 → x = X.setWidth 64 → c = x.toNat % 64 →
      s.DeliversWord (.ixAdd u t) u.val 1 (BitVec.ofNat 64 (a.toNat + x.toNat))
      ∧ s.DeliversWord (.ixSub u t) u.val 1 (BitVec.ofInt 64 (a.toNat - x.toNat))
      ∧ s.DeliversWord (.ixAddw u t) u.val 1 ((BitVec.ofNat 32 (a.toNat + x.toNat)).signExtend 64)
      ∧ s.DeliversWord (.ixSubw u t) u.val 1 ((BitVec.ofInt 32 (a.toNat - x.toNat)).signExtend 64)
      ∧ s.DeliversWord (.ixAnd u t) u.val 1 (a &&& x)
      ∧ s.DeliversWord (.ixOr u t) u.val 1 (a ||| x)
      ∧ s.DeliversWord (.ixXor u t) u.val 1 (a ^^^ x)
      ∧ s.DeliversWord (.ixAndn u t) u.val 1 (a &&& ~~~x)
      ∧ s.DeliversWord (.ixShl u t) u.val 1 (BitVec.ofNat 64 (a.toNat * 2 ^ c))
      ∧ s.DeliversWord (.ixShr u t) u.val 1 (BitVec.ofNat 64 (a.toNat / 2 ^ c))
      ∧ s.DeliversWord (.ixSha u t) u.val 1 (BitVec.ofInt 64 (a.toInt / 2 ^ c))
      ∧ s.DeliversWord (.ixRotl u t) u.val 1
          (BitVec.ofNat 64 (a.toNat * 2 ^ c % 2 ^ 64 ||| a.toNat / 2 ^ (64 - c)))

/-- R144, R145, R146: the compares, the minimum and maximum operations and the multiplies.
R145 (sel), R147, R148, R149: the select, the counts, and the field and extension operations. -/
def Obligations.IntegerOthers : Prop :=
  (∀ (s : State) (u : Fin 3) (t : Trig) (A X : W512), s.Port u.val 0 A → s.Reads t.src X →
      ∀ a x : W64, a = A.setWidth 64 → x = X.setWidth 64 →
        s.DeliversWord (.ixCeq u t) u.val 1 (if a = x then 1 else 0)
        ∧ s.DeliversWord (.ixCne u t) u.val 1 (if a = x then 0 else 1)
        ∧ s.DeliversWord (.ixClt u t) u.val 1 (if a.toInt < x.toInt then 1 else 0)
        ∧ s.DeliversWord (.ixCltu u t) u.val 1 (if a.toNat < x.toNat then 1 else 0)
        ∧ s.DeliversWord (.ixCle u t) u.val 1 (if a.toInt ≤ x.toInt then 1 else 0)
        ∧ s.DeliversWord (.ixCleu u t) u.val 1 (if a.toNat ≤ x.toNat then 1 else 0)
        ∧ s.DeliversWord (.ixMin u t) u.val 1 (BitVec.ofInt 64 (min a.toInt x.toInt))
        ∧ s.DeliversWord (.ixMax u t) u.val 1 (BitVec.ofInt 64 (max a.toInt x.toInt))
        ∧ s.DeliversWord (.ixMinu u t) u.val 1 (BitVec.ofNat 64 (min a.toNat x.toNat))
        ∧ s.DeliversWord (.ixMaxu u t) u.val 1 (BitVec.ofNat 64 (max a.toNat x.toNat))
        ∧ s.DeliversWord (.ixMul u t) u.val 3 (BitVec.ofNat 64 (a.toNat * x.toNat))
        ∧ s.DeliversWord (.ixMulh u t) u.val 3 (BitVec.ofInt 64 (a.toInt * x.toInt / 2 ^ 64))
        ∧ s.DeliversWord (.ixMulhu u t) u.val 3 (BitVec.ofNat 64 (a.toNat * x.toNat / 2 ^ 64)))
  ∧ (∀ (s : State) (u : Fin 3) (t : Trig) (X : W512), s.Reads t.src X → ∀ x : W64, x = X.setWidth 64 →
      (∃ n : Nat, n ≤ 64 ∧ x.toNat < 2 ^ (64 - n) ∧ (n < 64 → 2 ^ (63 - n) ≤ x.toNat)
        ∧ s.DeliversWord (.ixClz u t) u.val 1 (BitVec.ofNat 64 n))
      ∧ s.DeliversWord (.ixPopc u t) u.val 1 (BitVec.ofNat 64 ((List.range 64).countP fun k => x.getLsbD k))
      ∧ ∀ (A : W512), s.Port u.val 0 A → ∀ (a : W64) (p w n : Nat), a = A.setWidth 64 →
          p = x.toNat % 64 → w = min (x.toNat / 256 % 128) 64 → n = x.toNat % 128 →
          s.DeliversWord (.ixBext u t) u.val 1 (if w = 0 then 0 else BitVec.ofNat 64 (a.toNat / 2 ^ p % 2 ^ w))
          ∧ s.DeliversWord (.ixSext u t) u.val 1
              (if n = 0 then 0 else if 64 ≤ n then a else (a.setWidth n).signExtend 64)
          ∧ s.DeliversWord (.ixZext u t) u.val 1
              (if n = 0 then 0 else if 64 ≤ n then a else (a.setWidth n).setWidth 64)
          ∧ ∀ (B : W512), s.Port u.val 1 B → ∀ b k : W64, b = B.setWidth 64 →
              k = BitVec.ofNat 64 ((2 ^ w - 1) * 2 ^ p) →
              s.DeliversWord (.ixSel u t) u.val 1 (if x ≠ 0 then a else b)
              ∧ s.DeliversWord (.ixBins u t) u.val 1
                  ((a &&& ~~~k) ||| (BitVec.ofNat 64 (b.toNat * 2 ^ p) &&& k)))

/-! ### The address unit (R193 to R198) -/

/-- R194, R195: the sum within the offset field, the alias class replaced, and the three built addresses.
R196 to R198: the classification of an address, the C address of an L address, and the extent look-up. -/
def Obligations.AddressUnit : Prop :=
  (∀ (s : State) (t : Trig) (A X : W512), s.Port 3 0 A → s.Reads t.src X →
      ∀ a x : W64, a = A.setWidth 64 → x = X.setWidth 64 →
        (∀ w : Nat, (a.toNat / 2 ^ 58 % 8 = 0 → w = 48) → (a.toNat / 2 ^ 58 % 8 = 1 ∨ a.toNat / 2 ^ 58 % 8 = 2 → w = 22) →
            (a.toNat / 2 ^ 58 % 8 = 3 → w = 32) → (4 ≤ a.toNat / 2 ^ 58 % 8 → w = 58) →
            ∃ q : W64, q.toNat / 2 ^ w = a.toNat / 2 ^ w
              ∧ ((q.toNat % 2 ^ w : Nat) : Int) = (a.toNat + x.toInt) % ((2 ^ w : Nat) : Int)
              ∧ s.DeliversWord (.agAdda t) 3 1 q)
        ∧ s.DeliversWord (.agTag t) 3 1 (x.extractLsb' 0 3 ++ a.extractLsb' 0 61)
        ∧ s.DeliversWord (.agMkl t) 3 1 (a.extractLsb' 0 3 ++ 1#3 ++ 0#36 ++ x.extractLsb' 0 22)
        ∧ ∀ (B : W512), s.Port 3 1 B → ∀ b : W64, b = B.setWidth 64 →
            s.DeliversWord (.agMkc t) 3 1
              (a.extractLsb' 0 3 ++ 2#3 ++ 0#28 ++ b.extractLsb' 0 8 ++ x.extractLsb' 0 22)
            ∧ s.DeliversWord (.agMkp t) 3 1
                (a.extractLsb' 0 3 ++ 3#3 ++ 0#10 ++ b.extractLsb' 0 16 ++ x.extractLsb' 0 32))
  ∧ (∀ (s : State) (t : Trig) (X : W512), s.Reads t.src X →
      ∀ (x : W64) (ap off : Nat), x = X.setWidth 64 → ap = x.toNat / 2 ^ 58 % 8 → off = x.toNat % 2 ^ 22 →
        (∀ one near : Bool,
            (one = true ↔ (ap = 0 ∨ ap = 3) ∧ x.toNat / 2 ^ 48 % 2 ^ 10 = 0 ∨ ap = 1 ∧ x.toNat / 2 ^ 22 % 2 ^ 36 = 0
              ∨ ap = 2 ∧ x.toNat / 2 ^ 30 % 2 ^ 28 = 0) →
            (near = true ↔ one = true ∧ (ap = 1 → off + 1 ≤ s.m.cur.csr.spadSize)
              ∧ (ap = 2 → x.toNat / 2 ^ 22 % 2 ^ 8 ≤ 191
                  ∧ off + 1 ≤ spadBytes (s.m.core (coreKey s.m.issue.d (x.toNat / 2 ^ 22 % 2 ^ 8))).l1)) →
            s.DeliversWord (.agTsta t) 3 1
              (0#54 ++ BitVec.ofBool near ++ BitVec.ofBool one ++ 0#2 ++ x.extractLsb' 61 3 ++ x.extractLsb' 58 3))
        ∧ s.DeliversWord (.agCvtc t) 3 1
            (if ap = 1 ∧ x.toNat / 2 ^ 22 % 2 ^ 36 = 0 then
              BitVec.ofNat 64 (x.toNat / 2 ^ 61 * 2 ^ 61 + 2 * 2 ^ 58 + s.m.issue.r * 2 ^ 22
                + (s.m.cur.csr.spadBase + off) % 2 ^ 22)
            else x)
        ∧ (∀ n : Nat, n = x.toNat % 2 ^ 48 →
            (ap ≠ 0 ∨ x.toNat / 2 ^ 48 % 2 ^ 10 ≠ 0 ∨ (∀ y ∈ s.m.curTask.extents, ¬ (y.va ≤ n ∧ n < y.va + y.len)) →
              s.DeliversWord (.agXlk t) 3 1 (1 <<< 63))
            ∧ ∀ (k : Nat) (y : Extent), ap = 0 → x.toNat / 2 ^ 48 % 2 ^ 10 = 0 → s.m.curTask.extents[k]? = some y →
                y.va ≤ n → n < y.va + y.len →
                (∀ j < k, ∀ z, s.m.curTask.extents[j]? = some z → ¬ (z.va ≤ n ∧ n < z.va + z.len)) →
                s.DeliversWord (.agXlk t) 3 1
                  (BitVec.ofNat 64 (k + y.access * 2 ^ 6 + y.buf * 2 ^ 8 + min (y.va + y.len - n) 16777215 * 2 ^ 16
                    + y.acls * 2 ^ 40))))

/-! ### The branch unit (R51, R124 to R130) -/

/-- R125, R51: a transfer from a bundle that is no delay bundle, to a target whose bits 63:48 are zero, becomes the
bundle's pending transfer, with the link of a call; the target is the operand, or for br and call the bundle's address
plus the operand modulo 2^64.  With other bits 63:48 it raises APERTURE_FAULT with the target in tval.
R51, R426: an enabled control transfer in a delay bundle raises ILLEGAL_SLOT at its slot, with its encoding in
tval. -/
def Obligations.ControlTransfers : Prop :=
  (∀ (s : State) (t : Trig) (X : W512), s.Reads t.src X → s.m.issue.start.pend = none → s.m.issue.start.retPend = 0 →
      ∀ x far : W64, x = X.setWidth 64 → far = s.m.issue.addr + x →
        (far.toNat < 2 ^ 48 →
          (s.acts (.brBr t) = true →
            exec (.brBr t) s = .next (s.notes (.brBr t) fun i => { i with pend := some far, link := false }))
          ∧ (s.acts (.brCall t) = true →
            exec (.brCall t) s = .next (s.notes (.brCall t) fun i => { i with pend := some far, link := true })))
        ∧ (x.toNat < 2 ^ 48 →
          (s.acts (.brBra t) = true →
            exec (.brBra t) s = .next (s.notes (.brBra t) fun i => { i with pend := some x, link := false }))
          ∧ (s.acts (.brCalla t) = true →
            exec (.brCalla t) s = .next (s.notes (.brCalla t) fun i => { i with pend := some x, link := true }))
          ∧ (s.acts (.brRet t) = true →
            exec (.brRet t) s = .next (s.notes (.brRet t) fun i => { i with pend := some x, link := false })))
        ∧ (2 ^ 48 ≤ far.toNat → s.Faults (.brBr t) 5 far ∧ s.Faults (.brCall t) 5 far)
        ∧ (2 ^ 48 ≤ x.toNat → s.Faults (.brBra t) 5 x ∧ s.Faults (.brCalla t) 5 x ∧ s.Faults (.brRet t) 5 x))
  ∧ (∀ (s : State) (t : Trig) (X : W512), s.Reads t.src X → s.m.issue.start.pend.isSome = true →
      ∀ i : Instr, i ∈ [Instr.brBr t, .brBra t, .brCall t, .brCalla t, .brRet t, .brUiret t] →
        s.Faults i 1 (((encode i).getD 0).setWidth 64))

/-- R126, R114: br.trap raises USER_TRAP with the operand in tval, and its own slot counts as done.
R127, R128, R130, R116: br.halt and br.yield ignore their operand and mark the bundle; br.uiret with operand 0 inside
a user interrupt handler, or with operand 1 at supervisor privilege inside a trap, marks the return that follows its
delay bundle, the former as a pending transfer to uiepc (R51; log entry 67).  Operand 1 at user privilege raises PRIV with
the trigger operand in tval (the model's choice, log entry 51); operand 0 outside a handler, operand 1 outside a trap and
any other operand raise ILLEGAL_SLOT.
R129, R24: br.wait delivers 1 when a user interrupt has woken its context (the mark is log entry 45); else 0 when the
absolute tick in its operand has been reached, else 1 when a user interrupt is queued and enabled, and else blocks,
unbounded by wait.to. -/
def Obligations.BranchUnitOthers : Prop :=
  (∀ (s : State) (t : Trig) (X : W512), s.Reads t.src X → s.acts (.brTrap t) = true → s.m.cur.csr.intrap = false →
      ∃ s', exec (.brTrap t) s = .next s' ∧ s.Trapped s' 18 (X.setWidth 64) (s.m.issue.slot + 1))
  ∧ (∀ (s : State) (t : Trig) (X : W512), s.Reads t.src X →
      (s.acts (.brHalt t) = true → exec (.brHalt t) s = .next (s.notes (.brHalt t) fun i => { i with halt := true }))
      ∧ (s.acts (.brYield t) = true → exec (.brYield t) s = .next (s.notes (.brYield t) fun i => { i with yield_ := true }))
      ∧ (s.m.issue.start.pend = none → s.m.issue.start.retPend = 0 → ∀ x : W64, x = X.setWidth 64 →
          (x = 0 → s.m.cur.csr.inui = true → s.acts (.brUiret t) = true →
            exec (.brUiret t) s = .next (s.notes (.brUiret t) fun i =>
              { i with ret := 1, pend := some (s.m.cur.csr.uiepc.setWidth 64) }))
          ∧ (x = 1 → s.m.cur.csr.priv = true → s.m.cur.csr.intrap = true → s.acts (.brUiret t) = true →
            exec (.brUiret t) s = .next (s.notes (.brUiret t) fun i => { i with ret := 2 }))
          ∧ (x = 1 → s.m.cur.csr.priv = false → s.Faults (.brUiret t) 8 x)
          ∧ (x = 1 → s.m.cur.csr.priv = true → s.m.cur.csr.intrap = false → s.Faults (.brUiret t) 1 x)
          ∧ (x = 0 → s.m.cur.csr.inui = false → s.Faults (.brUiret t) 1 x)
          ∧ (1 < x.toNat → s.Faults (.brUiret t) 1 x)))
  ∧ (∀ (s : State) (t : Trig) (X : W512), s.Reads t.src X → ∀ x : W64, x = X.setWidth 64 →
      (s.m.issue.start.woken = true → s.DeliversWord (.brWait t) 12 1 1)
      ∧ (s.m.issue.start.woken = false → (s.clk.tick - x.setWidth 48).toNat < 2 ^ 47 → s.DeliversWord (.brWait t) 12 1 0)
      ∧ (s.m.issue.start.woken = false → 2 ^ 47 ≤ (s.clk.tick - x.setWidth 48).toNat →
          (s.m.cur.uiq ≠ [] → s.m.issue.start.csr.uien = true → s.DeliversWord (.brWait t) 12 1 1)
          ∧ (s.m.cur.uiq = [] ∨ s.m.issue.start.csr.uien = false →
              s.Blocks (.brWait t) (.tick (x.setWidth 48)) x false)))

/-! ### Loads and stores (R182 to R191, R199 to R206, R218, R219) -/

/-- R183, R200, R201: a load from the own scratchpad run, through an L address in bounds and aligned, with no fence in
force, no own store on its way and no segment open, delivers the bytes that the bank holds, little-endian and sign- or
zero-extended, nominally 4 cycles later; nothing else changes. -/
def Obligations.ScratchpadLoads : Prop :=
  ∀ (s : State) (u : Fin 2) (t : Trig) (X : W512), s.Reads t.src X → s.m.cur.csr.spadBase % 64 = 0 →
    s.m.cur.fences = [] → s.m.cur.stq = [] → s.m.cur.seg = none →
    ∀ (x : W64) (i : Instr) (w : Nat) (signed : Bool), x = X.setWidth 64 →
      (i, w, signed) ∈ [(Instr.lsLdb u t, 1, true), (.lsLdbu u t, 1, false), (.lsLdh u t, 2, true),
        (.lsLdhu u t, 2, false), (.lsLdw u t, 4, true), (.lsLdwu u t, 4, false), (.lsLdd u t, 8, false),
        (.lsLdv u t, 64, false)] →
      s.InRun x w → s.m.spadClean s.m.issue.core (s.runOffset x) = true → s.acts i = true →
      ∀ v : Nat, v = ofBytes (s.m.spadBytesAt s.m.issue.core (s.runOffset x) w) →
        exec i s = .next ((s.began i).sendsLoad (4 + 2 * u.val) 4
          (if signed then ((BitVec.ofNat (8 * w) v).signExtend 64).setWidth 512 else BitVec.ofNat 512 v) [])

/-- R186, R200 to R202: for every aperture, a load whose checks pass and whose bytes are read delivers them, sign- or
zero-extended, with the nominal latency of its aperture; the post-increment forms deliver the new address as well. -/
def Obligations.LoadsDeliver : Prop :=
  ∀ (s : State) (u : Fin 2) (t : Trig) (X : W512), s.Reads t.src X →
    ∀ (x : W64) (i : Instr) (w : Nat) (a : Acc) (m1 m2 : Mach) (bs : List Byte) (lat : Nat), x = X.setWidth 64 →
      check .read w w x ⟨s.boot, s.clk⟩ (s.m.began i) = .ok a m1 → loadBytes a w ⟨s.boot, s.clk⟩ m1 = .ok bs m2 →
      (x.toNat / 2 ^ 58 % 8 = 1 → lat = 4) →
      (x.toNat / 2 ^ 58 % 8 = 2 → lat = if x.toNat / 2 ^ 22 % 2 ^ 8 = s.m.issue.r then 4 else 16) →
      (x.toNat / 2 ^ 58 % 8 = 0 ∨ x.toNat / 2 ^ 58 % 8 = 3 → lat = 10) → s.acts i = true →
      ((i, w) ∈ [(Instr.lsLdb u t, 1), (.lsLdh u t, 2), (.lsLdw u t, 4)] →
        exec i s = .next (State.sendsLoad { s with m := m2 } (4 + 2 * u.val) lat
          (((BitVec.ofNat (8 * w) (ofBytes bs)).signExtend 64).setWidth 512) (loadBuf a)))
      ∧ ((i, w) ∈ [(Instr.lsLdbu u t, 1), (.lsLdhu u t, 2), (.lsLdwu u t, 4), (.lsLdd u t, 8), (.lsLdv u t, 64)] →
        exec i s = .next (State.sendsLoad { s with m := m2 } (4 + 2 * u.val) lat (BitVec.ofNat 512 (ofBytes bs))
          (loadBuf a)))
      ∧ ∀ B : W512, s.Port (4 + u.val) 1 B → (i, w) ∈ [(Instr.lsLddi u t, 8), (.lsLdvi u t, 64)] →
          exec i s = .next ((State.sendsLoad { s with m := m2 } (4 + 2 * u.val) lat (BitVec.ofNat 512 (ofBytes bs))
            (loadBuf a)).sends (5 + 2 * u.val) 1 ((addA x (B.setWidth 64)).setWidth 512))

/-- R183, R201, R202, R311: a store to the own scratchpad run puts the low w bytes of port a on their way to the bank,
after the stores before it; the post-increment forms deliver the new address; nothing else changes.
R187: a load of any width ordered after a store of the same context, of an alias class that is compared with its own,
returns the store's bytes where the store wrote, whatever other stores are on their way when it wrote them all, and the
bank's elsewhere when none other is. -/
def Obligations.ScratchpadStores : Prop :=
  (∀ (s : State) (u : Fin 2) (t : Trig) (A X : W512), s.Reads t.src X → s.Port (4 + u.val) 0 A →
      s.m.cur.fences = [] → inSegment s.m = false → (∀ g, s.m.cur.seg = some g → g.held = []) →
      ∀ (x : W64) (i : Instr) (w : Nat) (bs : List Byte), x = X.setWidth 64 →
        bs = (List.range w).map (fun k => A.extractLsb' (8 * k) 8) → s.InRun x w →
        s.m.spadClean s.m.issue.core (s.runOffset x) = true → s.acts i = true →
        ((i, w) ∈ [(Instr.lsStb u t, 1), (.lsSth u t, 2), (.lsStw u t, 4), (.lsStd u t, 8), (.lsStv u t, 64)] →
          exec i s = .next ((s.began i).sendsStore (s.runAcc x) bs))
        ∧ ∀ B : W512, s.Port (4 + u.val) 1 B → (i, w) ∈ [(Instr.lsStdi u t, 8), (.lsStvi u t, 64)] →
            exec i s = .next (((s.began i).sendsStore (s.runAcc x) bs).sends (5 + 2 * u.val) 1
              ((addA x (B.setWidth 64)).setWidth 512)))
  ∧ (∀ (s s1 : State) (u1 u2 : Fin 2) (t1 t2 : Trig) (A X1 X2 : W512) (i1 i2 : Instr) (w1 w2 : Nat) (signed : Bool),
      s.Reads t1.src X1 → s.Port (4 + u1.val) 0 A → s.m.cur.csr.spadBase % 64 = 0 → s.m.cur.fences = [] →
      s.m.cur.seg = none →
      (i1, w1) ∈ [(Instr.lsStb u1 t1, 1), (.lsSth u1 t1, 2), (.lsStw u1 t1, 4), (.lsStd u1 t1, 8), (.lsStv u1 t1, 64)] →
      (i2, w2, signed) ∈ [(Instr.lsLdb u2 t2, 1, true), (.lsLdbu u2 t2, 1, false), (.lsLdh u2 t2, 2, true),
        (.lsLdhu u2 t2, 2, false), (.lsLdw u2 t2, 4, true), (.lsLdwu u2 t2, 4, false), (.lsLdd u2 t2, 8, false),
        (.lsLdv u2 t2, 64, false)] →
      ∀ (x1 x2 : W64) (o1 o2 : Nat), x1 = X1.setWidth 64 → x2 = X2.setWidth 64 → o1 = s.runOffset x1 → o2 = s.runOffset x2 →
        s.InRun x1 w1 → s.InRun x2 w2 → s.m.spadClean s.m.issue.core o1 = true → s.m.spadClean s.m.issue.core o2 = true →
        x1.toNat / 2 ^ 61 = x2.toNat / 2 ^ 61 ∨ x1.toNat / 2 ^ 61 = 0 ∨ x2.toNat / 2 ^ 61 = 0 →
        s.m.cur.stq = [] ∨ (o1 ≤ o2 ∧ o2 + w2 ≤ o1 + w1) →
        s.acts i1 = true → exec i1 s = .next s1 → s1.Reads t2.src X2 → s1.acts i2 = true →
        ∀ v : Nat, v = ofBytes ((List.range w2).map fun k =>
            if o1 ≤ o2 + k ∧ o2 + k < o1 + w1 then A.extractLsb' (8 * (o2 + k - o1)) 8
            else s.m.spad.read (spadAddr s.m.issue.core (o2 + k))) →
          ∃ s2, exec i2 s1 = .next s2
            ∧ s2.m.cur.res = s1.m.cur.res
                ++ [{ latch := 4 + 2 * u2.val,
                      value := if signed then ((BitVec.ofNat (8 * w2) v).signExtend 64).setWidth 512 else BitVec.ofNat 512 v,
                      due := s.clk.cycle + 4, wait := .data, buf := [] }])

/-- R186, R184, R213: the first check of an access that fails raises its fault with the address in tval: a bad aperture
or must-be-zero bits, then alignment, then the bounds of L and C, then for G an address that no extent covers or whose
lowest-numbered extent does not allow the access. -/
def Obligations.AccessChecks : Prop :=
  ∀ (s : State) (u : Fin 2) (t : Trig) (X : W512), s.Reads t.src X →
    ∀ (x : W64) (i : Instr) (w right : Nat), x = X.setWidth 64 →
      (i, w, right) ∈ [(Instr.lsLdb u t, 1, 0), (.lsLdbu u t, 1, 0), (.lsLdh u t, 2, 0), (.lsLdhu u t, 2, 0),
        (.lsLdw u t, 4, 0), (.lsLdwu u t, 4, 0), (.lsLdd u t, 8, 0), (.lsLdv u t, 64, 0), (.lsStb u t, 1, 1),
        (.lsSth u t, 2, 1), (.lsStw u t, 4, 1), (.lsStd u t, 8, 1), (.lsStv u t, 64, 1), (.lsLddi u t, 8, 0),
        (.lsLdvi u t, 64, 0), (.lsStdi u t, 8, 1), (.lsStvi u t, 64, 1), (.lsLdaq u t, 8, 0), (.lsStrl u t, 8, 1),
        (.lsWbk u t, 1, 0), (.lsInv u t, 1, 0)] →
      ∀ (ap off v : Nat) (good : Bool), ap = x.toNat / 2 ^ 58 % 8 → off = x.toNat % 2 ^ 22 → v = x.toNat % 2 ^ 48 →
        (good = true ↔ (ap = 0 ∨ ap = 3) ∧ x.toNat / 2 ^ 48 % 2 ^ 10 = 0 ∨ ap = 1 ∧ x.toNat / 2 ^ 22 % 2 ^ 36 = 0
          ∨ ap = 2 ∧ x.toNat / 2 ^ 30 % 2 ^ 28 = 0) →
        (good = false → s.Faults i 5 x)
        ∧ (good = true → x.toNat % w ≠ 0 → s.Faults i 7 x)
        ∧ (good = true → x.toNat % w = 0 →
            (ap = 1 → s.m.cur.csr.spadSize < off + w → s.Faults i 5 x)
            ∧ (ap = 2 → (191 < x.toNat / 2 ^ 22 % 2 ^ 8
                ∨ spadBytes (s.m.core (coreKey s.m.issue.d (x.toNat / 2 ^ 22 % 2 ^ 8))).l1 < off + w) → s.Faults i 5 x)
            ∧ (ap = 0 → (∀ y ∈ s.m.curTask.extents, ¬ (y.va ≤ v ∧ v < y.va + y.len)) → s.Faults i 6 x)
            ∧ ∀ (k : Nat) (y : Extent), ap = 0 → s.m.curTask.extents[k]? = some y → y.va ≤ v → v < y.va + y.len →
                (∀ j < k, ∀ z, s.m.curTask.extents[j]? = some z → ¬ (z.va ≤ v ∧ v < z.va + z.len)) →
                y.access.testBit right = false → s.Faults i 6 x)

/-- R203: a control word other than the allowed ones raises ILLEGAL_SLOT with it in tval; with an allowed one, and every
element that is not skipped in the own run, a gather delivers the elements in the lanes of its part, zero elsewhere, and
a scatter puts the elements on their way in ascending order. -/
def Obligations.GatherAndScatter : Prop :=
  ∀ (s : State) (u : Fin 2) (t : Trig) (A B C X : W512) (x c : W64), s.Reads t.src X → s.Port (4 + u.val) 0 A →
    s.Port (4 + u.val) 1 B → s.Port (4 + u.val) 2 C → x = X.setWidth 64 → c = C.setWidth 64 →
    (16 ≤ c.toNat ∨ c.toNat % 4 = 3 ∨ 4 / 2 ^ (c.toNat % 4) ≤ c.toNat / 4 % 4 →
      s.Faults (.lsGath u t) 1 c ∧ s.Faults (.lsScat u t) 1 c)
    ∧ ∀ (e p : Nat) (y : W512 → Nat → W64) (takes : W512 → Nat → Bool), c.toNat < 16 → c.toNat % 4 ≠ 3 →
        e = 2 ^ (c.toNat % 4) → p = c.toNat / 4 → p < 4 / e →
        (∀ O j, y O j = addA x ((O.extractLsb' (32 * j) 32).signExtend 64)) →
        (∀ O j, takes O j = (O.extractLsb' (32 * j) 32 != 0x80000000#32)) →
        s.m.cur.csr.spadBase % 64 = 0 → s.m.cur.fences = [] →
        (s.m.cur.stq = [] → s.m.cur.seg = none →
          (∀ j < 16, takes A j = true → s.InRun (y A j) e ∧ s.m.spadClean s.m.issue.core (s.runOffset (y A j)) = true) →
          s.acts (.lsGath u t) = true →
          ∃ v : W512, exec (.lsGath u t) s = .next ((s.began (.lsGath u t)).sendsLoad (4 + 2 * u.val)
              (if x.toNat / 2 ^ 58 % 8 = 1 then 8 else loadLatency s.m x + 4) v [])
            ∧ ∀ k < 64 / e, laneN v.toNat (8 * e) k
                = if 16 * p ≤ k ∧ k < 16 * p + 16 ∧ takes A (k - 16 * p) = true then
                    ofBytes (s.m.spadBytesAt s.m.issue.core (s.runOffset (y A (k - 16 * p))) e) else 0)
        ∧ (inSegment s.m = false → (∀ g, s.m.cur.seg = some g → g.held = []) →
          (∀ j < 16, takes B j = true → s.InRun (y B j) e ∧ s.m.spadClean s.m.issue.core (s.runOffset (y B j)) = true) →
          s.acts (.lsScat u t) = true →
          ∃ d : Ctx, exec (.lsScat u t) s = .next
              { s with m := ({ s.m.began (.lsScat u t) with
                                 seed := s.m.seed + ((List.range 16).filter (takes B)).length } : Mach).modCur fun _ => d }
            ∧ { d with stq := s.m.cur.stq, nextStore := s.m.cur.nextStore } = s.m.cur
            ∧ d.stq.map (fun q => (q.loc, q.bytes))
                = s.m.cur.stq.map (fun q => (q.loc, q.bytes))
                  ++ ((List.range 16).filter (takes B)).map fun j =>
                      (Loc.spad s.m.issue.core (s.runOffset (y B j)),
                        (List.range e).map fun k => A.extractLsb' (8 * (e * (16 * p + j) + k)) 8))

/-- R204, R191, R305: ldaq on the own scratchpad delivers the doubleword and leaves no clean sector of own-die memory in
the core's L1; strl first performs every earlier store bound for the own die, writes back every dirty sector of own-die
memory, and then stores, all of it in the step in which it acts (the model's choice, log entry 11).
R205: on an L address within the run, pref does nothing, and wbk and inv deliver 0 and do nothing else; on own memory
behind the L1, where a 1-byte load reads it, wbk leaves no dirty sector of the line, inv no sector of it, and both deliver
0 to ls.q2, and where the load would find the line HIGH they raise POISON; pref leaves every sector of a line that reads
CLEAN valid. -/
def Obligations.AcquireReleaseAndLines : Prop :=
  (∀ (s : State) (u : Fin 2) (t : Trig) (A X : W512) (x : W64), s.Reads t.src X → s.Port (4 + u.val) 0 A →
      x = X.setWidth 64 → s.m.cur.csr.spadBase % 64 = 0 → s.m.cur.fences = [] → s.InRun x 8 → s.m.issue.x < 4 →
      s.m.spadClean s.m.issue.core (s.runOffset x) = true →
      (s.m.cur.stq = [] → s.acts (.lsLdaq u t) = true →
        ∃ s', exec (.lsLdaq u t) s = .next s'
          ∧ s'.m.cur = { s.m.cur with res := s.m.cur.res ++ [⟨4 + 2 * u.val, BitVec.ofNat 512
                (ofBytes (s.m.spadBytesAt s.m.issue.core (s.runOffset x) 8)), s.clk.cycle + 4, .data, []⟩] }
          ∧ s'.m.spad = s.m.spad ∧ s'.m.mem = s.m.mem
          ∧ ∀ k sec, (s'.m.core s.m.issue.core).sectors.find k = some sec → sec.cls = .own → sec.dirty = true)
      ∧ (s.acts (.lsStrl u t) = true →
        ∃ s' far st, exec (.lsStrl u t) s = .next s' ∧ s'.m.cur.stq = far ++ [st] ∧ (∀ q ∈ far, q.cls = .far)
          ∧ st.loc = .spad s.m.issue.core (s.runOffset x) ∧ st.bytes = (List.range 8).map (fun k => A.extractLsb' (8 * k) 8)
          ∧ ∀ k sec, (s'.m.core s.m.issue.core).sectors.find k = some sec → sec.cls = .own → sec.dirty = false))
  ∧ (∀ (s : State) (u : Fin 2) (t : Trig) (X : W512) (x : W64), s.Reads t.src X → x = X.setWidth 64 →
      s.m.cur.fences = [] → s.m.issue.x < 4 →
      (s.InRun x 1 →
        (s.acts (.lsPref u t) = true → exec (.lsPref u t) s = .next (s.began (.lsPref u t)))
        ∧ (s.acts (.lsWbk u t) = true →
            exec (.lsWbk u t) s = .next ((s.began (.lsWbk u t)).sendsLoad (5 + 2 * u.val) 10 0 []))
        ∧ (s.acts (.lsInv u t) = true →
            exec (.lsInv u t) s = .next ((s.began (.lsInv u t)).sendsLoad (5 + 2 * u.val) 10 0 [])))
      ∧ ∀ (a : Acc) (pa : Nat), a.loc = .phys pa → pa < 2 ^ 48 →
          (∀ i, checkAcc ⟨s.boot, s.clk⟩ s.m.who .read 1 1 x (s.m.began i) = (.ok a, s.m.began i)) →
          ((∀ i ∈ [Instr.lsWbk u t, .lsInv u t], ∃ m',
                loadBytes a 1 ⟨s.boot, s.clk⟩ (s.m.began i) = .error (.trap 9 x) m' ∧ m'.cur = s.m.cur ∧ m'.issue = (s.m.began i).issue) →
              s.Faults (.lsWbk u t) 9 x ∧ s.Faults (.lsInv u t) 9 x)
          ∧ ((∀ i ∈ [Instr.lsWbk u t, .lsInv u t], ∃ bs m', loadBytes a 1 ⟨s.boot, s.clk⟩ (s.m.began i) = .ok bs m') →
          (s.acts (.lsWbk u t) = true → ∃ s', exec (.lsWbk u t) s = .next s'
            ∧ s'.m.cur.res = s.m.cur.res ++ [⟨5 + 2 * u.val, 0, s.clk.cycle + 10, .data, []⟩]
            ∧ ∀ k < 8, ∀ sec, (s'.m.core s.m.issue.core).sectors.find (pa / 128 * 8 + k) = some sec → sec.dirty = false)
          ∧ (s.acts (.lsInv u t) = true → ∃ s', exec (.lsInv u t) s = .next s'
            ∧ s'.m.cur.res = s.m.cur.res ++ [⟨5 + 2 * u.val, 0, s.clk.cycle + 10, .data, []⟩]
            ∧ ∀ k < 8, (s'.m.core s.m.issue.core).sectors.find (pa / 128 * 8 + k) = none))
          ∧ ((s.m.core s.m.issue.core).l1 ≠ 0 → (s.m.core s.m.issue.core).sectors = [] →
            s.m.homeClean a.legend pa = true → s.acts (.lsPref u t) = true → ∃ s', exec (.lsPref u t) s = .next s'
            ∧ s'.m.cur = s.m.cur
            ∧ ∀ k < 8, ((s'.m.core s.m.issue.core).sectors.find (pa / 128 * 8 + k)).isSome = true))

/-- R218, R219, R40: an atomic whose control word is wrong raises ILLEGAL_SLOT, and one to an L or C address
APERTURE_FAULT. Port b is read by acas alone. With a good control word and an access that the checks allow to own
memory, with nothing of the line in the core's L1 and no own store of its bytes on its way, it delivers the old value, 40
cycles on, writes the new value at the home, and leaves every other byte of memory as it was; one that releases performs
the earlier stores too, and is stated where there are none. -/
def Obligations.Atomics : Prop :=
  ∀ (s : State) (u : Fin 2) (t : Trig) (A B C X : W512) (x c : W64), s.Reads t.src X → s.Port (4 + u.val) 0 A →
    s.Port (4 + u.val) 2 C → x = X.setWidth 64 → c = C.setWidth 64 →
    ∀ (i : Instr) (w : Nat) (new : Nat → Nat → Nat → Nat), w = (if c.toNat % 2 = 1 then 4 else 8) →
      (i = .lsAcas u t → s.Port (4 + u.val) 1 B) →
      (i, new) ∈ [(Instr.lsAadd u t, fun o a _ => (o + a) % 2 ^ (8 * w)),
        (.lsAand u t, fun o a _ => o &&& a), (.lsAor u t, fun o a _ => o ||| a), (.lsAxch u t, fun _ a _ => a),
        (.lsAcas u t, fun o a b => if o = b then a else o),
        (.lsAfadd u t, fun o a _ => add32 o a),
        (.lsAmin u t, fun o a _ => if c.toNat / 8 % 2 = 1 then min o a
          else if (BitVec.ofNat (8 * w) o).toInt ≤ (BitVec.ofNat (8 * w) a).toInt then o else a),
        (.lsAmax u t, fun o a _ => if c.toNat / 8 % 2 = 1 then max o a
          else if (BitVec.ofNat (8 * w) a).toInt ≤ (BitVec.ofNat (8 * w) o).toInt then o else a)] →
      ∀ good : Bool, (good = true ↔ c.toNat < 16 ∧ (i = .lsAfadd u t → c.toNat % 2 = 1)
          ∧ (8 ≤ c.toNat → i = .lsAmin u t ∨ i = .lsAmax u t)) →
        (good = false → s.Faults i 1 c)
        ∧ (good = true → x.toNat / 2 ^ 58 % 8 = 1 ∨ x.toNat / 2 ^ 58 % 8 = 2 → s.Faults i 5 x)
        ∧ ∀ (a : Acc) (pa old : Nat), good = true → x.toNat / 2 ^ 58 % 8 ≠ 1 → x.toNat / 2 ^ 58 % 8 ≠ 2 →
            checkAcc ⟨s.boot, s.clk⟩ s.m.who .both w w x (s.m.began i) = (.ok a, s.m.began i) → a.loc = .phys pa → pa % w = 0 →
            s.m.cur.fences = [] → s.m.issue.x < 4 →
            ((∀ k < 8, (s.m.core s.m.issue.core).sectors.find (pa / 128 * 8 + k) = none)
                ∧ (∀ q ∈ s.m.cur.stq, q.overlaps a.loc w = false) ∧ c.toNat / 4 % 2 = 0
              ∨ s.m.cur.stq = [] ∧ (s.m.core s.m.issue.core).sectors = []) →
            s.m.homeClean a.legend pa = true → old = ofBytes ((List.range w).map fun k => s.m.byteAt (pa + k)) → s.acts i = true →
            ∃ s', exec i s = .next s'
              ∧ s'.m.cur.res = s.m.cur.res ++ [⟨4 + 2 * u.val, BitVec.ofNat 512 old, s.clk.cycle + 40, .data, [a.buf]⟩]
              ∧ (∀ n, s'.m.byteAt n = if pa ≤ n ∧ n < pa + w then
                    BitVec.ofNat 8 (new old (A.toNat % 2 ^ (8 * w)) (B.toNat % 2 ^ (8 * w)) >>> (8 * (n - pa)))
                  else s.m.byteAt n)
              ∧ s'.m.spad = s.m.spad ∧ s'.m.cur.g = s.m.cur.g ∧ s'.m.cur.v = s.m.cur.v ∧ s'.m.cur.p = s.m.cur.p
              ∧ s'.m.cur.csr = s.m.cur.csr

/-! ### The vector units (R151 to R175) -/

/-- R159, R155, R158: vadd, vsub, vmul and vfma deliver, lane by lane in the format in force, the exact result rounded
once in the mode in force (an integer format saturates), 4 cycles on; in RSTO the counter advances by one in a float
format. -/
def Obligations.VectorArithmetic : Prop :=
  ∀ (s : State) (u : Fin 2) (t : Trig) (A X : W512), s.Port (6 + u.val) 0 A → s.Reads t.src X →
    ∀ (el : Elem) (mode : Nat) (a x : Nat → Machine.Num) (rnd : Nat → Machine.Num → Nat), el = s.elem → mode = s.m.issue.mode →
      (∀ j, a j = el.read (laneN A.toNat el.w j)) → (∀ j, x j = el.read (laneN X.toNat el.w j)) →
      (∀ j y, rnd j y = el.round mode (s.randomBits j 0) y) →
      s.DeliversLanes (.vxVadd u t) (8 + u.val) 4 (s.floatSteps 1) el.w (fun j => rnd j (Machine.Num.add mode (a j) (x j)))
      ∧ s.DeliversLanes (.vxVsub u t) (8 + u.val) 4 (s.floatSteps 1) el.w
          (fun j => rnd j (Machine.Num.add mode (a j) (x j).negate))
      ∧ s.DeliversLanes (.vxVmul u t) (8 + u.val) 4 (s.floatSteps 1) el.w (fun j => rnd j (Machine.Num.mul (a j) (x j)))
      ∧ ∀ B : W512, s.Port (6 + u.val) 1 B →
          s.DeliversLanes (.vxVfma u t) (8 + u.val) 4 (s.floatSteps 1) el.w
            (fun j => rnd j (Machine.Num.add mode (Machine.Num.mul (a j) (el.read (laneN B.toNat el.w j))) (x j)))

/-- R160, R161: the larger and the smaller lane, magnitude, negation, and the compares, whose lanes are all ones where
the relation holds and zero elsewhere; none rounds or counts, and every relation with a NaN is false.
R162, R163: the select, the bitwise operations, the shifts by the lanes of t modulo the width, and the operations
that move lanes; none rounds or counts. -/
def Obligations.VectorOrderAndBits : Prop :=
  (∀ (s : State) (u : Fin 2) (t : Trig) (X : W512), s.Reads t.src X →
      ∀ (el : Elem) (x : Nat → Machine.Num), el = s.elem → (∀ j, x j = el.read (laneN X.toNat el.w j)) →
        s.DeliversLanes (.vxVabs u t) (8 + u.val) 4 0 el.w
          (fun j => el.round 0 0 (if (x j).neg then (x j).negate else x j))
        ∧ s.DeliversLanes (.vxVneg u t) (8 + u.val) 4 0 el.w (fun j => el.round 0 0 (x j).negate)
        ∧ ∀ (A : W512) (a : Nat → Machine.Num) (below : Nat → Bool), s.Port (6 + u.val) 0 A →
            (∀ j, a j = el.read (laneN A.toNat el.w j)) →
            (∀ j, below j = (Machine.Num.lt (a j) (x j) || (Machine.Num.eq (a j) (x j) && (a j).neg && !(x j).neg))) →
            s.DeliversLanes (.vxVmax u t) (8 + u.val) 4 0 el.w
              (fun j => el.round 0 0
                (if (a j).isNan || (x j).isNan then .nan else if below j then x j else a j))
            ∧ s.DeliversLanes (.vxVmin u t) (8 + u.val) 4 0 el.w
                (fun j => el.round 0 0
                  (if (a j).isNan || (x j).isNan then .nan else if below j then a j else x j))
            ∧ s.DeliversLanes (.vxVceq u t) (8 + u.val) 4 0 el.w
                (fun j => if Machine.Num.eq (a j) (x j) then 2 ^ el.w - 1 else 0)
            ∧ s.DeliversLanes (.vxVclt u t) (8 + u.val) 4 0 el.w
                (fun j => if Machine.Num.lt (a j) (x j) then 2 ^ el.w - 1 else 0)
            ∧ s.DeliversLanes (.vxVcle u t) (8 + u.val) 4 0 el.w
                (fun j => if Machine.Num.lt (a j) (x j) ∨ Machine.Num.eq (a j) (x j) then 2 ^ el.w - 1 else 0))
  ∧ (∀ (s : State) (u : Fin 2) (t : Trig) (X : W512), s.Reads t.src X →
      ∀ (w n : Nat) (x : Nat → Nat), w = s.elem.w → n = 512 / w → (∀ j, x j = laneN X.toNat w j) →
        s.DeliversLanes (.vxVbc u t) (8 + u.val) 4 0 w (fun _ => X.toNat % 2 ^ w)
        ∧ ∀ (A : W512) (a : Nat → Nat), s.Port (6 + u.val) 0 A → (∀ j, a j = laneN A.toNat w j) →
            s.Delivers (.vxVand u t) (8 + u.val) 4 (A &&& X)
            ∧ s.Delivers (.vxVor u t) (8 + u.val) 4 (A ||| X)
            ∧ s.Delivers (.vxVxor u t) (8 + u.val) 4 (A ^^^ X)
            ∧ s.DeliversLanes (.vxVshl u t) (8 + u.val) 4 0 w (fun j => a j * 2 ^ (x j % w) % 2 ^ w)
            ∧ s.DeliversLanes (.vxVshr u t) (8 + u.val) 4 0 w (fun j => a j / 2 ^ (x j % w))
            ∧ s.DeliversLanes (.vxVsha u t) (8 + u.val) 4 0 w
                (fun j => ((BitVec.ofNat w (a j)).sshiftRight (x j % w)).toNat)
            ∧ s.Delivers (.vxVext u t) (8 + u.val) 4
                (if X.toNat % 128 < n then BitVec.ofNat 512 (a (X.toNat % 128)) else 0)
            ∧ ∀ B : W512, s.Port (6 + u.val) 1 B →
                s.DeliversLanes (.vxVsel u t) (8 + u.val) 4 0 w (fun j => if x j ≠ 0 then a j else laneN B.toNat w j)
                ∧ s.DeliversLanes (.vxVins u t) (8 + u.val) 4 0 w
                    (fun j => if j = B.toNat % 128 then X.toNat % 2 ^ w else a j)
                ∧ s.DeliversLanes (.vxVshf u t) (8 + u.val) 4 0 w
                    (fun j =>
                      let k := if j < 64 then laneN X.toNat 8 j else laneN B.toNat 8 (j - 64)
                      if k < n then a k else 0))

/-- R164, R165: the reductions of t, and the dot product of a and t, along the fixed pairwise tree in a float format, and
exactly with one saturation in an integer format; the other lanes are zero. -/
def Obligations.VectorReductions : Prop :=
  ∀ (s : State) (u : Fin 2) (t : Trig) (X : W512), s.Reads t.src X →
    ∀ (el : Elem) (mode n : Nat) (x : List Nat), el = s.elem → mode = s.m.issue.mode → n = 512 / el.w →
      x = (List.range n).map (laneN X.toNat el.w) →
      (∀ f, el = .flt f →
        s.acts (.vxVrsum u t) = true →
        exec (.vxVrsum u t) s = .next (((s.began (.vxVrsum u t)).counts n.log2).sends (8 + u.val) 4 (BitVec.ofNat 512
          (tree (fun e i p q => f.round mode (s.randomBits i e) (Machine.Num.add mode (f.read p) (f.read q))) n.log2 0 x))))
      ∧ (∀ k, el = .int k →
        s.Delivers (.vxVrsum u t) (8 + u.val) 4 (BitVec.ofNat 512
          (roundInt k 0 0 (.ofInt ((x.map fun y => (BitVec.ofNat k y).toInt).sum)))))
      ∧ s.Delivers (.vxVrmax u t) (8 + u.val) 4 (BitVec.ofNat 512
          (tree (fun _ _ p q => el.round 0 0 (Machine.Num.pick true (el.read p) (el.read q))) n.log2 0 x))
      ∧ s.Delivers (.vxVrmin u t) (8 + u.val) 4 (BitVec.ofNat 512
          (tree (fun _ _ p q => el.round 0 0 (Machine.Num.pick false (el.read p) (el.read q))) n.log2 0 x))
      ∧ ∀ (A : W512) (prods : List Nat), s.Port (6 + u.val) 0 A →
          prods = (List.range n).map (fun j => Fmt.fp32.round mode (s.randomBits j 0)
            (Machine.Num.mul (el.read (laneN A.toNat el.w j)) (el.read (laneN X.toNat el.w j)))) →
          (∀ f, el = .flt f → s.acts (.vxVdot u t) = true →
            exec (.vxVdot u t) s = .next (((s.began (.vxVdot u t)).counts (1 + n.log2)).sends (8 + u.val) 4
              (BitVec.ofNat 512 (tree (fun e i p q => Fmt.fp32.round mode (s.randomBits i e)
                (Machine.Num.add mode (Fmt.fp32.read p) (Fmt.fp32.read q))) n.log2 1 prods))))
          ∧ (∀ k, el = .int k →
            s.Delivers (.vxVdot u t) (8 + u.val) 4 (BitVec.ofNat 512
              (roundInt 64 0 0 (.ofInt (((List.range n).map fun j =>
                (BitVec.ofNat k (laneN A.toNat k j)).toInt * (BitVec.ofNat k (laneN X.toNat k j)).toInt).sum)))))

/-- R166: the reciprocal, reciprocal root, exponential and logarithm of each lane of t, rounded into the format in force,
12 cycles on, with the special values of the rule's table; in an integer format they raise ILLEGAL_SLOT with vfmt in
tval. -/
def Obligations.VectorFunctions : Prop :=
  ∀ (s : State) (u : Fin 2) (t : Trig) (X : W512), s.Reads t.src X →
    ∀ (i : Instr) (fn : Machine.Num → Machine.Num), (i, fn) ∈ [(Instr.vxVrcp u t, Machine.Num.rcp), (.vxVrsq u t, Machine.Num.rsqrt),
        (.vxVexp u t, Machine.Num.exp), (.vxVlog u t, Machine.Num.log)] →
      (∀ f, s.elem = .flt f →
        s.DeliversLanes i (8 + u.val) 12 1 f.w
          (fun j => f.round s.m.issue.mode (s.randomBits j 0) (fn (f.read (laneN X.toNat f.w j)))))
      ∧ (∀ k, s.elem = .int k →
        s.Faults i 1 (BitVec.ofNat 64 (s.m.issue.fmt + s.m.issue.key.toNat * 2 ^ 32)))
      ∧ fn .nan = .nan
      ∧ (i = .vxVrcp u t → fn (.inf false) = .exact false 0 0 ∧ fn (.inf true) = .exact true 0 0
          ∧ ∀ n e, fn (.exact n 0 e) = .inf n)
      ∧ (i = .vxVrsq u t → fn (.inf false) = .exact false 0 0 ∧ fn (.inf true) = .nan
          ∧ (∀ n e, fn (.exact n 0 e) = .inf n) ∧ ∀ m e, m ≠ 0 → fn (.exact true m e) = .nan)
      ∧ (i = .vxVexp u t → fn (.inf false) = .inf false ∧ fn (.inf true) = .exact false 0 0
          ∧ ∀ n e, fn (.exact n 0 e) = .exact false 1 0)
      ∧ (i = .vxVlog u t → fn (.inf false) = .inf false ∧ fn (.inf true) = .nan
          ∧ (∀ n e, fn (.exact n 0 e) = .inf true) ∧ ∀ m e, m ≠ 0 → fn (.exact true m e) = .nan)

/-- R63, R65: an encoding that is no NaN (and no subnormal of BF16, which flushes) survives reading and rounding into its
own format in every mode: an exactly representable value is delivered unchanged, whatever the random bits. -/
def Obligations.ExactValuesAreNotRounded : Prop :=
  ∀ f : Fmt, f ∈ [Fmt.fp32, Fmt.bf16, Fmt.fp16, Fmt.e4m3, Fmt.e2m1] →
    ∀ x mode bits : Nat, x < 2 ^ f.w → f.read x ≠ .nan →
      (f = Fmt.bf16 → x / 2 ^ 7 % 2 ^ 8 = 0 → x % 2 ^ 7 = 0) → f.round mode bits (f.read x) = x

/-- R168, R170, R171: the conversions of the vs unit under their control words, with the counter advanced by one where
they round, and ILLEGAL_SLOT for the control words and formats that the rules refuse; vmxe's exponent is the target
format's Emax (R153) less the floor of the logarithm of the largest finite magnitude, clamped, or 0 where that is zero.
R169, R67: vqnt scales FP32 lanes and rounds them once into 16 lanes of a part of port b, in the format that the
control word names; vdq scales the exact lanes of a part and rounds them once to FP32; both count one step. That vcvt and
vqnt count it into an integer format too is R167's word against R155's (log entry 94). Reserved
bits, a format code above 8 and a part that the format does not have raise ILLEGAL_SLOT with the control word in tval. -/
def Obligations.VectorConversionsAndScales : Prop :=
  (∀ (s : State) (t : Trig) (X : W512), s.Reads t.src X →
      ∀ (x : W64) (mode from_ to_ p nf nt g : Nat) (word : W64), x = X.setWidth 64 → mode = s.m.issue.mode →
        from_ = x.toNat % 16 → to_ = x.toNat / 16 % 16 → p = x.toNat / 256 % 8 →
        nf = 512 / (elemOf from_).w → nt = 512 / (elemOf to_).w → g = s.m.issue.fmt →
        word = BitVec.ofNat 64 (g + s.m.issue.key.toNat * 2 ^ 32) →
        (2 ^ 11 ≤ x.toNat ∨ 8 < from_ ∨ 8 < to_ ∨ (nt ≤ nf ∧ nf / nt ≤ p) ∨ (nf < nt ∧ nt / nf ≤ p) →
          s.Faults (.vsVcvt t) 1 x)
        ∧ (8 < x.toNat → s.Faults (.vsVmxe t) 1 x)
        ∧ (g ≠ 1 → g ≠ 4 → g ≠ 6 → s.Faults (.vsVpk t) 1 word)
        ∧ (g ≠ 4 → g ≠ 6 → g ≠ 7 → s.Faults (.vsVupk t) 1 word)
        ∧ (g = 4 ∨ g = 6 ∨ g = 7 → ∀ w n : Nat, w = s.elem.w → n = 512 / w →
            s.acts (.vsVupk t) = true → ∃ v1 v2 : W512,
              exec (.vsVupk t) s = .next (((s.began (.vsVupk t)).sends 10 6 v1).sends 11 6 v2)
              ∧ ∀ j < n / 2, laneN v1.toNat (2 * w) j = ((BitVec.ofNat w (laneN X.toNat w j)).signExtend (2 * w)).toNat
                ∧ laneN v2.toNat (2 * w) j = ((BitVec.ofNat w (laneN X.toNat w (n / 2 + j))).signExtend (2 * w)).toNat)
        ∧ ∀ (A : W512) (lane : Nat → Nat → Nat), s.Port 8 0 A → (∀ w j, lane w j = laneN A.toNat w j) →
          (x.toNat < 2 ^ 11 → from_ ≤ 8 → to_ ≤ 8 →
            (nt ≤ nf → p < nf / nt → s.DeliversLanes (.vsVcvt t) 10 6 1 (elemOf to_).w
              (fun j => (elemOf to_).round mode (s.randomBits j 0)
                ((elemOf from_).read (lane (elemOf from_).w (p * nt + j)))))
            ∧ ∀ B : W512, s.Port 8 1 B → nf < nt → p < nt / nf → s.DeliversLanes (.vsVcvt t) 10 6 1 (elemOf to_).w
              (fun j => if p * nf ≤ j ∧ j < p * nf + nf then
                  (elemOf to_).round mode (s.randomBits j 0) ((elemOf from_).read (lane (elemOf from_).w (j - p * nf)))
                else laneN B.toNat (elemOf to_).w j))
          ∧ (x.toNat ≤ 8 → ∀ (big : Nat) (e : Int),
              (∀ j < 16, laneN A.toNat 32 j / 2 ^ 23 % 2 ^ 8 ≠ 255 → laneN A.toNat 32 j % 2 ^ 31 ≤ big) →
              (big = 0 ∨ ∃ j < 16, laneN A.toNat 32 j / 2 ^ 23 % 2 ^ 8 ≠ 255 ∧ laneN A.toNat 32 j % 2 ^ 31 = big) →
              (big = 0 → e = 0) →
              (big ≠ 0 → e = max (-126) (min 127 (([127, 30, 127, 15, 14, 8, 6, 2, 2] : List Int).getD x.toNat 0
                - (if big < 2 ^ 23 then (big.log2 : Int) - 149 else (big / 2 ^ 23 : Nat) - 127)))) →
              s.Delivers (.vsVmxe t) 10 6 (BitVec.ofNat 512 (Fmt.fp32.round 0 0 (.exact false 1 e)
                + Fmt.fp32.round 0 0 (.exact false 1 (-e)) * 2 ^ 32)))
          ∧ (g = 1 ∨ g = 4 ∨ g = 6 → ∀ w h n : Nat, w = s.elem.w → h = w / 2 → n = 512 / w →
              s.DeliversLanes (.vsVpk t) 10 6 0 h (fun j => roundInt h 0 0 (.ofInt
                (BitVec.ofNat w (if j < n then lane w j else laneN X.toNat w (j - n))).toInt))))
  ∧ (∀ (s : State) (t : Trig) (X : W512), s.Reads t.src X →
      ∀ (x : W64) (mode g p : Nat) (el : Elem) (k : Machine.Num), x = X.setWidth 64 → mode = s.m.issue.mode →
        g = x.toNat / 2 ^ 32 % 16 → p = x.toNat / 2 ^ 40 % 8 → el = elemOf g →
        k = Fmt.fp32.read (x.toNat % 2 ^ 32) →
        (x.toNat / 2 ^ 36 % 16 ≠ 0 ∨ 2 ^ 43 ≤ x.toNat ∨ 8 < g ∨ 512 / el.w / 16 ≤ p →
          s.Faults (.vsVqnt t) 1 x ∧ s.Faults (.vsVdq t) 1 x)
        ∧ (x.toNat / 2 ^ 36 % 16 = 0 → x.toNat < 2 ^ 43 → g ≤ 8 → p < 512 / el.w / 16 →
          ∀ A : W512, s.Port 8 0 A →
            s.DeliversLanes (.vsVdq t) 10 6 1 32 (fun j =>
              Fmt.fp32.round mode (s.randomBits j 0) (Machine.Num.mul (el.read (laneN A.toNat el.w (p * 16 + j))) k))
            ∧ ∀ B : W512, s.Port 8 1 B →
              s.DeliversLanes (.vsVqnt t) 10 6 1 el.w (fun j => if p * 16 ≤ j ∧ j < p * 16 + 16 then
                  el.round mode (s.randomBits j 0) (Machine.Num.mul (Fmt.fp32.read (laneN A.toNat 32 (j - p * 16))) k)
                else laneN B.toNat el.w j)))

/-- R172, R174, R175: the lists and counts of true lanes, compaction and expansion, the random doublewords of a lane base
and a counter, and the normal deviates made of them. -/
def Obligations.VectorDivergenceAndRandom : Prop :=
  ∀ (s : State) (t : Trig) (X : W512), s.Reads t.src X →
    ∀ (w n : Nat) (on : Nat → Bool) (x : W64), w = s.elem.w → n = 512 / w → x = X.setWidth 64 →
      (∀ j, on j = (laneN X.toNat w j != 0)) →
      s.Delivers (.vsPcnt t) 10 6 (BitVec.ofNat 512 ((List.range n).countP on))
      ∧ ∀ (A : W512) (lane : Nat → Nat) (r : Nat → Nat → Nat), s.Port 8 0 A → (∀ j, lane j = laneN A.toNat w j) →
        (∀ j c, r j c = rand s.m.issue.key.toNat ((A.toNat % 2 ^ 24 + j) % 2 ^ 24) c) →
        (s.acts (.vsPart t) = true → ∃ v1 v2 : W512,
          exec (.vsPart t) s = .next (((s.began (.vsPart t)).sends 10 6 v1).sends 11 6 v2)
          ∧ ∀ (h : Nat) (js : List Nat), h = (if n = 128 then A.toNat % 2 else 0) →
              js = (List.range n).filter (fun j => decide (64 * h ≤ j ∧ j < 64 * h + 64)) → ∀ k < 64,
              laneN v1.toNat 8 k = (js.filter on).getD k 0xFF
              ∧ laneN v2.toNat 8 k = (js.filter fun j => !on j).getD k 0xFF)
        ∧ (s.acts (.vsVcmp t) = true → ∃ v : W512,
            exec (.vsVcmp t) s = .next (((s.began (.vsVcmp t)).sends 10 6 v).sends 11 6
              (BitVec.ofNat 512 ((List.range n).countP on)))
            ∧ ∀ k < n, laneN v.toNat w k = (((List.range n).filter on).map lane).getD k 0)
        ∧ (∀ B : W512, s.Port 8 1 B → s.DeliversLanes (.vsVexd t) 10 6 0 w
            (fun j => if on j then lane ((List.range j).countP on) else laneN B.toNat w j))
        ∧ (s.acts (.vsRand t) = true → ∃ v1 v2 : W512,
            exec (.vsRand t) s = .next (((s.began (.vsRand t)).sends 10 6 v1).sends 11 6 v2)
            ∧ ∀ j < 8, laneN v1.toNat 64 j = r j x.toNat ∧ laneN v2.toNat 64 j = r (8 + j) x.toNat)
        ∧ (s.acts (.vsNorm t) = true → ∃ v1 v2 : W512,
            exec (.vsNorm t) s = .next (((s.began (.vsNorm t)).sends 10 6 v1).sends 11 6 v2)
            ∧ ∀ j < 16, laneN v1.toNat 32 j = normOf (r j x.toNat) % 2 ^ 32
              ∧ laneN v2.toNat 32 j = normOf (r j ((x.toNat + 1) % 2 ^ 64)) % 2 ^ 32)

/-! ### The system unit (R122, R123, R131, R156, R223, R316 to R319, R381, R394, R404, R408, R409) -/

/-- R122, R131: sy.csrr delivers the control or status register that its operand numbers; a number that the table does
not hold raises ILLEGAL_SLOT, and a register that is closed to user privilege raises PRIV there, both with the number in
tval.
R122, R131: sy.csrw delivers the value that a read would deliver, and asks for its write, which acts for the bundles that
issue after it (the higher slots of its own bundle see the former value: log entry 50; that rmode is delivered with rctr as
lower slots have advanced it is log entry 95); a supervisor's value that the setting instruction rejects raises ILLEGAL_SLOT with the value in tval.
R123, R131: the write, as it acts, writes the fields that the writer's privilege may write, register by register; at user
privilege it changes nothing but a queue-overflow mark that it clears; frame.base is written while the die holds no task
and its 96 MiB lie in the die's own memory.  The writes that sy.uie, sq.len, sq.seeda, sq.seedb and gs.wto ask for act at
any privilege, and the format, mode and key that sy.setv, sy.seed and sy.csrw ask for arrive (R131, R154, R156, R254,
R351). -/
def Obligations.ControlRegisters : Prop :=
  (∀ (s : State) (t : Trig) (X : W512), s.Reads t.src X →
      ∀ (n : W64) (c : Ctx) (w : Csrs) (y : Die), n = X.setWidth 64 → c = s.m.cur → w = s.m.issue.oldCsr.getD c.csr →
        y = s.m.die s.m.issue.d →
        (∀ v : W64, (n.toNat, v) ∈
            [(0x001, w.uivec.setWidth 64), (0x002, c.csr.uiepc.setWidth 64),
             (0x010, c.csr.seed ++ BitVec.ofNat 32 c.csr.fmt), (0x011, c.csr.rctr ++ BitVec.ofNat 24 c.csr.mode),
             (0x020, BitVec.ofNat 64 w.sqlen), (0x021, w.seedA.setWidth 64), (0x022, w.seedB.setWidth 64),
             (0x030, w.waitTo.setWidth 64), (0x031, c.csr.wdLimit.setWidth 64),
             (0x040, BitVec.ofNat 64 c.csr.spadBase), (0x041, BitVec.ofNat 64 c.csr.spadSize), (0x042, c.csr.ntrange)] →
          c.csr.fmt < 2 ^ 32 → c.csr.mode < 2 ^ 24 → s.DeliversWord (.syCsrr t) 16 2 v)
        ∧ (n = 0x000 → s.DeliversWord (.syCsrr t) 16 2 (BitVec.ofNat 64 ((if w.uien then 1 else 0)
            + 2 * w.uimask.toNat + (if c.csr.inui then 2 ^ 7 else 0) + (if c.csr.uiovf then 2 ^ 15 else 0)
            + 2 ^ 16 * c.uiq.length)))
        ∧ (n = 0x200 → s.DeliversWord (.syCsrr t) 16 2
            (BitVec.ofNat 64 (s.boot.active.toNat * 2 ^ 16 + Env.dieCount ⟨s.boot, s.clk⟩)))
        ∧ (n = 0x201 → s.DeliversWord (.syCsrr t) 16 2 (BitVec.ofNat 64 y.didt))
        ∧ (n = 0x202 → s.DeliversWord (.syCsrr t) 16 2 (BitVec.ofNat 64 (y.slipLate * 2 ^ 32 + y.slipWorst)))
        ∧ (0x600 ≤ n.toNat → n.toNat < 0x800 →
            s.DeliversWord (.syCsrr t) 16 2 (s.m.hot.get 0 (s.m.issue.d * 512 + (n.toNat - 0x600))))
        ∧ (c.csr.priv = true → ∀ v : W64, (n.toNat, v) ∈
            [(0x101, c.csr.tbundle), (0x102, BitVec.ofNat 64 c.csr.tslot), (0x103, c.csr.tdone.setWidth 64),
             (0x104, c.csr.tcause.setWidth 64), (0x105, c.csr.tval), (0x106, y.tvec.setWidth 64),
             (0x107, BitVec.ofNat 64 y.frameBase), (0x108, c.csr.tscr0), (0x109, c.csr.tscr1), (0x10A, c.csr.tscr2),
             (0x10B, c.csr.tscr3), (0x100, BitVec.ofNat 64 ((if c.csr.intrap then 4 else 0)
               + (if c.csr.ppriv then 2 else 0) + 1))] → s.DeliversWord (.syCsrr t) 16 2 v)
        ∧ (c.csr.priv = false → (0x100 ≤ n.toNat ∧ n.toNat ≤ 0x10B) ∨ n.toNat = 0x203 →
            s.Faults (.syCsrr t) 8 n ∧ s.Faults (.syCsrw t) 8 n)
        ∧ (¬ (n.toNat ≤ 0x002 ∨ n.toNat = 0x010 ∨ n.toNat = 0x011 ∨ (0x020 ≤ n.toNat ∧ n.toNat ≤ 0x022)
              ∨ n.toNat = 0x030 ∨ n.toNat = 0x031 ∨ (0x040 ≤ n.toNat ∧ n.toNat ≤ 0x042)
              ∨ (0x100 ≤ n.toNat ∧ n.toNat ≤ 0x10B) ∨ (0x200 ≤ n.toNat ∧ n.toNat ≤ 0x203)
              ∨ (0x600 ≤ n.toNat ∧ n.toNat < 0x800)) →
            s.Faults (.syCsrr t) 1 n ∧ s.Faults (.syCsrw t) 1 n))
  ∧ (∀ (s : State) (t : Trig) (A X : W512), s.Reads t.src X → s.Port 13 0 A →
      ∀ (n v old : W64) (c : Csrs), n = X.setWidth 64 → v = A.setWidth 64 → c = s.m.cur.csr →
        readCsr ⟨s.boot, s.clk⟩ s.m n.toNat = some old →
        (c.priv = true ∧ ((n = 0x010 ∧ 8 < v.toNat % 16) ∨ (n = 0x011 ∧ 4 < v.toNat % 8)
              ∨ (n = 0x020 ∧ (v.toNat % 16 < 4 ∨ 12 < v.toNat % 16))) → s.Faults (.syCsrw t) 1 v)
        ∧ ((c.priv = true → (n = 0x010 → v.toNat % 16 ≤ 8) ∧ (n = 0x011 → v.toNat % 8 ≤ 4)
              ∧ (n = 0x020 → 4 ≤ v.toNat % 16 ∧ v.toNat % 16 ≤ 12)) →
          (c.priv = false → supervisorOnly n.toNat = false) → s.acts (.syCsrw t) = true →
          exec (.syCsrw t) s = .next ((s.notes (.syCsrw t) fun i =>
            if n = 0x010 then
              (if c.priv then { i with newFmt := some (v.toNat % 16), newSeed := some (v.extractLsb' 32 32) } else i)
            else if n = 0x011 then
              (if c.priv then { i with newMode := some (v.toNat % 8), rctr := some (v.extractLsb' 24 40) } else i)
            else { i with newCsr := i.newCsr ++ [⟨n.toNat, v.toNat, false⟩] }).sends 16 2 (old.setWidth 512))))
  ∧ (∀ (m : Mach) (n : Nat) (v : W64) (c : Csrs) (y : Die), m.issue.newCsr = [⟨n, v.toNat, false⟩] → m.issue.newFmt = none →
      m.issue.newMode = none → m.issue.newSeed = none → c = m.cur.csr → y = m.die m.issue.d →
      (c.priv = false →
        (applySettings m).cur = { m.cur with csr := if n = 0 ∧ v.getLsbD 15 then { c with uiovf := false } else c }
          ∧ (applySettings m).dies = m.dies ∧ (applySettings m).hot = m.hot ∧ (applySettings m).spad = m.spad
          ∧ (applySettings m).mem = m.mem)
      ∧ (c.priv = true →
        (∀ d : Csrs, (n, d) ∈
            [(0x000, { c with uien := v.getLsbD 0, uimask := v.extractLsb' 1 6,
                              uiovf := if v.getLsbD 15 then false else c.uiovf }),
             (0x001, { c with uivec := v.setWidth 48 }), (0x002, { c with uiepc := v.setWidth 48 }),
             (0x020, { c with sqlen := v.toNat % 16 }),
             (0x021, { c with seedA := v.setWidth 32 }), (0x022, { c with seedB := v.setWidth 32 }),
             (0x030, if v.setWidth 32 = 0#32 then c else { c with waitTo := v.setWidth 32 }),
             (0x031, { c with wdLimit := v.setWidth 32 }), (0x042, { c with ntrange := v &&& 0xFFFFFFFFFF000003 }),
             (0x100, { c with ppriv := v.getLsbD 1 }), (0x101, { c with tbundle := v }),
             (0x102, { c with tslot := v.toNat % 16 }), (0x103, { c with tdone := v.setWidth 8 }),
             (0x104, { c with tcause := v.setWidth 8 }), (0x105, { c with tval := v }), (0x108, { c with tscr0 := v }),
             (0x109, { c with tscr1 := v }), (0x10A, { c with tscr2 := v }), (0x10B, { c with tscr3 := v }),
             (0x040, c), (0x041, c), (0x200, c)] →
          (applySettings m).cur = { m.cur with csr := d } ∧ (applySettings m).die m.issue.d = y
            ∧ (applySettings m).spad = m.spad ∧ (applySettings m).mem = m.mem)
        ∧ (∀ z : Die, (n, z) ∈
            [(0x106, { y with tvec := v.setWidth 48 }), (0x201, { y with didt := v.toNat % 2 ^ 16 }),
             (0x202, { y with slipLate := v.toNat / 2 ^ 32, slipWorst := v.toNat % 2 ^ 32 }),
             (0x203, { y with flFired := y.flFired && !(v.getLsbD 32), flOn := v.toNat / 2 ^ 8 % 16,
                              flTstop := v.getLsbD 2, flUser := v.getLsbD 1, flArm := v.getLsbD 0 })] →
          (applySettings m).die m.issue.d = z ∧ (applySettings m).cur.csr = c
            ∧ ∀ k, k ≠ m.issue.d → (applySettings m).die k = m.die k)
        ∧ (n = 0x107 → ∀ base : Nat, base = v.toNat % 2 ^ 48 / 2 ^ 15 * 2 ^ 15 → (applySettings m).cur.csr = c
            ∧ (applySettings m).die m.issue.d
              = (if base / 2 ^ 40 = m.issue.d ∧ base % 2 ^ 40 + 96 * 2 ^ 20 ≤ 96 * 2 ^ 30
                    ∧ ∀ p ∈ m.tasks, p.1 / 3072 = m.issue.d → p.2.st = .free
                 then { y with frameBase := base } else y))
        ∧ (0x600 ≤ n → n < 0x800 → (applySettings m).cur.csr = c ∧ (applySettings m).dies = m.dies
            ∧ ∀ k, (applySettings m).hot.get 0 k = if k = m.issue.d * 512 + (n - 0x600) then v else m.hot.get 0 k)))
  ∧ (∀ (m : Mach) (n : Nat) (v : W64) (c d : Csrs), m.issue.newCsr = [⟨n, v.toNat, true⟩] → m.issue.newFmt = none →
      m.issue.newMode = none → m.issue.newSeed = none → c = m.cur.csr →
      (n, d) ∈ [(0x000, { c with uien := v.getLsbD 0, uimask := v.extractLsb' 1 6 }),
        (0x001, { c with uivec := v.setWidth 48 }), (0x020, { c with sqlen := v.toNat % 16 }),
        (0x021, { c with seedA := v.setWidth 32 }), (0x022, { c with seedB := v.setWidth 32 }),
        (0x030, if v.setWidth 32 = 0#32 then c else { c with waitTo := v.setWidth 32 })] →
      (applySettings m).cur = { m.cur with csr := d } ∧ (applySettings m).dies = m.dies ∧ (applySettings m).mem = m.mem)
  ∧ (∀ (m : Mach) (c : Csrs), m.issue.newCsr = [] → c = m.cur.csr →
      (applySettings m).cur = { m.cur with csr := { c with fmt := m.issue.newFmt.getD c.fmt,
                                                           mode := m.issue.newMode.getD c.mode,
                                                           seed := m.issue.newSeed.getD c.seed } }
        ∧ (applySettings m).dies = m.dies ∧ (applySettings m).mem = m.mem)

/-- R131, R156: sy.uie delivers the former status word and asks for the write of enable and mask, and of the vector when it
enables; sy.setv and sy.seed deliver the former settings and ask for those of the bundles that follow; reserved bits of an operand,
a format above 8 and a mode above 4 raise ILLEGAL_SLOT, and a vector that is no bundle address raises ALIGN. -/
def Obligations.SettingsOfTheContext : Prop :=
  ∀ (s : State) (t : Trig) (A X : W512), s.Reads t.src X → s.Port 13 0 A →
    ∀ (x a : W64) (c : Csrs), x = X.setWidth 64 → a = A.setWidth 64 → c = s.m.cur.csr →
      (2 ^ 7 ≤ x.toNat → s.Faults (.syUie t) 1 x)
      ∧ (x.toNat < 2 ^ 7 → x.getLsbD 0 = true → (2 ^ 48 ≤ a.toNat ∨ a.toNat % 32 ≠ 0) → s.Faults (.syUie t) 7 a)
      ∧ (x.toNat < 2 ^ 7 → (x.getLsbD 0 = true → a.toNat < 2 ^ 48 ∧ a.toNat % 32 = 0) → s.acts (.syUie t) = true →
          exec (.syUie t) s = .next ((s.notes (.syUie t) fun i =>
            { i with newCsr := i.newCsr ++ (if x.getLsbD 0 then [⟨0x001, a.toNat, true⟩] else [])
                                 ++ [⟨0x000, x.toNat, true⟩] }).sends 16 2 (s.m.cur.uistat.setWidth 512)))
      ∧ (2 ^ 16 ≤ x.toNat ∨ x.toNat / 2 ^ 11 % 16 ≠ 0 ∨ x.toNat / 16 % 8 ≠ 0
            ∨ (x.getLsbD 7 = true ∧ 8 < x.toNat % 16) ∨ (x.getLsbD 15 = true ∧ 4 < x.toNat / 256 % 8) →
          s.Faults (.sySetv t) 1 x)
      ∧ (x.toNat < 2 ^ 16 → x.toNat / 2 ^ 11 % 16 = 0 → x.toNat / 16 % 8 = 0 →
          (x.getLsbD 7 = true → x.toNat % 16 ≤ 8) → (x.getLsbD 15 = true → x.toNat / 256 % 8 ≤ 4) →
          s.acts (.sySetv t) = true →
          exec (.sySetv t) s = .next ((s.notes (.sySetv t) fun i =>
            { i with newFmt := if x.getLsbD 7 then some (x.toNat % 16) else i.newFmt,
                     newMode := if x.getLsbD 15 then some (x.toNat / 256 % 8) else i.newMode }).sends 16 2
              (BitVec.ofNat 512 ((c.mode * 2 ^ 8 + c.fmt) % 2 ^ 64))))
      ∧ (2 ^ 32 ≤ x.toNat → s.Faults (.sySeed t) 1 x)
      ∧ (x.toNat < 2 ^ 32 → 2 ^ 40 ≤ a.toNat → s.Faults (.sySeed t) 1 a)
      ∧ (x.toNat < 2 ^ 32 → a.toNat < 2 ^ 40 → s.acts (.sySeed t) = true →
          exec (.sySeed t) s = .next ((s.notes (.sySeed t) fun i =>
            { i with newSeed := some (x.setWidth 32), rctr := some (a.setWidth 40) }).sends 16 2 (c.seed.setWidth 512)))

/-- R316 to R319, R215: a fence with nothing of its context pending completes at once and delivers 0 (2 cycles later):
a die-scope release, sy.fncx and sy.fncp leave no dirty sector of the kind they cover, a die-scope acquire no clean one
of own-die memory and sy.fncp none at all. One whose release part (or, sy.fncx and sy.fncp, which has no parts) finds a
store pending that it covers is put in force, and its result waits for it. Reserved bits, a scope of 3 and a fence of
no part raise ILLEGAL_SLOT; at sy.fncx and sy.fncp a refused store of a kind-2 handle not yet raised raises
APERTURE_FAULT with its address, one that the peer package refuses at that fence included (when it answers is log entry
15). -/
def Obligations.Fences : Prop :=
  ∀ (s : State) (t : Trig) (X : W512), s.Reads t.src X → ∀ (x : W64), x = X.setWidth 64 →
    (2 ^ 6 ≤ x.toNat ∨ x.toNat / 4 % 4 ≠ 0 ∨ x.toNat % 4 = 3 ∨ x.toNat / 16 % 4 = 0 → s.Faults (.syFnc t) 1 x)
    ∧ (x ≠ 0 → s.Faults (.syFncx t) 1 x ∧ s.Faults (.syFncp t) 1 x)
    ∧ (x = 0 → s.NoPeerBytes →
        (∀ p rest, s.m.cur.refusals = p :: rest → (∀ q ∈ rest, p.1 < q.1) → (∀ q ∈ s.m.cur.stq, q.isPeer = false) →
          s.Faults (.syFncx t) 5 p.2 ∧ s.Faults (.syFncp t) 5 p.2)
        ∧ ∀ q, s.m.cur.refusals = [] → s.m.cur.stq = [q] → q.isPeer = true → Config.peerRefuses s.m.seed = true →
            s.Faults (.syFncx t) 5 q.gaddr ∧ s.Faults (.syFncp t) 5 q.gaddr)
    ∧ ∀ i : Instr, s.m.cur.fences = [] → s.m.issue.x < 4 →
        (i = .syFnc t ∧ x.toNat < 2 ^ 6 ∧ x.toNat / 4 % 4 = 0 ∧ x.toNat % 4 ≠ 3 ∧ x.toNat / 16 % 4 ≠ 0
          ∨ (i = .syFncx t ∨ i = .syFncp t) ∧ x = 0 ∧ s.m.cur.refusals = []) →
        (s.NoPeerSectors →
          s.m.cur.stq = [] → s.acts i = true →
          ∃ s', exec i s = .next s'
            ∧ s'.m.cur = { s.m.cur with nextFence := s.m.cur.nextFence + 1, fences := [],
                                        res := s.m.cur.res ++ [⟨16, 0, s.clk.cycle + 2, .none, []⟩] }
            ∧ s'.m.spad = s.m.spad
            ∧ (∀ k sec, (s'.m.core s.m.issue.core).sectors.find k = some sec →
                (i = .syFnc t → x.toNat % 4 = 2 → sec.cls = .own →
                  (x.getLsbD 4 = true → sec.dirty = true) ∧ (x.getLsbD 5 = true → sec.dirty = false))
                ∧ (i = .syFncx t → sec.dirty = false) ∧ i ≠ .syFncp t)
            ∧ (i = .syFnc t → x.toNat % 4 < 2 →
                s'.m.cores = s.m.cores ∧ s'.m.mem = s.m.mem ∧ s'.m.l2 = s.m.l2))
        ∧ ∀ q ∈ s.m.cur.stq, q.id < s.m.cur.nextStore →
            (i = .syFnc t → x.getLsbD 5 = true ∧ (x.toNat % 4 = 1 ∨ x.toNat % 4 = 2 ∧ q.cls ≠ .far)) →
            (i ≠ .syFnc t → s.NoPeerBytes ∧ ∀ r ∈ s.m.cur.stq, r.isPeer = false) → s.acts i = true →
            ∃ s' k, exec i s = .next s'
              ∧ s'.m.cur = { s.m.cur with nextFence := s.m.cur.nextFence + 1,
                                          fences := [⟨s.m.cur.nextFence, k, s.m.cur.nextStore⟩],
                                          res := s.m.cur.res ++ [⟨16, 0, s.clk.cycle + 2,
                                                                  .fence s.m.cur.nextFence, []⟩] }
              ∧ s'.m.spad = s.m.spad ∧ s'.m.mem = s.m.mem ∧ s'.m.cores = s.m.cores

/-- R381: sy.layo on an L address of the own run, aligned to a region, with every region within the run, gives those
regions the new legend, and the others keep theirs; bit 16 makes every byte of them zero; its result, the former legend
of the first region, is on its way behind a fence of its own (how that fence stands for the operation's end, no earlier
than 128 cycles a region after the issue, is the model's choice: log entry 53).  Reserved bits, no region, more than 40
and a legend above 9 raise ILLEGAL_SLOT.
R394, R408, R409: sy.flar delivers 1 while flares are not armed or one has fired, else 0, and the flare fires on every
active die with its tag; at user privilege without flare.cfg's user bit it raises PRIV.  sy.evr of the newest record
delivers its number and puts its 64 bytes on their way to the own scratchpad run, and delivers EMPTY with no record.
R371, R372, R375: under a numeric legend a flipped bit of a line's high plane, or of the check bits of its code, is
corrected in the line and in its check bits. -/
def Obligations.RegionsFlaresEvents : Prop :=
  (∀ (s : State) (t : Trig) (A X : W512), s.Reads t.src X → s.Port 13 0 A →
      ∀ (x a : W64) (n leg off : Nat), x = X.setWidth 64 → a = A.setWidth 64 → n = a.toNat % 64 →
        leg = a.toNat / 256 % 16 → off = s.m.cur.csr.spadBase + x.toNat % 2 ^ 22 →
        (2 ^ 17 ≤ a.toNat ∨ a.toNat / 2 ^ 12 % 16 ≠ 0 ∨ a.toNat / 64 % 4 ≠ 0 ∨ n = 0 ∨ 40 < n ∨ 9 < leg →
          s.Faults (.syLayo t) 1 a)
        ∧ (a.toNat < 2 ^ 17 → a.toNat / 2 ^ 12 % 16 = 0 → a.toNat / 64 % 4 = 0 → 0 < n → n ≤ 40 → leg ≤ 9 →
            x.toNat / 2 ^ 58 % 8 = 1 → x.toNat / 2 ^ 22 % 2 ^ 36 = 0 →
            (s.m.cur.csr.spadSize < x.toNat % 2 ^ 22 + n * 65536 → s.Faults (.syLayo t) 5 x)
            ∧ (x.toNat % 2 ^ 22 + n * 65536 ≤ s.m.cur.csr.spadSize → off % 65536 ≠ 0 → s.Faults (.syLayo t) 7 x)
            ∧ (x.toNat % 2 ^ 22 + n * 65536 ≤ s.m.cur.csr.spadSize → off % 65536 = 0 → s.m.cur.stq = [] →
                s.m.cur.fences = [] → s.acts (.syLayo t) = true →
                ∃ s', exec (.syLayo t) s = .next s'
                  ∧ (∀ k, (s'.m.core s.m.issue.core).regions.get 0 k
                      = if off / 65536 ≤ k ∧ k < off / 65536 + n then leg
                        else (s.m.core s.m.issue.core).regions.get 0 k)
                  ∧ s'.m.cur = { s.m.cur with
                      nextFence := s.m.cur.nextFence + 1,
                      fences := [⟨s.m.cur.nextFence, .layo (s.clk.cycle + 128 * n), s.m.cur.nextStore⟩],
                      res := s.m.cur.res ++ [⟨16, BitVec.ofNat 512 (spadLegend s.m s.m.issue.core off % 2 ^ 64),
                               s.clk.cycle + 2, .fence s.m.cur.nextFence, []⟩] }
                  ∧ (a.getLsbD 16 = true → s.m.MemWf →
                      (∀ j < n * 65536, s'.m.spad.read (spadAddr s.m.issue.core off + j) = 0)
                      ∧ (∀ b, (b < spadAddr s.m.issue.core off ∨ spadAddr s.m.issue.core off + n * 65536 ≤ b) →
                          s'.m.spad.read b = s.m.spad.read b)
                      ∧ s'.m.mem = s.m.mem)
                  ∧ (a.getLsbD 16 = false → s.m.MemWf →
                      (∀ j < n * 65536, s.m.spadClean s.m.issue.core (off + j) = true) →
                      (∀ b, s'.m.spad.read b = s.m.spad.read b) ∧ s'.m.mem = s.m.mem))))
  ∧ (∀ (s : State) (t : Trig) (A X : W512), s.Reads t.src X → s.Port 13 0 A →
      ∀ (x a : W64) (y : Die), x = X.setWidth 64 → a = A.setWidth 64 → y = s.m.die s.m.issue.d →
        (2 ^ 16 ≤ x.toNat → s.Faults (.syFlar t) 1 x)
        ∧ (x.toNat < 2 ^ 16 → s.m.cur.csr.priv = false → y.flUser = false → s.Faults (.syFlar t) 8 x)
        ∧ (x.toNat < 2 ^ 16 → s.m.cur.csr.priv = true ∨ y.flUser = true →
            (y.flArm = false ∨ y.flFired = true → s.DeliversWord (.syFlar t) 16 2 1)
            ∧ (y.flArm = true → y.flFired = false → s.acts (.syFlar t) = true →
                ∃ s', exec (.syFlar t) s = .next s'
                  ∧ s'.m.cur = ((s.began (.syFlar t)).sends 16 2 0).m.cur
                  ∧ (∀ d, Env.live ⟨s.boot, s.clk⟩ d = true → (s'.m.die d).flFired = true
                      ∧ (s'.m.die d).flTag = x.toNat ∧ (s'.m.die d).flSource = 0)
                  ∧ s'.m.mem = s.m.mem ∧ s'.m.spad = s.m.spad))
        ∧ (x = 2 ^ 32 → s.InRun a 64 → s.m.cur.fences = [] → inSegment s.m = false →
            (∀ g, s.m.cur.seg = some g → g.held = []) →
            s.m.spadClean s.m.issue.core (s.runOffset a) = true →
            (y.evStore = [] → s.DeliversWord (.syEvr t) 16 8 0x8000000000000001)
            ∧ ∀ r rest, y.evStore = r :: rest → 0 < y.evCount.toNat → s.m.cur.csr.priv = true →
                s.acts (.syEvr t) = true →
                exec (.syEvr t) s = .next (((s.began (.syEvr t)).sendsStore (s.runAcc a)
                  ((List.range 64).map fun k => r.data.extractLsb' (8 * k) 8)).sends 16 8
                    (BitVec.ofNat 512 (y.evCount.toNat - 1)))))
  ∧ ∀ (line legend w h t : Nat), line < 2 ^ 1024 →
      (legend, w, h, t) ∈ [(1, 32, 9, 9), (2, 16, 9, 9), (3, 16, 6, 7), (4, 8, 5, 10), (5, 8, 3, 8), (6, 4, 2, 8),
        (7, 4, 3, 8), (8, 1024, 1024, 11), (9, 1024, 1024, 11)] →
      ∀ x : Reading,
        ((∃ el b, el < 1024 / w ∧ w - h ≤ b ∧ b < w
            ∧ x = decodeCopy legend (line ^^^ 2 ^ (w * el + b)) (checkBits legend line))
          ∨ ∃ k, k < 11 * t ∧ x = decodeCopy legend line (checkBits legend line ^^^ 2 ^ k)) →
        x.sev = 1 ∧ x.data = line ∧ x.newData = line ∧ x.newChk = checkBits legend line

/-! ### Checked execution (R384 to R388) -/

/-- R384, R385, R386: with equal operands and no arming the comparisons deliver 0 one cycle later, ck.sig the eight folded
words two cycles later, and ck.sigc the same where port b holds it.  A difference, or an arming, which is used up, raises
CHECK_MISMATCH with the unit's number and opcode in tval; inside a segment that has been rewound less than three times it
rewinds the segment.
A segment that a trap handler has opened rewinds for the handler's mismatches alone, any other for those outside it
(log entry 63).
R382, R386: an enabled slot that reads a source of bad parity, and an add that reads its port a of bad parity, raise
CHECK_MISMATCH with 0x8000_0000_0000_0000 and the item's code in tval.
R387, R382: ck.inj at user privilege raises PRIV, with the trigger operand in tval (log entry 51).  At supervisor privilege it arms the context that port a names, or
spoils the parity of an item of it, or flips one bit of the stored copy of a scratchpad line, and of nothing else; other
kinds, bits that the kind does not use, a bit index above 1,151, codes that it cannot spoil and contexts that do not exist
raise ILLEGAL_SLOT, and a P address APERTURE_FAULT. -/
def Obligations.CheckedComparisonsAndInjection : Prop :=
  (∀ (s : State) (t : Trig) (A B X : W512), s.Reads t.src X → s.Port 14 0 A → s.Port 14 1 B →
      ∀ (sig : Nat → W64) (i : Instr) (o : Nat) (same : Bool) (lat : Nat) (v : W64), sig 0 = A.setWidth 64 →
        (∀ j < 8, sig (j + 1)
          = ((sig j).rotateLeft 1 ^^^ X.extractLsb' (64 * j) 64) * BitVec.ofNat 64 0x9E3779B97F4A7C15) →
        s.DeliversWord (.ckSig t) 17 2 (sig 8)
        ∧ ((i, o, same, lat, v) ∈
            [(Instr.ckCmp t, 0, A.setWidth 64 == X.setWidth 64, 1, (0 : W64)), (.ckCmpv t, 1, A == X, 1, 0),
             (.ckCmpp t, 2, A.getLsbD 0 == X.getLsbD 0, 1, 0), (.ckSigc t, 4, sig 8 == B.setWidth 64, 2, sig 8)] →
          (same = true → s.m.cur.armed = false → s.DeliversWord i 17 lat v)
          ∧ (same = false ∨ s.m.cur.armed = true → s.acts i = true →
              ∃ s', exec i s = .next s' ∧ s'.m.cur.armed = false
                ∧ (s.m.cur.csr.intrap = false →
                    s.m.cur.seg = none ∨ (∃ g, s.m.cur.seg = some g ∧ (3 ≤ g.rewinds ∨ g.handler = true)) →
                    s.Trapped s' 10 (BitVec.ofNat 64 (0x4000000000000000 + o)) s.m.issue.slot)
                ∧ ∀ g, s.m.cur.seg = some g → g.rewinds < 3 → g.handler = s.m.cur.csr.intrap →
                    s'.m.issue.out = .stopped ∧ s'.m.cur.pc = g.addr ∧ s'.m.cur.g = g.g ∧ s'.m.cur.v = g.v
                      ∧ s'.m.cur.p = g.p ∧ s'.m.cur.ports = [] ∧ s'.m.cur.latches = [] ∧ s'.m.cur.res = []
                      ∧ s'.m.cur.seg = some { g with used := 0, held := [], rewinds := g.rewinds + 1, again := true }
                      ∧ s'.m.mem = s.m.mem ∧ s'.m.spad = s.m.spad)))
  ∧ (∀ s : State, s.m.cur.csr.intrap = false → s.m.cur.seg = none →
      (∀ (src : Src) (X : W512), slotSource ⟨s.boot, s.clk⟩ s.m s.m.issue.slot src = some X → s.m.issue.snaps = none →
        s.m.issue.start.badSrc src = true → (∀ n, src ≠ .special n) →
        (∀ (i : Instr) (u o : Nat) (t : Trig), opCode i = some (u, o, t) → t.src = src → s.acts i = true →
          ∃ s', exec i s = .next s'
            ∧ s.Trapped s' 10 (BitVec.ofNat 64 (0x8000000000000000 + encodeSrc src)) s.m.issue.slot)
        ∧ ∀ (g : Guard) (d : Dst), s.m.issue.out = .going → enabled s.m g = true → d ≠ .p 0 →
          ∃ s', exec (.dataMove g d src) s = .next s'
            ∧ s.Trapped s' 10 (BitVec.ofNat 64 (0x8000000000000000 + encodeSrc src)) s.m.issue.slot)
      ∧ ∀ (u : Fin 3) (t : Trig) (X : W512), s.Reads t.src X → s.m.issue.start.bad.contains (0x1100 + 4 * u.val) = true →
          s.m.issue.moved.contains (0x100 + 4 * u.val) = false → s.acts (.ixAdd u t) = true →
          ∃ s', exec (.ixAdd u t) s = .next s'
            ∧ s.Trapped s' 10 (BitVec.ofNat 64 (0x8000000000001100 + 4 * u.val)) s.m.issue.slot)
  ∧ (∀ (s : State) (t : Trig) (A X : W512), s.Reads t.src X → s.Port 14 0 A →
      ∀ (x a : W64) (k : Nat) (go : State), x = X.setWidth 64 → a = A.setWidth 64 →
        k = (s.m.issue.d * 192 + a.toNat / 4) * 4 + a.toNat % 4 → go = s.began (.ckInj t) →
        (s.m.cur.csr.priv = false → s.Faults (.ckInj t) 8 x)
        ∧ (s.m.cur.csr.priv = true →
            (2 < x.toNat % 16 → s.Faults (.ckInj t) 1 x)
            ∧ (x.toNat % 16 = 0 → 2 ^ 15 ≤ x.toNat ∨ 1152 ≤ x.toNat / 16 % 2 ^ 11 → s.Faults (.ckInj t) 1 x)
            ∧ (x.toNat % 16 = 0 → x.toNat < 2 ^ 15 → x.toNat / 16 < 1152 → a.toNat / 2 ^ 58 % 8 = 3 →
                s.Faults (.ckInj t) 5 a)
            ∧ (x.toNat % 16 = 1 → x ≠ 1 → s.Faults (.ckInj t) 1 x)
            ∧ (x.toNat % 16 = 2 → 2 ^ 26 ≤ x.toNat ∨ x.toNat / 16 % 2 ^ 12 ≠ 0 ∨ x.toNat / 2 ^ 16 = 0
                ∨ (0xA0 ≤ x.toNat / 2 ^ 16 ∧ x.toNat / 2 ^ 16 < 0xC0) ∨ 0xD2 < x.toNat / 2 ^ 16 → s.Faults (.ckInj t) 1 x)
            ∧ (∀ code, x = BitVec.ofNat 64 (2 + code * 2 ^ 16) → (1 ≤ code ∧ code < 0xA0) ∨ (0xC0 ≤ code ∧ code ≤ 0xD2) →
                191 < a.toNat / 4 → s.Faults (.ckInj t) 1 a)
            ∧ (x = 1 → 2 ^ 10 ≤ a.toNat ∨ 191 < a.toNat / 4 → s.Faults (.ckInj t) 1 a)
            ∧ (x = 1 → a.toNat / 4 ≤ 191 → s.acts (.ckInj t) = true →
                exec (.ckInj t) s = .next (State.sends { go with m := go.m.modCtx k fun c => { c with armed := true } } 17 1 0))
            ∧ (∀ code, x = BitVec.ofNat 64 (2 + code * 2 ^ 16) →
                (1 ≤ code ∧ code < 0xA0) ∨ (0xC0 ≤ code ∧ code ≤ 0xD2) → a.toNat / 4 ≤ 191 → s.acts (.ckInj t) = true →
                ∃ s' mark, exec (.ckInj t) s = .next s' ∧ mark ∈ (s'.m.ctx k).bad
                  ∧ (code < 112 ∨ 128 ≤ code ∨ (s.m.ctx k).csr.inui = false → mark = code)
                  ∧ (∀ j : Fin 128, j.val = code → (s'.m.ctx k).badSrc (.g j) = true)
                  ∧ (∀ n, n ≠ mark → (n ∈ (s'.m.ctx k).bad ↔ n ∈ (s.m.ctx k).bad))
                  ∧ (s'.m.ctx k).g = (s.m.ctx k).g ∧ (s'.m.ctx k).v = (s.m.ctx k).v ∧ s'.m.spad = s.m.spad
                  ∧ s'.m.mem = s.m.mem)
            ∧ (∀ b line, x = BitVec.ofNat 64 (16 * b) → b < 1152 → s.InRun a 1 → s.m.cur.fences = [] → s.m.MemWf →
                line = spadAddr s.m.issue.core (s.runOffset a) / 128 → s.acts (.ckInj t) = true →
                ∃ s', exec (.ckInj t) s = .next s' ∧ s'.m.mem = s.m.mem
                  ∧ s'.m.cur.res = s.m.cur.res ++ [⟨17, 0, s.clk.cycle + 1, .none, []⟩]
                  ∧ (∀ n, s'.m.spad.read n = if b < 1024 ∧ n = line * 128 + b / 8
                      then s.m.spad.read n ^^^ BitVec.ofNat 8 (2 ^ (b % 8)) else s.m.spad.read n)
                  ∧ ∀ n, s'.m.spadChk.read n = if 1024 ≤ b ∧ n = line * 16 + (b - 1024) / 8
                      then s.m.spadChk.read n ^^^ BitVec.ofNat 8 (2 ^ (b % 8)) else s.m.spadChk.read n)))

/-! ### Groups, waits and segments (R327 to R352) -/

/-- R327, R345: gs.join makes a new set of the lowest free number with the next generation, or joins a set that its
handle names; gs.leav leaves one; gs.memb reads one.  TERM says that no set has that handle, or that the task is no member
of the set it would leave; FULL that no set is free, the task has 8 memberships, or the set is a gang's. -/
def Obligations.MembershipSets : Prop :=
  ∀ (s : State) (t : Trig) (X : W512), s.Reads t.src X →
    ∀ (x : W64) (d f n : Nat) (z : MSet), x = X.setWidth 64 → d = s.m.issue.d → f = s.m.cur.frame →
      z = s.m.mset (d * 256 + n) →
      (x.toNat &&& 0x10FFF ≠ x.toNat → s.Faults (.gsJoin t) 1 x)
      ∧ (0xFFF < x.toNat → s.Faults (.gsLeav t) 1 x ∧ s.Faults (.gsMemb t) 1 x)
      ∧ (x = 2 ^ 16 →
          (8 ≤ s.m.curTask.sets.length ∨ (∀ j < 256, (s.m.mset (d * 256 + j)).used = true) →
            s.DeliversWord (.gsJoin t) 18 4 0x8000000000000003)
          ∧ (s.m.curTask.sets.length < 8 → n < 256 → z.used = false →
              (∀ j < n, (s.m.mset (d * 256 + j)).used = true) → s.acts (.gsJoin t) = true →
              ∃ s', exec (.gsJoin t) s = .next s'
                ∧ s.Answered s' 18 4 (BitVec.ofNat 64 (n + (z.gen + 1) % 16 * 256))
                ∧ s'.m.mset (d * 256 + n) = { used := true, gen := (z.gen + 1) % 16, members := [f], awaited := [f] }
                ∧ (∀ j, j ≠ d * 256 + n → s'.m.mset j = s.m.mset j)
                ∧ s'.m.curTask.sets = s.m.curTask.sets ++ [n] ∧ s'.m.mem = s.m.mem))
      ∧ (x.toNat ≤ 0xFFF → n = x.toNat % 256 →
          (z.used = false ∨ z.gen ≠ x.toNat / 256 →
            s.DeliversWord (.gsJoin t) 18 4 0x8000000000000002 ∧ s.DeliversWord (.gsLeav t) 18 4 0x8000000000000002
              ∧ s.DeliversWord (.gsMemb t) 18 4 0x8000000000000002)
          ∧ (z.used = true → z.gen = x.toNat / 256 →
              s.DeliversWord (.gsMemb t) 18 4 (BitVec.ofNat 64 (z.phase.toNat * 2 ^ 32
                + (if z.gang then 2 ^ 31 else 0) + z.gen * 2 ^ 16 + z.members.length))
              ∧ (f ∈ z.members → s.DeliversWord (.gsJoin t) 18 4 x)
              ∧ (f ∉ z.members → s.DeliversWord (.gsLeav t) 18 4 0x8000000000000002
                ∧ (z.gang = true ∨ 8 ≤ s.m.curTask.sets.length → s.DeliversWord (.gsJoin t) 18 4 0x8000000000000003)
                ∧ (z.gang = false → s.m.curTask.sets.length < 8 → s.acts (.gsJoin t) = true →
                    ∃ s', exec (.gsJoin t) s = .next s' ∧ s.Answered s' 18 4 x
                      ∧ s'.m.mset (d * 256 + n) = { z with members := z.members ++ [f] }
                      ∧ s'.m.curTask.sets = s.m.curTask.sets ++ [n] ∧ s'.m.mem = s.m.mem))
              ∧ (f ∈ z.members → s.acts (.gsLeav t) = true →
                    ∃ s', exec (.gsLeav t) s = .next s' ∧ s.Answered s' 18 4 0
                      ∧ (s'.m.mset (d * 256 + n)).members = z.members.filter (fun j => j != f)
                      ∧ ((∀ j ∈ z.members, j = f) → (s'.m.mset (d * 256 + n)).used = false)
                      ∧ n ∉ s'.m.curTask.sets ∧ s'.m.mem = s.m.mem)))

/-- R329, R330, R331, R346, R347: arriving at a barrier performs the context's earlier accesses at die scope, in the step
of the arrival (log entry 11), and takes the task off those awaited; the last arrival completes the phase, and the
arrivals that wait for the next phase count in it (log entry 44); the combined form waits for that; gs.barw waits for a
phase; a rendezvous ends when every member of the gang has arrived. A task that is no member gets TERM from gs.barr and
gs.rdv. -/
def Obligations.BarriersAndRendezvous : Prop :=
  ∀ (s : State) (t : Trig) (A X : W512), s.Reads t.src X → s.Port 15 0 A →
    ∀ (x a : W64) (h k d f : Nat) (z : MSet), x = X.setWidth 64 → a = A.setWidth 64 → d = s.m.issue.d →
      f = s.m.cur.frame → k = d * 256 + h % 256 → z = s.m.mset k → z.used = true → z.gen = h / 256 →
      s.NoPeerSectors → s.m.cur.stq = [] → s.m.cur.pendArr = none → s.m.issue.r < 192 →
      s.m.issue.x < 4 →
      (0x10FFF &&& x.toNat = x.toNat → h = x.toNat % 4096 →
        (f ∉ z.members → s.acts (.gsBarr t) = true →
          ∃ s', exec (.gsBarr t) s = .next s' ∧ s.Answered s' 18 4 0x8000000000000002)
        ∧ (f ∈ z.members → f ∉ z.awaited → s.Blocks (.gsBarr t) (.arrive h) x true)
        ∧ (f ∈ z.members → f ∈ z.awaited → s.acts (.gsBarr t) = true →
            ∃ s', exec (.gsBarr t) s = .next s' ∧ s'.m.spad = s.m.spad
              ∧ ((∃ j ∈ z.awaited, j ≠ f) →
                  s'.m.mset k = { z with awaited := z.awaited.filter fun j => j != f }
                  ∧ (x.getLsbD 16 = false → s.Answered s' 18 4 (BitVec.ofNat 64 z.phase.toNat))
                  ∧ (x.getLsbD 16 = true →
                      s'.m.issue.out = .blocked ⟨.barrier h z.phase.toNat, s.m.issue.slot, x, true⟩))
              ∧ ((∀ j ∈ z.awaited, j = f) → (∃ j ∈ z.members, j ∉ z.next) →
                  s.Answered s' 18 4 (BitVec.ofNat 64 z.phase.toNat)
                  ∧ s'.m.mset k = { z with phase := z.phase + 1, next := [],
                                           awaited := z.members.filter fun j => !(z.next.contains j) })
              ∧ ∀ q sec, (s'.m.core s.m.issue.core).sectors.find q = some sec → sec.cls = .own → sec.dirty = false))
      ∧ (x.toNat = h → h < 2 ^ 12 → a.toNat < 2 ^ 32 →
        (1 ≤ (z.phase - a.setWidth 32).toNat → (z.phase - a.setWidth 32).toNat < 2 ^ 31 → s.acts (.gsBarw t) = true →
          ∃ s', exec (.gsBarw t) s = .next s' ∧ s.Answered s' 18 2 a ∧ s'.m.mem = s.m.mem)
        ∧ (z.phase = a.setWidth 32 → s.Blocks (.gsBarw t) (.phase h a.toNat) x true))
      ∧ (a.toNat = h → h < 2 ^ 12 → x.toNat < 64 →
        (f ∉ z.members → s.acts (.gsRdv t) = true →
          ∃ s', exec (.gsRdv t) s = .next s' ∧ s.Answered s' 18 2 0x8000000000000002)
        ∧ (f ∈ z.members → z.gang = false → s.Faults (.gsRdv t) 1 a)
        ∧ (f ∈ z.members → z.gang = true →
          ((∃ j ∈ z.members, j ≠ f ∧ (x.toNat, j) ∉ z.arrived) →
            s.Blocks (.gsRdv t) (.round h x.toNat (z.rounds.get 0 x.toNat).toNat) x true)
          ∧ ((∀ j ∈ z.members, j = f ∨ (x.toNat, j) ∈ z.arrived) → s.acts (.gsRdv t) = true →
              ∃ s', exec (.gsRdv t) s = .next s'
                ∧ s.Answered s' 18 2 (BitVec.ofNat 64 (z.rounds.get 0 x.toNat).toNat)
                ∧ (s'.m.mset k).rounds.get 0 x.toNat = z.rounds.get 0 x.toNat + 1
                ∧ ∀ j, (x.toNat, j) ∉ (s'.m.mset k).arrived)))

/-- R339, R341, R348: gs.segb reserves store queue entries and records the registers at its bundle's start, blocks
while the entries are taken, and is illegal in an open segment; gs.segc ends the segment, frees its entries, puts the
held stores on their way in order, and delivers the entries used and the rewinds, at most 3; without a segment it is
illegal.
R340: in an open segment every sq, nt, eq and sy operation, every gs operation but segb and segc, br.trap, halt, yield,
uiret and wait, and ls opcodes 19, 20 and 22 to 31 raise ILLEGAL_SLOT with the trigger operand in tval; a store is held
with its bytes, and one that would exceed the reservation, a scatter taking 16 entries, raises SEG_OVERFLOW with its
address. (A segment that a trap handler has opened governs the handler alone: log entry 63.) -/
def Obligations.Segments : Prop :=
  (∀ (s : State) (t : Trig) (X : W512), s.Reads t.src X → ∀ (x : W64) (c : Core) (slot : Nat), x = X.setWidth 64 →
    c = s.m.core s.m.issue.core → slot = s.m.issue.x →
    (x = 0 ∨ 1024 < x.toNat → s.Faults (.gsSegb t) 1 x)
    ∧ (1 ≤ x.toNat → x.toNat ≤ 1024 →
        (s.m.cur.seg = none → c.segAsk = [] →
          (1024 < x.toNat + (c.segs.map (·.2)).sum → s.Blocks (.gsSegb t) (.seg x.toNat) x false)
          ∧ (x.toNat + (c.segs.map (·.2)).sum ≤ 1024 → s.acts (.gsSegb t) = true →
              ∃ s', exec (.gsSegb t) s = .next s'
                ∧ s'.m.cur = { s.m.cur with
                    res := s.m.cur.res ++ [⟨18, 0, s.clk.cycle + 2, .none, []⟩],
                    seg := some { handler := s.m.issue.start.csr.intrap, n := x.toNat, used := 0, held := [],
                                  g := s.m.issue.start.g, shadow := s.m.issue.start.shadow, v := s.m.issue.start.v,
                                  p := s.m.issue.start.p, rctr := s.m.issue.start.csr.rctr, addr := s.m.issue.addr,
                                  rewinds := 0, again := false } }
                ∧ (s'.m.core s.m.issue.core).segs = c.segs ++ [(slot, x.toNat)]
                ∧ s'.m.mem = s.m.mem ∧ s'.m.spad = s.m.spad))
        ∧ (∀ g, s.m.cur.seg = some g → g.again = false ∨ g.addr ≠ s.m.issue.addr → s.Faults (.gsSegb t) 1 x)
        ∧ ∀ g, s.m.cur.seg = some g → g.again = true → g.addr = s.m.issue.addr → g.handler = s.m.cur.csr.intrap →
            s.acts (.gsSegb t) = true → ∃ s', exec (.gsSegb t) s = .next s'
              ∧ s'.m.cur = { s.m.cur with res := s.m.cur.res ++ [⟨18, 0, s.clk.cycle + 2, .none, []⟩],
                                          seg := some { g with again := false } })
    ∧ (x ≠ 0 ∨ s.m.cur.seg = none → s.Faults (.gsSegc t) 1 x)
    ∧ ∀ g, x = 0 → s.m.cur.seg = some g → g.handler = s.m.cur.csr.intrap → s.m.cur.fences = [] → s.m.issue.x < 4 →
        (∀ p ∈ g.held, ∃ o, p.loc = .spad s.m.issue.core o ∧ s.m.spadClean s.m.issue.core o = true) →
        s.acts (.gsSegc t) = true →
        ∃ s', exec (.gsSegc t) s = .next s' ∧ s'.m.cur.seg = none
          ∧ s'.m.cur.stq.map (fun q => (q.loc, q.bytes))
              = s.m.cur.stq.map (fun q => (q.loc, q.bytes)) ++ g.held.map (fun q => (q.loc, q.bytes))
          ∧ s'.m.cur.res = s.m.cur.res
              ++ [⟨18, BitVec.ofNat 512 ((g.used + min g.rewinds 3 * 2 ^ 16) % 2 ^ 64), s.clk.cycle + 2, .none, []⟩]
          ∧ (∀ n, (slot, n) ∉ (s'.m.core s.m.issue.core).segs)
          ∧ { s'.m.cur with seg := s.m.cur.seg, stq := s.m.cur.stq, nextStore := s.m.cur.nextStore,
                            res := s.m.cur.res } = s.m.cur)
  ∧ (∀ (s : State) (i : Instr) (u o : Nat) (t : Trig) (X : W512) (g : Seg), opCode i = some (u, o, t) →
      (10 ≤ u ∧ u ≤ 13 ∨ u = 15 ∧ o ≠ 6 ∧ o ≠ 7 ∨ u = 9 ∧ 5 ≤ o
        ∨ (u = 4 ∨ u = 5) ∧ (o = 19 ∨ o = 20 ∨ 22 ≤ o)) →
      s.m.issue.out = .going → enabled s.m t.guard = true → s.m.issue.units.contains u = false → s.Reads t.src X →
      s.m.cur.seg = some g → g.handler = false → s.m.cur.csr.intrap = false →
      ∃ s', exec i s = .next s' ∧ s.Trapped s' 1 (X.setWidth 64) s.m.issue.slot)
  ∧ ∀ (s : State) (u : Fin 2) (t : Trig) (A X : W512) (g : Seg), s.Reads t.src X → s.Port (4 + u.val) 0 A →
      s.m.cur.seg = some g → g.handler = s.m.cur.csr.intrap →
      ∀ (x : W64) (i : Instr) (w : Nat) (bs : List Byte) (held : Ctx), x = X.setWidth 64 → s.InRun x w →
        bs = (List.range w).map (fun k => A.extractLsb' (8 * k) 8) →
        held = { s.m.cur with seg := some { g with used := g.used + 1, held := g.held ++
          [{ id := 0, loc := .spad s.m.issue.core (s.runOffset x), bytes := bs, cls := .bank, acls := x.toNat / 2 ^ 61,
             gaddr := x, legend := 0, buf := 0, no := s.m.seed }] } } →
        ((i, w) ∈ [(Instr.lsStb u t, 1), (.lsSth u t, 2), (.lsStw u t, 4), (.lsStd u t, 8), (.lsStv u t, 64)] →
          (g.n < g.used + 1 → s.Faults i 15 x)
          ∧ (g.used + 1 ≤ g.n → s.acts i = true →
              exec i s = .next { s with m := { (s.m.began i).modCur fun _ => held with seed := s.m.seed + 1 } }))
        ∧ (∀ B : W512, s.Port (4 + u.val) 1 B → (i, w) ∈ [(Instr.lsStdi u t, 8), (.lsStvi u t, 64)] →
          (g.n < g.used + 1 → s.Faults i 15 x)
          ∧ (g.used + 1 ≤ g.n → s.acts i = true →
              exec i s = .next (State.sends
                { s with m := { (s.m.began i).modCur fun _ => held with seed := s.m.seed + 1 } } (5 + 2 * u.val) 1
                ((addA x (B.setWidth 64)).setWidth 512))))
        ∧ ∀ B C : W512, s.Port (4 + u.val) 1 B → s.Port (4 + u.val) 2 C → (C.setWidth 64 : W64) = 2 → i = .lsScat u t →
            (∀ j < 16, s.InRun (addA x ((B.extractLsb' (32 * j) 32).signExtend 64)) 4) → g.n < g.used + 16 →
            s.Faults i 15 x

/-- R335, R349, R350, R351: gs.flgw on a word of the own scratchpad run delivers the word once the relation of control
bits 2:0 holds between the masked word and port a, and blocks until then; gs.tokw delivers the value of a completed token
of the task, blocks on one that is not complete, and raises ORPHAN_WAIT for a handle that names no remembered token;
gs.wto delivers the former wait time-out and asks for the write of the new one, which acts after its bundle. -/
def Obligations.WaitsForFlagsAndTokens : Prop :=
  ∀ (s : State) (t : Trig) (A B C X : W512), s.Reads t.src X → s.Port 15 0 A → s.Port 15 1 B → s.Port 15 2 C →
    ∀ x a b c : W64, x = X.setWidth 64 → a = A.setWidth 64 → b = B.setWidth 64 → c = C.setWidth 64 →
      (16 ≤ c.toNat ∨ 5 < c.toNat % 8 → s.Faults (.gsFlgw t) 1 c)
      ∧ (∀ (w v y p : Nat) (holds : Bool), c.toNat < 16 → c.toNat % 8 ≤ 5 → w = (if c.getLsbD 3 then 4 else 8) →
          s.InRun x w → s.m.cur.csr.spadBase % 64 = 0 → s.m.cur.stq = [] →
          s.m.spadClean s.m.issue.core (s.runOffset x) = true →
          v = ofBytes (s.m.spadBytesAt s.m.issue.core (s.runOffset x) w) →
          y = (v &&& b.toNat) % 2 ^ (8 * w) → p = a.toNat % 2 ^ (8 * w) →
          (c.toNat % 8 = 0 → holds = decide (y = p)) → (c.toNat % 8 = 1 → holds = decide (y ≠ p)) →
          (c.toNat % 8 = 2 → holds = decide (y < p)) → (c.toNat % 8 = 3 → holds = decide (p ≤ y)) →
          (c.toNat % 8 = 4 → holds = decide ((BitVec.ofNat (8 * w) y).toInt < (BitVec.ofNat (8 * w) p).toInt)) →
          (c.toNat % 8 = 5 → holds = decide ((BitVec.ofNat (8 * w) p).toInt ≤ (BitVec.ofNat (8 * w) y).toInt)) →
          s.acts (.gsFlgw t) = true →
          ∃ s', exec (.gsFlgw t) s = .next s' ∧ s'.m.mem = s.m.mem
            ∧ (holds = true → s.Answered s' 18 10 (BitVec.ofNat 64 v))
            ∧ (holds = false → s'.m.issue.out = .blocked ⟨.flag x a b c, s.m.issue.slot, x, true⟩))
      ∧ (s.m.curTask.token s.m.issue.d s.m.cur.frame x = none → s.Faults (.gsTokw t) 12 x)
      ∧ (∀ k, s.m.curTask.token s.m.issue.d s.m.cur.frame x = some k → k.name = none → 1 ≤ k.kind → k.kind ≤ 6 →
          (k.done = none → s.Blocks (.gsTokw t) (.token x) x true)
          ∧ ∀ v, k.done = some v → s.acts (.gsTokw t) = true →
              ∃ s', exec (.gsTokw t) s = .next s' ∧ s.ordered.Answered s' 18 2 v ∧ s'.m.mem = s.m.mem
                ∧ ∀ q sec, (s'.m.core (ctxCore s.m.issue.ck)).sectors.find q = some sec → sec.cls = .own →
                    sec.dirty = true)
      ∧ (x = 0 ∨ 2 ^ 32 ≤ x.toNat → s.Faults (.gsWto t) 1 x)
      ∧ (x ≠ 0 → x.toNat < 2 ^ 32 → s.acts (.gsWto t) = true →
          exec (.gsWto t) s = .next ((s.notes (.gsWto t) fun i =>
            { i with newCsr := i.newCsr ++ [⟨0x030, x.toNat, true⟩] }).sends 18 2
              (s.m.issue.start.csr.waitTo.setWidth 512)))

/-! ### Stream arrays (R226 to R273) -/

/-- R254, R257, R258, R269: sq.len, sq.seeda and sq.seedb deliver the former value of their register and ask for its
write, which acts after their bundle; sq.lease
delivers the lease word, as it stood at the start of the bundle, while the lease is held, and blocks otherwise; sq.rels
delivers it and gives a held lease up; sq.wait delivers the value of a completed array token. Values out of range, and
a nonzero operand of sq.lease and sq.rels, raise ILLEGAL_SLOT. -/
def Obligations.StreamSettingsAndLease : Prop :=
  ∀ (s : State) (t : Trig) (X : W512), s.Reads t.src X →
    ∀ (x : W64) (c : Csrs) (k : Task) (word : W64), x = X.setWidth 64 → c = s.m.cur.csr → s.m.issue.start.csr = c →
      k = s.m.curTask → word = s.m.issue.lstat →
      (x.toNat < 4 ∨ 12 < x.toNat → s.Faults (.sqLen t) 1 x)
      ∧ (2 ^ 32 ≤ x.toNat → s.Faults (.sqSeeda t) 1 x ∧ s.Faults (.sqSeedb t) 1 x)
      ∧ (x ≠ 0 → s.Faults (.sqLease t) 1 x ∧ s.Faults (.sqRels t) 1 x)
      ∧ (∀ (i : Instr) (ok : Bool) (old : W64) (n : Nat), (i, ok, old, n) ∈
          [(Instr.sqLen t, decide (4 ≤ x.toNat ∧ x.toNat ≤ 12), BitVec.ofNat 64 c.sqlen, 0x020),
           (.sqSeeda t, decide (x.toNat < 2 ^ 32), c.seedA.setWidth 64, 0x021),
           (.sqSeedb t, decide (x.toNat < 2 ^ 32), c.seedB.setWidth 64, 0x022)] →
          ok = true → s.acts i = true → exec i s = .next ((s.notes i fun y =>
            { y with newCsr := y.newCsr ++ [⟨n, x.toNat, true⟩] }).sends 13 2 (old.setWidth 512)))
      ∧ (x = 0 → k.lease = .held → s.DeliversWord (.sqLease t) 13 2 word)
      ∧ (x = 0 → k.lease ≠ .held → s.Blocks (.sqLease t) .lease x false)
      ∧ (x = 0 → k.lease = .none → s.DeliversWord (.sqRels t) 13 2 word)
      ∧ (x = 0 → k.lease = .suspended → s.Blocks (.sqRels t) .lease x false)
      ∧ (x = 0 → k.lease = .held → s.acts (.sqRels t) = true → ∃ s', exec (.sqRels t) s = .next s'
          ∧ s.Answered s' 13 2 word ∧ s'.m.curTask.lease = .none ∧ s'.m.mem = s.m.mem
          ∧ s'.m.arr (groupArr s.m.tkey) = { s.m.arr (groupArr s.m.tkey) with leaving := true, spill := false })
      ∧ (k.token s.m.issue.d s.m.cur.frame x = none → s.Faults (.sqWait t) 12 x)
      ∧ ∀ y, k.token s.m.issue.d s.m.cur.frame x = some y → y.name = none →
          (y.kind ≠ 4 → s.Faults (.sqWait t) 12 x)
          ∧ (y.kind = 4 → y.done = none → s.Blocks (.sqWait t) (.token x) x true)
          ∧ ∀ v, y.kind = 4 → y.done = some v → s.acts (.sqWait t) = true →
              ∃ s', exec (.sqWait t) s = .next s' ∧ s.ordered.Answered s' 13 2 v ∧ s'.m.mem = s.m.mem

/-- R231, R255, R256, R259 to R261, R263 to R268, R270: an array command whose operands are well formed, of a task that
holds the lease of an array with room, and whose regions pass their checks, enters the queue with its operands and the
length, the seeds and the configuration in force, and delivers its token's handle, or waits for its value (sq.rdc,
sq.stat).  A malformed operand raises ILLEGAL_SLOT; without the lease LEASE_FAULT with the lease word; with a suspended
one, or a full queue, it blocks.  A grant that has ended begins anew when no other task asks, before the command is
accepted; with another task asking, the holder's 65th command blocks.  A command reads the ports of its row, and no
others need be of good parity.  A bad control word of sq.lda, sq.ldb and sq.drain, and a stride of sq.drain too short for
a row, raise ILLEGAL_SLOT with port a; sq.cfg raises it for rule 3, a number of columns that its rule forbids, and, with the
port, for a column at or beyond N_act or named twice, a nonzero byte beyond the columns, and a margin of 0 or above 20
bits.  The command of a task whose lease is suspended is judged by the configuration of its last
accepted sq.cfg, which is kept beside its spill slot (log entry 56). -/
def Obligations.ArrayCommands : Prop :=
  (∀ (s : State) (t : Trig) (X : W512), s.Reads t.src X →
    ∀ (x a b c : W64) (ak : Nat) (y : Arr) (k : Task) (cf : ArrCfg) (i : Instr) (op read : Nat) (ok : Bool) (new : ArrCfg)
      (desc : List W64) (m2 : Mach) (e : Env), x = X.setWidth 64 →
      a = (s.m.issue.ports.get 0 (portCode 10 0)).setWidth 64 → b = (s.m.issue.ports.get 0 (portCode 10 1)).setWidth 64 →
      c = (s.m.issue.ports.get 0 (portCode 10 2)).setWidth 64 →
      (∀ j < read, s.Port 10 j (s.m.issue.ports.get 0 (portCode 10 j))) →
      ak = groupArr s.m.tkey → y = s.m.arr ak → k = s.m.curTask →
      cf = (if k.lease = .held then y.issueCfg else match k.lease, s.m.spills.find s.m.tkey with
        | .suspended, some r => r.issueCfg
        | _, _ => {}) → e = ⟨s.boot, s.clk⟩ → s.m.cur.fences = [] →
      ((i, op, ok, new) ∈
          [(Instr.sqRun t, 8, x == 0, cf), (.sqRunc t, 9, x == 0 && cf.rule != 0, cf),
           (.sqClr t, 11, decide (x.toNat < 2), cf), (.sqPromo t, 12, x == 0, cf),
           (.sqBar t, 16, decide (x.toNat < 16), cf),
           (.sqRdc t, 14, decide (x.toNat < 2 ^ 18 ∧ x.toNat / 2 ^ 15 % 2 = 0 ∧ x.toNat / 2 ^ 7 % 2 = 0
             ∧ x.toNat / 2 ^ 16 ≠ 3), cf),
           (.sqStat t, 15, decide (x.toNat % 32 ≤ 12 ∧ x.toNat < 2 ^ 15 ∧ x.toNat / 32 % 8 = 0
             ∧ (x.toNat % 32 = 7 ∨ x.toNat < 2 ^ 8)), cf)]
        ∧ desc = [] ∧ m2 = s.m.began i ∧ read = 0
        ∨ i = .sqCfg t ∧ op = 2 ∧ desc = [] ∧ m2 = s.m.began i
          ∧ read = (if new.rule = 0 then 0 else if new.rule = 2 then 3 else 2) ∧ new.mode = x.toNat % 8
          ∧ new.m = x.toNat / 2 ^ 7 % 2 ^ 7 + 1 ∧ new.k = x.toNat / 2 ^ 14 % 2 ^ 7 + 1
          ∧ new.n = x.toNat / 2 ^ 21 % 2 ^ 7 + 1 ∧ new.rule = x.toNat / 2 ^ 28 % 4
          ∧ (new.rule = 0 → new.cols = [] ∧ x.toNat / 2 ^ 30 = 0)
          ∧ (new.rule ≠ 0 → new.cols.length = x.toNat / 2 ^ 30 % 2 ^ 5 ∧ 2 ≤ new.cols.length ∧ new.cols.length ≤ 16
              ∧ new.cols.Nodup ∧ (∀ v ∈ new.cols, v < new.n)
              ∧ ∀ j < 8, a.toNat / 2 ^ (8 * j) % 2 ^ 8 = new.cols.getD j 0
                  ∧ b.toNat / 2 ^ (8 * j) % 2 ^ 8 = new.cols.getD (8 + j) 0)
          ∧ new.margin = (if new.rule = 2 then c.toNat else 0)
          ∧ ok = decide (x.toNat < 2 ^ 35 ∧ x.toNat / 2 ^ 3 % 2 ^ 4 = 0 ∧ x.toNat % 8 ≤ 5 ∧ new.rule ≠ 3
              ∧ (new.rule = 2 → 0 < c.toNat ∧ c.toNat < 2 ^ 20)) ∧ ok = true
        ∨ (i = .sqLda t ∧ op = 6 ∨ i = .sqLdb t ∧ op = 7) ∧ read = 2 ∧ new = cf ∧ desc = [] ∧ ok = true ∧ ctlOk a = true
          ∧ loadCheck e (arrWho s.m s.m.tkey) cf (op == 7) x a b (s.m.began i) = (.ok, m2)
        ∨ i = .sqDrain t ∧ op = 13 ∧ read = 1 ∧ new = cf ∧ desc = [] ∧ ok = true ∧ ctlOk a = true
          ∧ cf.n * (if a.toNat % 4 = 0 then 4 else 2) ≤ a.toNat / 2 ^ 16 % 2 ^ 24
          ∧ drainCheck e (arrWho s.m s.m.tkey) cf x a (s.m.began i) = (.ok, m2)
        ∨ i = .sqTile t ∧ op = 10 ∧ read = 1 ∧ new = cf ∧ ok = true ∧ a.toNat < 2 ^ 18 ∧ a.toNat / 2 ^ 13 % 2 ^ 3 = 0
          ∧ 1 ≤ a.toNat % 2 ^ 13 ∧ a.toNat % 2 ^ 13 ≤ 4096 ∧ (a.getLsbD 16 = true → cf.rule ≠ 0)
          ∧ s.InRun x 64 ∧ s.m.cur.csr.spadBase % 64 = 0 ∧ s.m.cur.stq = [] ∧ s.m.cur.seg = none
          ∧ s.m.spadClean s.m.issue.core (s.runOffset x) = true
          ∧ desc = (List.range 8).map (fun j =>
              BitVec.ofNat 64 (ofBytes (s.m.spadBytesAt s.m.issue.core (s.runOffset x + 8 * j) 8)))
          ∧ ctlOk (desc.getD 4 0) = true ∧ ctlOk (desc.getD 5 0) = true
          ∧ tileCheck e (arrWho s.m s.m.tkey) cf desc a 0 (s.m.began i) = (.ok, m2)) →
      (2 ^ 35 ≤ x.toNat ∨ x.toNat / 2 ^ 3 % 2 ^ 4 ≠ 0 ∨ 5 < x.toNat % 8 → s.Faults (.sqCfg t) 1 x)
      ∧ (ok = false → s.Faults i 1 x)
      ∧ (ok = true → k.lease = .none → s.Faults i 11 s.m.issue.lstat)
      ∧ (ok = true → k.lease = .suspended → s.Blocks i .lease x false)
      ∧ (ok = true → k.lease = .held → y.grantOver e = true → (∀ g ∈ askers s.m ak, y.holder = some g) →
          exec i s = exec i { s with m := s.m.modArr ak fun y => { y with start := s.clk.cycle, cmds := 0 } })
      ∧ (ok = true → k.lease = .held → 64 ≤ y.cmds → (∃ g ∈ askers s.m ak, y.holder ≠ some g) →
          s.Blocks i .lease x false)
      ∧ (ok = true → k.lease = .held → y.grantOver e = false → 16 ≤ y.queue.length → s.Blocks i .arrFull x false)
      ∧ (ok = true → k.lease = .held →
          (y.grantOver e = false ∨ y.cmds < 64 ∧ ∃ g ∈ askers s.m ak, y.holder ≠ some g) → y.queue.length < 16 →
          (op ≠ 14 → op ≠ 15 → (m2.curTask).tokenRoom 4 = true) → m2.cur = s.m.cur → s.acts i = true →
          ∃ (s' : State) (seq : Nat), exec i s = .next s'
            ∧ (op ≠ 14 → op ≠ 15 → seq = m2.curTask.seqs.get 0 4 % (2 ^ 32 - 1) + 1
                ∧ s'.m.cur = (s.sends 13 2 ((BitVec.ofNat 64 (4 * 2 ^ 52 + s.m.issue.d * 2 ^ 48
                    + s.m.cur.frame * 2 ^ 32 + seq)).setWidth 512)).m.cur)
            ∧ (op = 14 ∨ op = 15 → seq = 0 ∧ s'.m.cur = { s.m.cur with
                res := s.m.cur.res ++ [⟨13, 0, s.clk.cycle + 8, .arr m2.nextRead, []⟩] })
            ∧ s'.m.arr ak = { m2.arr ak with
                cmds := (m2.arr ak).cmds + 1, issueCfg := new, lastAddr := s.m.issue.addr,
                queue := (m2.arr ak).queue ++
                  [{ op := op, addr := s.m.issue.addr, t := x, a := a, b := b, c := c, tok := seq,
                     k := s.m.issue.start.csr.sqlen, seedA := s.m.issue.start.csr.seedA,
                     seedB := s.m.issue.start.csr.seedB, cfg := new, phase := .queued, desc := desc, chunk := 0,
                     prog := 0, rid := m2.nextRead, val := 0 }] }
            ∧ s'.m.spad = m2.spad ∧ s'.m.mem = m2.mem))
  ∧ ∀ (s : State) (t : Trig) (A B C X : W512), s.Reads t.src X → s.Port 10 0 A → s.Port 10 1 B → s.Port 10 2 C →
      ∀ (x a b c : W64) (rule ncol n : Nat) (col : Nat → Nat) (bad : Nat → Prop), x = X.setWidth 64 → a = A.setWidth 64 →
        b = B.setWidth 64 → c = C.setWidth 64 → rule = x.toNat / 2 ^ 28 % 4 → ncol = x.toNat / 2 ^ 30 % 2 ^ 5 →
        n = x.toNat / 2 ^ 21 % 2 ^ 7 + 1 →
        (∀ j, col j = if j < 8 then a.toNat / 2 ^ (8 * j) % 2 ^ 8 else b.toNat / 2 ^ (8 * (j - 8)) % 2 ^ 8) →
        (∀ j, bad j ↔ j < ncol ∧ (n ≤ col j ∨ ∃ i < j, col i = col j) ∨ ncol ≤ j ∧ col j ≠ 0) →
        (2 ^ 40 ≤ a.toNat ∨ a.toNat / 2 ^ 2 % 2 ^ 6 ≠ 0 ∨ a.toNat % 4 = 3 ∨ a.toNat / 2 ^ 16 % 2 ^ 6 ≠ 0 →
          s.Faults (.sqLda t) 1 a ∧ s.Faults (.sqLdb t) 1 a ∧ s.Faults (.sqDrain t) 1 a)
        ∧ (s.m.curTask.lease = .held → a.toNat / 2 ^ 16 % 2 ^ 24
              < (s.m.arr (groupArr s.m.tkey)).issueCfg.n * (if a.toNat % 4 = 0 then 4 else 2) →
            s.Faults (.sqDrain t) 1 a)
        ∧ (x.toNat < 2 ^ 35 → x.toNat / 2 ^ 3 % 2 ^ 4 = 0 → x.toNat % 8 ≤ 5 →
          (rule = 3 ∨ rule = 0 ∧ ncol ≠ 0 ∨ rule ≠ 0 ∧ (ncol < 2 ∨ 16 < ncol) → s.Faults (.sqCfg t) 1 x)
          ∧ ((rule = 1 ∨ rule = 2) → 2 ≤ ncol → ncol ≤ 16 →
              (∀ j < 16, bad j → (∀ i < j, ¬bad i) → s.Faults (.sqCfg t) 1 (if j < 8 then a else b))
              ∧ (rule = 2 → (∀ j < 16, ¬bad j) → (c = 0 ∨ 2 ^ 20 ≤ c.toNat) → s.Faults (.sqCfg t) 1 c)))

/-- R228, R230, R232, R247, R248: a free array grants its lease to the asking task that follows the previous holder in
frame order, with the initial state where nothing is spilled; the lease of a halted task is not held, but only finishes
its commands; a spill that cannot be restored freezes the task.  A grant that has ended begins anew, or asks for a spill
when another task asks.  A spill is made at a checkpoint, when every load and drain that may move is done and a pass
stands after a multiple of 64 steps; it writes the array's state to the holder's slot as R247 lays it out, leaves the
holder's lease suspended with its queue and the configuration of its last accepted sq.cfg, which stand beside the slot
(log entry 56), and the array free.  (The slot's clause asks that no line of it drives another out of the L2.)  A grant
to a task with a spilled state whose slot reads without error puts every item of that layout back and gives the queued
commands on (of a queue without sq.tile, whose regions are checked again).  An array that its holder leaves is free once
its queue is empty. -/
def Obligations.ArrayLeases : Prop :=
  ∀ (s : State) (d : Fin 16) (a : Fin 8) (ak : Nat) (y : Arr), ak = d.val * 8 + a.val → y = s.m.arr ak →
    (∀ f k : Nat, k = d.val * 3072 + f → y.holder = none → f ∈ askers s.m ak → f < 3072 →
        (∀ g ∈ askers s.m ak, g ≠ f → (f + 3071 - y.prev) % 3072 < (g + 3071 - y.prev) % 3072) → y.prev < 3072 →
        (∀ halted : Bool, s.m.spills.find k = none →
          (halted = true ↔ (s.m.task k).st = .halted ∨ ∃ c, (s.m.task k).st = .running c
            ∧ (s.m.ctx (ctxKey d.val (f / 16) c)).st = .halted) →
          ∃ s', exec (.leaseGrant d a) s = .next s'
            ∧ s'.m.arr ak = { prev := f, lastStep := y.lastStep, run := y.run, holder := some f, start := s.clk.cycle,
                              leaving := halted }
            ∧ (s'.m.task k).lease = (if halted = true then .none else .held)
            ∧ (s'.m.task k).asking = false ∧ s'.m.mem = s.m.mem ∧ s'.m.ctxs = s.m.ctxs)
        ∧ (∀ r, s.m.spills.find k = some r →
          ownBacked ⟨s.boot, s.clk⟩ s.m d.val ((s.m.die d.val).saSpill + f * 2 ^ 18) = false →
          ∃ s', exec (.leaseGrant d a) s = .next s' ∧ s'.m.arr ak = { y with prev := f }
            ∧ (s'.m.task k).lease = .none ∧ (s'.m.task k).asking = false ∧ s'.m.spills.find k = none
            ∧ ((s.m.task k).st = .suspended → (s'.m.task k).st = .frozen))
        ∧ ∀ (r : SpillRest) (base : Nat) (slot : Nat → Nat → Nat), s.m.spills.find k = some r →
          base = (s.m.die d.val).saSpill + f * 2 ^ 18 → base % 128 = 0 →
          ownBacked ⟨s.boot, s.clk⟩ s.m d.val base = true → ownBacked ⟨s.boot, s.clk⟩ s.m d.val (base + 2 ^ 18 - 1) = true →
          (∀ j < 2048, s.m.homeClean 0 (base + 128 * j) = true) →
          (∀ o n, slot o n = ofBytes ((List.range n).map fun i => s.m.byteAt (base + o + i))) → r.queue.length ≤ 16 →
          (∀ q < r.queue.length, slot (0xC00 + 64 * q) 8 % 32 ≠ 10) → (s.m.task k).st ≠ .halted →
          (∀ c, (s.m.task k).st = .running c → (s.m.ctx (ctxKey d.val (f / 16) c)).st ≠ .halted) →
          ∃ (s' : State) (z : Arr), exec (.leaseGrant d a) s = .next s' ∧ z = s'.m.arr ak
            ∧ (s'.m.task k).lease = .held ∧ (s'.m.task k).asking = false ∧ s'.m.spills.find k = none
            ∧ s'.m.mem = s.m.mem ∧ s'.m.spad = s.m.spad
            ∧ z.holder = some f ∧ z.prev = f ∧ z.start = s.clk.cycle ∧ z.cmds = 0 ∧ z.spill = false ∧ z.leaving = false
            ∧ z.issueCfg = r.issueCfg ∧ z.lastStep = y.lastStep
            ∧ z.freshA = (slot 0 8).testBit 8 ∧ z.freshB = (slot 0 8).testBit 9
            ∧ z.pass = (if (slot 0 8).testBit 16 then
                some ⟨slot 0 8 / 2 ^ 24 % 2 ^ 4, BitVec.ofNat 32 (slot 0x10 4), BitVec.ofNat 32 (slot 0x14 4),
                  (slot 0 8).testBit 17, slot 8 8 % 2 ^ 13⟩
              else none)
            ∧ z.cfg.mode = slot 0x18 8 % 2 ^ 3 ∧ z.cfg.m = slot 0x18 8 / 2 ^ 8 % 2 ^ 8 ∧ z.cfg.k = slot 0x18 8 / 2 ^ 16 % 2 ^ 8
            ∧ z.cfg.n = slot 0x18 8 / 2 ^ 24 % 2 ^ 8 ∧ z.cfg.rule = slot 0x18 8 / 2 ^ 32 % 4
            ∧ z.cfg.margin = slot 0x20 8 % 2 ^ 21
            ∧ (slot 0x18 8 / 2 ^ 37 % 2 ^ 5 ≤ 16 → z.cfg.cols.length = slot 0x18 8 / 2 ^ 37 % 2 ^ 5
              ∧ ∀ i < z.cfg.cols.length, z.cfg.cols.getD i 0 = slot (0x28 + i) 1)
            ∧ z.rowInv = BitVec.ofNat 128 (slot 0x40 16) ∧ z.colInv = BitVec.ofNat 128 (slot 0x50 16)
            ∧ z.stopped = BitVec.ofNat 128 (slot 0x60 16) ∧ z.ovf = BitVec.ofNat 128 (slot 0x70 16)
            ∧ z.aF.inv = BitVec.ofNat 128 (slot 0x9A0 16) ∧ z.bF.inv = BitVec.ofNat 128 (slot 0x9C0 16)
            ∧ (∀ p ∈ [(z.aF, 0x990), (z.aB, 0x994), (z.bF, 0x998), (z.bB, 0x99C)],
                p.1.under = slot p.2 2 ∧ p.1.bad = slot (p.2 + 2) 2)
            ∧ z.bF.scale.get 0 0 = BitVec.ofNat 32 (slot 0x980 4)
            ∧ z.bF.shift.get 0 0 = (BitVec.ofNat 16 (slot 0x984 2)).toInt
            ∧ z.queue.length = r.queue.length
            ∧ (∀ (q : Nat) (c : Cmd), r.queue[q]? = some c → z.queue[q]? = some { c with
                op := slot (0xC00 + 64 * q) 8 % 32, addr := BitVec.ofNat 64 (slot (0xC08 + 64 * q) 8),
                tok := slot (0xC10 + 64 * q) 4, a := BitVec.ofNat 64 (slot (0xC18 + 64 * q) 8),
                b := BitVec.ofNat 64 (slot (0xC20 + 64 * q) 8), c := BitVec.ofNat 64 (slot (0xC28 + 64 * q) 8),
                t := BitVec.ofNat 64 (slot (0xC30 + 64 * q) 8) })
            ∧ ∀ m < 128, z.steps.get 0 m = slot (0x80 + 4 * m) 4 ∧ z.stop.get 0 m = slot (0x280 + 2 * m) 2
              ∧ z.aF.scale.get 0 m = BitVec.ofNat 32 (slot (0x380 + 4 * m) 4)
              ∧ z.aF.shift.get 0 m = (BitVec.ofNat 16 (slot (0x580 + 2 * m) 2)).toInt
              ∧ ∀ n < 128, (z.counts m).getD n 0 = (BitVec.ofNat 21 (slot (0xE000 + 3 * (128 * m + n)) 3)).toInt
                ∧ (z.accs m).getD n 0 = BitVec.ofNat 32 (slot (0x1A000 + 4 * (128 * m + n)) 4)
                ∧ (z.aF.row m).getD n 0 = BitVec.ofNat 13 (slot (0x1000 + 208 * m) 208 / 2 ^ (13 * n))
                ∧ (z.bF.row m).getD n 0 = BitVec.ofNat 13 (slot (0x7800 + 208 * m) 208 / 2 ^ (13 * n))
                ∧ (z.aB.row m).getD n 0 = (if z.freshA then BitVec.ofNat 13 (slot (0x2A000 + 208 * m) 208 / 2 ^ (13 * n))
                    else 0)
                ∧ (z.bB.row m).getD n 0 = (if z.freshB then BitVec.ofNat 13 (slot (0x30800 + 208 * m) 208 / 2 ^ (13 * n))
                    else 0))
    ∧ (∀ f, y.holder = some f → y.leaving = false → (64 ≤ y.cmds ∨ y.start + 2 ^ 20 ≤ s.clk.cycle) →
        ∃ s', exec (.grantEnd d a) s = .next s' ∧ s'.m.mem = s.m.mem ∧ s'.m.ctxs = s.m.ctxs
          ∧ s'.m.arr ak = (if ∃ g ∈ askers s.m ak, g ≠ f then { y with spill := true }
              else { y with start := s.clk.cycle, cmds := 0 }))
    ∧ (y.atCheckpoint = true ↔ (∀ p, y.pass = some p → p.step ≠ 0 ∧ p.step % 64 = 0)
        ∧ ∀ (j : Nat) (c : Cmd), y.queue[j]? = some c → y.openAt j = true →
          c.op ≠ 6 ∧ c.op ≠ 7 ∧ c.op ≠ 13 ∧ (c.op = 10 → c.nextLoad.isSome = true → y.pass = none ∧ c.prog % 4 = 0)
            ∧ (y.pass = none → c.begun = false))
    ∧ (y.spill = false ∨ y.leaving = true ∨ y.atCheckpoint = false → exec (.arraySpill d a) s = .next s)
    ∧ (∀ f, y.holder = some f → f < 3072 → y.spill = true → y.leaving = false → y.atCheckpoint = true →
        ∃ s', exec (.arraySpill d a) s = .next s'
          ∧ s'.m.arr ak = { prev := y.prev, lastStep := y.lastStep, run := y.run }
          ∧ (s'.m.task (d.val * 3072 + f)).lease = .suspended ∧ s'.m.ctxs = s.m.ctxs
          ∧ s'.m.spills.find (d.val * 3072 + f) = some ⟨y.queue, y.issueCfg⟩
          ∧ ∀ (base : Nat) (slot : Nat → Nat → Nat), base = (s.m.die d.val).saSpill + f * 2 ^ 18 → base % 128 = 0 →
              ownBacked ⟨s.boot, s.clk⟩ s.m d.val base = true →
              ownBacked ⟨s.boot, s.clk⟩ s.m d.val (base + 2 ^ 18 - 1) = true →
              (∀ j < 2048, (s.m.l2.find (base / 128 + j)).isSome = true ∨ (l2Ways s.m (base / 128 + j)).length < 16) →
              (∀ o n, slot o n = ofBytes ((List.range n).map fun i => s'.m.byteAt (base + o + i))) → y.queue.length ≤ 16 →
              (∀ m, (y.counts m).length = 128 ∧ (y.accs m).length = 128 ∧ (y.aF.row m).length = 128
                ∧ (y.bF.row m).length = 128) → y.cfg.mode < 8 → y.cfg.m ≤ 128 → y.cfg.k ≤ 128 → y.cfg.n ≤ 128 →
              y.cfg.rule < 4 → y.cfg.cols.length < 32 → (∀ p, y.pass = some p → p.k < 16 ∧ p.step < 2 ^ 13) →
              slot 0 8 = 1 + (if y.freshA then 2 ^ 8 else 0) + (if y.freshB then 2 ^ 9 else 0)
                + (match y.pass with
                   | some p => 2 ^ 16 + (if p.runc then 2 ^ 17 else 0) + p.k * 2 ^ 24
                   | none => 0)
              ∧ slot 8 8 = (match y.pass with | some p => p.step | none => 0)
              ∧ slot 0x10 8 = (match y.pass with | some p => p.seedA.toNat + p.seedB.toNat * 2 ^ 32 | none => 0)
              ∧ slot 0x18 8 = y.cfg.mode + y.cfg.m * 2 ^ 8 + y.cfg.k * 2 ^ 16 + y.cfg.n * 2 ^ 24 + y.cfg.rule * 2 ^ 32
                + y.cfg.cols.length * 2 ^ 37
              ∧ slot 0x40 16 = y.rowInv.toNat ∧ slot 0x50 16 = y.colInv.toNat ∧ slot 0x60 16 = y.stopped.toNat
              ∧ slot 0x70 16 = y.ovf.toNat
              ∧ (∀ q c, y.queue[q]? = some c → c.op < 32 →
                  slot (0xC00 + 64 * q) 8 = 2 ^ 7 + c.op ∧ slot (0xC08 + 64 * q) 8 = c.addr.toNat
                  ∧ slot (0xC18 + 64 * q) 8 = c.a.toNat ∧ slot (0xC20 + 64 * q) 8 = c.b.toNat
                  ∧ slot (0xC28 + 64 * q) 8 = c.c.toNat ∧ slot (0xC30 + 64 * q) 8 = c.t.toNat)
              ∧ ∀ m < 128, slot (0x80 + 4 * m) 4 = y.steps.get 0 m % 2 ^ 32
                ∧ slot (0x280 + 2 * m) 2 = y.stop.get 0 m % 2 ^ 16
                ∧ slot (0x380 + 4 * m) 4 = (y.aF.scale.get 0 m).toNat
                ∧ ∀ n < 128, slot (0xE000 + 3 * (128 * m + n)) 3 = (BitVec.ofInt 24 ((y.counts m).getD n 0)).toNat
                  ∧ slot (0x1A000 + 4 * (128 * m + n)) 4 = ((y.accs m).getD n 0).toNat
                  ∧ slot (0x1000 + 208 * m) 208 / 2 ^ (13 * n) % 2 ^ 13 = ((y.aF.row m).getD n 0).toNat
                  ∧ slot (0x7800 + 208 * m) 208 / 2 ^ (13 * n) % 2 ^ 13 = ((y.bF.row m).getD n 0).toNat)
    ∧ (y.holder.isSome = true → y.leaving = true → y.queue = [] →
        ∃ s', exec (.leaseFree d a) s = .next s' ∧ s'.m.arr ak = { prev := y.prev, lastStep := y.lastStep, run := y.run }
          ∧ s'.m.mem = s.m.mem ∧ s'.m.ctxs = s.m.ctxs)

/-- R72, R77, R238, R240, R241, R249, R264, R271: an array's start is made when its turn has come, at least
⌈17,100 / limit⌉ cycles after the last on its die; a quiet array asks for it.  A pass of sq.run, of sq.runc or of a chunk
of sq.tile starts with the seeds and the length of its command, fresh back banks becoming the front ones.  A step adds to
every counter of a running active row the change that the mode gives its lanes' bits, held at the counter's bounds, and 1
to the row's step count.  In a pass with early stop a running row stops after the step at which the rule in force holds of
its counts; its stop step is then the number of steps run and its stopped bit 1, and its counters and step count keep
their values from then on.  The pass ends with its last step, or when every active row has stopped; a row that never
stopped takes the pass's length as its stop step.
R238, R256: a row's overflow bit becomes 1 when a counter of it is held at a bound; the start of a pass sets the sticky
invalid flags of the rows and columns that are marked.  The token of sq.run and sq.runc completes with the greatest number
of steps an active row ran, the rows left stopped (none for sq.run), and whether a counter was held at a bound and an
invalid mark was met. -/
def Obligations.ArrayPasses : Prop :=
  ∀ (s : State) (d : Fin 16) (a : Fin 8) (ak : Nat) (y : Arr) (f : Nat) (c : Cmd) (rest : List Cmd),
    ak = d.val * 8 + a.val → y = s.m.arr ak → y.holder = some f → y.queue = c :: rest → y.spill = false →
    (∀ asked : Nat, (s.m.die d.val).startAsk.head? = some (asked, a.val) → asked < s.clk.cycle →
      (∀ u, (s.m.die d.val).lastStart = some u → 0 < (s.m.die d.val).didt →
        u + (17100 + (s.m.die d.val).didt - 1) / (s.m.die d.val).didt ≤ s.clk.cycle) →
      (∀ u, (s.m.die d.val).lastStart = some u → u ≤ s.clk.cycle) →
      (∀ b < 8, (s.m.arr (d.val * 8 + b)).startOk = false) →
      ∃ s', exec (.arrayStart d a) s = .next s' ∧ s'.m.arr ak = { y with startOk := true }
        ∧ (s'.m.die d.val).lastStart = some s.clk.cycle ∧ (s'.m.die d.val).startAsk = (s.m.die d.val).startAsk.tail
        ∧ s'.m.mem = s.m.mem ∧ s'.m.ctxs = s.m.ctxs)
    ∧ (∀ runc : Bool, y.pass = none →
        (c.op = 8 ∧ c.phase = .queued ∧ runc = false ∨ c.op = 9 ∧ c.phase = .queued ∧ runc = true
          ∨ c.op = 10 ∧ c.loaded = true ∧ c.prog / 4 % 2 = 0 ∧ c.val / 2 ^ 62 % 2 = 0 ∧ runc = c.a.getLsbD 16) →
        ∃ s', exec (.arrayPassStart d a) s = .next s' ∧ s'.m.mem = s.m.mem ∧ s'.m.ctxs = s.m.ctxs
          ∧ (s'.m.arr ak).pass = some ⟨c.k, c.seedA, c.seedB, runc, 0⟩
          ∧ (s'.m.arr ak).aF = (if y.freshA then y.aB else y.aF) ∧ (s'.m.arr ak).freshA = false
          ∧ (s'.m.arr ak).bF = (if y.freshB then y.bB else y.bF) ∧ (s'.m.arr ak).freshB = false
          ∧ (s'.m.arr ak).cnt = y.cnt ∧ (s'.m.arr ak).acc = y.acc ∧ (s'.m.arr ak).steps = y.steps
          ∧ (s'.m.arr ak).stop = y.stop
          ∧ (∀ m < 128, (s'.m.arr ak).stopped.getLsbD m = (y.stopped.getLsbD m && !(runc && decide (m < c.cfg.m)))
            ∧ (s'.m.arr ak).rowInv.getLsbD m
                = (y.rowInv.getLsbD m || ((s'.m.arr ak).aF.inv.getLsbD m && decide (m < c.cfg.m)))
            ∧ (s'.m.arr ak).colInv.getLsbD m = (y.colInv.getLsbD m || (s'.m.arr ak).bF.inv.getLsbD m))
          ∧ ∀ marked : Bool, (marked = true ↔ ∃ m < 128, (m < c.cfg.m ∧ (s'.m.arr ak).aF.inv.getLsbD m = true)
                ∨ (s'.m.arr ak).bF.inv.getLsbD m = true) →
              ∃ c', (s'.m.arr ak).queue = c' :: rest ∧ c'.op = c.op ∧ c'.val = c.val ||| (if marked then 2 ^ 25 else 0))
    ∧ ∀ p : Pass, y.pass = some p →
        ((c.op = 8 ∨ c.op = 9) ∧ c.phase = .started ∨ c.op = 10 ∧ c.prog / 4 % 2 = 1 ∧ c.prog / 8 % 2 = 0) →
        ((∀ u, y.lastStep = some u → u + 64 ≤ s.clk.cycle) → y.startOk = false →
          (∀ r ∈ (s.m.die d.val).startAsk, r.2 ≠ a.val) →
          ∃ s', exec (.arrayPassStep d a) s = .next s' ∧ s'.m.arrs = s.m.arrs ∧ s'.m.mem = s.m.mem
            ∧ (s.clk.cycle, a.val) ∈ (s'.m.die d.val).startAsk)
        ∧ ∀ (g : Nat → Nat → Nat) (va : Nat → Nat → Nat) (vb : Nat → Nat → Nat)
            (on : Nat → Nat → Nat → Bool × Bool) (far : Nat → Nat → Nat → Bool) (change new : Nat → Nat → Int)
            (runs stops stopped held : Nat → Prop) (lead : Nat → Int) (ended : Prop),
          y.lastStep ≠ some s.clk.cycle →
          (y.startOk = true ∨ ∃ u, y.lastStep = some u ∧ s.clk.cycle < u + 64) → c.cfg.m ≤ 128 → c.cfg.k ≤ 128 →
          c.cfg.n ≤ 128 → p.k ≤ 12 → p.step < 2 ^ p.k → (∀ m, (y.counts m).length = 128) →
          (∀ r, (y.aF.row r).length = 128) → (∀ r, (y.bF.row r).length = 128) →
          (∀ j, g 0 j = (sobol1 p.step &&& ((2 ^ p.k - 1) * 2 ^ (12 - p.k))) ^^^ laneShift p.seedA j) →
          (∀ j, g 1 j = if 3 ≤ c.cfg.mode then g 0 j
            else (sobol2 p.step &&& ((2 ^ p.k - 1) * 2 ^ (12 - p.k))) ^^^ laneShift p.seedB j) →
          (∀ m k, va m k = edgeValue c.cfg.mode ((y.aF.row m).getD k 0)) →
          (∀ k n, vb k n = edgeValue c.cfg.mode ((y.bF.row k).getD n 0)) →
          (∀ m n k, on m n k = (decide (g 0 k < va m k), decide (g 1 k < vb k n))) →
          (∀ m n k, far m n k = (elemNeg ((y.aF.row m).getD k 0) != elemNeg ((y.bF.row k).getD n 0))) →
          (∀ m n, change m n = (((List.range c.cfg.k).map fun k =>
            match c.cfg.mode, on m n k with
            | 0, (true, true) | 4, (true, true) | 1, (true, true) | 1, (false, false) => (1 : Int)
            | 2, (true, true) => if far m n k then -1 else 1
            | 3, (true, false) | 3, (false, true) => 1
            | 5, (true, _) | 5, (false, true) => 1
            | _, _ => 0)).sum) → c.cfg.mode ≤ 5 →
          (∀ m, runs m ↔ m < c.cfg.m ∧ ¬(p.runc = true ∧ y.stopped.getLsbD m = true)) →
          (∀ m n, runs m → n < c.cfg.n →
            new m n = max (-(2 ^ 20)) (min (2 ^ 20 - 1) (((y.counts m).getD n 0) + change m n))) →
          (∀ m n, ¬(runs m ∧ n < c.cfg.n) → new m n = (y.counts m).getD n 0) →
          (∀ m, held m ↔ runs m ∧ ∃ n < c.cfg.n, (y.counts m).getD n 0 + change m n ≠ new m n) →
          (p.runc = true → 2 ≤ c.cfg.cols.length ∧ (∀ n ∈ c.cfg.cols, n < c.cfg.n)
            ∧ ∀ m, ∃ i j, i < c.cfg.cols.length ∧ j < c.cfg.cols.length ∧ i ≠ j
                ∧ (∀ l < c.cfg.cols.length, l ≠ i → new m (c.cfg.cols.getD l 0) ≤ new m (c.cfg.cols.getD j 0))
                ∧ new m (c.cfg.cols.getD j 0) ≤ new m (c.cfg.cols.getD i 0)
                ∧ lead m = new m (c.cfg.cols.getD i 0) - new m (c.cfg.cols.getD j 0)) →
          (∀ m, stops m ↔ p.runc = true ∧ runs m ∧
            (c.cfg.rule = 1 ∧ (if c.cfg.mode = 2 then 2 * c.cfg.k else c.cfg.k : Nat) * (2 ^ p.k - (p.step + 1) : Int) < lead m
              ∨ c.cfg.rule = 2 ∧ (c.cfg.margin : Int) ≤ lead m)) →
          (∀ m, stopped m ↔ y.stopped.getLsbD m = true ∨ stops m) →
          (ended ↔ p.step + 1 = 2 ^ p.k ∨ p.runc = true ∧ ∀ m < c.cfg.m, stopped m) →
          ∃ s', exec (.arrayPassStep d a) s = .next s' ∧ s'.m.mem = s.m.mem
            ∧ (s'.m.arr ak).lastStep = some s.clk.cycle ∧ (s'.m.arr ak).startOk = false
            ∧ (y.startOk = true → (s'.m.die d.val).lastStart = some s.clk.cycle)
            ∧ (¬ended → (s'.m.arr ak).pass = some { p with step := p.step + 1 } ∧ s'.m.ctxs = s.m.ctxs)
            ∧ (∀ m < 128, (s'.m.arr ak).ovf.getLsbD m = true ↔ y.ovf.getLsbD m = true ∨ held m)
            ∧ (∀ (bound inv any : Bool) (len rows : Nat), ended → c.op ≠ 10 → (s.m.task (d.val * 3072 + f)).st ≠ .free →
                c.val = (if bound then 2 ^ 24 else 0) + (if inv then 2 ^ 25 else 0) →
                (any = true ↔ bound = true ∨ ∃ m, held m) → len < 2 ^ 16 → (p.runc = false → len = 2 ^ p.k ∧ rows = 0) →
                (p.runc = true → (∀ m < c.cfg.m, (s'.m.arr ak).stop.get 0 m ≤ len)
                  ∧ (∃ m < c.cfg.m, (s'.m.arr ak).stop.get 0 m = len)
                  ∧ rows = ((List.range c.cfg.m).filter fun m => (s'.m.arr ak).stopped.getLsbD m).length) →
                s.m.TokenDone s'.m (d.val * 3072 + f) 4 c.tok (BitVec.ofNat 64
                  (len + rows * 2 ^ 16 + (if any then 2 ^ 24 else 0) + if inv then 2 ^ 25 else 0)))
            ∧ (ended → (s'.m.arr ak).pass = none ∧ (c.op ≠ 10 → (s'.m.arr ak).queue = rest)
                ∧ (c.op = 10 → ∃ c', (s'.m.arr ak).queue = c' :: rest ∧ c'.op = 10 ∧ c'.prog = c.prog ||| 8))
            ∧ (∀ m < 128, ∀ n < 128, ((s'.m.arr ak).counts m).getD n 0 = new m n)
            ∧ ∀ m < 128, (runs m → (s'.m.arr ak).steps.get 0 m = min (2 ^ 32 - 1) (y.steps.get 0 m + 1))
              ∧ (¬runs m → (s'.m.arr ak).steps.get 0 m = y.steps.get 0 m)
              ∧ ((s'.m.arr ak).stopped.getLsbD m = true ↔ stopped m)
              ∧ (stops m → (s'.m.arr ak).stop.get 0 m = p.step + 1)
              ∧ (p.runc = true → ended → m < c.cfg.m → ¬stopped m → (s'.m.arr ak).stop.get 0 m = 2 ^ p.k)
              ∧ (¬stops m → ¬(p.runc = true ∧ ended ∧ m < c.cfg.m ∧ ¬stopped m) →
                  (s'.m.arr ak).stop.get 0 m = y.stop.get 0 m)

/-- R78, R237, R239, R243, R244, R256, R260, R265 to R268: a promotion adds the estimate to the accumulator of every active
output of a row that ran, its value counts those rows and says whether one of their outputs is then a NaN or one of them
had its overflow bit set, and both it and a clear leave the counters of the active outputs, the step counts and the
stopped, overflow and invalid flags of the active rows, and every column's flag, zero (counters beyond N_act keep their
value: log entry 58); a configuration is
taken, a barrier passes, and a read delivers its value to the waiting result, each leaving the queue with its token
complete.
The value of sq.stat is the one that R267 gives its selector.
R262, R263: a load that its stream and bank allow, whose rows and scales can be read, fills the back bank of its side,
which becomes fresh, and a drain whose rows can be written writes them; both leave the queue with their token complete.
R74 to R76, R262, R263 for regions of the holder's own scratchpad run whose lines are clean: a load of E4M3 elements, of A
or of B, takes the scales at port b and the one shift sh of the row (A) or tile (B) for which Mx × 2^sh rounds to at most
4,095 and Mx × 2^(sh + 1) does not, 0 where no element is finite and nonzero; each element takes the magnitude
RNE(|x| × 2^sh) and its sign, a NaN or one outside the extents 0; a NaN marks its row or column; and the completion value
counts underflows and NaNs.  A drain to FP32 writes each active accumulator at its place and no other byte. -/
def Obligations.ArrayCommandsExecute : Prop :=
  (∀ (s : State) (d : Fin 16) (a : Fin 8) (ak tk : Nat) (y : Arr) (f : Nat) (c : Cmd) (rest : List Cmd),
      ak = d.val * 8 + a.val → tk = d.val * 3072 + f → y = s.m.arr ak → y.holder = some f → y.queue = c :: rest →
      y.spill = false → y.pass = none → (s.m.task tk).st ≠ .free → c.cfg.m ≤ 128 → c.cfg.n ≤ 128 → (∀ m, (y.counts m).length = 128) →
      (∀ m, (y.accs m).length = 128) →
      (c.op = 12 → ∃ s', exec (.arrayPromotion d a) s = .next s' ∧ (s'.m.arr ak).queue = rest ∧ s'.m.mem = s.m.mem
          ∧ (∃ v : W64, s.m.TokenDone s'.m tk 4 c.tok v ∧ v.toNat < 2 ^ 10
            ∧ v.toNat % 2 ^ 8 = ((List.range c.cfg.m).filter fun m => y.steps.get 0 m ≠ 0).length
            ∧ (v.getLsbD 8 = true ↔ ∃ m < c.cfg.m, y.steps.get 0 m ≠ 0 ∧ ∃ n < c.cfg.n, ∃ w : W32,
                ((s'.m.arr ak).accs m).getD n 0 = w ∧ w.toNat / 2 ^ 23 % 2 ^ 8 = 255 ∧ w.toNat % 2 ^ 23 ≠ 0)
            ∧ (v.getLsbD 9 = true ↔ ∃ m < c.cfg.m, y.steps.get 0 m ≠ 0 ∧ y.ovf.getLsbD m = true))
          ∧ (∀ m < c.cfg.m, (s'.m.arr ak).steps.get 0 m = 0 ∧ ∀ n < c.cfg.n, ((s'.m.arr ak).counts m).getD n 0 = 0)
          ∧ (s'.m.arr ak).colInv = 0
          ∧ (∀ m < 128, ∀ p ∈ [((s'.m.arr ak).stopped, y.stopped), ((s'.m.arr ak).ovf, y.ovf),
              ((s'.m.arr ak).rowInv, y.rowInv)], p.1.getLsbD m = (p.2.getLsbD m && decide (c.cfg.m ≤ m)))
          ∧ ∀ m < 128, ∀ n < 128, ((s'.m.arr ak).accs m).getD n 0
              = if m < c.cfg.m ∧ n < c.cfg.n ∧ y.steps.get 0 m ≠ 0 then
                  (if y.rowInv.getLsbD m || y.colInv.getLsbD n then 0x7FC00000
                   else promote c.cfg.mode c.cfg.k (y.steps.get 0 m) ((y.counts m).getD n 0) (y.aF.scale.get 0 m)
                     (y.bF.scale.get 0 0) (y.aF.shift.get 0 m) (y.bF.shift.get 0 0) ((y.accs m).getD n 0))
                else (y.accs m).getD n 0)
      ∧ (c.op = 11 → ∃ s', exec (.arrayClear d a) s = .next s' ∧ (s'.m.arr ak).queue = rest ∧ s'.m.mem = s.m.mem
          ∧ s.m.TokenDone s'.m tk 4 c.tok 0 ∧ (s'.m.arr ak).colInv = 0
          ∧ (∀ m < 128, ∀ p ∈ [((s'.m.arr ak).stopped, y.stopped), ((s'.m.arr ak).ovf, y.ovf),
              ((s'.m.arr ak).rowInv, y.rowInv)], p.1.getLsbD m = (p.2.getLsbD m && decide (c.cfg.m ≤ m)))
          ∧ ∀ m < 128, (s'.m.arr ak).steps.get 0 m = (if m < c.cfg.m then 0 else y.steps.get 0 m)
            ∧ ∀ n < 128, ((s'.m.arr ak).counts m).getD n 0
                = (if m < c.cfg.m ∧ n < c.cfg.n then 0 else (y.counts m).getD n 0)
              ∧ ((s'.m.arr ak).accs m).getD n 0
                = (if m < c.cfg.m ∧ n < c.cfg.n ∧ c.t.getLsbD 0 = true then 0 else (y.accs m).getD n 0))
      ∧ (c.op = 2 → ∃ s', exec (.arrayCfgApply d a) s = .next s'
          ∧ s'.m.arr ak = { y with cfg := c.cfg, queue := rest } ∧ s.m.TokenDone s'.m tk 4 c.tok 0
          ∧ s'.m.mem = s.m.mem)
      ∧ (c.op = 16 → ∃ s', exec (.arrayBarrier d a) s = .next s' ∧ s'.m.arr ak = { y with queue := rest }
          ∧ s.m.TokenDone s'.m tk 4 c.tok 0 ∧ s'.m.mem = s.m.mem)
      ∧ ∀ (v : W64) (sel r n : Nat), sel = c.t.toNat % 2 ^ 5 → r = c.t.toNat / 2 ^ 8 % 2 ^ 7 → n = c.t.toNat % 2 ^ 7 →
          (c.op = 14 ∧ v = (match c.t.toNat / 2 ^ 16 % 4 with
              | 0 => BitVec.ofInt 64 ((y.counts r).getD n 0)
              | 1 => ((y.accs r).getD n 0).setWidth 64
              | _ => BitVec.ofNat 64 (y.steps.get 0 r))
            ∨ c.op = 15 ∧ sel ≤ 12
              ∧ (sel = 0 → ∃ top, (∀ m < c.cfg.m, y.stop.get 0 m ≤ top) ∧ (top = 0 ∨ ∃ m < c.cfg.m, y.stop.get 0 m = top)
                ∧ v = BitVec.ofNat 64 (top
                  + ((List.range c.cfg.m).filter fun m => y.stopped.getLsbD m).length * 2 ^ 16
                  + (if y.ovf ≠ 0 then 2 ^ 24 else 0) + (if y.rowInv ≠ 0 ∨ y.colInv ≠ 0 then 2 ^ 25 else 0)
                  + c.cfg.rule * 2 ^ 32 + c.cfg.mode * 2 ^ 36))
              ∧ (∀ p ∈ [(1, y.aF), (2, y.aB), (3, y.bF), (4, y.bB)], sel = p.1 →
                v = BitVec.ofNat 64 (min p.2.under 65535 + min p.2.bad 65535 * 2 ^ 16))
              ∧ (sel = 5 → v = y.stopped.setWidth 64) ∧ (sel = 6 → v = y.stopped.extractLsb' 64 64)
              ∧ (sel = 7 → v = BitVec.ofNat 64 (y.stop.get 0 r + (if y.stopped.getLsbD r then 2 ^ 16 else 0)
                + (if y.ovf.getLsbD r then 2 ^ 17 else 0) + (if y.rowInv.getLsbD r then 2 ^ 18 else 0)
                + y.steps.get 0 r * 2 ^ 32))
              ∧ (8 ≤ sel → v = (s.m.task tk).classes.get 0 (sel - 8))) →
          ∃ s', exec (.arrayRead d a) s = .next s' ∧ s'.m.arr ak = { y with queue := rest } ∧ s'.m.mem = s.m.mem
            ∧ ((∀ w ∈ (s.m.taskCtx tk).res, w.wait ≠ .arr c.rid) → (s'.m.task tk).reads.find c.rid = some v)
            ∧ ∀ w ∈ (s.m.taskCtx tk).res, w.wait = .arr c.rid →
                { w with value := v.setWidth 512, wait := .none } ∈ (s'.m.taskCtx tk).res)
  ∧ (∀ (s : State) (d : Fin 16) (a : Fin 8) (ak tk : Nat) (y : Arr) (f : Nat) (c : Cmd) (rest : List Cmd)
      (e : Env), e = ⟨s.boot, s.clk⟩ → ak = d.val * 8 + a.val → tk = d.val * 3072 + f → y = s.m.arr ak →
      y.holder = some f → y.queue = c :: rest →
      (c.op = 6 ∨ c.op = 7 → ∀ v m2, runLoad e ak tk c.cfg (c.op == 7) c.t c.a c.b s.m = some (v, m2) →
          (s.m.task tk).st ≠ .free → (m2.task tk).st = (s.m.task tk).st → (m2.task tk).toks = (s.m.task tk).toks →
          ∃ s', exec (.arrayLoad d a 0) s = .next s' ∧ (s'.m.arr ak).queue = rest
            ∧ (c.op = 6 → (s'.m.arr ak).freshA = true) ∧ (c.op = 7 → (s'.m.arr ak).freshB = true)
            ∧ (s'.m.arr ak).aF = y.aF ∧ (s'.m.arr ak).bF = y.bF ∧ (s'.m.arr ak).cnt = y.cnt
            ∧ s.m.TokenDone s'.m tk 4 c.tok (BitVec.ofNat 64 v))
      ∧ (c.op = 13 → ∀ m2, runDrain e ak tk c.cfg c.t c.a s.m = some m2 →
          (s.m.task tk).st ≠ .free → (m2.task tk).st = (s.m.task tk).st → (m2.task tk).toks = (s.m.task tk).toks →
          ∃ s', exec (.arrayDrain d a 0) s = .next s' ∧ s'.m.arr ak = { y with queue := rest }
            ∧ s'.m.mem = m2.mem ∧ s'.m.spad = m2.spad ∧ s.m.TokenDone s'.m tk 4 c.tok 0))
  ∧ ∀ (s : State) (d : Fin 16) (a : Fin 8) (ak tk : Nat) (y : Arr) (f : Nat) (c : Cmd) (rest : List Cmd)
      (core base o stride buf : Nat), ak = d.val * 8 + a.val → tk = d.val * 3072 + f → f < 3072 → y = s.m.arr ak →
      y.holder = some f → y.queue = c :: rest → core = d.val * 192 + f / 16 → base = (s.m.task tk).spadBase →
      (s.m.task tk).st ≠ .free → c.t.toNat / 2 ^ 58 % 8 = 1 → c.t.toNat / 2 ^ 22 % 2 ^ 36 = 0 → o = c.t.toNat % 2 ^ 22 →
      c.a = BitVec.ofNat 64 (buf * 2 ^ 8 + stride * 2 ^ 16) → buf < 2 ^ 8 → stride < 2 ^ 24 →
      (∀ (rows cols scales p : Nat) (g : Nat → Nat → Nat) (x : Nat → Nat → ℚ),
        (c.op = 6 ∧ rows = c.cfg.m ∧ cols = c.cfg.k ∧ scales = rows ∧ y.aB.pins = []
          ∨ c.op = 7 ∧ rows = c.cfg.k ∧ cols = c.cfg.n ∧ scales = 1 ∧ y.bB.pins = []) →
        1 ≤ rows → rows ≤ 128 → cols ≤ 128 → y.pinned ≤ 1024 →
        c.b.toNat / 2 ^ 58 % 8 = 1 → c.b.toNat / 2 ^ 22 % 2 ^ 36 = 0 → p = c.b.toNat % 2 ^ 22 →
        base + o + (rows - 1) * stride + cols ≤ spadBytes (s.m.core core).l1 →
        base + p + 4 * scales ≤ spadBytes (s.m.core core).l1 →
        (∀ r < rows, ∀ j < cols, s.m.spadClean core (base + o + r * stride + j) = true) →
        (∀ j < 4 * scales, s.m.spadClean core (base + p + j) = true) →
        (∀ r j, g r j = (s.m.spad.read (spadAddr core (base + o + r * stride + j))).toNat) →
        (∀ r j, x r j = if g r j / 8 % 16 = 0 then ((g r j % 8 : Nat) : ℚ) / 512
          else (8 + (g r j % 8 : Nat) : ℚ) * 2 ^ (((g r j / 8 % 16 : Nat) : Int) - 10)) →
        ∃ (s' : State) (bank : Bank) (sh : Nat → Int) (one : Nat → Nat → Prop),
          exec (.arrayLoad d a 0) s = .next s' ∧ (s'.m.arr ak).queue = rest ∧ s'.m.mem = s.m.mem ∧ s'.m.spad = s.m.spad
          ∧ (c.op = 6 → bank = (s'.m.arr ak).aB ∧ (s'.m.arr ak).freshA = true ∧ (s'.m.arr ak).bB = y.bB
              ∧ ∀ r q, one r q ↔ r = q)
          ∧ (c.op = 7 → bank = (s'.m.arr ak).bB ∧ (s'.m.arr ak).freshB = true ∧ (s'.m.arr ak).aB = y.aB
              ∧ ∀ r q, one r q)
          ∧ (∀ i < scales, bank.scale.get 0 i
              = BitVec.ofNat 32 (ofBytes (s.m.spadBytesAt core (base + p + 4 * i) 4)))
          ∧ (∀ r < rows, bank.shift.get 0 (if c.op = 6 then r else 0) = sh r
            ∧ ((∀ q < rows, ∀ j < cols, one r q → g q j % 128 ≠ 127 → g q j % 128 = 0) → sh r = 0)
            ∧ ∀ q < rows, ∀ j < cols, one r q → g q j % 128 ≠ 127 → g q j % 128 ≠ 0 →
                2 * (x q j * 2 ^ sh r) < 8191
                ∧ ∃ q' < rows, ∃ j' < cols, one r q' ∧ g q' j' % 128 ≠ 127 ∧ 8191 ≤ 4 * (x q' j' * 2 ^ sh r))
          ∧ (∀ r < rows, ∀ j < 128, ∀ z : BitVec 13, z = (bank.row r).getD j 0 →
              (j < cols → g r j % 128 ≠ 127 → z.getLsbD 12 = decide (128 ≤ g r j)
                ∧ 2 * |((z.toNat % 2 ^ 12 : Nat) : ℚ) - x r j * 2 ^ sh r| ≤ 1
                ∧ (2 * |((z.toNat % 2 ^ 12 : Nat) : ℚ) - x r j * 2 ^ sh r| = 1 → z.toNat % 2 = 0))
              ∧ (cols ≤ j ∨ g r j % 128 = 127 → z = 0))
          ∧ (∀ i < 128, bank.inv.getLsbD i = true ↔ (c.op = 6 ∧ i < rows ∧ ∃ j < cols, g i j % 128 = 127)
              ∨ (c.op = 7 ∧ i < cols ∧ ∃ r < rows, g r i % 128 = 127))
          ∧ bank.under = ((List.range rows).map fun r => ((List.range cols).filter fun j =>
              decide (g r j % 128 ≠ 127 ∧ g r j % 128 ≠ 0 ∧ ((bank.row r).getD j 0).toNat % 2 ^ 12 = 0)).length).sum
          ∧ bank.bad = ((List.range rows).map fun r => ((List.range cols).filter fun j =>
              decide (g r j % 128 = 127)).length).sum
          ∧ s.m.TokenDone s'.m tk 4 c.tok (BitVec.ofNat 64 (min bank.under 65535 + min bank.bad 65535 * 2 ^ 16)))
      ∧ (c.op = 13 → c.cfg.m ≤ 128 → c.cfg.n ≤ 128 → (∀ m, (y.accs m).length = 128) → 4 * c.cfg.n ≤ stride → s.m.MemWf →
        base + o + c.cfg.m * stride ≤ spadBytes (s.m.core core).l1 →
        (∀ m < c.cfg.m, ∀ j < 4 * c.cfg.n, s.m.spadClean core (base + o + m * stride + j) = true) →
        ∃ s', exec (.arrayDrain d a 0) s = .next s' ∧ s'.m.arr ak = { y with queue := rest } ∧ s'.m.mem = s.m.mem
          ∧ s.m.TokenDone s'.m tk 4 c.tok 0
          ∧ (∀ m < c.cfg.m, ∀ n < c.cfg.n, ∀ i < 4,
              s'.m.spad.read (spadAddr core (base + o + m * stride + 4 * n + i))
                = ((y.accs m).getD n 0).extractLsb' (8 * i) 8)
          ∧ ∀ b, (∀ m < c.cfg.m, ∀ j < 4 * c.cfg.n, b ≠ spadAddr core (base + o + m * stride + j)) →
              s'.m.spad.read b = s.m.spad.read b)

/-! ### Named tiles (R274 to R303) -/

/-- R292, R297, R300, R301, R302: nt.prob, nt.stat, nt.pin and nt.unpn answer from the router that port a names, own ring
stop 31; nt.canc ends the task's own local entry with NT_EXPIRED; nt.wait delivers the value of a completed token.  A
router that is not there, and a selector above 8, raise ILLEGAL_SLOT; a name outside a user's range NT_RANGE. -/
def Obligations.TileQueries : Prop :=
  ∀ (s : State) (t : Trig) (A X : W512), s.Reads t.src X → s.Port 11 0 A →
    ∀ (x a : W64) (r d : Nat) (y : Router) (c : Option Copy), x = X.setWidth 64 → a = A.setWidth 64 →
      d = s.m.issue.d → y = s.m.router r → c = y.copy x →
      (∀ i ∈ [Instr.ntProb t, .ntPin t, .ntUnpn t],
        (32 ≤ a.toNat ∨ (16 < a.toNat ∧ a.toNat < 31)
          ∨ (a.toNat < 16 ∧ Env.live ⟨s.boot, s.clk⟩ a.toNat = false) → s.Faults i 1 a))
      ∧ (8 < x.toNat → s.Faults (.ntStat t) 1 x)
      ∧ ((a.toNat = r ∧ r ≤ 16 ∨ a.toNat = 31 ∧ r = d) → (r = 16 ∨ Env.live ⟨s.boot, s.clk⟩ r = true) →
        (∀ (sel : Nat) (v : W64), x.toNat = sel → (sel, v) ∈
            [(0, BitVec.ofNat 64 (y.locals.length + y.transits.length
                + (s.m.claims.filter fun z => z.ent.task % 49152 / 3072 == r).length)),
             (1, BitVec.ofNat 64 (y.copies.map fun z => 128 * z.lines.length).sum),
             (2, BitVec.ofNat 64 ((y.copies.filter fun z => z.pinned).map fun z => 128 * z.lines.length).sum),
             (3, y.stats.get 0 3), (4, y.stats.get 0 4), (5, y.stats.get 0 5), (6, y.stats.get 0 6),
             (7, y.stats.get 0 7), (8, BitVec.ofNat 64 y.binds.length)] → s.DeliversWord (.ntStat t) 14 16 v)
        ∧ (s.m.cur.csr.priv = false →
            (s.m.issue.start.csr.ntrange.getLsbD 0 = false
              ∨ x.toNat / 2 ^ 44 < s.m.issue.start.csr.ntrange.toNat / 2 ^ 24 % 2 ^ 20
              ∨ s.m.issue.start.csr.ntrange.toNat / 2 ^ 44 < x.toNat / 2 ^ 44) →
            ∀ i ∈ [Instr.ntProb t, .ntPin t, .ntUnpn t], s.Faults i 17 x)
        ∧ (s.m.cur.csr.priv = true
            ∨ (s.m.issue.start.csr.ntrange.getLsbD 0 = true
              ∧ s.m.issue.start.csr.ntrange.toNat / 2 ^ 24 % 2 ^ 20 ≤ x.toNat / 2 ^ 44
              ∧ x.toNat / 2 ^ 44 ≤ s.m.issue.start.csr.ntrange.toNat / 2 ^ 44) →
          ((∀ z ∈ y.transits, z.recs.length ≤ 8) → s.acts (.ntProb t) = true → ∃ v : W64,
            exec (.ntProb t) s = .next ((s.began (.ntProb t)).sends 14 16 (v.setWidth 512))
            ∧ v.getLsbD 0 = c.isSome ∧ v.getLsbD 1 = (match c with | some z => z.pinned | none => false)
            ∧ v.getLsbD 2 = (match c with | some z => z.origin | none => false)
            ∧ v.getLsbD 3 = (y.transits.any fun z => z.name == x)
            ∧ v.getLsbD 16 = (y.never x).isNone)
          ∧ (c = none → s.DeliversWord (.ntPin t) 14 16 1 ∧ s.DeliversWord (.ntUnpn t) 14 16 1)
          ∧ (∀ z, c = some z →
              (z.pinned = true → s.DeliversWord (.ntPin t) 14 16 0)
              ∧ (z.pinned = false → s.DeliversWord (.ntUnpn t) 14 16 1)
              ∧ (z.pinned = false →
                  (if r = 16 then 64 * 2 ^ 20 else 8 * 2 ^ 20) * 7 / 8 < y.pinnedBytes + 128 * z.lines.length →
                  s.DeliversWord (.ntPin t) 14 16 0x8000000000000005)
              ∧ (z.pinned = false →
                  y.pinnedBytes + 128 * z.lines.length ≤ (if r = 16 then 64 * 2 ^ 20 else 8 * 2 ^ 20) * 7 / 8 →
                  s.acts (.ntPin t) = true → ∃ s', exec (.ntPin t) s = .next s' ∧ s.Answered s' 14 16 0
                    ∧ (s'.m.router r).copy x = some { z with pinned := true })
              ∧ (z.pinned = true → s.acts (.ntUnpn t) = true →
                  ∃ s', exec (.ntUnpn t) s = .next s' ∧ s.Answered s' 14 16 0
                    ∧ (s'.m.router r).copy x = some { z with pinned := false }))))
      ∧ ((∀ l ∈ (s.m.router d).locals, l.task = ownerOf s.m s.m.tkey →
            x ≠ BitVec.ofNat 64 (5 * 2 ^ 52 + d * 2 ^ 48 + s.m.cur.frame * 2 ^ 32 + l.seq)) →
          s.DeliversWord (.ntCanc t) 14 4 1)
      ∧ (∀ l, (s.m.router d).locals = [l] → l.task = ownerOf s.m s.m.tkey →
          x = BitVec.ofNat 64 (5 * 2 ^ 52 + d * 2 ^ 48 + s.m.cur.frame * 2 ^ 32 + l.seq) → s.acts (.ntCanc t) = true →
          ∃ s', exec (.ntCanc t) s = .next s' ∧ (s'.m.router d).locals = []
            ∧ s'.m.cur.res = s.m.cur.res ++ [⟨14, 0, s.clk.cycle + 4, .none, []⟩] ∧ s'.m.mem = s.m.mem
            ∧ s.m.Completes s'.m l.task 5 l.seq 0x8000000000000004)
      ∧ (s.m.curTask.token d s.m.cur.frame x = none → s.Faults (.ntWait t) 12 x)
      ∧ ∀ k, s.m.curTask.token d s.m.cur.frame x = some k → k.kind = 5 →
          (k.done = none → s.Blocks (.ntWait t) (.token x) x true)
          ∧ ∀ v, k.done = some v →
              (∀ n, k.name = some n → v.toNat / 2 ^ 63 = 1 → v.toNat % 2 ^ 8 = 6 →
                s.m.issue.start.csr.ntrange.getLsbD 1 = false → s.Faults (.ntWait t) 16 n)
              ∧ (k.name = none ∨ v.toNat / 2 ^ 63 = 0 ∨ s.m.issue.start.csr.ntrange.getLsbD 1 = true →
                s.acts (.ntWait t) = true →
                ∃ s', exec (.ntWait t) s = .next s' ∧ s.ordered.Answered s' 14 2 v ∧ s'.m.mem = s.m.mem)

/-- R276, R288, R293, R298, R299: nt.defn, nt.ret and nt.rout issue a token and send their change on its way, a binding or
a retirement to the hub and every ring stop, a route to its router; operands that the rules forbid raise ILLEGAL_SLOT.
R275: at supervisor privilege, and at user privilege for a name within nt.range; outside it NT_RANGE at user privilege,
and PRIV for a route outside it or over one outside it, with the trigger operand in tval (log entry 51).  The routers that
a change still has to reach are listed with the hub first (log entry 29).  A record's address that is no multiple of 64
raises ALIGN.
R280, R281, R287, R294, R295: nt.ann of a name in its binding's grid, from a source in the own run, issues a token
and puts the announcement on its way after the release; nt.int records a local entry that ends after its lifetime and a
transit entry, and sends the interest to the face that the routes give; outside a binding both complete at once with
NT_NEVER (cause 3, for nt.ann only outside the grid). -/
def Obligations.TileOperationsIssued : Prop :=
  (∀ (s : State) (t : Trig) (A B X : W512), s.Reads t.src X → s.Port 11 0 A → s.Port 11 1 B →
      ∀ (x a b : W64) (e : Env) (holds : Nat → Nat → Prop), x = X.setWidth 64 → a = A.setWidth 64 → b = B.setWidth 64 →
        e = ⟨s.boot, s.clk⟩ → s.m.curTask.tokenRoom 5 = true →
        (∀ lo hi, holds lo hi ↔ s.m.issue.start.csr.ntrange.getLsbD 0 = true
          ∧ s.m.issue.start.csr.ntrange.toNat / 2 ^ 24 % 2 ^ 20 ≤ lo ∧ hi ≤ s.m.issue.start.csr.ntrange.toNat / 2 ^ 44) →
        (x.toNat / 2 % 2 ^ 31 ≠ 0 → s.Faults (.ntRet t) 1 x)
        ∧ (x.toNat / 2 % 2 ^ 31 = 0 → s.m.cur.csr.priv = false → ¬holds (x.toNat / 2 ^ 44) (x.toNat / 2 ^ 44) →
            s.Faults (.ntRet t) 17 x)
        ∧ (x.toNat / 2 % 2 ^ 31 = 0 → (s.m.cur.csr.priv = true ∨ holds (x.toNat / 2 ^ 44) (x.toNat / 2 ^ 44)) →
            s.acts (.ntRet t) = true →
            ∃ s', exec (.ntRet t) s = .next s' ∧ s.TokenIssued s' 5 14 4 ∧ s'.m.mem = s.m.mem
              ∧ s'.m.changes = s.m.changes ++ [⟨.retire (x.toNat / 2 ^ 44) (x.toNat / 2 ^ 32 % 2 ^ 12) (x.getLsbD 0),
                  ownerOf s.m s.m.tkey, s.nextSeq 5, 16 :: e.dieList, 0⟩])
        ∧ (x.toNat % 64 ≠ 0 → s.Faults (.ntDefn t) 7 x)
        ∧ (∀ (w : Nat → Nat) (bd : Binding), s.InRun x 64 → s.m.cur.csr.spadBase % 64 = 0 → s.m.cur.fences = [] →
            s.m.cur.stq = [] → s.m.cur.seg = none → s.m.spadClean s.m.issue.core (s.runOffset x) = true →
            (∀ j < 8, w j = ofBytes (s.m.spadBytesAt s.m.issue.core (s.runOffset x + 8 * j) 8)) →
            ((∃ j, 2 ≤ j ∧ j < 8 ∧ w j ≠ 0) ∨ w 0 / 2 ^ 20 % 2 ^ 4 ≠ 0 ∨ w 0 / 2 ^ 27 % 2 ^ 5 ≠ 0
              ∨ 4 < w 0 / 2 ^ 24 % 2 ^ 3 ∨ w 1 / 2 ^ 12 % 2 ^ 4 ≠ 0 ∨ w 1 / 2 ^ 28 % 2 ^ 4 ≠ 0
              ∨ 9 < w 1 / 2 ^ 32 % 2 ^ 4 ∨ w 1 / 2 ^ 36 % 2 ^ 4 ≠ 0 ∨ 2 ^ 51 ≤ w 1 → s.Faults (.ntDefn t) 1 x)
            ∧ ((∀ j, 2 ≤ j → j < 8 → w j = 0) → w 0 / 2 ^ 20 % 2 ^ 4 = 0 → w 0 / 2 ^ 27 % 2 ^ 5 = 0 →
              w 0 / 2 ^ 24 % 2 ^ 3 ≤ 4 → w 1 / 2 ^ 12 % 2 ^ 4 = 0 → w 1 / 2 ^ 28 % 2 ^ 4 = 0 →
              w 1 / 2 ^ 32 % 2 ^ 4 ≤ 9 → w 1 / 2 ^ 36 % 2 ^ 4 = 0 → w 1 < 2 ^ 51 →
              bd = { id := w 0 % 2 ^ 20, size := w 0 / 2 ^ 24 % 2 ^ 3, rows := w 0 / 2 ^ 32 % 2 ^ 16,
                     cols := w 0 / 2 ^ 48 % 2 ^ 16, base := w 1 % 2 ^ 12, win := w 1 / 2 ^ 16 % 2 ^ 12 + 1,
                     legend := w 1 / 2 ^ 32 % 2 ^ 4, buf := w 1 / 2 ^ 40 % 2 ^ 8,
                     hub := decide (w 1 / 2 ^ 48 % 2 = 1), transit := decide (w 1 / 2 ^ 49 % 2 = 1),
                     cons := decide (w 1 / 2 ^ 50 % 2 = 1) } →
              (s.m.cur.csr.priv = false → ¬holds bd.id bd.id → s.Faults (.ntDefn t) 17 x)
              ∧ ((s.m.cur.csr.priv = true ∨ holds bd.id bd.id) → s.acts (.ntDefn t) = true → ∃ s', exec (.ntDefn t) s = .next s' ∧ s.TokenIssued s' 5 14 4 ∧ s'.m.mem = s.m.mem
                ∧ s'.m.changes = s.m.changes ++ [⟨.bind bd, ownerOf s.m s.m.tkey, s.nextSeq 5, 16 :: e.dieList, 0⟩])))
        ∧ ∀ (r idx lo hi face rlo rhi : Nat) (rt : Option Route) (mine : Prop),
            (mine ↔ s.m.cur.csr.priv = true ∨ (a.getLsbD 63 = false ∨ holds lo hi)
              ∧ ∀ old, (s.m.router r).routes.find idx = some old → holds old.lo old.hi) → r = x.toNat % 2 ^ 5 → idx = x.toNat / 2 ^ 16 % 2 ^ 12 →
            lo = a.toNat % 2 ^ 20 → hi = a.toNat / 2 ^ 20 % 2 ^ 20 → face = a.toNat / 2 ^ 40 % 2 ^ 5 →
            rlo = b.toNat % 2 ^ 16 → rhi = b.toNat / 2 ^ 16 % 2 ^ 16 →
            rt = (if a.getLsbD 63 then some ⟨lo, hi, b.getLsbD 32, rlo, rhi, face⟩ else none) →
            (2 ^ 28 ≤ x.toNat ∨ x.toNat / 2 ^ 5 % 2 ^ 11 ≠ 0 ∨ 16 < r ∨ (r < 16 ∧ e.live r = false)
              ∨ (r < 16 ∧ 1024 ≤ idx) → s.Faults (.ntRout t) 1 x)
            ∧ (x.toNat < 2 ^ 28 → x.toNat / 2 ^ 5 % 2 ^ 11 = 0 → (r = 16 ∨ r < 16 ∧ e.live r = true ∧ idx < 1024) →
              (a.toNat / 2 ^ 45 % 2 ^ 18 ≠ 0 ∨ hi < lo ∨ (r = 16 ∧ 16 ≤ face)
                  ∨ (r < 16 ∧ (4 ≤ face ∧ face < 8 ∨ 16 ≤ face)) → s.Faults (.ntRout t) 1 a)
              ∧ (a.toNat / 2 ^ 45 % 2 ^ 18 = 0 → lo ≤ hi → face < 16 → (r = 16 ∨ face < 4 ∨ 8 ≤ face) →
                  (2 ^ 33 ≤ b.toNat ∨ (b.getLsbD 32 = true ∧ rhi < rlo) → s.Faults (.ntRout t) 1 b)
                  ∧ (b.toNat < 2 ^ 33 → (b.getLsbD 32 = true → rlo ≤ rhi) → ¬mine → s.Faults (.ntRout t) 8 x)
                  ∧ (b.toNat < 2 ^ 33 → (b.getLsbD 32 = true → rlo ≤ rhi) → mine → s.acts (.ntRout t) = true →
                    ∃ s', exec (.ntRout t) s = .next s' ∧ s.TokenIssued s' 5 14 4 ∧ s'.m.mem = s.m.mem
                      ∧ s'.m.changes = s.m.changes
                          ++ [⟨.route r idx rt, ownerOf s.m s.m.tkey, s.nextSeq 5, [r], 0⟩]))))
  ∧ (∀ (s : State) (t : Trig) (A B X : W512), s.Reads t.src X → s.Port 11 0 A → s.Port 11 1 B →
      ∀ (n a b : W64) (e : Env) (d : Nat) (bd : Option Binding) (mine : Prop), n = X.setWidth 64 → a = A.setWidth 64 →
        b = B.setWidth 64 → e = ⟨s.boot, s.clk⟩ → d = s.m.issue.d → d < 16 → s.m.issue.r < 192 → s.m.curTask.tokenRoom 5 = true →
        (mine ↔ s.m.cur.csr.priv = true ∨ s.m.issue.start.csr.ntrange.getLsbD 0 = true
          ∧ s.m.issue.start.csr.ntrange.toNat / 2 ^ 24 % 2 ^ 20 ≤ n.toNat / 2 ^ 44
          ∧ n.toNat / 2 ^ 44 ≤ s.m.issue.start.csr.ntrange.toNat / 2 ^ 44) →
        s.m.cur.fences = [] → s.m.cur.stq = [] → s.NoPeerSectors → s.m.curTask.st ≠ .free →
        bd = (s.m.router d).binding (n.toNat / 2 ^ 44) →
        (2 ≤ b.toNat → s.Faults (.ntAnn t) 1 b)
        ∧ (b = 0 ∨ 2 ^ 32 ≤ b.toNat → s.Faults (.ntInt t) 1 b)
        ∧ (¬mine → (b.toNat < 2 → s.Faults (.ntAnn t) 17 n)
            ∧ (0 < b.toNat → b.toNat < 2 ^ 32 → s.Faults (.ntInt t) 17 n))
        ∧ (mine → (∀ y : Binding, bd = some y → y.rows < n.toNat / 2 ^ 16 % 2 ^ 16 ∨ y.cols < n.toNat % 2 ^ 16 →
            (b.toNat < 2 → s.acts (.ntAnn t) = true →
              ∃ s', exec (.ntAnn t) s = .next s' ∧ s'.m.mem = s.m.mem ∧ s'.m.anns = s.m.anns
                ∧ s'.m.cur.res = s.m.cur.res ++ [⟨14, (BitVec.ofNat 64 (5 * 2 ^ 52 + d * 2 ^ 48
                    + s.m.cur.frame * 2 ^ 32 + s.nextSeq 5)).setWidth 512, s.clk.cycle + 4, .none, []⟩]
                ∧ ∃ k ∈ s'.m.curTask.toks, k.kind = 5 ∧ k.seq = s.nextSeq 5 ∧ k.done = some 0x8000000000000306))
        ∧ (bd = none → 0 < b.toNat → b.toNat < 2 ^ 32 → s.acts (.ntInt t) = true →
              ∃ s', exec (.ntInt t) s = .next s' ∧ s'.m.mem = s.m.mem ∧ s'.m.routers = s.m.routers
                ∧ ∃ k ∈ s'.m.curTask.toks, k.kind = 5 ∧ k.seq = s.nextSeq 5 ∧ k.done = some 0x8000000000000306)
        ∧ (bd = none → b.toNat < 2 → s.acts (.ntAnn t) = true →
              ∃ (s' : State) (an : Ann), exec (.ntAnn t) s = .next s' ∧ s.TokenIssued s' 5 14 4 ∧ s'.m.anns = s.m.anns ++ [an]
                ∧ an.die = d ∧ an.name = n ∧ an.pin = b.getLsbD 0 ∧ an.seq = s.nextSeq 5 ∧ an.task = ownerOf s.m s.m.tkey)
        ∧ ∀ y : Binding, bd = some y → n.toNat / 2 ^ 16 % 2 ^ 16 ≤ y.rows → n.toNat % 2 ^ 16 ≤ y.cols →
            a.toNat / 2 ^ 58 % 8 = 1 → a.toNat / 2 ^ 22 % 2 ^ 36 = 0 → a.toNat % 64 = 0 →
            a.toNat % 2 ^ 22 + 2 ^ (12 + y.size) ≤ s.m.cur.csr.spadSize →
            (b.toNat < 2 → s.acts (.ntAnn t) = true →
              ∃ (s' : State) (an : Ann), exec (.ntAnn t) s = .next s' ∧ s.TokenIssued s' 5 14 4 ∧ s'.m.anns = s.m.anns ++ [an]
                ∧ an.die = d ∧ an.name = n ∧ an.pin = b.getLsbD 0 ∧ an.seq = s.nextSeq 5
                ∧ an.task = ownerOf s.m s.m.tkey
                ∧ an.src.toNat = a.toNat / 2 ^ 61 * 2 ^ 61 + 2 ^ 59 + s.m.issue.r * 2 ^ 22
                    + (s.m.cur.csr.spadBase + a.toNat % 2 ^ 22) % 2 ^ 22)
            ∧ (0 < b.toNat → b.toNat < 2 ^ 32 → y.live (n.toNat / 2 ^ 32 % 2 ^ 12) = true →
                (s.m.router d).copy n = none → (∀ z ∈ (s.m.router d).transits, z.name ≠ n) →
                vigilUse s.m d + 1 < 4096 → ∀ face r2 f2 : Nat, faceFor e s.m d n = some face →
                leads d face = .router r2 f2 → s.acts (.ntInt t) = true →
                ∃ (s' : State) (l : LocalEntry), exec (.ntInt t) s = .next s' ∧ s.TokenIssued s' 5 14 4 ∧ s'.m.mem = s.m.mem
                  ∧ (s'.m.router d).locals = (s.m.router d).locals ++ [l] ∧ l.name = n ∧ l.e = s.clk.tick + b.setWidth 48
                  ∧ l.seq = s.nextSeq 5 ∧ l.task = ownerOf s.m s.m.tkey
                  ∧ (s'.m.router d).transits = (s.m.router d).transits ++ [⟨n, [(0, l.e)], some face, false, 0⟩]
                  ∧ s'.m.msgs = s.m.msgs ++ [⟨r2, f2, .interest n l.e 1⟩])))

/-- R279, R281 to R285, R289, R296, R401: the first message of its class on its path that reaches its router is taken. An interest
is answered with NT_NEVER where the name is unbound or not live, with the tile where the router holds a copy of it, joins
an entry of its name, with a refresh on the entry's upstream face where its end is the latest, is answered with NT_BUSY
where no Vigil entry is free, with NT_NEVER where the routes give no face (cause 1) and after 32 hops (cause 2), waits in
an entry at the terminal where they give the local face, and else goes on to the face that they give;
a tile at the consumer's ring stop claims the local entry of its name, is written whole to its destination, and completes
the entry's token with the code of where it was served from, its hops and its LOW lines; a tile, which counts one more hop on its way back (log entry 27), or an
answer on the upstream face of an entry goes to the entry's face records, and the entry is freed; a record whose end is
reached is dropped, and a local entry's token completes with NT_EXPIRED. -/
def Obligations.TileMessages : Prop :=
  ∀ (s : State) (k r f : Nat) (e : Env) (y : Router) (n : W64), e = ⟨s.boot, s.clk⟩ → y = s.m.router r →
    (∀ end_ hops r2 f2, s.m.msgs[k]? = some ⟨r, f, .interest n end_ hops⟩ →
      (∀ j < k, ∀ z, s.m.msgs[j]? = some z → z.to_ = r → z.face = f → ∃ n v, z.body = .answer n v) →
      (∀ c, y.never n = some c → (r = 16 ∨ f ≠ 0) → leads r f = .router r2 f2 →
        ∃ s', exec (.ntInterestArrival (.queued k)) s = .next s'
          ∧ s'.m.msgs = s.m.msgs.eraseIdx k ++ [⟨r2, f2, .answer n (BitVec.ofNat 64 (2 ^ 63 + 6 + c * 256))⟩]
          ∧ s'.m.routers = s.m.routers ∧ s'.m.mem = s.m.mem ∧ s'.m.ctxs = s.m.ctxs)
      ∧ (y.never n = none → y.copy n = none → (∀ z ∈ y.transits, z.name ≠ n) → (r = 16 ∨ f ≠ 0) →
          leads r f = .router r2 f2 → (if r = 16 then 16384 else 4096) ≤ vigilUse s.m r →
          ∃ s', exec (.ntInterestArrival (.queued k)) s = .next s'
            ∧ s'.m.msgs = s.m.msgs.eraseIdx k ++ [⟨r2, f2, .answer n 0x8000000000000005⟩]
            ∧ (s'.m.router r).transits = y.transits ∧ s'.m.mem = s.m.mem ∧ s'.m.ctxs = s.m.ctxs)
      ∧ (∀ c : Copy, y.never n = none → y.copy n = some c → (r = 16 ∨ f ≠ 0) → leads r f = .router r2 f2 →
          (∀ q ∈ c.lines, (decodeCopy c.legend q.1.toNat q.2.toNat).sev = 0) →
          ∃ (s' : State) (lines : List (Line × Bool × Bool)), exec (.ntInterestArrival (.queued k)) s = .next s'
            ∧ s'.m.msgs = s.m.msgs.eraseIdx k
                ++ [⟨r2, f2, .tile n lines (if c.origin = true then 0 else if r = 16 then 3 else 2) 1⟩]
            ∧ lines = c.lines.map (fun q => (q.1, false, false))
            ∧ (s'.m.router r).transits = y.transits ∧ s'.m.mem = s.m.mem ∧ s'.m.ctxs = s.m.ctxs)
      ∧ (∀ (z : TransitEntry) (g u r3 f3 : Nat) (last : BitVec 48) (later : Bool), y.never n = none → y.copy n = none →
          y.transits = [z] → z.name = n → z.recs = [(g, last)] → z.up = some u → leads r u = .router r3 f3 →
          later = decide (1 ≤ (end_ - last).toNat ∧ (end_ - last).toNat < 2 ^ 47) →
          ∃ s', exec (.ntInterestArrival (.queued k)) s = .next s'
            ∧ s'.m.msgs = s.m.msgs.eraseIdx k ++ (if later then [⟨r3, f3, .interest n end_ (z.hops + 1)⟩] else [])
            ∧ (s'.m.router r).transits = [{ z with recs := if g = f then [(f, if later then end_ else last)]
                else [(g, last), (f, end_)] }]
            ∧ s'.m.mem = s.m.mem ∧ s'.m.ctxs = s.m.ctxs)
      ∧ (∀ face, y.never n = none → y.copy n = none → (∀ z ∈ y.transits, z.name ≠ n) →
          faceFor e s.m r n = some face → (r = 16 ∨ face ≠ 0) → (r = 16 ∨ f ≠ 0) → leads r f = .router r2 f2 → 32 ≤ hops →
          vigilUse s.m r < (if r = 16 then 16384 else 4096) →
          ∃ s', exec (.ntInterestArrival (.queued k)) s = .next s'
            ∧ s'.m.msgs = s.m.msgs.eraseIdx k ++ [⟨r2, f2, .answer n 0x8000000000000206⟩]
            ∧ (s'.m.router r).transits = y.transits ∧ s'.m.mem = s.m.mem ∧ s'.m.ctxs = s.m.ctxs)
      ∧ (∀ face, y.never n = none → y.copy n = none → (∀ z ∈ y.transits, z.name ≠ n) →
          faceFor e s.m r n = some face → leads r face = .router r2 f2 → hops < 32 →
          vigilUse s.m r < (if r = 16 then 16384 else 4096) →
          ∃ s', exec (.ntInterestArrival (.queued k)) s = .next s'
            ∧ s'.m.msgs = s.m.msgs.eraseIdx k ++ [⟨r2, f2, .interest n end_ (hops + 1)⟩]
            ∧ (s'.m.router r).transits = y.transits ++ [⟨n, [(f, end_)], some face, false, hops⟩]
            ∧ s'.m.mem = s.m.mem ∧ s'.m.ctxs = s.m.ctxs)
      ∧ (y.never n = none → y.copy n = none → (∀ z ∈ y.transits, z.name ≠ n) → vigilUse s.m r < (if r = 16 then 16384 else 4096) →
          (faceFor e s.m r n = none → (r = 16 ∨ f ≠ 0) → leads r f = .router r2 f2 →
            ∃ s', exec (.ntInterestArrival (.queued k)) s = .next s'
              ∧ s'.m.msgs = s.m.msgs.eraseIdx k ++ [⟨r2, f2, .answer n 0x8000000000000106⟩]
              ∧ (s'.m.router r).transits = y.transits ∧ s'.m.mem = s.m.mem ∧ s'.m.ctxs = s.m.ctxs)
          ∧ (faceFor e s.m r n = some 0 → r ≠ 16 →
            ∃ s', exec (.ntInterestArrival (.queued k)) s = .next s' ∧ s'.m.msgs = s.m.msgs.eraseIdx k
              ∧ (s'.m.router r).transits = y.transits ++ [⟨n, [(f, end_)], none, false, hops⟩]
              ∧ s'.m.mem = s.m.mem ∧ s'.m.ctxs = s.m.ctxs)))
    ∧ (∀ lines served hops b z l end_ core off, s.m.msgs[k]? = some ⟨r, f, .tile n lines served hops⟩ →
        (∀ j < k, ∀ z, s.m.msgs[j]? = some z → z.to_ = r → z.face = f → ∃ n v, z.body = .answer n v) →
        y.binding (n.toNat / 2 ^ 44) = some b → b.live (n.toNat / 2 ^ 32 % 2 ^ 12) = true → y.transits = [z] →
        z.name = n → z.up = some f → z.recs = [(0, end_)] → reached s.clk.tick end_ = false → r < 16 →
        y.locals = [l] → l.name = n → reached s.clk.tick l.e = false → b.cons = false →
        s.m.NamesSpad r l.dst (128 * lines.length) core off → off % 128 = 0 → lines ≠ [] → (∀ q ∈ lines, q.2.1 = false) →
        ∃ s', exec (.ntTileArrival (.queued k)) s = .next s' ∧ (s'.m.router r).transits = [] ∧ (s'.m.router r).locals = []
          ∧ (s'.m.router r).copies = y.copies ∧ s'.m.msgs = s.m.msgs.eraseIdx k ∧ s'.m.mem = s.m.mem
          ∧ s.m.SpadWritten s'.m core off (lines.flatMap fun q => (List.range 128).map fun i => q.1.extractLsb' (8 * i) 8)
          ∧ s.m.Completes s'.m l.task 5 l.seq (BitVec.ofNat 64 ((if served = 2 ∧ hops = 0 then 1 else served)
              + min hops 32 * 2 ^ 8 + min (lines.filter fun q => q.2.2).length 65535 * 2 ^ 32)))
    ∧ (∀ lines served hops b z g end_ r2 f2, s.m.msgs[k]? = some ⟨r, f, .tile n lines served hops⟩ →
        (∀ j < k, ∀ z, s.m.msgs[j]? = some z → z.to_ = r → z.face = f → ∃ n v, z.body = .answer n v) →
        y.binding (n.toNat / 2 ^ 44) = some b → b.live (n.toNat / 2 ^ 32 % 2 ^ 12) = true → y.transits = [z] →
        z.name = n → z.up = some f → z.recs = [(g, end_)] → reached s.clk.tick end_ = false →
        (r = 16 ∨ g ≠ 0) → leads r g = .router r2 f2 → b.hub = false → b.transit = false →
        ∃ s', exec (.ntTileArrival (.queued k)) s = .next s' ∧ (s'.m.router r).transits = []
          ∧ s'.m.msgs = s.m.msgs.eraseIdx k ++ [⟨r2, f2, .tile n lines served (hops + 1)⟩]
          ∧ (s'.m.router r).copies = y.copies ∧ s'.m.mem = s.m.mem ∧ s'.m.ctxs = s.m.ctxs)
    ∧ (∀ v z g end_ r2 f2, s.m.msgs[k]? = some ⟨r, f, .answer n v⟩ →
        (∀ j < k, ∀ z, s.m.msgs[j]? = some z → z.to_ = r → z.face = f → ∀ n v, z.body ≠ .answer n v) → y.transits = [z] → z.name = n →
        z.up = some f → z.recs = [(g, end_)] → (r = 16 ∨ g ≠ 0) → leads r g = .router r2 f2 →
        ∃ s', exec (.ntAnswerArrival (.queued k)) s = .next s' ∧ (s'.m.router r).transits = []
          ∧ s'.m.msgs = s.m.msgs.eraseIdx k ++ [⟨r2, f2, .answer n v⟩] ∧ s'.m.mem = s.m.mem ∧ s'.m.ctxs = s.m.ctxs)
    ∧ ∀ q : Fin 17, q.val = r → ∃ s', exec (.ntRecordExpiry q) s = .next s' ∧ s'.m.mem = s.m.mem
        ∧ (∀ z ∈ (s'.m.router r).transits, ∀ p ∈ z.recs, reached s.clk.tick p.2 = false)
        ∧ (∀ l ∈ (s'.m.router r).locals, reached s.clk.tick l.e = false)
        ∧ ∀ l ∈ y.locals, reached s.clk.tick l.e = true → (∀ l2 ∈ y.locals, l2.seq = l.seq → l2.task = l.task → l2 = l) →
            s.m.Completes s'.m l.task 5 l.seq 0x8000000000000004

/-- R287, R288, R293, R298, R299: an announced tile becomes the origin copy of its ring stop, and its token completes with
0; a change is taken by the hub first and then by the other routers, one a step in their order (log entry 29), and its token
completes at the last of them: with 0, with the number of iterations retired, or with NT_BUSY, which the hub judges,
changing nothing, for an id that is bound already. -/
def Obligations.TileChangesApplied : Prop :=
  ∀ (s : State) (k : Nat) (e : Env), e = ⟨s.boot, s.clk⟩ →
    (∀ (d : Fin 16) (a : Ann) (y : Router), s.m.anns[k]? = some a → a.die = d.val → y = s.m.router d.val →
        (∀ c, y.never a.name = some c →
          ∃ s', exec (.ntAnnounceStore d k) s = .next s' ∧ s'.m.anns = s.m.anns.eraseIdx k
            ∧ s.m.Completes s'.m a.task 5 a.seq (BitVec.ofNat 64 (2 ^ 63 + 6 + c * 256)))
        ∧ ∀ (b : Binding) (lines : List (Line × Bool × Bool)) (m1 : Mach), y.never a.name = none → y.binding (a.name.toNat / 2 ^ 44) = some b →
            readTile e a b.legend b.buf b.bytes s.m = (some lines, m1) → y.copies = [] → y.transits = [] →
            128 * lines.length ≤ 8 * 2 ^ 20 →
            ∃ s' c, exec (.ntAnnounceStore d k) s = .next s' ∧ s'.m.anns = s.m.anns.eraseIdx k
              ∧ (s'.m.router d.val).copies = [c] ∧ c.name = a.name ∧ c.origin = true ∧ c.legend = b.legend
              ∧ (∀ (j : Nat) (l : Line × Bool × Bool), lines[j]? = some l → l.2.1 = false → ∃ q, c.lines[j]? = some q ∧ q.1 = l.1)
              ∧ m1.Completes s'.m a.task 5 a.seq 0)
    ∧ ∀ p : NtPending, s.m.changes[k]? = some p →
        (∀ b, p.chg = .bind b → p.todo = 16 :: e.dieList →
          (((s.m.router 16).binding b.id).isSome = true →
            ∃ s', exec (.ntBindingApply k) s = .next s' ∧ s'.m.changes = s.m.changes.eraseIdx k
              ∧ s'.m.routers = s.m.routers ∧ s.m.Completes s'.m p.task 5 p.seq 0x8000000000000005)
          ∧ ((s.m.router 16).binding b.id = none → (s.m.router 16).binds.length < 4096 → e.dieList ≠ [] →
            ∃ s', exec (.ntBindingApply k) s = .next s'
              ∧ (s'.m.router 16).binds = (s.m.router 16).binds ++ [b]
              ∧ s'.m.changes = s.m.changes.eraseIdx k ++ [{ p with todo := e.dieList, value := 0 }]
              ∧ s'.m.mem = s.m.mem ∧ s'.m.ctxs = s.m.ctxs ∧ s'.m.tasks = s.m.tasks))
        ∧ (∀ b r, p.chg = .bind b → p.todo = [r] → r ≠ 16 → inOrder s.m k r = true →
            ∃ s', exec (.ntBindingApply k) s = .next s' ∧ (s'.m.router r).binds = (s.m.router r).binds ++ [b]
              ∧ s'.m.changes = s.m.changes.eraseIdx k ∧ s.m.Completes s'.m p.task 5 p.seq p.value)
        ∧ (∀ id iter u r b, p.chg = .retire id iter u → p.todo = [r] → r ≠ 16 → inOrder s.m k r = true →
            (s.m.router r).binding id = some b → (s.m.router r).transits = [] → (s.m.router r).locals = [] →
            ∃ s', exec (.ntRetirementApply k) s = .next s' ∧ s'.m.changes = s.m.changes.eraseIdx k
              ∧ (u = true → (s'.m.router r).binding id = none)
              ∧ (u = false → b.live iter = true →
                  (s'.m.router r).binding id = some { b with base := (iter + 1) % 4096 })
              ∧ (∀ c ∈ (s'.m.router r).copies, c.name.toNat / 2 ^ 44 = id →
                  b.retires iter u (c.name.toNat / 2 ^ 32 % 2 ^ 12) = false)
              ∧ s.m.Completes s'.m p.task 5 p.seq p.value)
        ∧ (∀ id iter u b v, p.chg = .retire id iter u → p.todo = 16 :: e.dieList → e.dieList ≠ [] →
            v = BitVec.ofNat 64
              (if u = true then b.win else if b.live iter = true then (iter + 4096 - b.base) % 4096 + 1 else 0) →
            (s.m.router 16).binding id = some b → (s.m.router 16).transits = [] → (s.m.router 16).locals = [] →
            ∃ s', exec (.ntRetirementApply k) s = .next s'
              ∧ s'.m.changes = s.m.changes.eraseIdx k ++ [{ p with todo := e.dieList, value := v }])
        ∧ ∀ r idx rt, p.chg = .route r idx rt → p.todo = [r] → inOrder s.m k r = true →
            ∃ s', exec (.ntRouteApply k) s = .next s' ∧ (s'.m.router r).routes.find idx = rt
              ∧ (∀ j, j ≠ idx → (s'.m.router r).routes.find j = (s.m.router r).routes.find j)
              ∧ s'.m.changes = s.m.changes.eraseIdx k ∧ s.m.Completes s'.m p.task 5 p.seq p.value

/-! ### Work queues, launches, job cards and collectives (R97 to R102, R224, R353 to R366) -/

/-- R97, R99, R100, R101, R102: eq.pop takes the oldest item and acquires, eq.push releases, in the step of the push (log
entry 11), and appends one, eq.qcls
closes an open queue; a free queue, and a closed one without items, give TERM; the non-blocking forms give EMPTY and
FULL where the others block; reserved bits raise ILLEGAL_SLOT.
R99: eq.lnch of a record in the own run writes its 256 bytes to the ring entry at the tail of a device queue that has
room, advances the tail and delivers the token's handle; no other byte of memory changes (as long as neither line of the
record drives another out of the L2). A queue number above 1,023
raises ILLEGAL_SLOT, a queue that is no device queue PRIV, and an address that is no multiple of 256 ALIGN. -/
def Obligations.QueuesAndRecords : Prop :=
  (∀ (s : State) (t : Trig) (A X : W512), s.Reads t.src X → s.Port 12 0 A →
      ∀ (x a : W64) (k : Nat) (q : Hwq), x = X.setWidth 64 → a = A.setWidth 64 →
        k = s.m.issue.d * 256 + x.toNat % 256 → q = s.m.hwq k →
        (2 ^ 9 ≤ x.toNat → s.Faults (.eqPop t) 1 x ∧ s.Faults (.eqPush t) 1 x)
        ∧ (2 ^ 8 ≤ x.toNat → s.Faults (.eqQcls t) 1 x)
        ∧ (x.toNat < 2 ^ 9 →
            (q.st = .free ∨ q.st = .closed ∧ q.items = [] → s.DeliversWord (.eqPop t) 15 6 0x8000000000000002)
            ∧ (q.st = .opened → q.items = [] → x.getLsbD 8 = true → s.DeliversWord (.eqPop t) 15 6 0x8000000000000001)
            ∧ (q.st = .opened → q.items = [] → x.getLsbD 8 = false →
                s.Blocks (.eqPop t) (.pop (x.toNat % 256)) x true)
            ∧ (∀ (v : BitVec 63) (r : List (BitVec 63)), q.st ≠ .free → q.items = v :: r → s.acts (.eqPop t) = true →
                ∃ s', exec (.eqPop t) s = .next s' ∧ s.ordered.Answered s' 15 6 (v.setWidth 64)
                  ∧ (q.st = .opened ∨ r ≠ [] → s'.m.hwq k = { q with items := r }) ∧ s'.m.mem = s.m.mem
                  ∧ ∀ n sec, (s'.m.core (ctxCore s.m.issue.ck)).sectors.find n = some sec → sec.cls = .own →
                      sec.dirty = true)
            ∧ (q.st ≠ .opened → s.DeliversWord (.eqPush t) 15 4 0x8000000000000002)
            ∧ (q.st = .opened → 256 ≤ q.items.length →
                (x.getLsbD 8 = true → s.DeliversWord (.eqPush t) 15 4 0x8000000000000003)
                ∧ (x.getLsbD 8 = false → s.Blocks (.eqPush t) (.push (x.toNat % 256)) x true))
            ∧ (q.st = .opened → q.items.length < 256 → s.m.cur.stq = [] → s.NoPeerSectors → s.m.issue.x < 4 →
                s.acts (.eqPush t) = true → ∃ s', exec (.eqPush t) s = .next s' ∧ s.Answered s' 15 4 0
                  ∧ s'.m.hwq k = { q with items := q.items ++ [a.setWidth 63] }
                  ∧ ∀ n sec, (s'.m.core s.m.issue.core).sectors.find n = some sec → sec.cls = .own → sec.dirty = false))
        ∧ (x.toNat < 2 ^ 8 →
            (q.st ≠ .opened → s.DeliversWord (.eqQcls t) 15 4 0x8000000000000002)
            ∧ (q.st = .opened → q.items ≠ [] → s.acts (.eqQcls t) = true →
                ∃ s', exec (.eqQcls t) s = .next s' ∧ s.Answered s' 15 4 0 ∧ s'.m.hwq k = { q with st := .closed }
                  ∧ s'.m.mem = s.m.mem)))
  ∧ (∀ (s : State) (t : Trig) (A X : W512), s.Reads t.src X → s.Port 12 0 A →
      ∀ (x a : W64) (d q : Nat) (y : Lq), x = X.setWidth 64 → a = A.setWidth 64 → d = s.m.issue.d → q = a.toNat →
        y = s.m.lq (d * 1024 + q) →
        (2 ^ 10 ≤ q → s.Faults (.eqLnch t) 1 a)
        ∧ (q < 2 ^ 10 → y.dev = false → s.Faults (.eqLnch t) 8 a)
        ∧ (q < 2 ^ 10 → y.dev = true → x.toNat % 256 ≠ 0 → s.Faults (.eqLnch t) 7 x)
        ∧ (q < 2 ^ 10 → y.dev = true → x.toNat / 2 ^ 58 % 8 = 1 → x.toNat / 2 ^ 22 % 2 ^ 36 = 0 →
            ∀ (va at_ : Nat) (l : Leaf) (m2 : Mach), x.toNat % 256 = 0 →
                x.toNat % 2 ^ 22 + 256 ≤ s.m.cur.csr.spadSize →
                s.m.cur.csr.spadBase % 128 = 0 → (∀ j < 256, s.m.spadClean s.m.issue.core (s.runOffset x + j) = true) →
                s.m.cur.fences = [] → s.m.cur.stq = [] → s.m.cur.seg = none →
                (s.m.core (ctxCore s.m.issue.ck)).sectors = [] → s.m.curTask.tokenRoom 6 = true →
                (y.tail - y.head).toNat < 2 ^ min y.lsize 12 →
                va = (y.base + 256 * (y.tail.toNat % 2 ^ min y.lsize 12)) % 2 ^ 48 → va % 128 = 0 → l.pa % 2 ^ 21 = 0 →
                walk ⟨s.boot, s.clk⟩ d va (s.m.began (.eqLnch t)) = (some (at_, l), m2) → m2.curTask = s.m.curTask →
                m2.cur = s.m.cur → m2.spad = s.m.spad → m2.lq (d * 1024 + q) = y →
                m2.l2Room ((l.pa + va % 2 ^ 21) / 128) = true → m2.l2Room ((l.pa + va % 2 ^ 21) / 128 + 1) = true →
                (l.w = false → s.Faults (.eqLnch t) 6 (BitVec.ofNat 64 va))
                ∧ (l.w = true → l.pr = true → s.acts (.eqLnch t) = true →
                  ∃ s', exec (.eqLnch t) s = .next s' ∧ s.TokenIssued s' 6 15 8
                    ∧ (s'.m.lq (d * 1024 + q)).tail = y.tail + 1 ∧ (s'.m.lq (d * 1024 + q)).head = y.head
                    ∧ (∀ j < 256, s'.m.byteAt (l.pa + va % 2 ^ 21 + j)
                        = s.m.spad.read (spadAddr s.m.issue.core (s.runOffset x) + j))
                    ∧ ∀ b, b < l.pa + va % 2 ^ 21 ∨ l.pa + va % 2 ^ 21 + 256 ≤ b → s'.m.byteAt b = m2.byteAt b)))

/-- R353, R354, R355, R357: a card that its checks accept enters its engine's queue, not yet admitted, and delivers the
handle of a token of kind 1 (copy, fill) or 2 (collective); an engine with 256 cards blocks the bundle; a card of the own
run whose fields are illegal for the operation, or whose op is another, raises ILLEGAL_SLOT with its address.
R224, R359, R360, R362, R366: eq.mig accepts a migration of writable pages after the release, eq.migs delivers a
migration's counts, or with operand 0 the die's late arrivals; eq.copn opens an identifier with the next generation,
eq.ccls closes it, and an operation of a handle that names no open identifier, and eq.ccls of one, deliver TERM; a group
handle with a bit of 63:12 set raises ILLEGAL_SLOT with the handle (the model's choice of the fault, log entry 86). -/
def Obligations.CardsMigrationsGroups : Prop :=
  (∀ (s : State) (t : Trig) (A X : W512), s.Reads t.src X → s.Port 12 0 A →
      ∀ (x a : W64) (d op kind : Nat) (i : Instr) (g : Engine) (e : Env), x = X.setWidth 64 → a = A.setWidth 64 →
        d = s.m.issue.d → e = ⟨s.boot, s.clk⟩ → s.m.cur.fences = [] →
        ((i = .eqCpy t ∧ op = 0 ∨ i = .eqFill t ∧ op = 1) ∧ g = .copy ∧ kind = 1
          ∨ (i = .eqCred t ∧ op = 2 ∨ i = .eqCmc t ∧ op = 3 ∨ i = .eqCxp t ∧ op = 4) ∧ g = .coll ∧ kind = 2
            ∧ a.toNat < 2 ^ 12 ∧ (s.m.grp (d * 256 + a.toNat % 256)).st = .opened
            ∧ (s.m.grp (d * 256 + a.toNat % 256)).gen = a.toNat / 256
            ∧ (op = 4 → (s.m.grp (d * 256 + a.toNat % 256)).members.length = 8)) →
        (∀ c rs m2, readCard op x e (s.m.began i) = .ok (c, rs) m2 → m2.cur = s.m.cur → m2.spad = s.m.spad →
            m2.curTask = s.m.curTask → m2.grp (d * 256 + a.toNat % 256) = s.m.grp (d * 256 + a.toNat % 256) →
            (256 ≤ ((m2.die d).cards g).length → s.acts i = true →
              ∃ s', exec i s = .next s' ∧ s'.m.issue.out = .blocked ⟨.card g, s.m.issue.slot, x, true⟩)
            ∧ (((m2.die d).cards g).length < 256 → s.m.curTask.tokenRoom kind = true → s.acts i = true →
                ∃ (s' : State) (j : Job), exec i s = .next s' ∧ s.TokenIssued s' kind 15 8 ∧ s'.m.mem = m2.mem
                  ∧ ((s'.m.die d).cards g).getLast? = some j
                  ∧ ((s'.m.die d).cards g).length = ((m2.die d).cards g).length + 1
                  ∧ j.op = c.op ∧ j.n = c.n ∧ j.dom = c.dom ∧ j.buf = c.buf ∧ j.pattern = c.pattern ∧ j.root = c.root
                  ∧ j.kind = kind ∧ j.seq = s.nextSeq kind ∧ j.task = ownerOf s.m s.m.tkey ∧ j.ranges = rs
                  ∧ j.admitted = false ∧ j.started = false ∧ j.doneLines = [] ∧ j.peerLines = []
                  ∧ (g = .coll → j.opno = (s.m.grp (d * 256 + a.toNat % 256)).nextOp
                      ∧ (s'.m.grp (d * 256 + a.toNat % 256)).nextOp
                          = (s.m.grp (d * 256 + a.toNat % 256)).nextOp + 1)))
        ∧ ∀ w : Nat → Nat, s.InRun x 64 → s.m.cur.csr.spadBase % 64 = 0 → s.m.cur.stq = [] → s.m.cur.seg = none →
            s.m.spadClean s.m.issue.core (s.runOffset x) = true →
            (∀ j < 8, w j = ofBytes (s.m.spadBytesAt s.m.issue.core (s.runOffset x + 8 * j) 8)) →
            (∀ c rs m2, readCard op x e (s.m.began i) = .ok (c, rs) m2 →
              c.op = op ∧ c.op = w 0 % 2 ^ 4 ∧ c.dom = w 0 / 2 ^ 8 % 2 ^ 8 ∧ c.buf = w 0 / 2 ^ 16 % 2 ^ 8
                ∧ c.redop = w 0 / 2 ^ 24 % 2 ^ 2 ∧ c.fmt = w 0 / 2 ^ 26 % 2 ∧ c.root = w 0 / 2 ^ 32 % 2 ^ 10
                ∧ c.n = w 1 % 2 ^ 32 ∧ c.src = BitVec.ofNat 64 (w 2) ∧ c.dst = BitVec.ofNat 64 (w 3)
                ∧ c.pattern = BitVec.ofNat 64 (w 4))
            ∧ (w 0 % 2 ^ 4 ≠ op ∨ w 0 / 2 ^ 4 % 2 ^ 4 ≠ 0 ∨ w 0 / 2 ^ 28 % 2 ^ 4 ≠ 0 ∨ 2 ^ 42 ≤ w 0 ∨ 2 ^ 32 ≤ w 1
                ∨ w 5 ≠ 0 ∨ w 6 ≠ 0 ∨ w 7 ≠ 0 ∨ w 1 = 0 ∨ 2 ^ 30 < w 1 ∨ w 0 / 2 ^ 24 % 4 = 3
                ∨ (op ≠ 2 ∧ w 0 / 2 ^ 24 % 2 ^ 3 ≠ 0) ∨ (op < 2 ∧ w 0 / 2 ^ 27 % 2 = 1)
                ∨ (op ≠ 3 ∧ w 0 / 2 ^ 32 % 2 ^ 10 ≠ 0) ∨ (op = 1 ∧ w 2 ≠ 0) ∨ (w 0 / 2 ^ 27 % 2 = 1 ∧ w 3 ≠ 0)
                ∨ (op ≠ 1 ∧ w 4 ≠ 0) → s.Faults i 1 x))
  ∧ (∀ (s : State) (t : Trig) (A B X : W512), s.Reads t.src X → s.Port 12 0 A → s.Port 12 1 B →
      ∀ (x a b : W64) (d : Nat) (y : Die) (e : Env), x = X.setWidth 64 → a = A.setWidth 64 → b = B.setWidth 64 →
        d = s.m.issue.d → y = s.m.die d → e = ⟨s.boot, s.clk⟩ → s.m.cur.fences = [] → s.m.cur.stq = [] →
        s.NoPeerSectors → s.m.issue.x < 4 →
        (2 ^ 49 ≤ x.toNat ∨ b = 0 ∨ 4096 < b.toNat → s.Faults (.eqMig t) 1 x)
        ∧ (x.toNat < 2 ^ 49 → 1 ≤ b.toNat → b.toNat ≤ 4096 →
            (a.toNat / 2 ^ 48 % 2 ^ 13 ≠ 0 → s.Faults (.eqMig t) 5 a)
            ∧ (a.toNat / 2 ^ 48 % 2 ^ 13 = 0 → a.toNat % 2 ^ 21 ≠ 0 → s.Faults (.eqMig t) 7 a)
            ∧ (a.toNat / 2 ^ 48 % 2 ^ 13 = 0 → a.toNat % 2 ^ 21 = 0 →
                (∃ z ∈ s.m.curTask.extents, z.access.testBit 1 = true ∧ z.va ≤ a.toNat % 2 ^ 48
                  ∧ a.toNat % 2 ^ 48 + b.toNat * 2 ^ 21 ≤ z.va + z.len) →
                s.m.curTask.tokenRoom 3 = true → y.migQ.length < 64 → s.acts (.eqMig t) = true →
                ∃ s', exec (.eqMig t) s = .next s' ∧ s.TokenIssued s' 3 15 8
                  ∧ (s'.m.die d).migQ = y.migQ ++ [⟨a.toNat % 2 ^ 48, b.toNat, x.getLsbD 48, x.setWidth 48,
                      ownerOf s.m s.m.tkey, s.nextSeq 3, s.m.curTask.launch, 0, 0, 0, 0⟩]))
        ∧ (x = 0 → s.DeliversWord (.eqMigs t) 15 4 (BitVec.ofNat 64 (y.slipLate * 2 ^ 32 + y.slipWorst)))
        ∧ (x ≠ 0 → y.migQ = [] → y.migOld = [] → s.DeliversWord (.eqMigs t) 15 4 (BitVec.ofNat 64 (2 ^ 63)))
        ∧ (∀ g, x ≠ 0 → y.migQ = [g] → x = tokenHandle 3 (g.task % 49152 / 3072) (g.task % 49152 % 3072) g.seq →
            s.DeliversWord (.eqMigs t) 15 4
              (BitVec.ofNat 64 (2 ^ 62 + min g.worst (2 ^ 24 - 1) * 2 ^ 32 + g.moved * 2 ^ 16 + g.late)))
        ∧ (∀ (w0 : Nat) (ms : List Nat) (acc : Acc) (grp : Grp), check .read 8 64 x e (s.m.began (.eqCopn t))
              = .ok acc (s.m.began (.eqCopn t)) →
            readWords x 1 e (s.m.began (.eqCopn t)) = .ok [w0] (s.m.began (.eqCopn t)) →
            readWords (addA x 8) (w0 % 2 ^ 11) e (s.m.began (.eqCopn t)) = .ok ms (s.m.began (.eqCopn t)) →
            (∀ w ∈ ms, w < 2 ^ 64) → grp = s.m.grp (d * 256 + a.toNat) → a.toNat < 2 ^ 8 → 2 ≤ w0 % 2 ^ 11 →
            w0 % 2 ^ 11 ≤ 1024 → w0 / 2 ^ 11 % 2 ^ 5 = 0 → w0 < 2 ^ 27 → w0 / 2 ^ 16 < w0 % 2 ^ 11 →
            (∀ w ∈ ms, w < 2 ^ 32 ∧ w / 2 ^ 20 % 2 ^ 4 = 0) → ms.Nodup →
            ms[w0 / 2 ^ 16]? = some (y.pkgSelf + d * 2 ^ 16 + a.toNat * 2 ^ 24) → y.pkgSelf < 2 ^ 16 → d < 16 →
            (∀ p ∈ y.hold, p.g ≠ a.toNat) →
            (grp.st = .opened → s.Faults (.eqCopn t) 1 a)
            ∧ (grp.st = .closing → s.Blocks (.eqCopn t) (.closing a.toNat) x true)
            ∧ (grp.st = .free → s.acts (.eqCopn t) = true → ∃ s', exec (.eqCopn t) s = .next s'
                ∧ s.Answered s' 15 8 (BitVec.ofNat 64 ((grp.gen + 1) % 16 * 256 + a.toNat)) ∧ s'.m.mem = s.m.mem
                ∧ s'.m.grp (d * 256 + a.toNat) = ⟨.opened, (grp.gen + 1) % 16, w0 / 2 ^ 16,
                    ms.map fun w => BitVec.ofNat 64 w, 1, [], []⟩))
        ∧ (2 ^ 12 ≤ a.toNat → s.Faults (.eqCred t) 1 a ∧ s.Faults (.eqCmc t) 1 a ∧ s.Faults (.eqCxp t) 1 a)
        ∧ (a.toNat < 2 ^ 12 → (s.m.grp (d * 256 + a.toNat % 256)).st ≠ .opened
              ∨ (s.m.grp (d * 256 + a.toNat % 256)).gen ≠ a.toNat / 256 →
            s.DeliversWord (.eqCred t) 15 8 0x8000000000000002 ∧ s.DeliversWord (.eqCmc t) 15 8 0x8000000000000002
              ∧ s.DeliversWord (.eqCxp t) 15 8 0x8000000000000002)
        ∧ (2 ^ 12 ≤ x.toNat → s.Faults (.eqCcls t) 1 x)
        ∧ ∀ grp : Grp, x.toNat < 2 ^ 12 → grp = s.m.grp (d * 256 + x.toNat % 256) →
            (grp.st ≠ .opened ∨ grp.gen ≠ x.toNat / 256 → s.DeliversWord (.eqCcls t) 15 4 0x8000000000000002)
            ∧ (grp.st = .opened → grp.gen = x.toNat / 256 → s.acts (.eqCcls t) = true →
                ∃ s', exec (.eqCcls t) s = .next s' ∧ s.Answered s' 15 4 0 ∧ s'.m.mem = s.m.mem
                  ∧ s'.m.grp (d * 256 + x.toNat % 256) = { grp with st := .closing }))

/-! ### Contexts: results, waits, the watchdog, interrupts, exceptions -/

/-- R48, R49, R106, R225, R334, R349: a result whose data have come lands in its latch when it is due, not before; a cycle
in which a bundle waits on late loads counts once for each of their buffers; a bundle that has waited more than 64 cycles on late latches gives up the core; a blocked context becomes ready when what it
waits for has come about, and only then (a br.wait whose tick had not come remembers that an interrupt ended it, R129),
a gs.flgw by the reread word; and once the tick of a bounded wait's deadline has passed, what it waits for not having come
about by then, the bundle issues again and raises WAIT_TIMEOUT as the slot's turn comes, and any bounded wait blocked at then
raises it too; the wait of a task that has been pre-empted while it was blocked is judged in the same way.  (The mark of a
br.wait that an interrupt has ended is log entry 45; that the tick of the deadline counts whole is log entry 43.)
R50, R106: a bundle that blocks loses its ports, its latches and what was due; the slot that blocks keeps, for the re-issue,
the operand that it has read from a latch, as slots that blocked before it do (log entry 14). -/
def Obligations.ResultsAndWaits : Prop :=
  ∀ (s : State) (d : Fin 16) (r : Fin 192) (x : Fin 4) (ck : Nat) (c : Ctx) (k : Task),
    ck = d.val * 768 + r.val * 4 + x.val → c = s.m.ctx ck → k = s.m.task (d.val * 3072 + c.frame) →
    (∀ (q : Fin 19) (y : Res), c.res = [y] → y.latch = q.val → (y.wait = .data ∨ y.wait = .none) →
      ∃ t, exec (.latchResultLand d r x q) s = .next t
        ∧ s.CtxBecomes t ck (if y.due ≤ s.clk.cycle then
            { c with latches := c.latches.put q.val y.value, bad := c.bad.filter fun b => b != 0xC0 + q.val, res := [] }
          else { c with res := [{ y with wait := .none }] }))
    ∧ (∀ (late : List Nat) (u j : Nat) (n : Mach), s.Judged d.val r.val j (.waits late) n →
        (n.ctx j).lateSince = some u →
        ∃ t, exec (.lateLatchSwitch d r) s = .next t ∧ t.m.mem = n.mem
          ∧ (64 < s.clk.cycle - u → (t.m.ctx j).st = .late late.isEmpty ∧ (t.m.ctx j).ports = []
              ∧ (t.m.ctx j).latches = [] ∧ (t.m.ctx j).kept = (n.ctx j).kept ∧ (∀ z ∈ (t.m.ctx j).res, z.latch ∈ late) ∧ (t.m.ctx j).g = (n.ctx j).g
              ∧ (t.m.ctx j).v = (n.ctx j).v ∧ (t.m.ctx j).p = (n.ctx j).p ∧ (t.m.ctx j).pc = (n.ctx j).pc)
          ∧ (s.clk.cycle - u ≤ 64 → t.m.ctx j = n.ctx j))
    ∧ (∀ (late : List Nat) (j : Nat) (n : Mach), s.Judged d.val r.val j (.waits late) n →
        ∃ t, exec (.bundleIssue d r) s = .next t ∧ t.m.mem = n.mem ∧ (t.m.ctx j).lateSince.isSome = true
          ∧ ∀ (b : Nat) (waits : Prop),
              (waits ↔ ∃ y ∈ (n.ctx j).res, y.latch ∈ late ∧ y.due ≤ s.clk.cycle ∧ y.wait = .data ∧ b ∈ y.buf) →
              (waits → t.m.hot.get 0 (j / 768 * 512 + 256 + b) = n.hot.get 0 (j / 768 * 512 + 256 + b) + 1)
              ∧ (¬waits → t.m.hot.get 0 (j / 768 * 512 + 256 + b) = n.hot.get 0 (j / 768 * 512 + 256 + b)))
    ∧ (∀ (b : Block) (met : Prop), c.st = .blocked b →
        ((∃ h, b.wait = .token h ∧ (met ↔ ∀ y, k.token d.val c.frame h = some y → y.done.isSome = true))
          ∨ (b.wait = .lease ∧ (met ↔ k.lease = .held ∧ (s.m.arr (groupArr (d.val * 3072 + c.frame))).spill = false))
          ∨ (b.wait = .arrFull ∧ (met ↔ k.lease ≠ .held ∨ (s.m.arr (groupArr (d.val * 3072 + c.frame))).queue.length < 16))
          ∨ (∃ w, b.wait = .pop w ∧ (met ↔ (s.m.hwq (d.val * 256 + w)).st ≠ .opened ∨ (s.m.hwq (d.val * 256 + w)).items ≠ []))
          ∨ (∃ w, b.wait = .push w
              ∧ (met ↔ (s.m.hwq (d.val * 256 + w)).st ≠ .opened ∨ (s.m.hwq (d.val * 256 + w)).items.length < 256))
          ∨ (∃ q, b.wait = .ring q ∧ (met ↔ ((s.m.lq (d.val * 1024 + q)).tail - (s.m.lq (d.val * 1024 + q)).head).toNat
                < 2 ^ min (s.m.lq (d.val * 1024 + q)).lsize 12))
          ∨ (b.wait = .mig ∧ (met ↔ (s.m.die d.val).migQ.length < 64))
          ∨ (∃ g, b.wait = .closing g ∧ (met ↔ (s.m.grp (d.val * 256 + g)).st ≠ .closing))
          ∨ (∃ u, b.wait = .tick u
              ∧ (met ↔ (s.clk.tick - u).toNat < 2 ^ 47 ∨ (c.uiq ≠ [] ∧ c.csr.uien = true)))) →
        (met → ∃ t, exec (.contextReady d r x) s = .next t
          ∧ s.CtxBecomes t ck { c with st := .ready, woken := (match b.wait with
              | .tick u => decide (2 ^ 47 ≤ (s.clk.tick - u).toNat)
              | _ => false) })
        ∧ (¬met → exec (.contextReady d r x) s = .next s)
        ∧ ∀ u : BitVec 48, b.bounded = true → c.deadline = some u →
            (∀ p ∈ s.m.tasks, p.1 / 3072 = d.val → p.1 % 3072 / 16 = r.val → p.2.st ≠ .suspended) →
            (¬met → u ≠ s.clk.tick → (s.clk.tick - u).toNat < 2 ^ 47 → ∃ t, exec (.waitTimeout d r x) s = .next t
              ∧ s.CtxBecomes t ck { c with st := .ready, timedOut := some b })
            ∧ (met ∨ u = s.clk.tick ∨ 2 ^ 47 ≤ (s.clk.tick - u).toNat → exec (.waitTimeout d r x) s = .next s))
    ∧ (∀ (b : Block) (a m f z : W64) (w off N F : Nat) (sx : Nat → Int) (holds : Prop), c.st = .blocked b →
        b.wait = .flag a f m z → z.toNat < 16 → z.toNat % 8 < 6 → w = (if z.toNat < 8 then 8 else 4) →
        a.toNat / 2 ^ 58 % 8 = 1 → a.toNat / 2 ^ 22 % 2 ^ 36 = 0 → a.toNat % w = 0 →
        a.toNat % 2 ^ 22 + w ≤ c.csr.spadSize → c.csr.spadBase % 64 = 0 → c.stq = [] →
        off = c.csr.spadBase + a.toNat % 2 ^ 22 → s.m.spadClean (d.val * 192 + r.val) off = true →
        N = (ofBytes (s.m.spadBytesAt (d.val * 192 + r.val) off w) &&& m.toNat) % 2 ^ (8 * w) →
        F = f.toNat % 2 ^ (8 * w) →
        (∀ n, sx n = if 2 ^ (8 * w - 1) ≤ n then (n : Int) - 2 ^ (8 * w) else (n : Int)) →
        (z.toNat % 8 = 0 → (holds ↔ N = F)) → (z.toNat % 8 = 1 → (holds ↔ N ≠ F)) →
        (z.toNat % 8 = 2 → (holds ↔ N < F)) → (z.toNat % 8 = 3 → (holds ↔ F ≤ N)) →
        (z.toNat % 8 = 4 → (holds ↔ sx N < sx F)) → (z.toNat % 8 = 5 → (holds ↔ sx F ≤ sx N)) →
        (holds → ∃ t, exec (.flagWaitReread d r x) s = .next t ∧ s.CtxBecomes t ck { c with st := .ready })
        ∧ (¬holds → exec (.flagWaitReread d r x) s = .next s))
    ∧ (∀ (tk : Nat) (z : Task) (b : Block) (h : W64) (y : Tok) (u : BitVec 48), z = s.m.task tk → tk / 3072 = d.val →
        tk % 3072 / 16 = r.val → tk = d.val * 3072 + z.saved.frame → z.st = .suspended → z.saved.st = .blocked b → b.wait = .token h → b.bounded = true →
        z.saved.deadline = some u → z.token d.val z.saved.frame h = some y → (∀ b', c.st ≠ .blocked b') →
        (∀ p ∈ s.m.tasks, p.1 / 3072 = d.val → p.1 % 3072 / 16 = r.val → p.2.st = .suspended → p.1 = tk) →
        (y.done = none → u ≠ s.clk.tick → (s.clk.tick - u).toNat < 2 ^ 47 →
          exec (.waitTimeout d r x) s = .next
            { s with m := s.m.setTask tk { z with saved := { z.saved with st := .ready, timedOut := some b } } })
        ∧ (y.done ≠ none ∨ u = s.clk.tick ∨ 2 ^ 47 ≤ (s.clk.tick - u).toNat → exec (.waitTimeout d r x) s = .next s))
    ∧ (∀ (b : Bundle) (bl : Block) (j : Nat) (n n1 : Mach) (late : Prop), s.Judged d.val r.val j (.go b) n →
        n1 = b.slots.zipIdx.foldl (fun m p => actSlot ⟨s.boot, s.clk⟩ p m)
          (movePorts ⟨s.boot, s.clk⟩ ((beginIssue ⟨s.boot, s.clk⟩ j b n).modCtx j Ctx.unblock)) →
        n1.issue.out = .blocked bl → n1.issue.ck = j →
        (late ↔ (n.ctx j).timedOut.isSome = true
          ∨ ∃ u, (n.ctx j).deadline = some u ∧ u ≠ s.clk.tick ∧ (s.clk.tick - u).toNat < 2 ^ 47) →
        (bl.bounded = true → late → (n1.ctx j).csr.intrap = false →
          ∃ t, exec (.bundleIssue d r) s = .next t ∧ (t.m.ctx j).csr.tcause = 13 ∧ (t.m.ctx j).csr.tval = bl.operand
            ∧ (t.m.ctx j).csr.intrap = true ∧ (t.m.ctx j).csr.priv = true
            ∧ (t.m.ctx j).g = (n1.ctx j).g ∧ (t.m.ctx j).v = (n1.ctx j).v)
        ∧ (¬(bl.bounded = true ∧ late) → ∃ t, exec (.bundleIssue d r) s = .next t ∧ (t.m.ctx j).st = .blocked bl
            ∧ (t.m.ctx j).deadline = (match (n.ctx j).deadline with
                | some u => some u
                | none => if bl.bounded = true then some (s.clk.tick + (n.ctx j).csr.waitTo.setWidth 48) else none)
            ∧ (t.m.ctx j).pc = (n.ctx j).pc ∧ (t.m.ctx j).g = (n.ctx j).g ∧ (t.m.ctx j).v = (n.ctx j).v
            ∧ (t.m.ctx j).p = (n.ctx j).p ∧ (t.m.ctx j).ports = [] ∧ (t.m.ctx j).res = []
            ∧ (t.m.ctx j).latches = []
            ∧ (∀ y ∈ (t.m.ctx j).kept, y ∈ (n.ctx j).kept ∨ y.slot = bl.slot)
            ∧ ((n.ctx j).res = [] → startSnaps (n.ctx j) = none → (∀ y ∈ (n.ctx j).kept, y.slot ≠ bl.slot) → ∀ z,
                b.slots[bl.slot]? = some z →
                (t.m.ctx j).kept = (n.ctx j).kept ++ match decodeSrc (z.raw.toNat % 2 ^ 10) with
                  | some (.q l) => [⟨bl.slot, (n.ctx j).latches.get 0 l.val, decide (0xC0 + l.val ∈ (n.ctx j).bad)⟩]
                  | _ => [])))
    ∧ ∀ (p : SlotRec × Nat) (n : Mach) (b : Block), n.issue.out = .going → p.2 < 8 →
        n.issue.done.getLsbD p.2 = false → n.issue.start.timedOut = some b → b.slot = p.2 →
        enabled (n.modIssue fun i => { i with slot := p.2, raw := p.1.raw }) (slotGuard p.1.raw) = true →
        n.cur.csr.intrap = false →
        ({ m := n.modIssue fun i => { i with slot := p.2, raw := p.1.raw }, clk := s.clk, boot := s.boot } : State).Trapped
          { m := actSlot ⟨s.boot, s.clk⟩ p n, clk := s.clk, boot := s.boot } 13 b.operand p.2

/-- R121, R338: a context at user privilege whose count of bundles is about to pass a limit raises STALL_WATCHDOG before
any slot acts, with the count in tval; and a queued user interrupt that may be taken stops the context at a bundle
boundary and starts the handler at uivec on its own bank, with the oldest entry in g112 and g113.  Such a bundle never
issues: the one that would pass the limit, nor one before which an interrupt may be taken, where no transfer or return is
pending, no segment is open, no resume bundle stands and no wait has just been woken (log entry 45). -/
def Obligations.WatchdogAndInterrupts : Prop :=
  ∀ (s : State) (d : Fin 16) (r : Fin 192) (ck : Nat) (n : Mach) (v : IssueVerdict) (c : Ctx),
    s.Judged d.val r.val ck v n → c = n.ctx ck →
    (∀ b : Bundle, v = .watchdog b → c.csr.priv = false ∧ c.csr.wdLimit ≠ 0 ∧ c.csr.wdLimit.toNat < c.wdCount + 1
      ∧ (c.csr.intrap = false → ∃ t u, exec (.stallWatchdog d r) s = .next t ∧ u = t.m.ctx ck
          ∧ u.csr.tcause = 14 ∧ u.csr.tval = BitVec.ofNat 64 c.wdCount ∧ u.csr.tslot = 0 ∧ u.csr.tdone = 0
          ∧ u.csr.tbundle = c.pc ∧ u.csr.priv = true ∧ u.csr.ppriv = false ∧ u.csr.intrap = true
          ∧ u.pc = (t.m.die (ck / 768)).tvec.setWidth 64 ∧ u.ports = [] ∧ u.latches = [] ∧ u.res = [] ∧ u.wdCount = 0
          ∧ u.g = c.g ∧ u.v = c.v ∧ u.p = c.p ∧ u.i = c.i))
    ∧ (v = .interrupt → c.csr.uien = true ∧ c.csr.inui = false ∧ c.csr.priv = false ∧ c.pend = none ∧ c.seg = none
      ∧ ∃ h w rest t u, c.uiq = (h, w) :: rest ∧ exec (.userInterruptTake d r) s = .next t ∧ u = t.m.ctx ck
          ∧ u.uiq = rest ∧ u.csr.inui = true ∧ u.csr.uiepc = c.pc.setWidth 48 ∧ u.pc = c.csr.uivec.setWidth 64
          ∧ u.readG 112 = h ∧ u.readG 113 = w ∧ u.ports = [] ∧ u.latches = [] ∧ u.res = []
          ∧ u.g = c.g ∧ u.v = c.v ∧ u.p = c.p ∧ u.i = c.i ∧ u.csr.priv = false)
    ∧ (c.csr.priv = false → c.csr.wdLimit ≠ 0 → c.csr.wdLimit.toNat < c.wdCount + 1 → ∀ b, v ≠ .go b)
    ∧ (c.uiq ≠ [] → c.csr.uien = true → c.csr.inui = false → c.csr.priv = false → c.pend = none → c.retPend = 0 →
        c.seg = none → c.resume = none → c.woken = false → ∀ b, v ≠ .go b ∧ v ≠ .watchdog b)

/-- R116, R117, R119: a fault raised in a trap handler freezes the context with its registers and is recorded; a load
that reaches an absent page changes no register and waits for the page, in place or off the core; and the return from a
trap, after its delay bundle, gives back the privilege and goes on as the frame says: at its address, with its done slots
and predicates, the pending transfer with its target, the halt and the link that are still to come, and the snapshots of
the slots' sources (R110, R111).  That the settings and CSR writes of done slots take effect at the stop is log entry 50. -/
def Obligations.DoubleFaultsPagesAndReturns : Prop :=
  (∀ (s : State) (i : Instr) (u o : Nat) (t : Trig) (d : Nat), opCode i = some (u, o, t) → s.m.issue.out = .going →
      enabled s.m t.guard = true → s.m.issue.units.contains u = true → s.m.cur.csr.intrap = true →
      d = s.m.issue.ck / 768 → (s.m.die d).ev.en = false →
      ∃ s', exec i s = .next s' ∧ s'.m.cur.st = .frozen ∧ s'.m.issue.out = .stopped
        ∧ s.Recorded s'.m d 0x03 (1 * 2 ^ 8 + s.m.cur.frame * 2 ^ 64 + ((encode i).getD 0).toNat * 2 ^ 192
            + s.m.issue.addr.toNat % 2 ^ 48 * 2 ^ 256)
        ∧ s'.m.cur.g = s.m.cur.g ∧ s'.m.cur.v = s.m.cur.v ∧ s'.m.cur.p = s.m.cur.p ∧ s'.m.cur.i = s.m.cur.i
        ∧ s'.m.cur.ports = s.m.cur.ports ∧ s'.m.cur.latches = s.m.cur.latches ∧ s'.m.cur.pc = s.m.cur.pc
        ∧ s'.m.cur.csr.tcause = (applySettings s.m).cur.csr.tcause ∧ s'.m.cur.csr.tval = (applySettings s.m).cur.csr.tval
        ∧ s'.m.cur.csr.tbundle = (applySettings s.m).cur.csr.tbundle ∧ s'.m.mem = s.m.mem)
  ∧ (∀ (s : State) (u : Fin 2) (t : Trig) (X : W512) (x : W64) (y : Extent) (p : PageRec) (i : Instr) (w : Nat),
      s.Reads t.src X → x = X.setWidth 64 →
      (i, w) ∈ [(Instr.lsLdb u t, 1), (.lsLdh u t, 2), (.lsLdw u t, 4), (.lsLdd u t, 8), (.lsLdv u t, 64)] →
      x.toNat / 2 ^ 58 % 8 = 0 → x.toNat / 2 ^ 48 % 2 ^ 10 = 0 → x.toNat % w = 0 → s.m.curTask.extents = [y] →
      y.va ≤ x.toNat % 2 ^ 48 → x.toNat % 2 ^ 48 < y.va + y.len → y.access % 2 = 1 →
      y.pages = [p] → p.vpage = x.toNat % 2 ^ 48 / 2 ^ 21 → p.valid = true → p.rd = true → p.pr = false →
      s.m.issue.r < 192 → s.m.issue.x < 4 → s.m.cur.csr.intrap = false → s.m.cur.seg = none → s.acts i = true →
      ∃ s', exec i s = .next s' ∧ s'.m.issue.out = .stopped
        ∧ (s'.m.task s.m.tkey).page = some (x.toNat % 2 ^ 48 / 2 ^ 21)
        ∧ (s'.m.cur.st = .page ∧ s'.m.cur.g = s.m.cur.g
            ∧ s'.m.cur.v = s.m.cur.v ∧ s'.m.cur.p = s.m.cur.p ∧ s'.m.cur.i = s.m.cur.i
            ∧ s'.m.cur.csr.tcause = (applySettings s.m).cur.csr.tcause
            ∧ s'.m.cur.csr.tval = (applySettings s.m).cur.csr.tval ∧ s'.m.cur.csr.priv = s.m.cur.csr.priv ∧ s'.m.cur.csr.intrap = false
          ∨ s'.m.cur.st = .free ∧ (s'.m.task s.m.tkey).st = .waitPage
            ∧ (s'.m.task s.m.tkey).saved.csr.tcause = (applySettings s.m).cur.csr.tcause
            ∧ (s'.m.task s.m.tkey).saved.csr.tval = (applySettings s.m).cur.csr.tval
            ∧ (s'.m.task s.m.tkey).saved.csr.priv = s.m.cur.csr.priv))
  ∧ ∀ (s : State) (d : Fin 16) (r : Fin 192) (ck : Nat) (b : Bundle) (n n1 : Mach), s.Judged d.val r.val ck (.go b) n →
      n1 = b.slots.zipIdx.foldl (fun m p => actSlot ⟨s.boot, s.clk⟩ p m)
        (movePorts ⟨s.boot, s.clk⟩ ((beginIssue ⟨s.boot, s.clk⟩ ck b n).modCtx ck Ctx.unblock)) →
      n1.issue.out = .going → n1.issue.halt = false → (n1.ctx ck).haltPend = false → n1.issue.start.retPend = 2 →
      n1.issue.yield_ = false → n1.issue.ck = ck →
      ∃ t, exec (.bundleIssue d r) s = .next t ∧ (t.m.ctx ck).csr.priv = ((applySettings n1).ctx ck).csr.ppriv
        ∧ (t.m.ctx ck).csr.intrap = false ∧ (t.m.ctx ck).restore = true ∧ (t.m.ctx ck).hid = none
        ∧ (∃ y, (t.m.ctx ck).resume = some y ∧ ∀ (frame : Nat) (field : Nat → Nat → Nat),
            frame = frameAddr n1 (ck / 768) (n1.ctx ck).frame → frame % 128 = 0 → n1.issue.newCsr = [] →
            (n1.die (ck / 768)).trcCtl = 0 → n1.homeClean 0 (frame + 0xC00) = true →
            (∀ o, 0x1000 ≤ o → o < 0x3900 → n1.homeClean 0 (frame + o) = true) →
            (∀ o k, field o k = ofBytes ((List.range k).map fun j => n1.byteAt (frame + o + j))) →
            (t.m.ctx ck).pc = BitVec.ofNat 64 (field 0xC00 8) ∧ y.done = BitVec.ofNat 8 (field 0xC08 1)
            ∧ y.preds = BitVec.ofNat 8 (field 0xC19 1) ||| 1
            ∧ (t.m.ctx ck).pend = (if field 0xC0A 1 % 2 = 1 then some (BitVec.ofNat 64 (field 0xC10 8)) else none)
            ∧ (t.m.ctx ck).haltPend = decide (field 0xC0A 1 / 2 % 2 = 1)
            ∧ (t.m.ctx ck).link = decide (field 0xC0A 1 / 4 % 2 = 1)
            ∧ ∀ k < 8, y.snaps[k]? = some (BitVec.ofNat 512 (field (0x3700 + 64 * k) 64)))
        ∧ (t.m.ctx ck).g = (n1.ctx ck).g ∧ (t.m.ctx ck).v = (n1.ctx ck).v ∧ (t.m.ctx ck).p = (n1.ctx ck).p

/-! ### Stores, the L1 and the L2 -/

/-- R187, R189, R215, R217, R304, R306, R311: a store on its way writes its bytes at its home, and no others, and leaves
the context's queue, but not before an earlier store to the same bytes; a refused store to a peer package is noted; a
dirty L1 sector is written back to its home and is clean, a clean one is invalidated; and an L2 line that no fetch pins
leaves, writing itself back when a sector of it is dirty.
R14, R25, R217: a line read from memory into a set whose 16 ways are taken drives out one of them that no fetch pins (which
one is a free choice, log entry 12).
R225, R403: the 16 bytes of a sector that is written back count for its buffer, and are charged to its task at one link.
R371 to R376: a line decodes as it was encoded; under RAW one flipped bit of a word is corrected in data and check bits,
and two are HIGH and become the poison pattern; under a numeric legend a flipped bit of the low plane is not seen, one of
the middle plane or its parity is LOW, settled as the line then stands, and the overall parity bit is corrected. -/
def Obligations.StoresAtTheirHomes : Prop :=
  (∀ (s : State) (d : Fin 16) (r : Fin 192) (x : Fin 4) (ck : Nat) (c : Ctx), ck = d.val * 768 + r.val * 4 + x.val →
    c = s.m.ctx ck → c.fences = [] →
    (∀ (y : PStore) (core off : Nat), c.stq = [y] → y.loc = .spad core off → off < 2 ^ 22 → y.bytes ≠ [] →
        off % 128 + y.bytes.length ≤ 128 → s.m.spadClean core off = true →
        ∃ t, exec (.storeAcknowledgement d r x 0) s = .next t ∧ t.m.ctx ck = { c with stq := [] } ∧ t.m.mem = s.m.mem
          ∧ ∀ a, t.m.spad.read a = if core * 2 ^ 22 + off ≤ a ∧ a < core * 2 ^ 22 + off + y.bytes.length then
              y.bytes.getD (a - (core * 2 ^ 22 + off)) 0 else s.m.spad.read a)
    ∧ (∀ (y : PStore) (pa : Nat), c.stq = [y] → y.loc = .phys pa → y.bytes ≠ [] → pa % 128 + y.bytes.length ≤ 128 →
        s.m.homeClean y.legend pa = true →
        ∃ t, exec (.storeAcknowledgement d r x 0) s = .next t ∧ t.m.ctx ck = { c with stq := [] } ∧ t.m.spad = s.m.spad
          ∧ ∀ a, t.m.byteAt a = if pa ≤ a ∧ a < pa + y.bytes.length then y.bytes.getD (a - pa) 0 else s.m.byteAt a)
    ∧ (∀ y z : PStore, c.stq = [z, y] → z.id ≠ y.id → z.overlaps y.loc y.bytes.length = true →
        (z.acls = 0 ∨ y.acls = 0 ∨ z.acls = y.acls) → exec (.storeAcknowledgement d r x 1) s = .next s)
    ∧ (∀ (y : PStore) (pkg rh off h : Nat), c.stq = [y] → y.loc = .peer pkg rh off h →
        ∃ t, exec (.peerRefusal d r x 0) s = .next t
          ∧ s.CtxBecomes t ck { c with stq := [], refusals := c.refusals ++ [(y.id, y.gaddr)] })
    ∧ (∀ (tag : Nat) (y : Sector), (s.m.core (d.val * 192 + r.val)).sectors.find tag = some y →
        (y.dirty = false → exec (.l1SectorWriteback d r tag) s = .next s)
        ∧ (∀ pa, y.dirty = true → y.bad = false → y.par = sectorParity y.data → y.loc = .phys pa → pa % 16 = 0 → s.m.homeClean y.legend pa = true →
            ∃ t, exec (.l1SectorWriteback d r tag) s = .next t ∧ t.m.ctxs = s.m.ctxs ∧ t.m.spad = s.m.spad
              ∧ (t.m.core (d.val * 192 + r.val)).sectors.find tag = some { y with dirty := false, stores := [] }
              ∧ (∀ a, t.m.byteAt a = if pa ≤ a ∧ a < pa + 16 then y.data.extractLsb' (8 * (a - pa)) 8 else s.m.byteAt a)
              ∧ t.m.hot.get 0 (d.val * 512 + y.buf) = s.m.hot.get 0 (d.val * 512 + y.buf) + 16
              ∧ (Env.live ⟨s.boot, s.clk⟩ d.val = true → s.m.hubFail.getLsbD d.val = false → pa < 2 ^ 44 →
                  (s.m.l2.find (pa / 128)).isSome = true → (s.m.task (d.val * 3072 + y.frame)).st ≠ .free →
                  (t.m.task (d.val * 3072 + y.frame)).energy = (s.m.task (d.val * 3072 + y.frame)).energy + 16 * 12000))
        ∧ (y.dirty = true → exec (.l1CleanExpiry d r tag) s = .next s)
        ∧ (y.dirty = false → ∃ t, exec (.l1CleanExpiry d r tag) s = .next t
            ∧ (t.m.core (d.val * 192 + r.val)).sectors.find tag = none ∧ t.m = { s.m with cores := t.m.cores }
            ∧ ∀ j, j ≠ tag → (t.m.core (d.val * 192 + r.val)).sectors.find j
                = (s.m.core (d.val * 192 + r.val)).sectors.find j))
    ∧ (∀ (line : Nat) (y : L2Line), s.m.l2.find line = some y →
        (y.pins ≠ 0 → exec (.l2Eviction line) s = .next s)
        ∧ (y.pins = 0 → y.dirty = 0 → ∃ t, exec (.l2Eviction line) s = .next t ∧ t.m.l2.find line = none
            ∧ t.m = { s.m with l2 := t.m.l2 } ∧ ∀ j, j ≠ line → t.m.l2.find j = s.m.l2.find j)
        ∧ (y.pins = 0 → y.dirty ≠ 0 → (decodeCopy y.legend y.data.toNat y.chk.toNat).sev = 0 →
            ∃ t, exec (.l2Eviction line) s = .next t ∧ t.m.l2.find line = none ∧ t.m.ctxs = s.m.ctxs
              ∧ (∀ a, t.m.mem.read a = if line * 128 ≤ a ∧ a < line * 128 + 128 then
                  y.data.extractLsb' (8 * (a - line * 128)) 8 else s.m.mem.read a)
              ∧ ∀ a, t.m.byteAt a = s.m.byteAt a))
    ∧ ∀ (e : Env) (ag : Agent) (leg la : Nat) (g : Got) (n : Mach), s.m.l2.rising = true → s.m.l2.find la = none →
        (l2Ways s.m la).length = 16 → (∃ p ∈ l2Ways s.m la, p.2.pins = 0) →
        (∀ p ∈ l2Ways s.m la, (decodeCopy p.2.legend p.2.data.toNat p.2.chk.toNat).sev = 0) →
        (decodeCopy leg (memData s.m la) (memCheck s.m la)).sev = 0 → homeRead e ag leg la s.m = (g, n) →
        g.data = memData s.m la ∧ (n.l2.find la).isSome = true ∧ (l2Ways n la).length = 16
          ∧ ∃ (out : Nat) (y : L2Line), s.m.l2.find out = some y ∧ y.pins = 0 ∧ l2Slice out = l2Slice la
            ∧ l2Set out = l2Set la ∧ n.l2.find out = none ∧ (∀ j, j ≠ la → j ≠ out → n.l2.find j = s.m.l2.find j)
            ∧ ∀ a, n.mem.read a = if y.dirty ≠ 0 ∧ out * 128 ≤ a ∧ a < out * 128 + 128 then
                y.data.extractLsb' (8 * (a - out * 128)) 8 else s.m.mem.read a)
  ∧ ∀ line : Nat, line < 2 ^ 1024 →
      (∀ legend, (decodeCopy legend line (checkBits legend line)).sev = 0
        ∧ (decodeCopy legend line (checkBits legend line)).data = line
        ∧ (decodeCopy legend 0 (2 ^ 128 - 1)).sev = 3 ∧ (decodeCopy legend 0 (2 ^ 128 - 1)).known = true)
      ∧ (∀ (k : Nat) (l c : Nat) (x : Reading), k < 1152 →
          (l, c) = (if k < 1024 then (line ^^^ 2 ^ k, checkBits 0 line) else (line, checkBits 0 line ^^^ 2 ^ (k - 1024))) →
          x = decodeCopy 0 l c →
          x.sev = 1 ∧ x.data = line ∧ x.newData = line ∧ x.newChk = checkBits 0 line
          ∧ ∀ (j : Nat) (y : Reading), j < 1152 → j ≠ k →
              (if j < 1024 then j / 64 else (j - 1024) / 8) = (if k < 1024 then k / 64 else (k - 1024) / 8) →
              y = (if j < 1024 then decodeCopy 0 (l ^^^ 2 ^ j) c else decodeCopy 0 l (c ^^^ 2 ^ (j - 1024))) →
              y.sev = 3 ∧ y.known = false ∧ y.newData = 0 ∧ y.newChk = 2 ^ 128 - 1)
      ∧ ∀ (legend w h m t : Nat), (legend, w, h, m, t) ∈ [(1, 32, 9, 7, 9), (2, 16, 9, 3, 9), (3, 16, 6, 5, 7),
            (4, 8, 5, 1, 10), (5, 8, 3, 2, 8), (6, 4, 2, 1, 8), (7, 4, 3, 1, 8), (8, 1024, 1024, 0, 11),
            (9, 1024, 1024, 0, 11)] →
          (∀ (el b : Nat) (x : Reading), el < 1024 / w → b < w - h →
            x = decodeCopy legend (line ^^^ 2 ^ (w * el + b)) (checkBits legend line) →
            x.data = line ^^^ 2 ^ (w * el + b)
            ∧ (b < w - h - m → x.sev = 0)
            ∧ (w - h - m ≤ b → x.sev = 2 ∧ x.newData = x.data ∧ x.newChk = checkBits legend x.data))
          ∧ (∀ x : Reading, x = decodeCopy legend line (checkBits legend line ^^^ 2 ^ (11 * t)) →
            x.sev = 1 ∧ x.data = line ∧ x.newData = line ∧ x.newChk = checkBits legend line)
          ∧ ∀ (j : Nat) (x : Reading), j < m * (1024 / w) / 8 →
            x = decodeCopy legend line (checkBits legend line ^^^ 2 ^ (11 * t + 1 + j)) →
            x.sev = 2 ∧ x.data = line ∧ x.newData = line ∧ x.newChk = checkBits legend line

/-! ### The dispatcher -/

/-- R81, R82, R85: the host's writes of a launch queue's base, control and tail take effect while the queue has no
work; one of base or control that finds work is discarded and halts the queue with cause 5, and so does an overrun, of
an enabled queue or not (log entry 72), each with an event record (of the discarded write: log entry 20); a halted queue
goes on when en is written 0 and then 1, with skip at the record after the halted one. -/
def Obligations.LaunchQueueRegisters : Prop :=
  ∀ (s : State) (d : Fin 16) (q : Fin 1024) (v : W64) (k : Nat) (y : Lq) (busy : Prop), k = d.val * 1024 + q.val →
    Env.live ⟨s.boot, s.clk⟩ d.val = true → y = s.m.lq k →
    (busy ↔ y.en = true ∧ y.halted = false ∧ y.tail ≠ y.head) →
    (busy → (s.m.die d.val).ev.en = false → ∀ i ∈ [Instr.lqBaseWrite d q v, .lqCtlWrite d q v],
      ∃ t z, exec i s = .next t ∧ z = t.m.lq k ∧ z.halted = true ∧ z.cause = 5 ∧ z.base = y.base ∧ z.lsize = y.lsize
        ∧ z.en = y.en ∧ z.dev = y.dev ∧ z.head = y.head ∧ z.tail = y.tail
        ∧ s.Recorded t.m d.val 0x01 (5 * 2 ^ 8 + q.val * 2 ^ 64))
    ∧ (¬busy → ∃ t z, exec (.lqBaseWrite d q v) s = .next t ∧ z = t.m.lq k ∧ z.base = v.toNat % 2 ^ 48 / 2 ^ 8 * 2 ^ 8
        ∧ z.lsize = y.lsize ∧ z.en = y.en ∧ z.dev = y.dev ∧ z.head = y.head ∧ z.tail = y.tail
        ∧ z.halted = y.halted ∧ z.cause = y.cause ∧ t.m.mem = s.m.mem ∧ t.m.ctxs = s.m.ctxs)
    ∧ (∃ t z, exec (.lqTailWrite d q v) s = .next t ∧ z = t.m.lq k ∧ z.tail = v.setWidth 32 ∧ z.base = y.base
        ∧ z.lsize = y.lsize ∧ z.en = y.en ∧ z.dev = y.dev ∧ z.head = y.head
        ∧ if y.halted = false ∧ 2 ^ min y.lsize 12 < (v.setWidth 32 - y.head).toNat then
            z.halted = true ∧ z.cause = 5
          else z.halted = y.halted ∧ z.cause = y.cause)
    ∧ (¬busy → ∃ t z, exec (.lqCtlWrite d q v) s = .next t ∧ z = t.m.lq k ∧ z.base = y.base ∧ z.tail = y.tail
        ∧ z.en = v.getLsbD 0 ∧ z.lsize = v.toNat / 2 ^ 8 % 2 ^ 4 ∧ z.dev = v.getLsbD 16
        ∧ (y.halted = false → z.head = y.head
            ∧ if 2 ^ min z.lsize 12 < (y.tail - y.head).toNat then z.halted = true ∧ z.cause = 5
              else z.halted = false)
        ∧ (y.halted = true → v.getLsbD 0 = false → z.halted = true ∧ z.cause = y.cause ∧ z.head = y.head ∧ z.off = true)
        ∧ (y.halted = true → v.getLsbD 0 = true → y.off = false →
            z.halted = true ∧ z.cause = y.cause ∧ z.head = y.head ∧ z.off = false)
        ∧ (y.halted = true → v.getLsbD 0 = true → y.off = true → y.part = none →
            z.head = (if v.getLsbD 12 = true ∧ y.tail ≠ y.head then y.head + 1 else y.head)
            ∧ if 2 ^ min z.lsize 12 < (y.tail - z.head).toNat then z.halted = true ∧ z.cause = 5
              else z.halted = false ∧ z.cause = 0))

/-- R93: a launch falls one class, to at most 3, for each further multiple of its budget that its charge has reached,
and the demotions are counted. R92: a queue that has waited 21,973 ticks without a slot rises by one class, each time again (log entry 55), to at most
class 0.
R91: at a quantum's end (at the ticks that are multiples of 110: log entry 91) the slots go to the queues with work by effective class, and in a class round robin after the
last queue that held one; a queue that loses its slot loses its raise (the slots' numbers are the model's choice: log
entry 75).
R82 to R86, R92: the walker takes the record at the head of the queue whose turn it is, through the page tables: an
overrun, a page that is not mapped or not readable, a line of HIGH severity and each of the record's defects halts the
queue with its cause, the head staying (which cause has precedence among several defects is the model's choice: log entry
113), and so does a first iteration that does not translate (its causes, 6 and 7, are stated
of the walker's translation in TasksPlacedAndEnded); an absent page is waited for until pt.wake names it; another record
becomes a launch with its fields, and a nest with a bound of 0 is complete at once. -/
def Obligations.LaunchesAndSlots : Prop :=
  ∀ (s : State) (d : Fin 16) (q : Fin 1024) (k : Nat) (y : Lq) (e : Env), k = d.val * 1024 + q.val → y = s.m.lq k →
    e = ⟨s.boot, s.clk⟩ →
    (∀ (l : Nat) (z : Launch) (n : Nat), z = s.m.launch l → n = z.charge / (z.budget * 10 ^ 10) →
      (z.die = d.val → z.live = true → z.budget ≠ 0 → z.demotions < n →
        ∃ t, exec (.energyDemotion d l) s = .next t ∧ t.m = { s.m with launches := t.m.launches }
          ∧ ∀ j, t.m.launch j = if j = l then { z with demotions := n, cls := min 3 (z.cls + (n - z.demotions)) }
              else s.m.launch j)
      ∧ (z.die ≠ d.val ∨ z.live = false ∨ z.budget = 0 ∨ n ≤ z.demotions → exec (.energyDemotion d l) s = .next s))
    ∧ (∀ u, y.since = some u → y.en = true → y.halted = false → y.tail ≠ y.head → slotOf (s.m.die d.val) q.val = none →
        (21973 ≤ (s.clk.tick - u).toNat → ∃ t, exec (.queueAgeing d q) s = .next t
          ∧ t.m = { s.m with lqs := t.m.lqs }
          ∧ ∀ j, t.m.lq j = if j = k then { y with boost := min 3 (y.boost + 1), since := some s.clk.tick } else s.m.lq j)
        ∧ ((s.clk.tick - u).toNat < 21973 → exec (.queueAgeing d q) s = .next s))
    ∧ (y.since = none ∨ y.en = false ∨ y.halted = true ∨ y.tail = y.head ∨ slotOf (s.m.die d.val) q.val ≠ none →
        exec (.queueAgeing d q) s = .next s)
    ∧ (s.clk.tick.toNat % 110 ≠ 0 → exec (.quantumBoundary d) s = .next s)
    ∧ (∀ (works : Nat → Prop) (cls turn : Nat → Nat), s.clk.tick.toNat % 110 = 0 → s.m.lqs.rising = true →
        (∀ p, works p ↔ p < 1024 ∧ (s.m.lq (d.val * 1024 + p)).en = true ∧ (s.m.lq (d.val * 1024 + p)).halted = false
          ∧ (s.m.lq (d.val * 1024 + p)).tail ≠ (s.m.lq (d.val * 1024 + p)).head) →
        (∀ p, cls p = headClass e d.val p s.m - (s.m.lq (d.val * 1024 + p)).boost) → (∀ p, works p → cls p < 4) →
        (∀ c, (s.m.die d.val).lastQ.get 0 c ≤ 1024) →
        (∀ p, turn p = cls p * 1024 + (p + 1024 - (s.m.die d.val).lastQ.get 0 (cls p)) % 1024) →
        ∃ (t : State) (held : List Nat), exec (.quantumBoundary d) s = .next t
          ∧ (t.m.die d.val).slots = held.zipIdx.map (fun p => (p.2, some p.1))
          ∧ held.length ≤ 64 ∧ held.Pairwise (fun a b => turn a < turn b) ∧ (∀ p ∈ held, works p)
          ∧ (∀ p, works p → p ∉ held → held.length = 64 ∧ ∀ a ∈ held, turn a < turn p)
          ∧ (∀ c < 4, (t.m.die d.val).lastQ.get 0 c
              = ((held.filter fun p => decide (cls p = c)).getLast?.map (· + 1)).getD ((s.m.die d.val).lastQ.get 0 c))
          ∧ (∀ p, works p → t.m.lq (d.val * 1024 + p) = { s.m.lq (d.val * 1024 + p) with
              boost := if p ∉ held ∧ slotOf (s.m.die d.val) p ≠ none then 0 else (s.m.lq (d.val * 1024 + p)).boost,
              since := if p ∈ held then none else some ((s.m.lq (d.val * 1024 + p)).since.getD s.clk.tick) })
          ∧ t.m.mem = s.m.mem ∧ t.m.ctxs = s.m.ctxs ∧ t.m.tasks = s.m.tasks ∧ t.m.launches = s.m.launches)
    ∧ (y.lid ≠ none ∨ picked e d.val q.val s.m = false → exec (.launchRecordAdmit d q) s = .next s)
    ∧ ∀ (va : Nat) (halts : Nat → Mach → Prop), va = (y.base + 256 * (y.head.toNat % 2 ^ min y.lsize 12)) % 2 ^ 48 →
        (∀ c n, halts c n ↔ ∃ t z, exec (.launchRecordAdmit d q) s = .next t ∧ z = t.m.lq k ∧ z.halted = true ∧ z.cause = c
          ∧ z.head = y.head ∧ z.lid = none ∧ t.m.launches = n.launches ∧ t.m.tasks = n.tasks
          ∧ ((n.die d.val).ev.en = false → State.Recorded { s with m := n } t.m d.val 0x01 (c * 2 ^ 8 + q.val * 2 ^ 64))) →
        y.lid = none → picked e d.val q.val s.m = true →
        (2 ^ min y.lsize 12 < (y.tail - y.head).toNat → halts 5 s.m)
        ∧ ((y.tail - y.head).toNat ≤ 2 ^ min y.lsize 12 → y.page = none →
          ∀ (l : Option (Nat × Leaf)) (m1 : Mach), walk e d.val va s.m = (l, m1) →
          (l = none → halts 10 m1)
          ∧ ∀ (p : Nat) (f : Leaf), l = some (p, f) →
            (f.rd = false → halts 10 m1)
            ∧ (f.rd = true → f.pr = false → ∃ t, exec (.launchRecordAdmit d q) s = .next t
                ∧ t.m = m1.modLq k fun x => { x with page := some (va / 2 ^ 21) })
            ∧ ∀ (g1 g2 : Got) (m2 m3 : Mach) (w : List Byte), f.rd = true → f.pr = true →
              homeRead e ⟨7, d.val, noFrame⟩ f.legend ((f.pa + va % 2 ^ 21) / 128) m1 = (g1, m2) →
              homeRead e ⟨7, d.val, noFrame⟩ f.legend ((f.pa + va % 2 ^ 21) / 128 + 1) m2 = (g2, m3) →
              w = bytesOf g1.data 128 ++ bytesOf g2.data 128 →
              (g1.sev = 3 ∨ g2.sev = 3 → halts 9 m3)
              ∧ ∀ (F E kind nfoot depth count : Nat) (reserved bad unfit : Prop), g1.sev ≠ 3 → g2.sev ≠ 3 →
                F = fieldAt w 0 8 → E = fieldAt w 8 8 → kind = F % 2 ^ 4 → nfoot = F / 2 ^ 16 % 2 ^ 4 →
                depth = F / 2 ^ 20 % 2 ^ 2 → count = E / 2 ^ 48 % 2 ^ 16 →
                (reserved ↔ F / 2 ^ 6 % 2 ^ 2 ≠ 0 ∨ F / 2 ^ 30 % 2 ^ 2 ≠ 0 ∨ F / 2 ^ 57 % 2 ^ 7 ≠ 0 ∨ fieldAt w 0xF8 8 ≠ 0
                  ∨ (∃ j < 4, ¬(kind = 1 ∧ j ≤ depth)
                      ∧ (fieldAt w (0x20 + 8 * j) 8 ≠ 0 ∨ F / 2 ^ (22 + 2 * j) % 2 ^ 2 ≠ 0))
                  ∨ (∃ j < 8, j < nfoot ∧ fieldAt w (0x58 + 20 * j + 19) 1 / 2 ^ 3 ≠ 0)
                  ∨ ∃ j < 8, nfoot ≤ j ∧ fieldAt w (0x58 + 20 * j) 20 ≠ 0) →
                (bad ↔ 8 < nfoot ∨ kind ≠ 1 ∧ depth ≠ 0
                  ∨ (kind = 1 ∧ ∃ p ≤ depth, ∀ j ≤ depth, F / 2 ^ (22 + 2 * j) % 2 ^ 2 ≠ p)
                  ∨ ((kind = 2 ∨ kind = 3) ∧ (count = 0 ∨ 192 < count)) ∨ (kind < 2 ∧ count ≠ 0)
                  ∨ (kind ≠ 3 ∧ F / 2 ^ 48 % 2 ^ 8 ≠ 0) ∨ E % 2 ^ 48 % 32 ≠ 0 ∨ 2621440 < fieldAt w 0x10 4
                  ∨ ∃ j < nfoot, fieldAt w (0x58 + 20 * j + 18) 1 / 2 ^ 6 = 0 ∨ fieldAt w (0x58 + 20 * j + 6) 3 = 0
                      ∨ 47 < fieldAt w (0x58 + 20 * j + 18) 1 % 2 ^ 6) →
                (unfit ↔ ((List.range 192).filter fun r =>
                      decide (F / 2 ^ 40 % 2 ^ 8 = 0 ∨ F / 2 ^ 40 % 2 ^ 8 / 2 ^ (r / 24) % 2 = 1)).length < count
                  ∨ spadBytes (s.m.die d.val).sramL1 / 16384 < (fieldAt w 0x10 4 + 16383) / 16384) →
                (3 < kind → halts 1 m3)
                ∧ (kind ≤ 3 → F / 2 ^ 8 % 2 ^ 8 ≠ 8 → halts 2 m3)
                ∧ (kind ≤ 3 → F / 2 ^ 8 % 2 ^ 8 = 8 →
                  (reserved → halts 3 m3)
                  ∧ (¬reserved → bad → halts 4 m3)
                  ∧ (¬reserved → ¬bad → unfit → halts 8 m3)
                  ∧ ∀ (total n : Nat), ¬reserved → ¬bad → ¬unfit → y.part = none → n = s.m.nextLaunch →
                    s.m.launches.find n = none → (∀ z ∈ (s.m.die d.val).entries, z.launch ≠ n) →
                    (kind = 3 → (s.m.hwq (d.val * 256 + F / 2 ^ 48 % 2 ^ 8)).st = .free) →
                    total = (if kind = 1 then ((List.range (depth + 1)).map fun j => fieldAt w (0x20 + 8 * j) 4).prod
                      else if kind = 3 then count else 1) →
                    (∀ c m4, 0 < total → translateNext e d.val (launchOf d.val q.val w {}) m3 = (.inl c, m4) → halts c m4)
                    ∧ (0 < total → (∀ c, (translateNext e d.val (launchOf d.val q.val w {}) m3).1 ≠ .inl c) →
                      ∃ t z, exec (.launchRecordAdmit d q) s = .next t ∧ z = t.m.launch n
                      ∧ (t.m.lq k).lid = some n ∧ (t.m.lq k).head = y.head ∧ (t.m.lq k).halted = false
                      ∧ t.m.nextLaunch = n + 1 ∧ z.live = true ∧ z.die = d.val ∧ z.queue = q.val
                      ∧ z.kind = kind ∧ z.cls = F / 2 ^ 4 % 2 ^ 2 ∧ z.domain = F / 2 ^ 32 % 2 ^ 8
                      ∧ z.affinity = F / 2 ^ 40 % 2 ^ 8 ∧ z.hwq = F / 2 ^ 48 % 2 ^ 8 ∧ z.evt = decide (F / 2 ^ 56 % 2 = 1)
                      ∧ z.entry = E % 2 ^ 48 ∧ z.count = count ∧ z.spad = fieldAt w 0x10 4 ∧ z.budget = fieldAt w 0x14 4
                      ∧ z.token = fieldAt w 0x18 8
                      ∧ z.loops = (if kind = 1 then (List.range (depth + 1)).map fun j =>
                          (fieldAt w (0x20 + 8 * j) 4, (BitVec.ofNat 32 (fieldAt w (0x24 + 8 * j) 4)).toInt,
                            F / 2 ^ (22 + 2 * j) % 2 ^ 2) else [])
                      ∧ z.consts = (List.range 3).map (fun j => BitVec.ofNat 64 (fieldAt w (0x40 + 8 * j) 8))
                      ∧ z.foots.length = nfoot
                      ∧ (∀ j < nfoot, ∃ x, z.foots[j]? = some x ∧ x.base = fieldAt w (0x58 + 20 * j) 6
                          ∧ x.extent = fieldAt w (0x58 + 20 * j + 6) 3 ∧ x.buf = fieldAt w (0x58 + 20 * j + 9) 1
                          ∧ x.coef = (List.range 4).map (fun i =>
                              (BitVec.ofNat 16 (fieldAt w (0x58 + 20 * j + 10 + 2 * i) 2)).toInt)
                          ∧ x.cs = fieldAt w (0x58 + 20 * j + 18) 1 % 2 ^ 6
                          ∧ x.access = fieldAt w (0x58 + 20 * j + 18) 1 / 2 ^ 6
                          ∧ x.acls = fieldAt w (0x58 + 20 * j + 19) 1 % 2 ^ 3)
                      ∧ z.total = total ∧ z.next = 0 ∧ z.demotions = 0 ∧ z.charge = 0)
                    ∧ (total = 0 → ∃ t, exec (.launchRecordAdmit d q) s = .next t ∧ (t.m.lq k).lid = none
                      ∧ (t.m.lq k).head = y.head + 1 ∧ t.m.nextLaunch = n + 1
                      ∧ (fieldAt w 0x18 8 = 0 → t.m.launches.find n = none))))

/-- R84 to R87, R90: the walker translates the next iteration of an admitted launch and enters it in the tracking
table; a footprint that passes 2^48 or touches a page without an entry halts the queue at that iteration with cause 7.
R86 to R88, R109: a waiting task that no earlier entry holds, and no higher class precedes, is placed on the first
eligible core in rotation order, on its lowest free frame and context and its first free run of granules, with its
presets; a gang is placed whole, member by member on the first eligible ranks, with a fresh membership set of exactly
its members (the lowest free one: log entry 90).
R94, R118: the task that R94 picks gives way: it is suspended and the waiting task takes its context; so does one that
has run 110 ticks to a suspended task of its class or a higher one (log entry 46), the first of its core to go on (log
entry 61). R113, R118, R119: a suspended task, and one whose
page has come, goes on on the lowest free context of its core with the registers that its frame holds, and waits on when it had
blocked on a bounded wait (R334). R96, R127: once
its array reads have returned, a halted task gives back its context, frame and edges, its frame not before its lease (log
entry 74); a deferred completion word is written once its page is there, with the tick of the last halt (log entry 92). R178, R370: a core without tasks takes a split
that was written since, losing the scratchpad above 2 MiB, with every region's legend RAW. -/
def Obligations.TasksPlacedAndEnded : Prop :=
  ∀ (s : State) (d : Fin 16) (e : Env), e = ⟨s.boot, s.clk⟩ →
    (∀ (q : Fin 1024) (k : Nat) (y : Lq) (l : Launch), k = d.val * 1024 + q.val → y = s.m.lq k →
      (∀ (n slot c : Nat) (m0 m1 : Mach) (idx : List Int), l = s.m.launch n → l.kind ≠ 2 → y.lid = some n → y.wait = [] →
        walkerPick e d.val s.m = some (slot, q.val, c) → (s.m.die d.val).entries.length < 4096 →
        (∀ j ∈ (s.m.die d.val).copyQ ++ (s.m.die d.val).collQ, j.entry ≠ none) → idx.length = 5 →
        (l.kind = 0 → idx = [0, 0, 0, 0, 0]) → (l.kind = 3 → idx = [(l.next : Int), 0, 0, 0, (l.next : Int)]) →
        (l.kind = 1 → (l.loops.map (·.2.2)).Perm (List.range l.loops.length) ∧ l.loops.length ≤ 4
          ∧ (∀ (j : Nat) (x : Nat × Int × Nat), l.loops[j]? = some x → idx[j]? = some
              (((l.next / ((l.loops.filter fun z => decide (x.2.2 < z.2.2)).map (·.1)).prod % x.1 : Nat) : Int) * x.2.1))
          ∧ (∀ j, l.loops.length ≤ j → j < 4 → idx[j]? = some 0) ∧ idx[4]? = some (l.next : Int)) → l.kind < 4 →
        m0 = s.m.modDie d.val (fun x => { x with lastSlot := x.lastSlot.put c (slot + 1) }) →
        (∀ (x : Foot) (a : Nat) (lf : Option (Nat × Leaf)), l.foots = [x] → 0 < x.extent →
          (a : Int) = ((x.base : Int)
            + ((x.coef.zip idx).map fun p => p.1 * ((2 ^ x.cs : Nat) : Int) * p.2).sum) % (2 ^ 48 : Nat) →
          (2 ^ 48 < a + x.extent → (translate e d.val l.foots idx m0).1 = .inl 7)
          ∧ (a + x.extent ≤ 2 ^ 48 → (a + x.extent - 1) / 2 ^ 21 = a / 2 ^ 21 →
              walk e d.val (a / 2 ^ 21 * 2 ^ 21) m0 = (lf, m1) →
              (lf = none → translate e d.val l.foots idx m0 = (.inl 7, m1))
              ∧ ∀ p f, lf = some (p, f) → translate e d.val l.foots idx m0
                  = (.inr [{ va := a, len := x.extent, access := x.access, acls := x.acls, buf := x.buf,
                             pages := [{ vpage := a / 2 ^ 21, pa := f.pa, pr := f.pr, rd := f.rd, w := f.w,
                                         legend := f.legend, valid := true }] }], m1)))
        ∧ (∀ c', translate e d.val l.foots idx m0 = (.inl c', m1) →
          ∃ t z, exec (.taskPlacement d q) s = .next t ∧ z = t.m.lq k ∧ z.halted = true ∧ z.cause = c' ∧ z.head = y.head
            ∧ z.part = some n ∧ z.lid = none ∧ z.wait = [] ∧ t.m.launch n = l ∧ t.m.tasks = m1.tasks
            ∧ (t.m.die d.val).entries = (s.m.die d.val).entries)
        ∧ ∀ (xs : List Extent) (w new : Entry), translate e d.val l.foots idx m0 = (.inr xs, m1) →
          new = { no := (s.m.die d.val).nextEntry, dom := l.domain, gang := none, placed := false, extents := xs, launch := n,
                  iter := l.next, ranges := rangesOf xs } →
          w ∈ (s.m.die d.val).entries → w.holds new = true → (∀ z ∈ (s.m.die d.val).entries, z.no < new.no) →
          ∃ t, exec (.taskPlacement d q) s = .next t ∧ (t.m.die d.val).entries = (s.m.die d.val).entries ++ [new]
            ∧ (t.m.lq k).wait = [new.no] ∧ t.m.tasks = m1.tasks ∧ (t.m.launch n).next = l.next + 1
            ∧ (l.next + 1 < l.total → (t.m.lq k).head = y.head ∧ (t.m.lq k).lid = some n
                ∧ (t.m.launch n).admitted = false)
            ∧ (l.total ≤ l.next + 1 → (t.m.lq k).head = y.head + 1 ∧ (t.m.lq k).lid = none
                ∧ (t.m.launch n).admitted = true))
      ∧ ∀ (en : Entry) (rest : List Entry), waiting s.m d.val q.val = en :: rest →
        l = s.m.launch en.launch → (s.m.die d.val).lastRank < 192 →
        (∀ z ∈ en :: rest, ∀ w ∈ (s.m.die d.val).entries, w.holds z = false) →
        (∀ z ∈ (s.m.die d.val).entries, ∀ w ∈ (s.m.die d.val).entries, z.no = w.no → z = w) →
        (∀ p < 1024, ∀ z ∈ waiting s.m d.val p, l.cls ≤ (s.m.launch z.launch).cls) →
        (∀ (r j c g : Nat), l.kind ≠ 2 → rest = [] → s.m.Eligible d.val l r →
          (∀ x, s.m.Eligible d.val l x → s.m.turn d.val r ≤ s.m.turn d.val x) →
          (s.m.task (d.val * 3072 + 16 * r + j)).st = .free → j < 16 →
          (∀ x < j, (s.m.task (d.val * 3072 + 16 * r + x)).st ≠ .free) →
          (s.m.ctx (d.val * 768 + r * 4 + c)).st = .free → c < 4 →
          (∀ x < c, (s.m.ctx (d.val * 768 + r * 4 + x)).st ≠ .free) →
          s.m.FreeRun (d.val * 192 + r) l.need g → (∀ x < g, ¬s.m.FreeRun (d.val * 192 + r) l.need x) →
          ∃ (t : State) (i : SMap W64), exec (.taskPlacement d q) s = .next t ∧ (t.m.lq k).wait = [] ∧ t.m.mem = s.m.mem
            ∧ t.m.ctx (d.val * 768 + r * 4 + c) =
                { st := .ready, frame := 16 * r + j, pc := BitVec.ofNat 64 l.entry, lastIssue := s.clk.cycle, i := i,
                  csr := { wdLimit := (s.m.ctx (d.val * 768 + r * 4 + c)).csr.wdLimit, spadBase := g * 16384,
                           spadSize := l.need * 16384, ntrange := (s.m.lq (d.val * 1024 + l.queue)).ntr } }
            ∧ (l.kind = 0 → ∀ n < 5, i.get 0 n = 0)
            ∧ (l.kind = 1 → l.loops.length ≤ 4 → (l.loops.map (·.2.2)).Perm (List.range l.loops.length) →
                (∀ n x, l.loops[n]? = some x → i.get 0 n = BitVec.ofInt 64
                  (((en.iter / ((l.loops.filter fun z => decide (x.2.2 < z.2.2)).map (·.1)).prod % x.1 : Nat) : Int) * x.2.1))
                ∧ (∀ n, l.loops.length ≤ n → n < 4 → i.get 0 n = 0) ∧ i.get 0 4 = BitVec.ofNat 64 en.iter)
            ∧ (l.kind = 3 → i.get 0 0 = BitVec.ofNat 64 en.iter ∧ (∀ n, 0 < n → n < 4 → i.get 0 n = 0)
                ∧ i.get 0 4 = BitVec.ofNat 64 en.iter)
            ∧ (∀ n < 3, i.get 0 (5 + n) = l.consts.getD n 0)
            ∧ t.m.task (d.val * 3072 + 16 * r + j) =
                { st := .running c, launch := en.launch, member := en.iter, entry := en.no, extents := en.extents,
                  spadBase := g * 16384, granules := l.need, startTick := s.clk.tick }
            ∧ (t.m.die d.val).lastRank = r)
        ∧ (∀ (n h : Nat) (ranks : List Nat) (f c g : Nat → Nat), l.kind = 2 → n < 256 →
            (s.m.mset (d.val * 256 + n)).used = false → (∀ x < n, (s.m.mset (d.val * 256 + x)).used = true) →
            h = n + ((s.m.mset (d.val * 256 + n)).gen + 1) % 16 * 256 →
            ((∀ x ∈ l.foots, x.coef.getD 2 0 = 0) ∨ l.gset = h) → (∀ z ∈ rest, z.launch = en.launch) →
            (∀ p ∈ s.m.tasks, p.1 / 3072 = d.val → p.2.st ≠ .free → ∀ z ∈ en :: rest, p.2.entry ≠ z.no) →
            (∀ r, r ∈ ranks ↔ s.m.Eligible d.val l r) →
            ranks.Pairwise (fun a b => s.m.turn d.val a < s.m.turn d.val b) → (en :: rest).length ≤ ranks.length →
            (∀ r ∈ ranks, f r < 16 ∧ (s.m.task (d.val * 3072 + 16 * r + f r)).st = .free
              ∧ (∀ x < f r, (s.m.task (d.val * 3072 + 16 * r + x)).st ≠ .free)
              ∧ c r < 4 ∧ (s.m.ctx (d.val * 768 + r * 4 + c r)).st = .free
              ∧ (∀ x < c r, (s.m.ctx (d.val * 768 + r * 4 + x)).st ≠ .free)
              ∧ s.m.FreeRun (d.val * 192 + r) l.need (g r) ∧ ∀ x < g r, ¬s.m.FreeRun (d.val * 192 + r) l.need x) →
            ∃ t z, exec (.gangPlacement d q) s = .next t ∧ (t.m.lq k).wait = [] ∧ z = t.m.mset (d.val * 256 + n)
              ∧ z.used = true ∧ z.gang = true ∧ z.phase = 0 ∧ z.gen = ((s.m.mset (d.val * 256 + n)).gen + 1) % 16
              ∧ z.awaited = z.members ∧ t.m.mem = s.m.mem
              ∧ (∀ x, x ∈ z.members ↔ ∃ r ∈ ranks.take (en :: rest).length, x = 16 * r + f r)
              ∧ ∀ (b r : Nat) (w : Entry), (en :: rest)[b]? = some w → ranks[b]? = some r →
                t.m.task (d.val * 3072 + 16 * r + f r) =
                  { st := .running (c r), launch := w.launch, member := w.iter, entry := w.no, extents := w.extents,
                    sets := [n], spadBase := g r * 16384, granules := l.need, startTick := s.clk.tick }
                ∧ ∃ i : SMap W64, t.m.ctx (d.val * 768 + r * 4 + c r) =
                  { st := .ready, frame := 16 * r + f r, pc := BitVec.ofNat 64 l.entry, lastIssue := s.clk.cycle, i := i,
                    csr := { wdLimit := (s.m.ctx (d.val * 768 + r * 4 + c r)).csr.wdLimit, spadBase := g r * 16384,
                             spadSize := l.need * 16384, ntrange := (s.m.lq (d.val * 1024 + l.queue)).ntr } }
                  ∧ i.get 0 0 = BitVec.ofNat 64 w.iter ∧ i.get 0 1 = BitVec.ofNat 64 l.count
                  ∧ i.get 0 2 = BitVec.ofNat 64 h ∧ i.get 0 3 = 0 ∧ i.get 0 4 = BitVec.ofNat 64 w.iter
                  ∧ ∀ b < 3, i.get 0 (5 + b) = l.consts.getD b 0)
        ∧ ∀ (r : Fin 192) (x : Fin 4) (ck tk : Nat), ck = d.val * 768 + r.val * 4 + x.val →
            tk = d.val * 3072 + (s.m.ctx ck).frame → (s.m.ctx ck).frame / 16 = r.val → (s.m.task tk).st = .running x.val →
            l.kind ≠ 2 → rest = [] → (∀ p < 1024, p ≠ q.val → waiting s.m d.val p = []) →
            (∀ i, ¬s.m.Eligible d.val l i) → s.m.GivesWay d.val l r.val x.val →
            ∃ t j, exec (.preemption d r x) s = .next t ∧ (t.m.lq k).wait = [] ∧ (t.m.task tk).st = .suspended
              ∧ j < 16 ∧ (s.m.task (d.val * 3072 + 16 * r.val + j)).st = .free
              ∧ (t.m.task (d.val * 3072 + 16 * r.val + j)).st = .running x.val
              ∧ (t.m.task (d.val * 3072 + 16 * r.val + j)).entry = en.no
              ∧ (t.m.task (d.val * 3072 + 16 * r.val + j)).launch = en.launch
              ∧ (t.m.ctx ck).st = .ready ∧ (t.m.ctx ck).frame = 16 * r.val + j
              ∧ (t.m.ctx ck).pc = BitVec.ofNat 64 l.entry)
    ∧ (∀ (r : Fin 192) (x : Fin 4) (ck tk k : Nat) (rest : List Nat), ck = d.val * 768 + r.val * 4 + x.val →
        tk = d.val * 3072 + (s.m.ctx ck).frame → (s.m.ctx ck).preemptible = true →
        (∀ y < 4, (s.m.ctx (d.val * 768 + r.val * 4 + y)).st ≠ .free) → (coreTasks s.m (d.val * 192 + r.val)).length < 16 →
        (110 ≤ (s.clk.tick - (s.m.task tk).startTick).toNat → suspendedOn s.m d.val r.val = k :: rest → k ≠ tk →
          (s.m.launch (s.m.task k).launch).cls ≤ (s.m.launch (s.m.task tk).launch).cls →
          ∃ t, exec (.quantumPreemption d r x) s = .next t ∧ (t.m.task tk).st = .suspended
            ∧ (t.m.task k).st = .running x.val ∧ (t.m.ctx ck).frame = k % 3072
            ∧ (t.m.ctx ck).st = (match (s.m.task k).saved.st with
                | .blocked b => if b.bounded = true then .blocked b else .ready
                | _ => .ready))
        ∧ ((s.clk.tick - (s.m.task tk).startTick).toNat < 110 → exec (.quantumPreemption d r x) s = .next s)
        ∧ (suspendedOn s.m d.val r.val = [] → (∀ q < 1024, waiting s.m d.val q = []) →
            exec (.quantumPreemption d r x) s = .next s))
    ∧ (∀ (f : Fin 3072) (tk : Nat) (k : Task), tk = d.val * 3072 + f.val → k = s.m.task tk →
        (∀ x ck, x < 4 → ck = d.val * 768 + f.val / 16 * 4 + x → (s.m.ctx ck).st = .free →
          (∀ y < x, (s.m.ctx (d.val * 768 + f.val / 16 * 4 + y)).st ≠ .free) →
          (k.st = .suspended ∧ k.page = none ∨ k.st = .waitPage ∧ ∃ p, k.page = some p
            ∧ (∃ z ∈ k.extents, ∃ w ∈ z.pages, w.vpage = p)
            ∧ ∀ z ∈ k.extents, ∀ w ∈ z.pages, w.vpage = p → w.pr = true ∨ w.valid = false) →
          ∃ t, exec (.pageFaultResume d f) s = .next t ∧ (t.m.task tk).st = .running x ∧ (t.m.task tk).page = none
            ∧ (t.m.ctx ck).st = (match k.saved.st with
                | .blocked b => if b.bounded = true then .blocked b else .ready
                | _ => .ready)
            ∧ (t.m.ctx ck).frame = f.val ∧ (t.m.ctx ck).restore = true
            ∧ ∀ (frame : Nat) (field : Nat → Nat → Nat), frame = frameAddr s.m d.val f.val → frame % 128 = 0 →
                (∀ o < 0x3900, s.m.homeClean 0 (frame + o) = true) →
                (∀ o n, field o n = ofBytes ((List.range n).map fun j => s.m.byteAt (frame + o + j))) →
                (t.m.ctx ck).pc = BitVec.ofNat 64 (field 0xC00 8) ∧ (t.m.ctx ck).p = BitVec.ofNat 8 (field 0xC18 1) ||| 1
                ∧ (∀ n, 0 < n → n < 128 → (t.m.ctx ck).g.get 0 n = BitVec.ofNat 64 (field (8 * n) 8))
                ∧ (∀ n < 32, (t.m.ctx ck).v.get 0 n = BitVec.ofNat 512 (field (0x400 + 64 * n) 64))
                ∧ (∀ n < 8, (t.m.ctx ck).i.get 0 n = BitVec.ofNat 64 (field (0xC20 + 8 * n) 8)))
        ∧ (∀ p, k.st = .waitPage → k.page = some p →
            (∃ z ∈ k.extents, ∃ w ∈ z.pages, w.vpage = p ∧ w.valid = true ∧ w.pr = false) →
            exec (.pageFaultResume d f) s = .next s)
        ∧ (∀ x ck, k.st = .running x → ck = d.val * 768 + f.val / 16 * 4 + x → x < 4 → (s.m.ctx ck).st = .halted →
            (s.m.ctx ck).frame = f.val → ∀ reads : Prop,
            (reads ↔ ∃ w : Cmd, (w.op = 14 ∨ w.op = 15)
              ∧ ((s.m.arr (groupArr tk)).holder = some f.val ∧ w ∈ (s.m.arr (groupArr tk)).queue
                ∨ ∃ z, s.m.spills.find tk = some z ∧ w ∈ z.queue)) →
            (reads → exec (.taskEnd d f) s = .next s)
            ∧ (¬reads → k.lease = .none → (s.m.arr (groupArr tk)).holder ≠ some f.val →
              ∃ t, exec (.taskEnd d f) s = .next t ∧ (t.m.task tk).st = .free
                ∧ (∀ z ∈ (t.m.die d.val).entries, z.no ≠ k.entry)
                ∧ ((∀ p ∈ coreTasks s.m (d.val * 192 + f.val / 16), p.2.st ≠ .suspended) → (t.m.ctx ck).st = .free))
            ∧ (¬reads → k.lease ≠ .none ∨ (s.m.arr (groupArr tk)).holder = some f.val →
              ∃ t, exec (.taskEnd d f) s = .next t ∧ (t.m.task tk).st = .halted ∧ (t.m.task tk).entry = k.entry
                ∧ (t.m.die d.val).entries = (s.m.die d.val).entries
                ∧ ((∀ p ∈ coreTasks s.m (d.val * 192 + f.val / 16), p.2.st ≠ .suspended) → (t.m.ctx ck).st = .free)))
        ∧ (k.st = .free ∨ k.st = .suspended ∨ k.st = .waitPage → exec (.taskEnd d f) s = .next s))
    ∧ (∀ (l : Nat) (z : Launch) (u : BitVec 48) (m0 : Mach), z = s.m.launch l → z.die = d.val → z.deferred = some u →
        z.token ≠ 0 → z.evt = false → z.kind ≠ 3 → m0 = s.m.modLaunch l (fun x => { x with deferred := none }) →
        (∀ m1, putWord e d.val z.token (u.toNat * 2 ^ 16 + min z.demotions 65535) m0 = (some true, m1) →
          ∃ t, exec (.deferredCompletionWrite d l) s = .next t ∧ t.m.launches.find l = none ∧ t.m.mem = m1.mem
            ∧ ∀ o n, z.tok = some (o, n) →
                m1.Completes t.m o 6 n (BitVec.ofNat 64 (u.toNat * 2 ^ 16 + min z.demotions 65535)))
        ∧ ∀ m1, putWord e d.val z.token (u.toNat * 2 ^ 16 + min z.demotions 65535) m0 = (none, m1) →
            ∃ t, exec (.deferredCompletionWrite d l) s = .next t ∧ (t.m.launch l).deferred = some u)
    ∧ (∀ l : Nat, (s.m.launch l).die ≠ d.val ∨ (s.m.launch l).deferred = none →
        exec (.deferredCompletionWrite d l) s = .next s)
    ∧ ∀ (r : Fin 192) (core : Nat) (x : Core) (y : Die), core = d.val * 192 + r.val → x = s.m.core core →
        y = s.m.die d.val →
        (coreTasks s.m core ≠ [] ∨ x.l1 = y.sramL1 ∧ x.splitNo = y.splitNo → exec (.splitAdopt d r) s = .next s)
        ∧ (coreTasks s.m core = [] → x.l1 ≠ y.sramL1 ∨ x.splitNo ≠ y.splitNo →
            (∀ p ∈ x.sectors, p.2.dirty = false) → (∀ x < 4, (s.m.ctx (core * 4 + x)).stq = []) →
            ∃ t, exec (.splitAdopt d r) s = .next t ∧ (t.m.core core).l1 = y.sramL1 ∧ (t.m.core core).splitNo = y.splitNo
              ∧ (t.m.core core).sectors = [] ∧ (t.m.core core).regions = [] ∧ t.m.mem = s.m.mem ∧ t.m.ctxs = s.m.ctxs
              ∧ ∀ a, t.m.spad.read a
                  = if core * 2 ^ 22 + 2 ^ 21 ≤ a ∧ a < (core + 1) * 2 ^ 22 then 0 else s.m.spad.read a)

/-! ### Engines -/

/-- R355 to R358, R361 to R367, R401: of the cards of a die's engines the first accepted is admitted, in one order over
both engines (log entry 47), once it
depends on no in-flight entry but its issuer's; the copy engine writes a destination line with the pattern or with the
source's bytes, and no other byte, also in part of a line and in memory; a job whose lines are all written, those on a peer package with an acknowledgement from
there (log entry 6), completes its token with its counts, and one that the peer package refuses adds 2^62 to them; a
collective operation starts at a tick boundary in queue order (log entry 25) and sends its packet, with its generation and
digest, to the other members' identifiers (log entry 24); with its last packet an operation writes its result where its
member takes one: the reduction along the tree of ranks, the root's bytes, or the parity of all, and nothing where the
members disagree, which bit 61 of its token's value then says; an arriving packet is accepted, held,
dropped or left to wait, and its sender's others with it, by its identifier's state, generation and digest, and no
packet passes an earlier one of its sender to its die; and a closing identifier becomes free once no packet of it is on
its way or expected, one that was dropped being no longer expected.
R221, R222, R224: the oldest migration takes its next page: a page that is not mapped, or lies on its side already, is
passed over (that an unmapped page is so is the model's choice: log entry 98); another, for which the free ring gives a page and the release ring takes the old one, moves and is
counted; and the last one completes the token with the counts. -/
def Obligations.Engines : Prop :=
  (∀ (s : State) (d : Fin 16) (e : Env) (y : Die), e = ⟨s.boot, s.clk⟩ → y = s.m.die d.val →
      (∀ (g : Engine) (j : Job) (en : Entry), j ∈ y.cards g → j.admitted = false → j.entry = some en.no →
          (∀ x ∈ y.copyQ ++ y.collQ, x.entry ≠ none ∧ (x.no = j.no → x = j) ∧ (x.admitted = false → j.no ≤ x.no)) →
          y.entries.find? (fun z => z.no == en.no) = some en → en.gang = none →
          ((∀ z ∈ y.entries, z.no < en.no → z.no ≠ j.taskEntry → z.dom = en.dom → en.dom ≠ 255 →
              conflicts z.ranges en.ranges = false) →
            ∃ t, exec (.jobCardAdmit d g) s = .next t ∧ t.m = { s.m with dies := t.m.dies }
              ∧ (t.m.die d.val).cards g = (y.cards g).map (fun x => if x = j then { j with admitted := true } else x)
              ∧ ∀ g', g' ≠ g → (t.m.die d.val).cards g' = y.cards g')
          ∧ ((∃ z ∈ y.entries, z.no < en.no ∧ z.no ≠ j.taskEntry ∧ z.dom = en.dom ∧ en.dom ≠ 255
              ∧ conflicts z.ranges en.ranges = true) → exec (.jobCardAdmit d g) s = .next s))
      ∧ (∀ (k i c o c2 o2 : Nat) (j : Job), y.copyQ[k]? = some j → j.admitted = true → i ∉ j.doneLines →
          j.dst.toNat / 2 ^ 58 % 8 = 2 → j.dst.toNat / 2 ^ 30 % 2 ^ 28 = 0 → c = j.dst.toNat / 2 ^ 22 % 2 ^ 8 → c < 192 →
          o = j.dst.toNat % 2 ^ 22 → o % 128 = 0 → j.n % 128 = 0 → 128 * i < j.n →
          o + j.n ≤ spadBytes (s.m.core (d.val * 192 + c)).l1 →
          (j.op = 1 → ∃ t j2, exec (.copyExecute d k i) s = .next t ∧ t.m.mem = s.m.mem
            ∧ (t.m.die d.val).copyQ[k]? = some j2 ∧ j2.doneLines = i :: j.doneLines
            ∧ ∀ a, t.m.spad.read a = if (d.val * 192 + c) * 2 ^ 22 + o + 128 * i ≤ a
                ∧ a < (d.val * 192 + c) * 2 ^ 22 + o + 128 * i + 128 then j.pattern.extractLsb' (8 * (a % 8)) 8
              else s.m.spad.read a)
          ∧ (j.op = 0 → j.src.toNat / 2 ^ 58 % 8 = 2 → j.src.toNat / 2 ^ 30 % 2 ^ 28 = 0 →
            c2 = j.src.toNat / 2 ^ 22 % 2 ^ 8 → c2 < 192 → o2 = j.src.toNat % 2 ^ 22 → o2 % 128 = 0 →
            o2 + j.n ≤ spadBytes (s.m.core (d.val * 192 + c2)).l1 →
            s.m.spadClean (d.val * 192 + c2) (o2 + 128 * i) = true →
            ∃ t j2, exec (.copyExecute d k i) s = .next t ∧ t.m.mem = s.m.mem
              ∧ (t.m.die d.val).copyQ[k]? = some j2 ∧ j2.doneLines = i :: j.doneLines
              ∧ ∀ a, t.m.spad.read a = if (d.val * 192 + c) * 2 ^ 22 + o + 128 * i ≤ a
                  ∧ a < (d.val * 192 + c) * 2 ^ 22 + o + 128 * i + 128 then
                    s.m.spad.read ((d.val * 192 + c2) * 2 ^ 22 + o2 + (a - ((d.val * 192 + c) * 2 ^ 22 + o)))
                  else s.m.spad.read a))
      ∧ (∀ (k i lo hi : Nat) (j : Job) (acc : Acc) (m1 : Mach), y.copyQ[k]? = some j → j.admitted = true → i ∉ j.doneLines →
          lo = 128 * i - j.dst.toNat % 128 → hi = min j.n (128 * (i + 1) - j.dst.toNat % 128) → lo < hi →
          checkAcc e (jobWho s.m d.val j) .write 1 1 (addA j.dst (BitVec.ofNat 64 lo)) s.m = (.ok acc, m1) →
          (j.op = 1 → m1.lineClean acc (hi - lo) = true → ∃ t, exec (.copyExecute d k i) s = .next t
            ∧ m1.LineCopied t.m d.val k i j acc
                ((List.range (hi - lo)).map fun b => j.pattern.extractLsb' (8 * ((lo + b) % 8)) 8))
          ∧ ∀ (src : Acc) (m2 : Mach), j.op = 0 → (j.src.toNat % 128 + lo) / 128 = (j.src.toNat % 128 + hi - 1) / 128 →
              checkAcc e (jobWho m1 d.val j) .read 1 1 (addA j.src (BitVec.ofNat 64 lo)) m1 = (.ok src, m2) →
              m2.lineClean src (hi - lo) = true → m2.lineClean acc (hi - lo) = true →
              (∀ pa, src.loc = .phys pa → pa % 128 = (j.src.toNat + lo) % 128) → (∀ la, (l2Ways m2 la).length < 15) →
              ∃ t, exec (.copyExecute d k i) s = .next t
                ∧ m2.LineCopied t.m d.val k i j acc (m2.bytesAt src.loc (hi - lo)))
      ∧ (∀ (k : Nat) (j : Job) (v : W64) (sent acked : Prop), y.copyQ[k]? = some j → j.admitted = true →
          0 < (s.m.launch j.launch).running →
          v = BitVec.ofNat 64 (min j.high 65535 + min j.low 65535 * 2 ^ 16 + if j.disagree then 2 ^ 61 else 0) →
          (sent ↔ ∀ p ∈ s.m.links, ∀ f ∈ p.2.win ++ p.2.txq, f.info.tag ≠ .job j.task j.kind j.seq) →
          (acked ↔ ∀ i ∈ j.peerLines, ∃ p ∈ s.m.links, ∃ f ∈ p.2.inbox, Config.acknowledges f = some (d.val, j.no, i)) →
          ((j.dst.toNat % 128 + j.n + 127) / 128 ≤ j.doneLines.length → sent → acked →
            ∃ t, exec (.engineTokenComplete d .copy k false) s = .next t ∧ t.m.mem = s.m.mem
              ∧ (t.m.die d.val).copyQ = y.copyQ.eraseIdx k ∧ (∀ z ∈ (t.m.die d.val).entries, some z.no ≠ j.entry)
              ∧ s.m.Completes t.m j.task j.kind j.seq v)
          ∧ (j.doneLines.length < (j.dst.toNat % 128 + j.n + 127) / 128 ∨ ¬sent ∨ ¬acked →
            exec (.engineTokenComplete d .copy k false) s = .next s)
          ∧ (refusable e d.val j s.m = true →
            ∃ t, exec (.engineTokenComplete d .copy k true) s = .next t ∧ t.m.mem = s.m.mem
              ∧ (t.m.die d.val).copyQ = y.copyQ.eraseIdx k ∧ (∀ z ∈ (t.m.die d.val).entries, some z.no ≠ j.entry)
              ∧ s.m.Completes t.m j.task j.kind j.seq (v + BitVec.ofNat 64 (2 ^ 62))))
      ∧ (s.clk.cycle % 1024 ≠ 0 → exec (.collOpStart d) s = .next s)
      ∧ (∀ (j : Job) (x : Grp) (w0 w1 : W64) (c o : Nat) (p : CollPacket), s.clk.cycle % 1024 = 0 → y.collQ = [j] →
          j.started = false → j.admitted = true → j.op ≠ 3 → x = s.m.grp (d.val * 256 + j.g) → x.members = [w0, w1] →
          x.rank = 0 → x.pkts = [] → w1.toNat % 2 ^ 16 = y.pkgSelf → j.src.toNat / 2 ^ 58 % 8 = 2 →
          j.src.toNat / 2 ^ 30 % 2 ^ 28 = 0 → c = j.src.toNat / 2 ^ 22 % 2 ^ 8 → c < 192 → o = j.src.toNat % 2 ^ 22 →
          0 < j.n → o % 128 + j.n ≤ 128 → o + j.n ≤ spadBytes (s.m.core (d.val * 192 + c)).l1 →
          s.m.spadClean (d.val * 192 + c) o = true →
          p = { g := j.g, gen := j.gen, digest := Config.memberDigest [w0, w1], seq := j.opno,
                shape := [j.op, j.n, j.redop, j.fmt, j.root], rank := 0, member := w0,
                bytes := s.m.spadBytesAt (d.val * 192 + c) o j.n, high := [] } →
          ∃ t j2, exec (.collOpStart d) s = .next t ∧ (t.m.die d.val).collQ = [j2] ∧ j2.started = true
            ∧ (t.m.grp (d.val * 256 + j.g)).pkts = [p] ∧ t.m.mem = s.m.mem
            ∧ t.m.colls = s.m.colls ++ [{ src := d.val, dst := w1.toNat / 2 ^ 16 % 2 ^ 4,
                                               pkt := { p with g := w1.toNat / 2 ^ 24 % 2 ^ 8 } }])
      ∧ (∀ (k : Nat) (w : CollMsg) (p : CollPacket) (x : Grp) (turn : Prop), s.m.colls[k]? = some w → w.dst = d.val →
          p = w.pkt → x = s.m.grp (d.val * 256 + p.g) → y.collQ = [] →
          (turn ↔ (∀ i z, i < k → s.m.colls[i]? = some z → z.src ≠ w.src ∨ z.dst ≠ w.dst)
            ∧ ∀ i z, i ≠ k → s.m.colls[i]? = some z → z.waits = true → z.src ≠ w.src) →
          (¬turn → exec (.collPacketArrival (.queued k)) s = .next s)
          ∧ (turn → x.st = .opened → p.gen = x.gen → p.digest = Config.memberDigest x.members →
            ∃ t, exec (.collPacketArrival (.queued k)) s = .next t ∧ t.m.colls = s.m.colls.eraseIdx k
              ∧ (t.m.grp (d.val * 256 + p.g)).pkts = x.pkts ++ [p] ∧ t.m.dies = s.m.dies)
          ∧ (turn → x.st = .opened → (p.gen ≠ x.gen ∨ p.digest ≠ Config.memberDigest x.members) →
            ∃ t, exec (.collPacketArrival (.queued k)) s = .next t ∧ t.m.colls = s.m.colls.eraseIdx k
              ∧ (t.m.die d.val).collStale = min (y.collStale + 1) (2 ^ 32 - 1)
              ∧ t.m.grp (d.val * 256 + p.g) = { x with dropped := (p.seq, p.member) :: x.dropped })
          ∧ (turn → x.st = .free → p.gen ≠ (x.gen + 1) % 16 →
            ∃ t, exec (.collPacketArrival (.queued k)) s = .next t ∧ t.m.colls = s.m.colls.eraseIdx k
              ∧ (t.m.die d.val).collStale = min (y.collStale + 1) (2 ^ 32 - 1) ∧ t.m.grps = s.m.grps)
          ∧ (turn → x.st = .free → p.gen = (x.gen + 1) % 16 →
            ((y.hold.map fun z => 32 + z.bytes.length).sum + (32 + p.bytes.length) ≤ 65536 →
              ∃ t, exec (.collPacketArrival (.queued k)) s = .next t ∧ t.m.colls = s.m.colls.eraseIdx k
                ∧ (t.m.die d.val).hold = y.hold ++ [p] ∧ t.m.grps = s.m.grps)
            ∧ (65536 < (y.hold.map fun z => 32 + z.bytes.length).sum + (32 + p.bytes.length) →
              ∃ t, exec (.collPacketArrival (.queued k)) s = .next t
                ∧ t.m = { s.m with colls := s.m.colls.set k { w with waits := true } })))
      ∧ (∀ (w : CollMsg) (p : CollPacket) (x : Grp) (j : Job) (ps : List CollPacket) (disagrees : Prop),
          s.m.colls = [w] → w.dst = d.val → p = w.pkt → x = s.m.grp (d.val * 256 + p.g) → x.st = .opened → p.gen = x.gen →
          p.digest = Config.memberDigest x.members → y.collQ = [j] → j.g = p.g → j.gen = p.gen → j.opno = p.seq →
          j.started = true → j.written = false → ps.length = x.members.length → ps[p.rank]? = some p →
          (∀ i z, ps[i]? = some z → z.seq = p.seq ∧ z.rank = i ∧ (i ≠ p.rank → z ∈ x.pkts)) →
          (∀ z ∈ x.pkts, z.seq = p.seq → z.rank ≠ p.rank ∧ ps[z.rank]? = some z) →
          (disagrees ↔ (∃ z ∈ ps, z.shape ≠ [j.op, j.n, j.redop, j.fmt, j.root]) ∨ j.op = 3 ∧ x.members.length ≤ j.root) →
          (disagrees ∨ j.nodst = true → ∃ t j2, exec (.collPacketArrival (.queued 0)) s = .next t
            ∧ (t.m.die d.val).collQ = [j2] ∧ j2.written = true ∧ (j2.disagree = true ↔ disagrees)
            ∧ t.m.spad = s.m.spad ∧ t.m.mem = s.m.mem)
          ∧ ∀ (core off width : Nat) (el : Elem), ¬disagrees → j.nodst = false → (∀ z ∈ ps, z.high = []) →
              s.m.NamesSpad d.val j.dst j.n core off →
              (∀ a, off ≤ a → a < off + j.n → s.m.spadClean core a = true) → 0 < j.n → x.members.length ≤ 1024 →
              (∀ z ∈ ps, j.op = 3 → z.rank ≠ j.root ∨ z.bytes.length = j.n) → (∀ z ∈ ps, j.op ≠ 3 → z.bytes.length = j.n) →
              width = (if j.fmt = 0 then 4 else 2) → el = .flt (if j.fmt = 0 then .fp32 else .bf16) →
              (j.op = 2 → j.n % width = 0) →
              ∃ t j2 bs, exec (.collPacketArrival (.queued 0)) s = .next t ∧ (t.m.die d.val).collQ = [j2]
                ∧ j2.written = true ∧ j2.disagree = false ∧ t.m.mem = s.m.mem ∧ s.m.SpadWritten t.m core off bs
                ∧ bs.length = j.n
                ∧ (j.op = 2 → ∀ i < j.n / width, ofBytes ((bs.drop (width * i)).take width)
                    = splitTree (fun u v => el.round 0 0 (match j.redop with
                        | 0 => Machine.Num.add 0 (el.read u) (el.read v)
                        | 1 => Machine.Num.pick false (el.read u) (el.read v)
                        | _ => Machine.Num.pick true (el.read u) (el.read v))) 10
                      (ps.map fun z => ofBytes ((z.bytes.drop (width * i)).take width)))
                ∧ (j.op = 3 → ∀ z, ps[j.root]? = some z → bs = z.bytes)
                ∧ (j.op = 4 → ∀ i < j.n, bs.getD i 0 = (ps.map fun z => z.bytes.getD i 0).foldl (· ^^^ ·) 0))
      ∧ (∀ (k : Nat) (j : Job), y.collQ[k]? = some j → 0 < (s.m.launch j.launch).running →
          (j.written = true → ∃ t, exec (.engineTokenComplete d .coll k false) s = .next t ∧ t.m.mem = s.m.mem
            ∧ (t.m.die d.val).collQ = y.collQ.eraseIdx k ∧ (∀ z ∈ (t.m.die d.val).entries, some z.no ≠ j.entry)
            ∧ s.m.Completes t.m j.task j.kind j.seq (BitVec.ofNat 64
                (min j.high 65535 + min j.low 65535 * 2 ^ 16 + if j.disagree then 2 ^ 61 else 0)))
          ∧ (j.started = false → j.written = false → exec (.engineTokenComplete d .coll k false) s = .next s))
      ∧ ∀ (g : Fin 256) (x : Grp) (left : Prop), x = s.m.grp (d.val * 256 + g.val) →
          (left ↔ (∃ j ∈ y.collQ, j.g = g.val ∧ j.gen = x.gen
              ∧ ¬(j.started = true ∧ j.written = false ∧ (∃ p ∈ x.dropped, p.1 = j.opno)
                ∧ ∀ (i : Nat) (w : W64), x.members[i]? = some w →
                  (∃ p ∈ x.pkts, p.seq = j.opno ∧ p.rank = i) ∨ (j.opno, w) ∈ x.dropped))
            ∨ (∃ w ∈ s.m.colls, w.pkt.gen = x.gen
                ∧ (w.pkt.digest = Config.memberDigest x.members ∧ w.pkt.rank = x.rank ∨ w.dst = d.val ∧ w.pkt.g = g.val))
            ∨ ∃ p ∈ s.m.links, ∃ f ∈ p.2.win ++ p.2.txq, f.info.tag = .coll d.val g.val x.gen) →
          (x.st ≠ .closing ∨ left → exec (.collIdFree d g) s = .next s)
          ∧ (x.st = .closing → ¬left →
            ∃ t, exec (.collIdFree d g) s = .next t ∧ t.m.grp (d.val * 256 + g.val) = { gen := x.gen }
              ∧ t.m = { s.m with grps := t.m.grps }))
  ∧ (∀ (s : State) (d : Fin 16) (e : Env) (g : Mig) (va : Nat), e = ⟨s.boot, s.clk⟩ → (s.m.die d.val).migQ = [g] →
      va = g.va + 2 ^ 21 * g.next →
      (∀ (l : Option (Nat × Leaf)) (m1 : Mach), walk e d.val va s.m = (l, m1) →
          (∀ x, l = some x → (x.2.pa / 2 ^ 44 = 1 ↔ g.toHost = true)) →
          (g.next + 1 < g.n → ∃ t, exec (.migrationPage d) s = .next t ∧ t.m.mem = m1.mem
            ∧ (t.m.die d.val).migQ = [{ g with next := g.next + 1 }])
          ∧ (g.n ≤ g.next + 1 → 0 < (s.m.launch g.launch).running →
            ∃ t, exec (.migrationPage d) s = .next t ∧ t.m.mem = m1.mem ∧ (t.m.die d.val).migQ = []
              ∧ s.m.Completes t.m g.task 3 g.seq (BitVec.ofNat 64 (g.moved * 2 ^ 16 + g.late))))
      ∧ ∀ (at_ new : Nat) (l : Leaf) (m1 m2 m3 : Mach), walk e d.val va s.m = (some (at_, l), m1) →
          (l.pa / 2 ^ 44 = 1 ↔ g.toHost = false) →
          freePage e d.val (if g.toHost then (m1.die d.val).mfhost else (m1.die d.val).mfdie) m1 = (some new, m2) →
          releasePage e d.val l.pa m2 = (true, m3) → g.next + 1 < g.n →
          ∃ t g2, exec (.migrationPage d) s = .next t ∧ (t.m.die d.val).migQ = [g2] ∧ g2.next = g.next + 1
            ∧ g2.moved = g.moved + 1
            ∧ (g.toHost = true → (t.m.die d.val).mfhost.head = (m3.die d.val).mfhost.head + 1)
            ∧ (g.toHost = false → (t.m.die d.val).mfdie.head = (m3.die d.val).mfdie.head + 1)
            ∧ (t.m.die d.val).mrel.tail = (m3.die d.val).mrel.tail
            ∧ ((s.clk.tick - g.deadline).toNat = 0 ∨ 2 ^ 47 ≤ (s.clk.tick - g.deadline).toNat → g2.late = g.late))

/-! ### The host, reset, links and peer packages -/

/-- R81, R177, R178, R212, R221, R389 to R392, R398, R399: a host write of a window register sets its writable fields,
which it then reads back, those of a ring's control register and of lq.ntr among them; every write of sram.split asks
for a split; pt.wake rewrites the records of the page in every extent table and the ranges that edges are taken by, and
lets a queue that waits for the page read its record; task.rst ends the task of a frame; lk.stat takes its counts, and
a retraining brings the lit fibres' lanes into service; a port runs on the modules that trained; and a host access of
backed memory, under the legend that it names (log entry 35), reads or writes its bytes at their homes and no others; one of
an unbacked address stops (the model's own stop, log entry 99). -/
def Obligations.HostWindow : Prop :=
  ∀ (s : State) (d : Fin 16) (v : W64) (e : Env) (y : Die), e = ⟨s.boot, s.clk⟩ → y = s.m.die d.val →
    e.live d.val = true →
    (∀ p ∈ [((0x10008 : BitVec 18), (0x0000FFFFFFFFF000 : W64)), (0x10018, 0x0000FFFFFFFFF000), (0x10020, 0x1FFFF),
          (0x10028, 0xFFFFFFF000), (0x10030, 0xFFFF), (0x100A0, 0xFFFFFFFC0000), (0x100A8, 0xFFFFFFFF),
          (0x100B0, 0xFFFFFFFFFFFFFFFF), (0x10120, 0x1FFF01F3), (0x10130, 0xFFFF), (0x10138, 0xFFFFFF0000),
          (0x10148, 0x3FF), (0x10150, 0xFFFF), (0x10158, 0xFFFFFFF000), (0x10040, 0xFFFFFFFFFF00), (0x10058, 0xFFFFFFFF),
          (0x10090, 0xFFFFFFFF), (0x100C0, 0xFFFFFFFFFF00), (0x100D0, 0xFFFFFFFF), (0x100F0, 0xFFFFFFFF),
          (0x10110, 0xFFFFFFFF)],
        ∃ t, exec (.hostRegisterWrite d p.1 v) s = .next t ∧ readWindow e d.val p.1.toNat t.m = v &&& p.2
          ∧ t.m = { s.m with dies := t.m.dies } ∧ ∀ j, j ≠ d.val → t.m.die j = s.m.die j)
    ∧ (∀ p ∈ [(0x10048 : BitVec 18), 0x10068, 0x10088, 0x100C8, 0x100E8, 0x10108],
        ∃ t, exec (.hostRegisterWrite d p v) s = .next t ∧ t.m = { s.m with dies := t.m.dies }
          ∧ readWindow e d.val p.toNat t.m
            = (v &&& 0x10F01) ||| (readWindow e d.val p.toNat s.m &&& ~~~v &&& 0x1000000))
    ∧ (∀ (q : Fin 1024) (off : BitVec 18), off.toNat = 64 * q.val + 0x28 →
        ∃ t, exec (.hostRegisterWrite d off v) s = .next t ∧ t.m = { s.m with lqs := t.m.lqs }
          ∧ readWindow e d.val off.toNat t.m = v &&& 0xFFFFFFFFFF000003)
    ∧ (∃ t, exec (.hostRegisterWrite d 0x10140 v) s = .next t
        ∧ t.m.die d.val = { y with glitch := y.glitch && !v.getLsbD 2, tamper := y.tamper && !v.getLsbD 1 })
    ∧ (∀ off : BitVec 18, off.toNat % 8 ≠ 0 → exec (.hostRegisterWrite d off v) s = .next s)
    ∧ (∃ t, exec (.sramSplitWrite d v) s = .next t ∧ t.m.die d.val = { y with sramL1 := v.toNat % 4, splitNo := y.splitNo + 1 }
        ∧ t.m = { s.m with dies := t.m.dies } ∧ ∀ j, j ≠ d.val → t.m.die j = s.m.die j)
    ∧ (∀ (page at_ : Nat) (l : Leaf) (m1 : Mach), page = v.toNat / 2 ^ 21 % 2 ^ 27 → s.m.claims = [] →
        walk e d.val (page * 2 ^ 21) s.m = (some (at_, l), m1) →
        (∀ p ∈ s.m.tasks, p.1 / 3072 = d.val → p.2.page ≠ some page) →
        ∃ t, exec (.ptWake d v) s = .next t ∧ t.m.mem = m1.mem ∧ t.m.ctxs = m1.ctxs
          ∧ (∀ q : Fin 1024, (s.m.lq (d.val * 1024 + q.val)).page = some page →
              t.m.lq (d.val * 1024 + q.val) = { s.m.lq (d.val * 1024 + q.val) with page := none })
          ∧ (∀ z ∈ (t.m.die d.val).entries, (∀ j ∈ y.copyQ ++ y.collQ, j.entry ≠ some z.no) →
              z.ranges = rangesOf z.extents ∧ ∀ x ∈ z.extents, ∀ p ∈ x.pages, p.vpage = page → p.pa = l.pa)
          ∧ ∀ k, k / 3072 = d.val → (t.m.task k).extents.map (·.va) = (m1.task k).extents.map (·.va)
            ∧ ∀ x ∈ (t.m.task k).extents, ∀ p ∈ x.pages, p.vpage = page →
                p = { vpage := page, pa := l.pa, pr := l.pr, rd := l.rd, w := l.w, legend := l.legend, valid := true })
    ∧ (∀ (f tk : Nat), f = v.toNat % 2 ^ 12 → tk = d.val * 3072 + f →
        (v.getLsbD 12 = false ∨ 3072 ≤ f ∨ (s.m.task tk).st = .free →
          ∃ t, exec (.taskRst d v) s = .next t ∧ t.m.die d.val = { y with rstFrame := f }
            ∧ t.m = { s.m with dies := t.m.dies })
        ∧ (∀ x ck, v.getLsbD 12 = true → f < 3072 → (s.m.task tk).st = .running x →
          ck = d.val * 768 + f / 16 * 4 + x →
          ∃ t, exec (.taskRst d v) s = .next t ∧ (t.m.ctx ck).st = .halted ∧ (t.m.ctx ck).pend = none
            ∧ (t.m.ctx ck).res = [] ∧ (t.m.ctx ck).uiq = [])
        ∧ (v.getLsbD 12 = true → f < 3072 → (s.m.task tk).st = .suspended ∨ (s.m.task tk).st = .waitPage →
          ∃ t, exec (.taskRst d v) s = .next t ∧ (t.m.task tk).st = .halted ∧ (t.m.task tk).page = none
            ∧ t.m.ctxs = s.m.ctxs))
    ∧ (∀ (l : Fin 128) (lit : BitVec 4) (x : Link), x = { s.m.link l.val with
          crc := v.toNat / 2 ^ 48, replay := v.toNat / 2 ^ 32 % 2 ^ 16 } → e.live (l.val / 8) = true →
        (v.getLsbD 12 = true → linkGone e l.val = false → ∃ t lanes, exec (.lkStatRetrain l v lit) s = .next t
          ∧ s.LinkBecomes t l.val { x with state := 1, lanes := lanes, may := none }
          ∧ ∀ j < 16, lanes.getLsbD j = lit.getLsbD (j / 4))
        ∧ (v.getLsbD 12 = false ∨ linkGone e l.val = true →
          ∃ t, exec (.lkStatRetrain l v lit) s = .next t ∧ s.LinkBecomes t l.val x))
    ∧ (∀ (port : Fin 2) (mods : BitVec 4), e.live (8 * port.val) = true →
        ∃ t, exec (.hostPortTraining port mods) s = .next t ∧ t.m.hostPort.get 0 port.val = mods
          ∧ t.m = { s.m with hostPort := t.m.hostPort })
    ∧ ∀ (pa : Nat) (legend : Fin 10) (n : Nat) (bs : List Byte), hostReached e s.m = true →
        (backed e s.m (hostDie e pa) pa = false → exec (.hostMemoryAccess (.read pa legend n)) s = .fault .unbacked
          ∧ exec (.hostMemoryAccess (.write pa legend bs)) s = .fault .unbacked)
        ∧ (backed e s.m (hostDie e pa) pa = true → s.m.homeClean legend.val pa = true →
          (∃ t, exec (.hostMemoryAccess (.read pa legend n)) s = .next t ∧ (∀ a, t.m.byteAt a = s.m.byteAt a)
            ∧ t.m.ctxs = s.m.ctxs)
          ∧ (bs ≠ [] → pa % 128 + bs.length ≤ 128 → ∃ t, exec (.hostMemoryAccess (.write pa legend bs)) s = .next t
            ∧ t.m.ctxs = s.m.ctxs ∧ t.m.spad = s.m.spad
            ∧ ∀ a, t.m.byteAt a = if pa ≤ a ∧ a < pa + bs.length then bs.getD (a - pa) 0 else s.m.byteAt a))

/-- R8, R17, R18, R403, R405 to R407, R411: module reset leaves every register at its reset value, no task and no cycle
passed, and keeps host memory (log entry 36), package memory reading as zero (log entry 3); an image below the counter
counts for sigfail and failed (log entry 1); a C-die or an O-die is in service if its self-test passed and its image verifies under both
schemes at a version not below the counter, and both ring links of a fenced die whose ring stop failed its test are marked
as failed; the security alarm is marked and recorded by every die and, under policy 1 or 2, resets (the policies 3 to 15
record only: log entry 37); at its ticks a die writes a telemetry record and clears what it counted; and a droop samples
the cores of its domain.  That the registers for which the spec gives no reset value are zero is log entry 2. -/
def Obligations.ResetAlarmsAndSamples : Prop :=
  ∀ (s : State) (e : Env), e = ⟨s.boot, s.clk⟩ →
    (∀ b : BootResult, ∃ t, exec (.moduleReset b) s = .next t ∧ t.clk = ⟨0, 0⟩ ∧ (∀ d < 16, t.boot.active.getLsbD d
            = (b.cpass.getLsbD d && b.ecdsa.getLsbD d && b.lms.getLsbD d && b.fresh.getLsbD d))
        ∧ (∀ o < 8, t.boot.odies.getLsbD o = (b.opass.getLsbD o && b.ecdsa.getLsbD (16 + o) && b.lms.getLsbD (16 + o)
            && b.fresh.getLsbD (16 + o)))
        ∧ t.boot.failed = !(b.hpass && b.ecdsa.getLsbD 24 && b.lms.getLsbD 24 && b.fresh.getLsbD 24
            && (t.boot.active.getLsbD 0 || t.boot.active.getLsbD 8))
        ∧ (∀ n < 16, t.m.ringFail.getLsbD n = (!(t.boot.active.getLsbD n || b.ring.getLsbD n)
            || !(t.boot.active.getLsbD ((n + 1) % 16) || b.ring.getLsbD ((n + 1) % 16))))
        ∧ t.m.ctxs = [] ∧ t.m.cores = [] ∧ t.m.tasks = [] ∧ t.m.lqs = [] ∧ t.m.launches = [] ∧ t.m.routers = []
        ∧ t.m.links = [] ∧ t.m.l2 = [] ∧ t.m.spad = [] ∧ (∀ a < 2 ^ 44, t.m.mem.read a = 0)
        ∧ (∀ a, 2 ^ 44 ≤ a → t.m.mem.read a = s.m.mem.read a)
        ∧ ∀ d : Fin 16, t.m.die d.val = { frameBase := d.val * 2 ^ 40 + 0x17FA000000, policy := b.policy,
                                          erased := b.erased, 
                                          sigfail := decide (b.ecdsa &&& b.lms &&& b.fresh ≠ BitVec.allOnes 25) })
    ∧ (∀ (a : Alarm) (x : Die), x = s.m.die (e.dieList.headD 0) →
        (x.policy ≠ 1 → x.policy ≠ 2 → (∀ d ∈ e.dieList, (s.m.die d).ev.en = false) →
          ∃ t, exec (.securityAlarm a) s = .next t ∧ t.clk = s.clk ∧ t.m.ctxs = s.m.ctxs ∧ t.m.mem = s.m.mem
            ∧ ∀ d ∈ e.dieList, (a = .tamper → (t.m.die d).tamper = true ∧ s.Recorded t.m d 0x30 (1 * 2 ^ 8))
              ∧ (a = .glitch → (t.m.die d).glitch = true ∧ s.Recorded t.m d 0x30 (2 * 2 ^ 8)))
        ∧ (x.policy = 1 ∨ x.policy = 2 →
          ∃ t, exec (.securityAlarm a) s = .next t ∧ t.clk = ⟨0, 0⟩ ∧ t.m.ctxs = [] ∧ t.m.tasks = [] ∧ t.m.spad = []
            ∧ ∀ d : Fin 16, (t.m.die d.val).policy = x.policy
              ∧ (t.m.die d.val).erased = (x.erased || decide (x.policy = 2))))
    ∧ ∀ d : Fin 16, e.live d.val = true →
        (∀ (y : Die) (m0 m1 : Mach), y = s.m.die d.val → s.clk.tick.toNat % 2197 = 0 → s.clk.tick = s.clk.ticks →
          m0 = { s.m with seed := s.m.seed + 3 } → y.tel.en = true → y.tel.full = false →
          ringWriteWith event e d.val y.tel (telemetryBytes e y d.val (Config.freeWord s.m.seed)
            (Config.freeWord (s.m.seed + 1)) (Config.freeWord (s.m.seed + 2))) m0 = (true, m1) →
          ∃ t, exec (.telemetryRecord d) s = .next t ∧ t.m.mem = m1.mem
            ∧ (t.m.die d.val).tel.tail = (m1.die d.val).tel.tail + 1 ∧ (t.m.die d.val).startDelays = 0
            ∧ (t.m.die d.val).telCharge = 0)
        ∧ ∀ (dom : Fin 4) (depth : W64) (y : Die), y = s.m.die d.val →
            (y.droopTh = 0 → exec (.droop d dom depth) s = .next s)
            ∧ (y.droopTh ≠ 0 → y.ev.en = false → y.flOn.testBit 2 = false →
              ∃ t, exec (.droop d dom depth) s = .next t ∧ (t.m.die d.val).droopNo = y.droopNo + 1
                ∧ t.m.ctxs = s.m.ctxs ∧ t.m.mem = s.m.mem
                ∧ s.Recorded t.m d.val 0x31 (dom.val * 2 ^ 8 + depth.toNat * 2 ^ 64 + y.droopNo % 2 ^ 64 * 2 ^ 192)
                ∧ ∀ i < 48, ∀ c, (s.m.core (d.val * 192 + 48 * dom.val + i)).cur = some c →
                    (t.m.die d.val).window.get 0 (0x30000 + 0x200 * (y.droopNo % 64) + 8 * i)
                      = Config.droopSample (s.m.ctx (d.val * 768 + (48 * dom.val + i) * 4 + c)).pc c)

/-- R396 to R398, R402, R215: a receiver accepts a data flit whose CRC fits and which is the one expected, and acknowledges
every 64th; it discards another, and one whose CRC fits no kind, with a NAK, from which the sender sends again (for which
of the NAKs on their way it has done so is a free choice: log entry 32); an ACK
frees the flits before the one it names and acknowledges a lane map, upon which the far end sends again (log entry 30); a
NAK makes the link resend from it and the 16th in a row retrains the link
with the lanes it has (log entry 34); a lane map restripes over the surviving lanes and is acknowledged, once obeyed
only that, and its record waits until the flits sent again for it have left; lost light stops the receiver, and the link
sends a lane map and writes a record; a training of this end ends with the
lit lanes, of which one that the host did not ask for brings none back, and one of the far end lights the receive fibres
(log entry 81); a failed ring link is marked; and a peer
package's request that passes the check against its die's handle table (log entry 62) is performed at the home and
answered. -/
def Obligations.LinksAndPeers : Prop :=
  ∀ (s : State) (l : Fin 128) (e : Env) (x : Link), e = ⟨s.boot, s.clk⟩ → x = s.m.link l.val →
    linkGone e l.val = false →
    (x.state ≠ 1 → x.lit ≠ 0 →
      (∀ (flit : BitVec 256) (crc : BitVec 32) (taken dropped : Link → Link) (back : Nat → Link), x.hold = false →
        (∀ z, taken z = (if z.since < 63 then
            { z with far := (z.far + 1) % 65536, rx := (z.rx + 1) % 65536, since := z.since + 1, inbox := z.inbox ++ [flit] }
          else { z with far := (z.far + 1) % 65536, rx := (z.rx + 1) % 65536, since := 0, inbox := z.inbox ++ [flit],
                        ctl := z.ctl ++ [⟨1, (z.rx + 1) % 65536⟩] })) →
        (∀ z, dropped z = { z with backs := z.backs ++ [z.rx], ctl := z.ctl ++ [⟨2, z.rx⟩] }) →
        (∀ j, back j = (match j with
          | 0 => x
          | i + 1 => { x with far := x.backs.getD i x.far, backs := x.backs.drop (i + 1) })) →
        (flitCrc 0xFFFFFFFF flit = crc.toNat →
          ∃ t j, exec (.rhavorDataFlit l flit crc) s = .next t ∧ j ≤ x.backs.length
            ∧ s.LinkBecomes t l.val (if (back j).far = (back j).rx then taken (back j)
                else dropped { back j with far := ((back j).far + 1) % 65536 }))
        ∧ (flitCrc 0xFFFFFFFF flit ≠ crc.toNat → flitCrc 0 flit ≠ crc.toNat →
          ∃ t j b, exec (.rhavorDataFlit l flit crc) s = .next t ∧ j ≤ x.backs.length ∧ b < 2
            ∧ s.LinkBecomes t l.val
              (dropped { back j with far := ((back j).far + b) % 65536, crc := min (x.crc + 1) 65535 })))
      ∧ (x.hold = true → ∀ (flit : BitVec 256) (crc : BitVec 32), flitCrc 0 flit ≠ crc.toNat →
          ∃ t, exec (.rhavorDataFlit l flit crc) s = .next t ∧ s.LinkBecomes t l.val x)
      ∧ (∀ (n : BitVec 16) (a b : List TxFlit) (y : Link), x.win = a ++ b → x.win.length ≤ 4096 → x.old < 65536 →
          n.toNat = (x.old + a.length) % 65536 →
          y = { x with old := n.toNat, win := b, sent := x.sent - a.length, hold := false,
                       naks := if a = [] then x.naks else 0 } →
          (x.change = none → x.hold = false → ∃ t, exec (.rhavorAck l n) s = .next t ∧ s.LinkBecomes t l.val y)
          ∧ (x.change = none → x.hold = true → ∃ t j, exec (.rhavorAck l n) s = .next t ∧ j ≤ 4096
              ∧ s.LinkBecomes t l.val { y with far := (x.rx + 65536 - j) % 65536, backs := [] })
          ∧ (∀ (c : LaneChange) (left : Nat), x.change = some c → x.hold = false → left = (c.upto + 65536 - n.toNat) % 65536 →
              left ≤ 4096 →
              (left ≤ y.sent → (s.m.die (l.val / 8)).ev.en = false → ∃ t, exec (.rhavorAck l n) s = .next t
                ∧ s.LinkBecomes t l.val { y with change := none }
                ∧ s.Recorded t.m (l.val / 8) 0x20 (l.val % 8 * 2 ^ 8 + (c.old.toNat + c.new.toNat * 2 ^ 16
                    + c.count % 2 ^ 16 * 2 ^ 32) * 2 ^ 64 + c.tick.toNat * 2 ^ 192))
              ∧ (y.sent < left → ∃ t, exec (.rhavorAck l n) s = .next t ∧ s.LinkBecomes t l.val y))
          ∧ (x.nakNo ≠ n.toNat → ∃ t, exec (.rhavorNak l n) s = .next t
              ∧ s.LinkBecomes t l.val { x with nakNo := n.toNat, naks := 1, sent := min x.sent a.length })
          ∧ (x.naks < 15 → x.nakNo = n.toNat →
            ∃ t, exec (.rhavorNak l n) s = .next t ∧ s.LinkBecomes t l.val
              { x with nakNo := n.toNat, naks := x.naks + 1, sent := min x.sent a.length })
          ∧ (x.naks = 15 → x.nakNo = n.toNat → x.change = none → (s.m.die (l.val / 8)).ev.en = false →
            ∃ t, exec (.rhavorNak l n) s = .next t
              ∧ s.LinkBecomes t l.val { x with nakNo := n.toNat, naks := 0, state := 1, sent := min x.sent a.length,
                                               may := some x.lanes }
              ∧ s.Recorded t.m (l.val / 8) 0x20 (l.val % 8 * 2 ^ 8 + (x.lanes.toNat + x.lanes.toNat * 2 ^ 16
                  + (x.sent - a.length) % 2 ^ 16 * 2 ^ 32) * 2 ^ 64 + s.clk.tick.toNat * 2 ^ 192)))
      ∧ exec (.rhavorIdle l) s = .next s
      ∧ (∀ (mask new : BitVec 16) (y : Link), new = x.lanes &&& mask → new ≠ x.lanes → x.change = none → x.old < 65536 →
          x.sent ≤ 4096 →
          y = { x with lanes := new, state := if new = 0 then 0 else x.state, sent := 0, since := 0,
                       ctl := x.ctl ++ [⟨1, x.rx⟩] } →
          (new ≠ 0 → 0 < x.sent → ∃ t, exec (.rhavorLaneMap l mask) s = .next t ∧ s.LinkBecomes t l.val
            { y with change := some ⟨x.lanes, new, (x.old + x.sent) % 65536, 0, s.clk.tick⟩ })
          ∧ (new = 0 ∨ x.sent = 0 → (s.m.die (l.val / 8)).ev.en = false → ∃ t, exec (.rhavorLaneMap l mask) s = .next t
              ∧ s.LinkBecomes t l.val y
              ∧ s.Recorded t.m (l.val / 8) 0x20 (l.val % 8 * 2 ^ 8 + (x.lanes.toNat + new.toNat * 2 ^ 16) * 2 ^ 64
                  + s.clk.tick.toNat * 2 ^ 192)))
      ∧ (∀ mask : BitVec 16, x.lanes &&& mask = x.lanes → ∃ t, exec (.rhavorLaneMap l mask) s = .next t
          ∧ s.LinkBecomes t l.val { x with since := 0, ctl := x.ctl ++ [⟨1, x.rx⟩] })
      ∧ (x.since = 0 → exec (.rhavorAckTimer l) s = .next s)
      ∧ (x.since ≠ 0 → ∃ t, exec (.rhavorAckTimer l) s = .next t
          ∧ s.LinkBecomes t l.val { x with since := 0, ctl := x.ctl ++ [⟨1, x.rx⟩] })
      ∧ ∀ (q : PeerRequest) (n pa : Nat) (a : Acc) (m1 : Mach) (i : TxInfo), n = requestWidth q.op → 0 < n →
          q.off % 128 + n ≤ 128 → i = { die := l.val / 8 } →
          checkP e (l.val / 8) 0xFFFF (requestRight q.op) n
            (BitVec.ofNat 64 (3 * 2 ^ 58 + q.rh % 2 ^ 16 * 2 ^ 32 + q.off % 2 ^ 32)) s.m = (.ok a, m1) →
          a.loc = .phys pa → pa % 128 + n ≤ 128 → m1.homeClean a.legend pa = true →
          ∃ t h, exec (.peerPackageRequest l q) s = .next t ∧ (t.m.link l.val).win = (m1.link l.val).win
            ∧ (∀ k, q.op = .read k → (t.m.link l.val).txq = (m1.link l.val).txq
                    ++ ⟨h, true, i⟩ :: (payload ((List.range k).map fun j => m1.byteAt (pa + j))).map (TxFlit.mk · false i)
                ∧ ∀ j, t.m.byteAt j = m1.byteAt j)
            ∧ (∀ bs, q.op = .write bs → (t.m.link l.val).txq = (m1.link l.val).txq ++ [⟨h, true, i⟩]
                ∧ ∀ j, t.m.byteAt j = if pa ≤ j ∧ j < pa + n then bs.getD (j - pa) 0 else m1.byteAt j))
    ∧ (∀ fibre : Fin 4, x.lit.getLsbD fibre.val = true → (s.m.die (l.val / 8)).ev.en = false →
        (s.m.die (l.val / 8)).flOn.testBit 3 = false →
        ∃ (t : State) (lit : BitVec 4) (lanes before : BitVec 16), exec (.lossOfLight l fibre) s = .next t
          ∧ (∀ j < 4, lit.getLsbD j = (x.lit.getLsbD j && decide (j ≠ fibre.val)))
          ∧ (∀ j < 16, lanes.getLsbD j = lit.getLsbD (j / 4) ∧ before.getLsbD j = x.lit.getLsbD (j / 4))
          ∧ s.Recorded t.m (l.val / 8) 0x20 (l.val % 8 * 2 ^ 8 + (before.toNat + lanes.toNat * 2 ^ 16) * 2 ^ 64
              + s.clk.tick.toNat * 2 ^ 192)
          ∧ s.LinkBecomes t l.val { x with lit := lit, hold := true, ctl := x.ctl ++ [⟨4, lanes.toNat⟩] })
    ∧ (∀ tx : BitVec 4, x.state = 1 →
        ∃ t lanes j, exec (.rhavorLinkTrained l tx) s = .next t ∧ j ≤ 4096
          ∧ (∀ j < 16, lanes.getLsbD j = (tx.getLsbD (j / 4) && (x.may.getD (BitVec.allOnes 16)).getLsbD j))
          ∧ s.LinkBecomes t l.val
              { x with state := if lanes = 0 then 0 else 2, lanes := lanes, naks := 0, may := none, sent := 0,
                       far := (x.rx + 65536 - j) % 65536, backs := [] })
    ∧ (∀ rx : BitVec 4, x.state ≠ 1 → ∃ t j, exec (.rhavorLinkTrained l rx) s = .next t ∧ j ≤ 4096
        ∧ s.LinkBecomes t l.val { x with lit := rx, hold := false, far := (x.rx + 65536 - j) % 65536, backs := [] })
    ∧ ∀ n : Fin 16, (∀ d, (s.m.die d).ev.en = false) →
        (s.m.ringFail.getLsbD n.val = false →
          ∃ t, exec (.ringLinkFailure (.ring n)) s = .next t ∧ t.m.ringFail = s.m.ringFail ||| (1 <<< n.val)
            ∧ t.m.ctxs = s.m.ctxs ∧ t.m.mem = s.m.mem
            ∧ (e.live n.val = true → s.Recorded t.m n.val 0x21 (1 * 2 ^ 8))
            ∧ (e.live ((n.val + 1) % 16) = true → s.Recorded t.m ((n.val + 1) % 16) 0x21 (2 * 2 ^ 8)))
        ∧ (s.m.hubFail.getLsbD n.val = false →
          ∃ t, exec (.ringLinkFailure (.hub n)) s = .next t ∧ t.m.hubFail = s.m.hubFail ||| (1 <<< n.val)
            ∧ t.m.ctxs = s.m.ctxs ∧ t.m.mem = s.m.mem
            ∧ (e.live n.val = true → s.Recorded t.m n.val 0x21 (3 * 2 ^ 8)))
end

