-- ==== Sys2Proof/Laws/Maps.lean ====
section
/-! SUPPORT. Reading after writing a sparse map, and the canonical form of a memory: every store keeps it. -/

namespace Sys2Proof

namespace SMap

variable {α : Type} (d : α) (l : SMap α) (k n : Nat) (x : α)

@[simp] theorem get_nil : SMap.get d [] n = d := rfl

theorem get_put : SMap.get d (SMap.put l k x) n = if n = k then x else SMap.get d l n := by
  induction l with
  | nil => simp only [SMap.put, SMap.get]; grind
  | cons p r ih => obtain ⟨j, v⟩ := p; simp only [SMap.put, SMap.get]; grind [SMap.get]

@[simp] theorem get_put_same : SMap.get d (SMap.put l k x) k = x := by simp [get_put]

theorem get_put_of_ne (h : n ≠ k) : SMap.get d (SMap.put l k x) n = SMap.get d l n := by simp [get_put, h]

theorem find_put : SMap.find (SMap.put l k x) n = if n = k then some x else SMap.find l n := by
  induction l with
  | nil => simp only [SMap.put, SMap.find]; grind
  | cons p r ih => obtain ⟨j, v⟩ := p; simp only [SMap.put, SMap.find]; grind [SMap.find]

@[simp] theorem find_put_same : SMap.find (SMap.put l k x) k = some x := by simp [find_put]

theorem put_put_same (y : α) : SMap.put (SMap.put l k x) k y = SMap.put l k y := by
  induction l with
  | nil => simp [SMap.put]
  | cons p r ih =>
    obtain ⟨j, v⟩ := p
    simp only [SMap.put]
    split
    · simp [SMap.put]
    · split
      · simp [SMap.put]
      · simp only [SMap.put]
        rw [if_neg ‹_›, if_neg ‹_›, ih]

theorem get_of_lt {l : SMap α} (h : ∀ p ∈ l, n < p.1) : SMap.get d l n = d := by
  induction l with
  | nil => rfl
  | cons p r ih =>
    obtain ⟨j, v⟩ := p
    have := h (j, v) (by simp)
    simp only [SMap.get]
    rw [if_neg (by simp at this; omega), ih (fun q hq => h q (by simp [hq]))]

end SMap

namespace Memory

/-- Keys strictly rising, as a pairwise statement. -/
theorem rising_iff {α : Type} (l : SMap α) : SMap.rising l = true ↔ l.Pairwise fun a b => a.1 < b.1 := by
  induction l with
  | nil => simp [SMap.rising]
  | cons a r ih =>
    cases r with
    | nil => simp [SMap.rising]
    | cons b r =>
      simp only [SMap.rising, Bool.and_eq_true, decide_eq_true_eq, ih, List.pairwise_cons (a := a), List.mem_cons]
      constructor
      · rintro ⟨hab, hr⟩
        refine ⟨?_, hr⟩
        rintro c (rfl | hc)
        · exact hab
        · exact lt_trans hab ((List.pairwise_cons.1 hr).1 c hc)
      · rintro ⟨ha, hr⟩
        exact ⟨ha b (Or.inl rfl), hr⟩

theorem wf_iff (m : Memory) : m.wf = true ↔ m.Pairwise (fun a b => a.1 < b.1) ∧ ∀ c ∈ m, c.2 ≠ 0 := by
  simp [Memory.wf, rising_iff]

theorem mem_listed {c : Nat × Byte} {a : Nat} {bs : List Byte} (h : c ∈ Memory.listed a bs) :
    a ≤ c.1 ∧ c.1 < a + bs.length ∧ c.2 ≠ 0 := by
  induction bs generalizing a with
  | nil => simp [Memory.listed] at h
  | cons b r ih =>
    simp only [Memory.listed] at h
    split at h
    · have := ih h
      simp only [List.length_cons]
      exact ⟨by omega, by omega, this.2.2⟩
    · rcases List.mem_cons.1 h with rfl | h
      · simp; assumption
      · have := ih h
        simp only [List.length_cons]
        exact ⟨by omega, by omega, this.2.2⟩

theorem listed_pairwise (a : Nat) (bs : List Byte) : (Memory.listed a bs).Pairwise fun a b => a.1 < b.1 := by
  induction bs generalizing a with
  | nil => simp [Memory.listed]
  | cons b r ih =>
    simp only [Memory.listed]
    split
    · exact ih _
    · refine List.pairwise_cons.2 ⟨fun c hc => ?_, ih _⟩
      have := mem_listed hc
      simp only; omega

/-- A store keeps the canonical form. -/
theorem wf_store {m : Memory} (h : m.wf = true) (a : Nat) (bs : List Byte) : (m.store a bs).wf = true := by
  rw [wf_iff] at h ⊢
  obtain ⟨hp, hz⟩ := h
  refine ⟨?_, ?_⟩
  · refine List.pairwise_append.2 ⟨hp.filter _, List.pairwise_append.2 ⟨listed_pairwise _ _, hp.filter _, ?_⟩, ?_⟩
    · intro c hc e he
      have := mem_listed hc
      simp at he
      omega
    · intro c hc e he
      simp at hc he
      rcases he with he | he
      · have := mem_listed he
        omega
      · omega
  · intro c hc
    simp only [Memory.store, List.mem_append, List.mem_filter] at hc
    rcases hc with hc | hc | hc
    · exact hz c hc.1
    · exact (mem_listed hc).2.2
    · exact hz c hc.1

/-- Leaving out bytes keeps the canonical form. -/
theorem wf_filter {m : Memory} (h : m.wf = true) (f : Nat × Byte → Bool) : Memory.wf (m.filter f) = true := by
  rw [wf_iff] at h ⊢
  exact ⟨h.1.filter _, fun c hc => h.2 c (List.mem_filter.1 hc).1⟩

theorem wf_nil : Memory.wf [] = true := rfl

theorem get_append {α : Type} (d : α) (l r : SMap α) (n : Nat) (h : ∀ p ∈ l, p.1 ≠ n) :
    SMap.get d (l ++ r) n = SMap.get d r n := by
  induction l with
  | nil => rfl
  | cons p l ih =>
    obtain ⟨j, v⟩ := p
    have : j ≠ n := h (j, v) (by simp)
    simp only [List.cons_append, SMap.get]
    rw [if_neg this, ih fun q hq => h q (by simp [hq])]

theorem get_append_of_get {α : Type} (d : α) (l r : SMap α) (n : Nat) (h : ∀ p ∈ r, p.1 ≠ n) :
    SMap.get d (l ++ r) n = SMap.get d l n := by
  induction l with
  | nil =>
    rw [List.nil_append]
    induction r with
    | nil => rfl
    | cons p r ih =>
      obtain ⟨j, v⟩ := p
      have : j ≠ n := h (j, v) (by simp)
      simp only [SMap.get]
      rw [if_neg this, ih fun q hq => h q (by simp [hq])]
      rfl
  | cons p l ih =>
    obtain ⟨j, v⟩ := p
    simp only [List.cons_append, SMap.get, ih]

theorem get_filter {α : Type} (d : α) (l : SMap α) (f : Nat → Bool) (n : Nat) (h : f n = true) :
    SMap.get d (l.filter fun p => f p.1) n = SMap.get d l n := by
  induction l with
  | nil => rfl
  | cons p l ih =>
    obtain ⟨j, v⟩ := p
    by_cases hf : f j = true
    · simp only [List.filter_cons, hf, if_true, SMap.get, ih]
    · have : j ≠ n := fun e => hf (e ▸ h)
      simp only [List.filter_cons, hf, SMap.get, if_neg this]
      exact ih

theorem read_listed (a : Nat) (bs : List Byte) (n : Nat) :
    Memory.read (Memory.listed a bs) n = if a ≤ n ∧ n < a + bs.length then bs.getD (n - a) 0 else 0 := by
  induction bs generalizing a with
  | nil => simp [Memory.listed, Memory.read]
  | cons b r ih =>
    have key : Memory.read (Memory.listed a (b :: r)) n
        = if a = n then b else Memory.read (Memory.listed (a + 1) r) n := by
      simp only [Memory.listed]
      split
      · rename_i hb
        split
        · rename_i ha
          subst ha hb
          exact SMap.get_of_lt 0 a fun p hp => by have := mem_listed hp; omega
        · rfl
      · simp only [Memory.read, SMap.get]
    rw [key, ih]
    rcases Nat.lt_trichotomy n a with h | h | h
    · simp [show a ≠ n by omega, show ¬ a ≤ n by omega, show ¬ a + 1 ≤ n by omega]
    · subst h; simp
    · rw [if_neg (by omega)]
      obtain ⟨j, rfl⟩ : ∃ j, n = a + 1 + j := ⟨n - (a + 1), by omega⟩
      simp only [show a + 1 + j - a = j + 1 by omega, show a + 1 + j - (a + 1) = j by omega, List.getD_cons_succ,
        List.length_cons, show a + 1 ≤ a + 1 + j by omega, show a ≤ a + 1 + j by omega, true_and]
      congr 1
      simp only [eq_iff_iff]
      omega

/-- What a store leaves at each address: the stored bytes from `a` on, and every other byte as it was. -/
theorem read_store (m : Memory) (a : Nat) (bs : List Byte) (n : Nat) :
    Memory.read (m.store a bs) n = if a ≤ n ∧ n < a + bs.length then bs.getD (n - a) 0 else Memory.read m n := by
  have lo : ∀ p ∈ m.filter (fun c => decide (c.1 < a)), p.1 < a := by simp
  have hi : ∀ p ∈ m.filter (fun c => decide (a + bs.length ≤ c.1)), a + bs.length ≤ p.1 := by simp
  have mid : ∀ p ∈ Memory.listed a bs, a ≤ p.1 ∧ p.1 < a + bs.length :=
    fun p hp => ⟨(mem_listed hp).1, (mem_listed hp).2.1⟩
  unfold Memory.read Memory.store
  split
  · rename_i h
    rw [get_append 0 _ _ _ (fun p hp => by have := lo p hp; omega),
      get_append_of_get 0 _ _ _ (fun p hp => by have := hi p hp; omega)]
    have := read_listed a bs n
    rw [if_pos h] at this
    exact this
  · rename_i h
    by_cases hn : n < a
    · rw [get_append_of_get 0 _ _ _ ?_]
      · exact get_filter 0 m (fun k => decide (k < a)) n (by simpa using hn)
      · intro p hp
        rcases List.mem_append.1 hp with hp | hp
        · have := mid p hp; omega
        · have := hi p hp; omega
    · rw [get_append 0 _ _ _ (fun p hp => by have := lo p hp; omega),
        get_append 0 _ _ _ (fun p hp => by have := mid p hp; omega)]
      exact get_filter 0 m (fun k => decide (a + bs.length ≤ k)) n (by simp; omega)

end Memory

end Sys2Proof
end

