-- ==== Sys2Proof/Laws/State.lean ====
section
/-! SUPPORT. What each update of the machine leaves in each field: one small lemma per field and update. -/

namespace Sys2Proof.Machine

variable (m : Mach)

@[simp] theorem Mach.modIssue_agenda (f : Issue → Issue) : (m.modIssue f).agenda = m.agenda := rfl
@[simp] theorem Mach.modIssue_seed (f : Issue → Issue) : (m.modIssue f).seed = m.seed := rfl
@[simp] theorem Mach.modIssue_issue (f : Issue → Issue) : (m.modIssue f).issue = f m.issue := rfl
@[simp] theorem Mach.modIssue_mem (f : Issue → Issue) : (m.modIssue f).mem = m.mem := rfl
@[simp] theorem Mach.modIssue_memChk (f : Issue → Issue) : (m.modIssue f).memChk = m.memChk := rfl
@[simp] theorem Mach.modIssue_l2 (f : Issue → Issue) : (m.modIssue f).l2 = m.l2 := rfl
@[simp] theorem Mach.modIssue_spad (f : Issue → Issue) : (m.modIssue f).spad = m.spad := rfl
@[simp] theorem Mach.modIssue_spadChk (f : Issue → Issue) : (m.modIssue f).spadChk = m.spadChk := rfl
@[simp] theorem Mach.modIssue_ctxs (f : Issue → Issue) : (m.modIssue f).ctxs = m.ctxs := rfl
@[simp] theorem Mach.modIssue_cores (f : Issue → Issue) : (m.modIssue f).cores = m.cores := rfl
@[simp] theorem Mach.modIssue_tasks (f : Issue → Issue) : (m.modIssue f).tasks = m.tasks := rfl
@[simp] theorem Mach.modIssue_dies (f : Issue → Issue) : (m.modIssue f).dies = m.dies := rfl
@[simp] theorem Mach.modIssue_lqs (f : Issue → Issue) : (m.modIssue f).lqs = m.lqs := rfl
@[simp] theorem Mach.modIssue_launches (f : Issue → Issue) : (m.modIssue f).launches = m.launches := rfl
@[simp] theorem Mach.modIssue_nextLaunch (f : Issue → Issue) : (m.modIssue f).nextLaunch = m.nextLaunch := rfl
@[simp] theorem Mach.modIssue_hwqs (f : Issue → Issue) : (m.modIssue f).hwqs = m.hwqs := rfl
@[simp] theorem Mach.modIssue_sets (f : Issue → Issue) : (m.modIssue f).sets = m.sets := rfl
@[simp] theorem Mach.modIssue_grps (f : Issue → Issue) : (m.modIssue f).grps = m.grps := rfl
@[simp] theorem Mach.modIssue_arrs (f : Issue → Issue) : (m.modIssue f).arrs = m.arrs := rfl
@[simp] theorem Mach.modIssue_spills (f : Issue → Issue) : (m.modIssue f).spills = m.spills := rfl
@[simp] theorem Mach.modIssue_nextRead (f : Issue → Issue) : (m.modIssue f).nextRead = m.nextRead := rfl
@[simp] theorem Mach.modIssue_routers (f : Issue → Issue) : (m.modIssue f).routers = m.routers := rfl
@[simp] theorem Mach.modIssue_msgs (f : Issue → Issue) : (m.modIssue f).msgs = m.msgs := rfl
@[simp] theorem Mach.modIssue_changes (f : Issue → Issue) : (m.modIssue f).changes = m.changes := rfl
@[simp] theorem Mach.modIssue_anns (f : Issue → Issue) : (m.modIssue f).anns = m.anns := rfl
@[simp] theorem Mach.modIssue_claims (f : Issue → Issue) : (m.modIssue f).claims = m.claims := rfl
@[simp] theorem Mach.modIssue_colls (f : Issue → Issue) : (m.modIssue f).colls = m.colls := rfl
@[simp] theorem Mach.modIssue_touched (f : Issue → Issue) : (m.modIssue f).touched = m.touched := rfl
@[simp] theorem Mach.modIssue_links (f : Issue → Issue) : (m.modIssue f).links = m.links := rfl
@[simp] theorem Mach.modIssue_ringFail (f : Issue → Issue) : (m.modIssue f).ringFail = m.ringFail := rfl
@[simp] theorem Mach.modIssue_hubFail (f : Issue → Issue) : (m.modIssue f).hubFail = m.hubFail := rfl
@[simp] theorem Mach.modIssue_hot (f : Issue → Issue) : (m.modIssue f).hot = m.hot := rfl
@[simp] theorem Mach.modIssue_hostPort (f : Issue → Issue) : (m.modIssue f).hostPort = m.hostPort := rfl

@[simp] theorem Mach.setCtx_agenda (k : Nat) (c : Ctx) : (m.setCtx k c).agenda = m.agenda := rfl
@[simp] theorem Mach.setCtx_seed (k : Nat) (c : Ctx) : (m.setCtx k c).seed = m.seed := rfl
@[simp] theorem Mach.setCtx_issue (k : Nat) (c : Ctx) : (m.setCtx k c).issue = m.issue := rfl
@[simp] theorem Mach.setCtx_mem (k : Nat) (c : Ctx) : (m.setCtx k c).mem = m.mem := rfl
@[simp] theorem Mach.setCtx_memChk (k : Nat) (c : Ctx) : (m.setCtx k c).memChk = m.memChk := rfl
@[simp] theorem Mach.setCtx_l2 (k : Nat) (c : Ctx) : (m.setCtx k c).l2 = m.l2 := rfl
@[simp] theorem Mach.setCtx_spad (k : Nat) (c : Ctx) : (m.setCtx k c).spad = m.spad := rfl
@[simp] theorem Mach.setCtx_spadChk (k : Nat) (c : Ctx) : (m.setCtx k c).spadChk = m.spadChk := rfl
@[simp] theorem Mach.setCtx_ctxs (k : Nat) (c : Ctx) : (m.setCtx k c).ctxs = m.ctxs.put k c := rfl
@[simp] theorem Mach.setCtx_cores (k : Nat) (c : Ctx) : (m.setCtx k c).cores = m.cores := rfl
@[simp] theorem Mach.setCtx_tasks (k : Nat) (c : Ctx) : (m.setCtx k c).tasks = m.tasks := rfl
@[simp] theorem Mach.setCtx_dies (k : Nat) (c : Ctx) : (m.setCtx k c).dies = m.dies := rfl
@[simp] theorem Mach.setCtx_lqs (k : Nat) (c : Ctx) : (m.setCtx k c).lqs = m.lqs := rfl
@[simp] theorem Mach.setCtx_launches (k : Nat) (c : Ctx) : (m.setCtx k c).launches = m.launches := rfl
@[simp] theorem Mach.setCtx_nextLaunch (k : Nat) (c : Ctx) : (m.setCtx k c).nextLaunch = m.nextLaunch := rfl
@[simp] theorem Mach.setCtx_hwqs (k : Nat) (c : Ctx) : (m.setCtx k c).hwqs = m.hwqs := rfl
@[simp] theorem Mach.setCtx_sets (k : Nat) (c : Ctx) : (m.setCtx k c).sets = m.sets := rfl
@[simp] theorem Mach.setCtx_grps (k : Nat) (c : Ctx) : (m.setCtx k c).grps = m.grps := rfl
@[simp] theorem Mach.setCtx_arrs (k : Nat) (c : Ctx) : (m.setCtx k c).arrs = m.arrs := rfl
@[simp] theorem Mach.setCtx_spills (k : Nat) (c : Ctx) : (m.setCtx k c).spills = m.spills := rfl
@[simp] theorem Mach.setCtx_nextRead (k : Nat) (c : Ctx) : (m.setCtx k c).nextRead = m.nextRead := rfl
@[simp] theorem Mach.setCtx_routers (k : Nat) (c : Ctx) : (m.setCtx k c).routers = m.routers := rfl
@[simp] theorem Mach.setCtx_msgs (k : Nat) (c : Ctx) : (m.setCtx k c).msgs = m.msgs := rfl
@[simp] theorem Mach.setCtx_changes (k : Nat) (c : Ctx) : (m.setCtx k c).changes = m.changes := rfl
@[simp] theorem Mach.setCtx_anns (k : Nat) (c : Ctx) : (m.setCtx k c).anns = m.anns := rfl
@[simp] theorem Mach.setCtx_claims (k : Nat) (c : Ctx) : (m.setCtx k c).claims = m.claims := rfl
@[simp] theorem Mach.setCtx_colls (k : Nat) (c : Ctx) : (m.setCtx k c).colls = m.colls := rfl
@[simp] theorem Mach.setCtx_touched (k : Nat) (c : Ctx) : (m.setCtx k c).touched = m.touched := rfl
@[simp] theorem Mach.setCtx_links (k : Nat) (c : Ctx) : (m.setCtx k c).links = m.links := rfl
@[simp] theorem Mach.setCtx_ringFail (k : Nat) (c : Ctx) : (m.setCtx k c).ringFail = m.ringFail := rfl
@[simp] theorem Mach.setCtx_hubFail (k : Nat) (c : Ctx) : (m.setCtx k c).hubFail = m.hubFail := rfl
@[simp] theorem Mach.setCtx_hot (k : Nat) (c : Ctx) : (m.setCtx k c).hot = m.hot := rfl
@[simp] theorem Mach.setCtx_hostPort (k : Nat) (c : Ctx) : (m.setCtx k c).hostPort = m.hostPort := rfl

@[simp] theorem Mach.modCtx_agenda (k : Nat) (f : Ctx → Ctx) : (m.modCtx k f).agenda = m.agenda := rfl
@[simp] theorem Mach.modCtx_seed (k : Nat) (f : Ctx → Ctx) : (m.modCtx k f).seed = m.seed := rfl
@[simp] theorem Mach.modCtx_issue (k : Nat) (f : Ctx → Ctx) : (m.modCtx k f).issue = m.issue := rfl
@[simp] theorem Mach.modCtx_mem (k : Nat) (f : Ctx → Ctx) : (m.modCtx k f).mem = m.mem := rfl
@[simp] theorem Mach.modCtx_memChk (k : Nat) (f : Ctx → Ctx) : (m.modCtx k f).memChk = m.memChk := rfl
@[simp] theorem Mach.modCtx_l2 (k : Nat) (f : Ctx → Ctx) : (m.modCtx k f).l2 = m.l2 := rfl
@[simp] theorem Mach.modCtx_spad (k : Nat) (f : Ctx → Ctx) : (m.modCtx k f).spad = m.spad := rfl
@[simp] theorem Mach.modCtx_spadChk (k : Nat) (f : Ctx → Ctx) : (m.modCtx k f).spadChk = m.spadChk := rfl
@[simp] theorem Mach.modCtx_ctxs (k : Nat) (f : Ctx → Ctx) : (m.modCtx k f).ctxs = m.ctxs.put k (f (m.ctx k)) := rfl
@[simp] theorem Mach.modCtx_cores (k : Nat) (f : Ctx → Ctx) : (m.modCtx k f).cores = m.cores := rfl
@[simp] theorem Mach.modCtx_tasks (k : Nat) (f : Ctx → Ctx) : (m.modCtx k f).tasks = m.tasks := rfl
@[simp] theorem Mach.modCtx_dies (k : Nat) (f : Ctx → Ctx) : (m.modCtx k f).dies = m.dies := rfl
@[simp] theorem Mach.modCtx_lqs (k : Nat) (f : Ctx → Ctx) : (m.modCtx k f).lqs = m.lqs := rfl
@[simp] theorem Mach.modCtx_launches (k : Nat) (f : Ctx → Ctx) : (m.modCtx k f).launches = m.launches := rfl
@[simp] theorem Mach.modCtx_nextLaunch (k : Nat) (f : Ctx → Ctx) : (m.modCtx k f).nextLaunch = m.nextLaunch := rfl
@[simp] theorem Mach.modCtx_hwqs (k : Nat) (f : Ctx → Ctx) : (m.modCtx k f).hwqs = m.hwqs := rfl
@[simp] theorem Mach.modCtx_sets (k : Nat) (f : Ctx → Ctx) : (m.modCtx k f).sets = m.sets := rfl
@[simp] theorem Mach.modCtx_grps (k : Nat) (f : Ctx → Ctx) : (m.modCtx k f).grps = m.grps := rfl
@[simp] theorem Mach.modCtx_arrs (k : Nat) (f : Ctx → Ctx) : (m.modCtx k f).arrs = m.arrs := rfl
@[simp] theorem Mach.modCtx_spills (k : Nat) (f : Ctx → Ctx) : (m.modCtx k f).spills = m.spills := rfl
@[simp] theorem Mach.modCtx_nextRead (k : Nat) (f : Ctx → Ctx) : (m.modCtx k f).nextRead = m.nextRead := rfl
@[simp] theorem Mach.modCtx_routers (k : Nat) (f : Ctx → Ctx) : (m.modCtx k f).routers = m.routers := rfl
@[simp] theorem Mach.modCtx_msgs (k : Nat) (f : Ctx → Ctx) : (m.modCtx k f).msgs = m.msgs := rfl
@[simp] theorem Mach.modCtx_changes (k : Nat) (f : Ctx → Ctx) : (m.modCtx k f).changes = m.changes := rfl
@[simp] theorem Mach.modCtx_anns (k : Nat) (f : Ctx → Ctx) : (m.modCtx k f).anns = m.anns := rfl
@[simp] theorem Mach.modCtx_claims (k : Nat) (f : Ctx → Ctx) : (m.modCtx k f).claims = m.claims := rfl
@[simp] theorem Mach.modCtx_colls (k : Nat) (f : Ctx → Ctx) : (m.modCtx k f).colls = m.colls := rfl
@[simp] theorem Mach.modCtx_touched (k : Nat) (f : Ctx → Ctx) : (m.modCtx k f).touched = m.touched := rfl
@[simp] theorem Mach.modCtx_links (k : Nat) (f : Ctx → Ctx) : (m.modCtx k f).links = m.links := rfl
@[simp] theorem Mach.modCtx_ringFail (k : Nat) (f : Ctx → Ctx) : (m.modCtx k f).ringFail = m.ringFail := rfl
@[simp] theorem Mach.modCtx_hubFail (k : Nat) (f : Ctx → Ctx) : (m.modCtx k f).hubFail = m.hubFail := rfl
@[simp] theorem Mach.modCtx_hot (k : Nat) (f : Ctx → Ctx) : (m.modCtx k f).hot = m.hot := rfl
@[simp] theorem Mach.modCtx_hostPort (k : Nat) (f : Ctx → Ctx) : (m.modCtx k f).hostPort = m.hostPort := rfl

@[simp] theorem Mach.modCur_agenda (f : Ctx → Ctx) : (m.modCur f).agenda = m.agenda := rfl
@[simp] theorem Mach.modCur_seed (f : Ctx → Ctx) : (m.modCur f).seed = m.seed := rfl
@[simp] theorem Mach.modCur_issue (f : Ctx → Ctx) : (m.modCur f).issue = m.issue := rfl
@[simp] theorem Mach.modCur_mem (f : Ctx → Ctx) : (m.modCur f).mem = m.mem := rfl
@[simp] theorem Mach.modCur_memChk (f : Ctx → Ctx) : (m.modCur f).memChk = m.memChk := rfl
@[simp] theorem Mach.modCur_l2 (f : Ctx → Ctx) : (m.modCur f).l2 = m.l2 := rfl
@[simp] theorem Mach.modCur_spad (f : Ctx → Ctx) : (m.modCur f).spad = m.spad := rfl
@[simp] theorem Mach.modCur_spadChk (f : Ctx → Ctx) : (m.modCur f).spadChk = m.spadChk := rfl
@[simp] theorem Mach.modCur_ctxs (f : Ctx → Ctx) : (m.modCur f).ctxs = m.ctxs.put m.issue.ck (f m.cur) := rfl
@[simp] theorem Mach.modCur_cores (f : Ctx → Ctx) : (m.modCur f).cores = m.cores := rfl
@[simp] theorem Mach.modCur_tasks (f : Ctx → Ctx) : (m.modCur f).tasks = m.tasks := rfl
@[simp] theorem Mach.modCur_dies (f : Ctx → Ctx) : (m.modCur f).dies = m.dies := rfl
@[simp] theorem Mach.modCur_lqs (f : Ctx → Ctx) : (m.modCur f).lqs = m.lqs := rfl
@[simp] theorem Mach.modCur_launches (f : Ctx → Ctx) : (m.modCur f).launches = m.launches := rfl
@[simp] theorem Mach.modCur_nextLaunch (f : Ctx → Ctx) : (m.modCur f).nextLaunch = m.nextLaunch := rfl
@[simp] theorem Mach.modCur_hwqs (f : Ctx → Ctx) : (m.modCur f).hwqs = m.hwqs := rfl
@[simp] theorem Mach.modCur_sets (f : Ctx → Ctx) : (m.modCur f).sets = m.sets := rfl
@[simp] theorem Mach.modCur_grps (f : Ctx → Ctx) : (m.modCur f).grps = m.grps := rfl
@[simp] theorem Mach.modCur_arrs (f : Ctx → Ctx) : (m.modCur f).arrs = m.arrs := rfl
@[simp] theorem Mach.modCur_spills (f : Ctx → Ctx) : (m.modCur f).spills = m.spills := rfl
@[simp] theorem Mach.modCur_nextRead (f : Ctx → Ctx) : (m.modCur f).nextRead = m.nextRead := rfl
@[simp] theorem Mach.modCur_routers (f : Ctx → Ctx) : (m.modCur f).routers = m.routers := rfl
@[simp] theorem Mach.modCur_msgs (f : Ctx → Ctx) : (m.modCur f).msgs = m.msgs := rfl
@[simp] theorem Mach.modCur_changes (f : Ctx → Ctx) : (m.modCur f).changes = m.changes := rfl
@[simp] theorem Mach.modCur_anns (f : Ctx → Ctx) : (m.modCur f).anns = m.anns := rfl
@[simp] theorem Mach.modCur_claims (f : Ctx → Ctx) : (m.modCur f).claims = m.claims := rfl
@[simp] theorem Mach.modCur_colls (f : Ctx → Ctx) : (m.modCur f).colls = m.colls := rfl
@[simp] theorem Mach.modCur_touched (f : Ctx → Ctx) : (m.modCur f).touched = m.touched := rfl
@[simp] theorem Mach.modCur_links (f : Ctx → Ctx) : (m.modCur f).links = m.links := rfl
@[simp] theorem Mach.modCur_ringFail (f : Ctx → Ctx) : (m.modCur f).ringFail = m.ringFail := rfl
@[simp] theorem Mach.modCur_hubFail (f : Ctx → Ctx) : (m.modCur f).hubFail = m.hubFail := rfl
@[simp] theorem Mach.modCur_hot (f : Ctx → Ctx) : (m.modCur f).hot = m.hot := rfl
@[simp] theorem Mach.modCur_hostPort (f : Ctx → Ctx) : (m.modCur f).hostPort = m.hostPort := rfl

@[simp] theorem Mach.setCore_agenda (k : Nat) (c : Core) : (m.setCore k c).agenda = m.agenda := rfl
@[simp] theorem Mach.setCore_seed (k : Nat) (c : Core) : (m.setCore k c).seed = m.seed := rfl
@[simp] theorem Mach.setCore_issue (k : Nat) (c : Core) : (m.setCore k c).issue = m.issue := rfl
@[simp] theorem Mach.setCore_mem (k : Nat) (c : Core) : (m.setCore k c).mem = m.mem := rfl
@[simp] theorem Mach.setCore_memChk (k : Nat) (c : Core) : (m.setCore k c).memChk = m.memChk := rfl
@[simp] theorem Mach.setCore_l2 (k : Nat) (c : Core) : (m.setCore k c).l2 = m.l2 := rfl
@[simp] theorem Mach.setCore_spad (k : Nat) (c : Core) : (m.setCore k c).spad = m.spad := rfl
@[simp] theorem Mach.setCore_spadChk (k : Nat) (c : Core) : (m.setCore k c).spadChk = m.spadChk := rfl
@[simp] theorem Mach.setCore_ctxs (k : Nat) (c : Core) : (m.setCore k c).ctxs = m.ctxs := rfl
@[simp] theorem Mach.setCore_cores (k : Nat) (c : Core) : (m.setCore k c).cores = m.cores.put k c := rfl
@[simp] theorem Mach.setCore_tasks (k : Nat) (c : Core) : (m.setCore k c).tasks = m.tasks := rfl
@[simp] theorem Mach.setCore_dies (k : Nat) (c : Core) : (m.setCore k c).dies = m.dies := rfl
@[simp] theorem Mach.setCore_lqs (k : Nat) (c : Core) : (m.setCore k c).lqs = m.lqs := rfl
@[simp] theorem Mach.setCore_launches (k : Nat) (c : Core) : (m.setCore k c).launches = m.launches := rfl
@[simp] theorem Mach.setCore_nextLaunch (k : Nat) (c : Core) : (m.setCore k c).nextLaunch = m.nextLaunch := rfl
@[simp] theorem Mach.setCore_hwqs (k : Nat) (c : Core) : (m.setCore k c).hwqs = m.hwqs := rfl
@[simp] theorem Mach.setCore_sets (k : Nat) (c : Core) : (m.setCore k c).sets = m.sets := rfl
@[simp] theorem Mach.setCore_grps (k : Nat) (c : Core) : (m.setCore k c).grps = m.grps := rfl
@[simp] theorem Mach.setCore_arrs (k : Nat) (c : Core) : (m.setCore k c).arrs = m.arrs := rfl
@[simp] theorem Mach.setCore_spills (k : Nat) (c : Core) : (m.setCore k c).spills = m.spills := rfl
@[simp] theorem Mach.setCore_nextRead (k : Nat) (c : Core) : (m.setCore k c).nextRead = m.nextRead := rfl
@[simp] theorem Mach.setCore_routers (k : Nat) (c : Core) : (m.setCore k c).routers = m.routers := rfl
@[simp] theorem Mach.setCore_msgs (k : Nat) (c : Core) : (m.setCore k c).msgs = m.msgs := rfl
@[simp] theorem Mach.setCore_changes (k : Nat) (c : Core) : (m.setCore k c).changes = m.changes := rfl
@[simp] theorem Mach.setCore_anns (k : Nat) (c : Core) : (m.setCore k c).anns = m.anns := rfl
@[simp] theorem Mach.setCore_claims (k : Nat) (c : Core) : (m.setCore k c).claims = m.claims := rfl
@[simp] theorem Mach.setCore_colls (k : Nat) (c : Core) : (m.setCore k c).colls = m.colls := rfl
@[simp] theorem Mach.setCore_touched (k : Nat) (c : Core) : (m.setCore k c).touched = m.touched := rfl
@[simp] theorem Mach.setCore_links (k : Nat) (c : Core) : (m.setCore k c).links = m.links := rfl
@[simp] theorem Mach.setCore_ringFail (k : Nat) (c : Core) : (m.setCore k c).ringFail = m.ringFail := rfl
@[simp] theorem Mach.setCore_hubFail (k : Nat) (c : Core) : (m.setCore k c).hubFail = m.hubFail := rfl
@[simp] theorem Mach.setCore_hot (k : Nat) (c : Core) : (m.setCore k c).hot = m.hot := rfl
@[simp] theorem Mach.setCore_hostPort (k : Nat) (c : Core) : (m.setCore k c).hostPort = m.hostPort := rfl

@[simp] theorem Mach.modCore_agenda (k : Nat) (f : Core → Core) : (m.modCore k f).agenda = m.agenda := rfl
@[simp] theorem Mach.modCore_seed (k : Nat) (f : Core → Core) : (m.modCore k f).seed = m.seed := rfl
@[simp] theorem Mach.modCore_issue (k : Nat) (f : Core → Core) : (m.modCore k f).issue = m.issue := rfl
@[simp] theorem Mach.modCore_mem (k : Nat) (f : Core → Core) : (m.modCore k f).mem = m.mem := rfl
@[simp] theorem Mach.modCore_memChk (k : Nat) (f : Core → Core) : (m.modCore k f).memChk = m.memChk := rfl
@[simp] theorem Mach.modCore_l2 (k : Nat) (f : Core → Core) : (m.modCore k f).l2 = m.l2 := rfl
@[simp] theorem Mach.modCore_spad (k : Nat) (f : Core → Core) : (m.modCore k f).spad = m.spad := rfl
@[simp] theorem Mach.modCore_spadChk (k : Nat) (f : Core → Core) : (m.modCore k f).spadChk = m.spadChk := rfl
@[simp] theorem Mach.modCore_ctxs (k : Nat) (f : Core → Core) : (m.modCore k f).ctxs = m.ctxs := rfl
@[simp] theorem Mach.modCore_cores (k : Nat) (f : Core → Core) : (m.modCore k f).cores = m.cores.put k (f (m.core k)) := rfl
@[simp] theorem Mach.modCore_tasks (k : Nat) (f : Core → Core) : (m.modCore k f).tasks = m.tasks := rfl
@[simp] theorem Mach.modCore_dies (k : Nat) (f : Core → Core) : (m.modCore k f).dies = m.dies := rfl
@[simp] theorem Mach.modCore_lqs (k : Nat) (f : Core → Core) : (m.modCore k f).lqs = m.lqs := rfl
@[simp] theorem Mach.modCore_launches (k : Nat) (f : Core → Core) : (m.modCore k f).launches = m.launches := rfl
@[simp] theorem Mach.modCore_nextLaunch (k : Nat) (f : Core → Core) : (m.modCore k f).nextLaunch = m.nextLaunch := rfl
@[simp] theorem Mach.modCore_hwqs (k : Nat) (f : Core → Core) : (m.modCore k f).hwqs = m.hwqs := rfl
@[simp] theorem Mach.modCore_sets (k : Nat) (f : Core → Core) : (m.modCore k f).sets = m.sets := rfl
@[simp] theorem Mach.modCore_grps (k : Nat) (f : Core → Core) : (m.modCore k f).grps = m.grps := rfl
@[simp] theorem Mach.modCore_arrs (k : Nat) (f : Core → Core) : (m.modCore k f).arrs = m.arrs := rfl
@[simp] theorem Mach.modCore_spills (k : Nat) (f : Core → Core) : (m.modCore k f).spills = m.spills := rfl
@[simp] theorem Mach.modCore_nextRead (k : Nat) (f : Core → Core) : (m.modCore k f).nextRead = m.nextRead := rfl
@[simp] theorem Mach.modCore_routers (k : Nat) (f : Core → Core) : (m.modCore k f).routers = m.routers := rfl
@[simp] theorem Mach.modCore_msgs (k : Nat) (f : Core → Core) : (m.modCore k f).msgs = m.msgs := rfl
@[simp] theorem Mach.modCore_changes (k : Nat) (f : Core → Core) : (m.modCore k f).changes = m.changes := rfl
@[simp] theorem Mach.modCore_anns (k : Nat) (f : Core → Core) : (m.modCore k f).anns = m.anns := rfl
@[simp] theorem Mach.modCore_claims (k : Nat) (f : Core → Core) : (m.modCore k f).claims = m.claims := rfl
@[simp] theorem Mach.modCore_colls (k : Nat) (f : Core → Core) : (m.modCore k f).colls = m.colls := rfl
@[simp] theorem Mach.modCore_touched (k : Nat) (f : Core → Core) : (m.modCore k f).touched = m.touched := rfl
@[simp] theorem Mach.modCore_links (k : Nat) (f : Core → Core) : (m.modCore k f).links = m.links := rfl
@[simp] theorem Mach.modCore_ringFail (k : Nat) (f : Core → Core) : (m.modCore k f).ringFail = m.ringFail := rfl
@[simp] theorem Mach.modCore_hubFail (k : Nat) (f : Core → Core) : (m.modCore k f).hubFail = m.hubFail := rfl
@[simp] theorem Mach.modCore_hot (k : Nat) (f : Core → Core) : (m.modCore k f).hot = m.hot := rfl
@[simp] theorem Mach.modCore_hostPort (k : Nat) (f : Core → Core) : (m.modCore k f).hostPort = m.hostPort := rfl

@[simp] theorem Mach.setTask_agenda (k : Nat) (x : Task) : (m.setTask k x).agenda = m.agenda := rfl
@[simp] theorem Mach.setTask_seed (k : Nat) (x : Task) : (m.setTask k x).seed = m.seed := rfl
@[simp] theorem Mach.setTask_issue (k : Nat) (x : Task) : (m.setTask k x).issue = m.issue := rfl
@[simp] theorem Mach.setTask_mem (k : Nat) (x : Task) : (m.setTask k x).mem = m.mem := rfl
@[simp] theorem Mach.setTask_memChk (k : Nat) (x : Task) : (m.setTask k x).memChk = m.memChk := rfl
@[simp] theorem Mach.setTask_l2 (k : Nat) (x : Task) : (m.setTask k x).l2 = m.l2 := rfl
@[simp] theorem Mach.setTask_spad (k : Nat) (x : Task) : (m.setTask k x).spad = m.spad := rfl
@[simp] theorem Mach.setTask_spadChk (k : Nat) (x : Task) : (m.setTask k x).spadChk = m.spadChk := rfl
@[simp] theorem Mach.setTask_ctxs (k : Nat) (x : Task) : (m.setTask k x).ctxs = m.ctxs := rfl
@[simp] theorem Mach.setTask_cores (k : Nat) (x : Task) : (m.setTask k x).cores = m.cores := rfl
@[simp] theorem Mach.setTask_tasks (k : Nat) (x : Task) : (m.setTask k x).tasks = m.tasks.put k x := rfl
@[simp] theorem Mach.setTask_dies (k : Nat) (x : Task) : (m.setTask k x).dies = m.dies := rfl
@[simp] theorem Mach.setTask_lqs (k : Nat) (x : Task) : (m.setTask k x).lqs = m.lqs := rfl
@[simp] theorem Mach.setTask_launches (k : Nat) (x : Task) : (m.setTask k x).launches = m.launches := rfl
@[simp] theorem Mach.setTask_nextLaunch (k : Nat) (x : Task) : (m.setTask k x).nextLaunch = m.nextLaunch := rfl
@[simp] theorem Mach.setTask_hwqs (k : Nat) (x : Task) : (m.setTask k x).hwqs = m.hwqs := rfl
@[simp] theorem Mach.setTask_sets (k : Nat) (x : Task) : (m.setTask k x).sets = m.sets := rfl
@[simp] theorem Mach.setTask_grps (k : Nat) (x : Task) : (m.setTask k x).grps = m.grps := rfl
@[simp] theorem Mach.setTask_arrs (k : Nat) (x : Task) : (m.setTask k x).arrs = m.arrs := rfl
@[simp] theorem Mach.setTask_spills (k : Nat) (x : Task) : (m.setTask k x).spills = m.spills := rfl
@[simp] theorem Mach.setTask_nextRead (k : Nat) (x : Task) : (m.setTask k x).nextRead = m.nextRead := rfl
@[simp] theorem Mach.setTask_routers (k : Nat) (x : Task) : (m.setTask k x).routers = m.routers := rfl
@[simp] theorem Mach.setTask_msgs (k : Nat) (x : Task) : (m.setTask k x).msgs = m.msgs := rfl
@[simp] theorem Mach.setTask_changes (k : Nat) (x : Task) : (m.setTask k x).changes = m.changes := rfl
@[simp] theorem Mach.setTask_anns (k : Nat) (x : Task) : (m.setTask k x).anns = m.anns := rfl
@[simp] theorem Mach.setTask_claims (k : Nat) (x : Task) : (m.setTask k x).claims = m.claims := rfl
@[simp] theorem Mach.setTask_colls (k : Nat) (x : Task) : (m.setTask k x).colls = m.colls := rfl
@[simp] theorem Mach.setTask_touched (k : Nat) (x : Task) : (m.setTask k x).touched = m.touched := rfl
@[simp] theorem Mach.setTask_links (k : Nat) (x : Task) : (m.setTask k x).links = m.links := rfl
@[simp] theorem Mach.setTask_ringFail (k : Nat) (x : Task) : (m.setTask k x).ringFail = m.ringFail := rfl
@[simp] theorem Mach.setTask_hubFail (k : Nat) (x : Task) : (m.setTask k x).hubFail = m.hubFail := rfl
@[simp] theorem Mach.setTask_hot (k : Nat) (x : Task) : (m.setTask k x).hot = m.hot := rfl
@[simp] theorem Mach.setTask_hostPort (k : Nat) (x : Task) : (m.setTask k x).hostPort = m.hostPort := rfl

@[simp] theorem Mach.modTask_agenda (k : Nat) (f : Task → Task) : (m.modTask k f).agenda = m.agenda := rfl
@[simp] theorem Mach.modTask_seed (k : Nat) (f : Task → Task) : (m.modTask k f).seed = m.seed := rfl
@[simp] theorem Mach.modTask_issue (k : Nat) (f : Task → Task) : (m.modTask k f).issue = m.issue := rfl
@[simp] theorem Mach.modTask_mem (k : Nat) (f : Task → Task) : (m.modTask k f).mem = m.mem := rfl
@[simp] theorem Mach.modTask_memChk (k : Nat) (f : Task → Task) : (m.modTask k f).memChk = m.memChk := rfl
@[simp] theorem Mach.modTask_l2 (k : Nat) (f : Task → Task) : (m.modTask k f).l2 = m.l2 := rfl
@[simp] theorem Mach.modTask_spad (k : Nat) (f : Task → Task) : (m.modTask k f).spad = m.spad := rfl
@[simp] theorem Mach.modTask_spadChk (k : Nat) (f : Task → Task) : (m.modTask k f).spadChk = m.spadChk := rfl
@[simp] theorem Mach.modTask_ctxs (k : Nat) (f : Task → Task) : (m.modTask k f).ctxs = m.ctxs := rfl
@[simp] theorem Mach.modTask_cores (k : Nat) (f : Task → Task) : (m.modTask k f).cores = m.cores := rfl
@[simp] theorem Mach.modTask_tasks (k : Nat) (f : Task → Task) : (m.modTask k f).tasks = m.tasks.put k (f (m.task k)) := rfl
@[simp] theorem Mach.modTask_dies (k : Nat) (f : Task → Task) : (m.modTask k f).dies = m.dies := rfl
@[simp] theorem Mach.modTask_lqs (k : Nat) (f : Task → Task) : (m.modTask k f).lqs = m.lqs := rfl
@[simp] theorem Mach.modTask_launches (k : Nat) (f : Task → Task) : (m.modTask k f).launches = m.launches := rfl
@[simp] theorem Mach.modTask_nextLaunch (k : Nat) (f : Task → Task) : (m.modTask k f).nextLaunch = m.nextLaunch := rfl
@[simp] theorem Mach.modTask_hwqs (k : Nat) (f : Task → Task) : (m.modTask k f).hwqs = m.hwqs := rfl
@[simp] theorem Mach.modTask_sets (k : Nat) (f : Task → Task) : (m.modTask k f).sets = m.sets := rfl
@[simp] theorem Mach.modTask_grps (k : Nat) (f : Task → Task) : (m.modTask k f).grps = m.grps := rfl
@[simp] theorem Mach.modTask_arrs (k : Nat) (f : Task → Task) : (m.modTask k f).arrs = m.arrs := rfl
@[simp] theorem Mach.modTask_spills (k : Nat) (f : Task → Task) : (m.modTask k f).spills = m.spills := rfl
@[simp] theorem Mach.modTask_nextRead (k : Nat) (f : Task → Task) : (m.modTask k f).nextRead = m.nextRead := rfl
@[simp] theorem Mach.modTask_routers (k : Nat) (f : Task → Task) : (m.modTask k f).routers = m.routers := rfl
@[simp] theorem Mach.modTask_msgs (k : Nat) (f : Task → Task) : (m.modTask k f).msgs = m.msgs := rfl
@[simp] theorem Mach.modTask_changes (k : Nat) (f : Task → Task) : (m.modTask k f).changes = m.changes := rfl
@[simp] theorem Mach.modTask_anns (k : Nat) (f : Task → Task) : (m.modTask k f).anns = m.anns := rfl
@[simp] theorem Mach.modTask_claims (k : Nat) (f : Task → Task) : (m.modTask k f).claims = m.claims := rfl
@[simp] theorem Mach.modTask_colls (k : Nat) (f : Task → Task) : (m.modTask k f).colls = m.colls := rfl
@[simp] theorem Mach.modTask_touched (k : Nat) (f : Task → Task) : (m.modTask k f).touched = m.touched := rfl
@[simp] theorem Mach.modTask_links (k : Nat) (f : Task → Task) : (m.modTask k f).links = m.links := rfl
@[simp] theorem Mach.modTask_ringFail (k : Nat) (f : Task → Task) : (m.modTask k f).ringFail = m.ringFail := rfl
@[simp] theorem Mach.modTask_hubFail (k : Nat) (f : Task → Task) : (m.modTask k f).hubFail = m.hubFail := rfl
@[simp] theorem Mach.modTask_hot (k : Nat) (f : Task → Task) : (m.modTask k f).hot = m.hot := rfl
@[simp] theorem Mach.modTask_hostPort (k : Nat) (f : Task → Task) : (m.modTask k f).hostPort = m.hostPort := rfl

@[simp] theorem Mach.modCurTask_agenda (f : Task → Task) : (m.modCurTask f).agenda = m.agenda := rfl
@[simp] theorem Mach.modCurTask_seed (f : Task → Task) : (m.modCurTask f).seed = m.seed := rfl
@[simp] theorem Mach.modCurTask_issue (f : Task → Task) : (m.modCurTask f).issue = m.issue := rfl
@[simp] theorem Mach.modCurTask_mem (f : Task → Task) : (m.modCurTask f).mem = m.mem := rfl
@[simp] theorem Mach.modCurTask_memChk (f : Task → Task) : (m.modCurTask f).memChk = m.memChk := rfl
@[simp] theorem Mach.modCurTask_l2 (f : Task → Task) : (m.modCurTask f).l2 = m.l2 := rfl
@[simp] theorem Mach.modCurTask_spad (f : Task → Task) : (m.modCurTask f).spad = m.spad := rfl
@[simp] theorem Mach.modCurTask_spadChk (f : Task → Task) : (m.modCurTask f).spadChk = m.spadChk := rfl
@[simp] theorem Mach.modCurTask_ctxs (f : Task → Task) : (m.modCurTask f).ctxs = m.ctxs := rfl
@[simp] theorem Mach.modCurTask_cores (f : Task → Task) : (m.modCurTask f).cores = m.cores := rfl
@[simp] theorem Mach.modCurTask_tasks (f : Task → Task) : (m.modCurTask f).tasks = m.tasks.put m.tkey (f m.curTask) := rfl
@[simp] theorem Mach.modCurTask_dies (f : Task → Task) : (m.modCurTask f).dies = m.dies := rfl
@[simp] theorem Mach.modCurTask_lqs (f : Task → Task) : (m.modCurTask f).lqs = m.lqs := rfl
@[simp] theorem Mach.modCurTask_launches (f : Task → Task) : (m.modCurTask f).launches = m.launches := rfl
@[simp] theorem Mach.modCurTask_nextLaunch (f : Task → Task) : (m.modCurTask f).nextLaunch = m.nextLaunch := rfl
@[simp] theorem Mach.modCurTask_hwqs (f : Task → Task) : (m.modCurTask f).hwqs = m.hwqs := rfl
@[simp] theorem Mach.modCurTask_sets (f : Task → Task) : (m.modCurTask f).sets = m.sets := rfl
@[simp] theorem Mach.modCurTask_grps (f : Task → Task) : (m.modCurTask f).grps = m.grps := rfl
@[simp] theorem Mach.modCurTask_arrs (f : Task → Task) : (m.modCurTask f).arrs = m.arrs := rfl
@[simp] theorem Mach.modCurTask_spills (f : Task → Task) : (m.modCurTask f).spills = m.spills := rfl
@[simp] theorem Mach.modCurTask_nextRead (f : Task → Task) : (m.modCurTask f).nextRead = m.nextRead := rfl
@[simp] theorem Mach.modCurTask_routers (f : Task → Task) : (m.modCurTask f).routers = m.routers := rfl
@[simp] theorem Mach.modCurTask_msgs (f : Task → Task) : (m.modCurTask f).msgs = m.msgs := rfl
@[simp] theorem Mach.modCurTask_changes (f : Task → Task) : (m.modCurTask f).changes = m.changes := rfl
@[simp] theorem Mach.modCurTask_anns (f : Task → Task) : (m.modCurTask f).anns = m.anns := rfl
@[simp] theorem Mach.modCurTask_claims (f : Task → Task) : (m.modCurTask f).claims = m.claims := rfl
@[simp] theorem Mach.modCurTask_colls (f : Task → Task) : (m.modCurTask f).colls = m.colls := rfl
@[simp] theorem Mach.modCurTask_touched (f : Task → Task) : (m.modCurTask f).touched = m.touched := rfl
@[simp] theorem Mach.modCurTask_links (f : Task → Task) : (m.modCurTask f).links = m.links := rfl
@[simp] theorem Mach.modCurTask_ringFail (f : Task → Task) : (m.modCurTask f).ringFail = m.ringFail := rfl
@[simp] theorem Mach.modCurTask_hubFail (f : Task → Task) : (m.modCurTask f).hubFail = m.hubFail := rfl
@[simp] theorem Mach.modCurTask_hot (f : Task → Task) : (m.modCurTask f).hot = m.hot := rfl
@[simp] theorem Mach.modCurTask_hostPort (f : Task → Task) : (m.modCurTask f).hostPort = m.hostPort := rfl

@[simp] theorem Mach.setDie_agenda (d : Nat) (x : Die) : (m.setDie d x).agenda = m.agenda := rfl
@[simp] theorem Mach.setDie_seed (d : Nat) (x : Die) : (m.setDie d x).seed = m.seed := rfl
@[simp] theorem Mach.setDie_issue (d : Nat) (x : Die) : (m.setDie d x).issue = m.issue := rfl
@[simp] theorem Mach.setDie_mem (d : Nat) (x : Die) : (m.setDie d x).mem = m.mem := rfl
@[simp] theorem Mach.setDie_memChk (d : Nat) (x : Die) : (m.setDie d x).memChk = m.memChk := rfl
@[simp] theorem Mach.setDie_l2 (d : Nat) (x : Die) : (m.setDie d x).l2 = m.l2 := rfl
@[simp] theorem Mach.setDie_spad (d : Nat) (x : Die) : (m.setDie d x).spad = m.spad := rfl
@[simp] theorem Mach.setDie_spadChk (d : Nat) (x : Die) : (m.setDie d x).spadChk = m.spadChk := rfl
@[simp] theorem Mach.setDie_ctxs (d : Nat) (x : Die) : (m.setDie d x).ctxs = m.ctxs := rfl
@[simp] theorem Mach.setDie_cores (d : Nat) (x : Die) : (m.setDie d x).cores = m.cores := rfl
@[simp] theorem Mach.setDie_tasks (d : Nat) (x : Die) : (m.setDie d x).tasks = m.tasks := rfl
@[simp] theorem Mach.setDie_dies (d : Nat) (x : Die) : (m.setDie d x).dies = m.dies.put d x := rfl
@[simp] theorem Mach.setDie_lqs (d : Nat) (x : Die) : (m.setDie d x).lqs = m.lqs := rfl
@[simp] theorem Mach.setDie_launches (d : Nat) (x : Die) : (m.setDie d x).launches = m.launches := rfl
@[simp] theorem Mach.setDie_nextLaunch (d : Nat) (x : Die) : (m.setDie d x).nextLaunch = m.nextLaunch := rfl
@[simp] theorem Mach.setDie_hwqs (d : Nat) (x : Die) : (m.setDie d x).hwqs = m.hwqs := rfl
@[simp] theorem Mach.setDie_sets (d : Nat) (x : Die) : (m.setDie d x).sets = m.sets := rfl
@[simp] theorem Mach.setDie_grps (d : Nat) (x : Die) : (m.setDie d x).grps = m.grps := rfl
@[simp] theorem Mach.setDie_arrs (d : Nat) (x : Die) : (m.setDie d x).arrs = m.arrs := rfl
@[simp] theorem Mach.setDie_spills (d : Nat) (x : Die) : (m.setDie d x).spills = m.spills := rfl
@[simp] theorem Mach.setDie_nextRead (d : Nat) (x : Die) : (m.setDie d x).nextRead = m.nextRead := rfl
@[simp] theorem Mach.setDie_routers (d : Nat) (x : Die) : (m.setDie d x).routers = m.routers := rfl
@[simp] theorem Mach.setDie_msgs (d : Nat) (x : Die) : (m.setDie d x).msgs = m.msgs := rfl
@[simp] theorem Mach.setDie_changes (d : Nat) (x : Die) : (m.setDie d x).changes = m.changes := rfl
@[simp] theorem Mach.setDie_anns (d : Nat) (x : Die) : (m.setDie d x).anns = m.anns := rfl
@[simp] theorem Mach.setDie_claims (d : Nat) (x : Die) : (m.setDie d x).claims = m.claims := rfl
@[simp] theorem Mach.setDie_colls (d : Nat) (x : Die) : (m.setDie d x).colls = m.colls := rfl
@[simp] theorem Mach.setDie_touched (d : Nat) (x : Die) : (m.setDie d x).touched = m.touched := rfl
@[simp] theorem Mach.setDie_links (d : Nat) (x : Die) : (m.setDie d x).links = m.links := rfl
@[simp] theorem Mach.setDie_ringFail (d : Nat) (x : Die) : (m.setDie d x).ringFail = m.ringFail := rfl
@[simp] theorem Mach.setDie_hubFail (d : Nat) (x : Die) : (m.setDie d x).hubFail = m.hubFail := rfl
@[simp] theorem Mach.setDie_hot (d : Nat) (x : Die) : (m.setDie d x).hot = m.hot := rfl
@[simp] theorem Mach.setDie_hostPort (d : Nat) (x : Die) : (m.setDie d x).hostPort = m.hostPort := rfl

@[simp] theorem Mach.modDie_agenda (d : Nat) (f : Die → Die) : (m.modDie d f).agenda = m.agenda := rfl
@[simp] theorem Mach.modDie_seed (d : Nat) (f : Die → Die) : (m.modDie d f).seed = m.seed := rfl
@[simp] theorem Mach.modDie_issue (d : Nat) (f : Die → Die) : (m.modDie d f).issue = m.issue := rfl
@[simp] theorem Mach.modDie_mem (d : Nat) (f : Die → Die) : (m.modDie d f).mem = m.mem := rfl
@[simp] theorem Mach.modDie_memChk (d : Nat) (f : Die → Die) : (m.modDie d f).memChk = m.memChk := rfl
@[simp] theorem Mach.modDie_l2 (d : Nat) (f : Die → Die) : (m.modDie d f).l2 = m.l2 := rfl
@[simp] theorem Mach.modDie_spad (d : Nat) (f : Die → Die) : (m.modDie d f).spad = m.spad := rfl
@[simp] theorem Mach.modDie_spadChk (d : Nat) (f : Die → Die) : (m.modDie d f).spadChk = m.spadChk := rfl
@[simp] theorem Mach.modDie_ctxs (d : Nat) (f : Die → Die) : (m.modDie d f).ctxs = m.ctxs := rfl
@[simp] theorem Mach.modDie_cores (d : Nat) (f : Die → Die) : (m.modDie d f).cores = m.cores := rfl
@[simp] theorem Mach.modDie_tasks (d : Nat) (f : Die → Die) : (m.modDie d f).tasks = m.tasks := rfl
@[simp] theorem Mach.modDie_dies (d : Nat) (f : Die → Die) : (m.modDie d f).dies = m.dies.put d (f (m.die d)) := rfl
@[simp] theorem Mach.modDie_lqs (d : Nat) (f : Die → Die) : (m.modDie d f).lqs = m.lqs := rfl
@[simp] theorem Mach.modDie_launches (d : Nat) (f : Die → Die) : (m.modDie d f).launches = m.launches := rfl
@[simp] theorem Mach.modDie_nextLaunch (d : Nat) (f : Die → Die) : (m.modDie d f).nextLaunch = m.nextLaunch := rfl
@[simp] theorem Mach.modDie_hwqs (d : Nat) (f : Die → Die) : (m.modDie d f).hwqs = m.hwqs := rfl
@[simp] theorem Mach.modDie_sets (d : Nat) (f : Die → Die) : (m.modDie d f).sets = m.sets := rfl
@[simp] theorem Mach.modDie_grps (d : Nat) (f : Die → Die) : (m.modDie d f).grps = m.grps := rfl
@[simp] theorem Mach.modDie_arrs (d : Nat) (f : Die → Die) : (m.modDie d f).arrs = m.arrs := rfl
@[simp] theorem Mach.modDie_spills (d : Nat) (f : Die → Die) : (m.modDie d f).spills = m.spills := rfl
@[simp] theorem Mach.modDie_nextRead (d : Nat) (f : Die → Die) : (m.modDie d f).nextRead = m.nextRead := rfl
@[simp] theorem Mach.modDie_routers (d : Nat) (f : Die → Die) : (m.modDie d f).routers = m.routers := rfl
@[simp] theorem Mach.modDie_msgs (d : Nat) (f : Die → Die) : (m.modDie d f).msgs = m.msgs := rfl
@[simp] theorem Mach.modDie_changes (d : Nat) (f : Die → Die) : (m.modDie d f).changes = m.changes := rfl
@[simp] theorem Mach.modDie_anns (d : Nat) (f : Die → Die) : (m.modDie d f).anns = m.anns := rfl
@[simp] theorem Mach.modDie_claims (d : Nat) (f : Die → Die) : (m.modDie d f).claims = m.claims := rfl
@[simp] theorem Mach.modDie_colls (d : Nat) (f : Die → Die) : (m.modDie d f).colls = m.colls := rfl
@[simp] theorem Mach.modDie_touched (d : Nat) (f : Die → Die) : (m.modDie d f).touched = m.touched := rfl
@[simp] theorem Mach.modDie_links (d : Nat) (f : Die → Die) : (m.modDie d f).links = m.links := rfl
@[simp] theorem Mach.modDie_ringFail (d : Nat) (f : Die → Die) : (m.modDie d f).ringFail = m.ringFail := rfl
@[simp] theorem Mach.modDie_hubFail (d : Nat) (f : Die → Die) : (m.modDie d f).hubFail = m.hubFail := rfl
@[simp] theorem Mach.modDie_hot (d : Nat) (f : Die → Die) : (m.modDie d f).hot = m.hot := rfl
@[simp] theorem Mach.modDie_hostPort (d : Nat) (f : Die → Die) : (m.modDie d f).hostPort = m.hostPort := rfl

@[simp] theorem Mach.modLq_agenda (k : Nat) (f : Lq → Lq) : (m.modLq k f).agenda = m.agenda := rfl
@[simp] theorem Mach.modLq_seed (k : Nat) (f : Lq → Lq) : (m.modLq k f).seed = m.seed := rfl
@[simp] theorem Mach.modLq_issue (k : Nat) (f : Lq → Lq) : (m.modLq k f).issue = m.issue := rfl
@[simp] theorem Mach.modLq_mem (k : Nat) (f : Lq → Lq) : (m.modLq k f).mem = m.mem := rfl
@[simp] theorem Mach.modLq_memChk (k : Nat) (f : Lq → Lq) : (m.modLq k f).memChk = m.memChk := rfl
@[simp] theorem Mach.modLq_l2 (k : Nat) (f : Lq → Lq) : (m.modLq k f).l2 = m.l2 := rfl
@[simp] theorem Mach.modLq_spad (k : Nat) (f : Lq → Lq) : (m.modLq k f).spad = m.spad := rfl
@[simp] theorem Mach.modLq_spadChk (k : Nat) (f : Lq → Lq) : (m.modLq k f).spadChk = m.spadChk := rfl
@[simp] theorem Mach.modLq_ctxs (k : Nat) (f : Lq → Lq) : (m.modLq k f).ctxs = m.ctxs := rfl
@[simp] theorem Mach.modLq_cores (k : Nat) (f : Lq → Lq) : (m.modLq k f).cores = m.cores := rfl
@[simp] theorem Mach.modLq_tasks (k : Nat) (f : Lq → Lq) : (m.modLq k f).tasks = m.tasks := rfl
@[simp] theorem Mach.modLq_dies (k : Nat) (f : Lq → Lq) : (m.modLq k f).dies = m.dies := rfl
@[simp] theorem Mach.modLq_lqs (k : Nat) (f : Lq → Lq) : (m.modLq k f).lqs = m.lqs.put k (f (m.lq k)) := rfl
@[simp] theorem Mach.modLq_launches (k : Nat) (f : Lq → Lq) : (m.modLq k f).launches = m.launches := rfl
@[simp] theorem Mach.modLq_nextLaunch (k : Nat) (f : Lq → Lq) : (m.modLq k f).nextLaunch = m.nextLaunch := rfl
@[simp] theorem Mach.modLq_hwqs (k : Nat) (f : Lq → Lq) : (m.modLq k f).hwqs = m.hwqs := rfl
@[simp] theorem Mach.modLq_sets (k : Nat) (f : Lq → Lq) : (m.modLq k f).sets = m.sets := rfl
@[simp] theorem Mach.modLq_grps (k : Nat) (f : Lq → Lq) : (m.modLq k f).grps = m.grps := rfl
@[simp] theorem Mach.modLq_arrs (k : Nat) (f : Lq → Lq) : (m.modLq k f).arrs = m.arrs := rfl
@[simp] theorem Mach.modLq_spills (k : Nat) (f : Lq → Lq) : (m.modLq k f).spills = m.spills := rfl
@[simp] theorem Mach.modLq_nextRead (k : Nat) (f : Lq → Lq) : (m.modLq k f).nextRead = m.nextRead := rfl
@[simp] theorem Mach.modLq_routers (k : Nat) (f : Lq → Lq) : (m.modLq k f).routers = m.routers := rfl
@[simp] theorem Mach.modLq_msgs (k : Nat) (f : Lq → Lq) : (m.modLq k f).msgs = m.msgs := rfl
@[simp] theorem Mach.modLq_changes (k : Nat) (f : Lq → Lq) : (m.modLq k f).changes = m.changes := rfl
@[simp] theorem Mach.modLq_anns (k : Nat) (f : Lq → Lq) : (m.modLq k f).anns = m.anns := rfl
@[simp] theorem Mach.modLq_claims (k : Nat) (f : Lq → Lq) : (m.modLq k f).claims = m.claims := rfl
@[simp] theorem Mach.modLq_colls (k : Nat) (f : Lq → Lq) : (m.modLq k f).colls = m.colls := rfl
@[simp] theorem Mach.modLq_touched (k : Nat) (f : Lq → Lq) : (m.modLq k f).touched = m.touched := rfl
@[simp] theorem Mach.modLq_links (k : Nat) (f : Lq → Lq) : (m.modLq k f).links = m.links := rfl
@[simp] theorem Mach.modLq_ringFail (k : Nat) (f : Lq → Lq) : (m.modLq k f).ringFail = m.ringFail := rfl
@[simp] theorem Mach.modLq_hubFail (k : Nat) (f : Lq → Lq) : (m.modLq k f).hubFail = m.hubFail := rfl
@[simp] theorem Mach.modLq_hot (k : Nat) (f : Lq → Lq) : (m.modLq k f).hot = m.hot := rfl
@[simp] theorem Mach.modLq_hostPort (k : Nat) (f : Lq → Lq) : (m.modLq k f).hostPort = m.hostPort := rfl

@[simp] theorem Mach.modLaunch_agenda (k : Nat) (f : Launch → Launch) : (m.modLaunch k f).agenda = m.agenda := rfl
@[simp] theorem Mach.modLaunch_seed (k : Nat) (f : Launch → Launch) : (m.modLaunch k f).seed = m.seed := rfl
@[simp] theorem Mach.modLaunch_issue (k : Nat) (f : Launch → Launch) : (m.modLaunch k f).issue = m.issue := rfl
@[simp] theorem Mach.modLaunch_mem (k : Nat) (f : Launch → Launch) : (m.modLaunch k f).mem = m.mem := rfl
@[simp] theorem Mach.modLaunch_memChk (k : Nat) (f : Launch → Launch) : (m.modLaunch k f).memChk = m.memChk := rfl
@[simp] theorem Mach.modLaunch_l2 (k : Nat) (f : Launch → Launch) : (m.modLaunch k f).l2 = m.l2 := rfl
@[simp] theorem Mach.modLaunch_spad (k : Nat) (f : Launch → Launch) : (m.modLaunch k f).spad = m.spad := rfl
@[simp] theorem Mach.modLaunch_spadChk (k : Nat) (f : Launch → Launch) : (m.modLaunch k f).spadChk = m.spadChk := rfl
@[simp] theorem Mach.modLaunch_ctxs (k : Nat) (f : Launch → Launch) : (m.modLaunch k f).ctxs = m.ctxs := rfl
@[simp] theorem Mach.modLaunch_cores (k : Nat) (f : Launch → Launch) : (m.modLaunch k f).cores = m.cores := rfl
@[simp] theorem Mach.modLaunch_tasks (k : Nat) (f : Launch → Launch) : (m.modLaunch k f).tasks = m.tasks := rfl
@[simp] theorem Mach.modLaunch_dies (k : Nat) (f : Launch → Launch) : (m.modLaunch k f).dies = m.dies := rfl
@[simp] theorem Mach.modLaunch_lqs (k : Nat) (f : Launch → Launch) : (m.modLaunch k f).lqs = m.lqs := rfl
@[simp] theorem Mach.modLaunch_launches (k : Nat) (f : Launch → Launch) : (m.modLaunch k f).launches = m.launches.put k (f (m.launch k)) := rfl
@[simp] theorem Mach.modLaunch_nextLaunch (k : Nat) (f : Launch → Launch) : (m.modLaunch k f).nextLaunch = m.nextLaunch := rfl
@[simp] theorem Mach.modLaunch_hwqs (k : Nat) (f : Launch → Launch) : (m.modLaunch k f).hwqs = m.hwqs := rfl
@[simp] theorem Mach.modLaunch_sets (k : Nat) (f : Launch → Launch) : (m.modLaunch k f).sets = m.sets := rfl
@[simp] theorem Mach.modLaunch_grps (k : Nat) (f : Launch → Launch) : (m.modLaunch k f).grps = m.grps := rfl
@[simp] theorem Mach.modLaunch_arrs (k : Nat) (f : Launch → Launch) : (m.modLaunch k f).arrs = m.arrs := rfl
@[simp] theorem Mach.modLaunch_spills (k : Nat) (f : Launch → Launch) : (m.modLaunch k f).spills = m.spills := rfl
@[simp] theorem Mach.modLaunch_nextRead (k : Nat) (f : Launch → Launch) : (m.modLaunch k f).nextRead = m.nextRead := rfl
@[simp] theorem Mach.modLaunch_routers (k : Nat) (f : Launch → Launch) : (m.modLaunch k f).routers = m.routers := rfl
@[simp] theorem Mach.modLaunch_msgs (k : Nat) (f : Launch → Launch) : (m.modLaunch k f).msgs = m.msgs := rfl
@[simp] theorem Mach.modLaunch_changes (k : Nat) (f : Launch → Launch) : (m.modLaunch k f).changes = m.changes := rfl
@[simp] theorem Mach.modLaunch_anns (k : Nat) (f : Launch → Launch) : (m.modLaunch k f).anns = m.anns := rfl
@[simp] theorem Mach.modLaunch_claims (k : Nat) (f : Launch → Launch) : (m.modLaunch k f).claims = m.claims := rfl
@[simp] theorem Mach.modLaunch_colls (k : Nat) (f : Launch → Launch) : (m.modLaunch k f).colls = m.colls := rfl
@[simp] theorem Mach.modLaunch_touched (k : Nat) (f : Launch → Launch) : (m.modLaunch k f).touched = m.touched := rfl
@[simp] theorem Mach.modLaunch_links (k : Nat) (f : Launch → Launch) : (m.modLaunch k f).links = m.links := rfl
@[simp] theorem Mach.modLaunch_ringFail (k : Nat) (f : Launch → Launch) : (m.modLaunch k f).ringFail = m.ringFail := rfl
@[simp] theorem Mach.modLaunch_hubFail (k : Nat) (f : Launch → Launch) : (m.modLaunch k f).hubFail = m.hubFail := rfl
@[simp] theorem Mach.modLaunch_hot (k : Nat) (f : Launch → Launch) : (m.modLaunch k f).hot = m.hot := rfl
@[simp] theorem Mach.modLaunch_hostPort (k : Nat) (f : Launch → Launch) : (m.modLaunch k f).hostPort = m.hostPort := rfl

@[simp] theorem Mach.modHwq_agenda (k : Nat) (f : Hwq → Hwq) : (m.modHwq k f).agenda = m.agenda := rfl
@[simp] theorem Mach.modHwq_seed (k : Nat) (f : Hwq → Hwq) : (m.modHwq k f).seed = m.seed := rfl
@[simp] theorem Mach.modHwq_issue (k : Nat) (f : Hwq → Hwq) : (m.modHwq k f).issue = m.issue := rfl
@[simp] theorem Mach.modHwq_mem (k : Nat) (f : Hwq → Hwq) : (m.modHwq k f).mem = m.mem := rfl
@[simp] theorem Mach.modHwq_memChk (k : Nat) (f : Hwq → Hwq) : (m.modHwq k f).memChk = m.memChk := rfl
@[simp] theorem Mach.modHwq_l2 (k : Nat) (f : Hwq → Hwq) : (m.modHwq k f).l2 = m.l2 := rfl
@[simp] theorem Mach.modHwq_spad (k : Nat) (f : Hwq → Hwq) : (m.modHwq k f).spad = m.spad := rfl
@[simp] theorem Mach.modHwq_spadChk (k : Nat) (f : Hwq → Hwq) : (m.modHwq k f).spadChk = m.spadChk := rfl
@[simp] theorem Mach.modHwq_ctxs (k : Nat) (f : Hwq → Hwq) : (m.modHwq k f).ctxs = m.ctxs := rfl
@[simp] theorem Mach.modHwq_cores (k : Nat) (f : Hwq → Hwq) : (m.modHwq k f).cores = m.cores := rfl
@[simp] theorem Mach.modHwq_tasks (k : Nat) (f : Hwq → Hwq) : (m.modHwq k f).tasks = m.tasks := rfl
@[simp] theorem Mach.modHwq_dies (k : Nat) (f : Hwq → Hwq) : (m.modHwq k f).dies = m.dies := rfl
@[simp] theorem Mach.modHwq_lqs (k : Nat) (f : Hwq → Hwq) : (m.modHwq k f).lqs = m.lqs := rfl
@[simp] theorem Mach.modHwq_launches (k : Nat) (f : Hwq → Hwq) : (m.modHwq k f).launches = m.launches := rfl
@[simp] theorem Mach.modHwq_nextLaunch (k : Nat) (f : Hwq → Hwq) : (m.modHwq k f).nextLaunch = m.nextLaunch := rfl
@[simp] theorem Mach.modHwq_hwqs (k : Nat) (f : Hwq → Hwq) : (m.modHwq k f).hwqs = m.hwqs.put k (f (m.hwq k)) := rfl
@[simp] theorem Mach.modHwq_sets (k : Nat) (f : Hwq → Hwq) : (m.modHwq k f).sets = m.sets := rfl
@[simp] theorem Mach.modHwq_grps (k : Nat) (f : Hwq → Hwq) : (m.modHwq k f).grps = m.grps := rfl
@[simp] theorem Mach.modHwq_arrs (k : Nat) (f : Hwq → Hwq) : (m.modHwq k f).arrs = m.arrs := rfl
@[simp] theorem Mach.modHwq_spills (k : Nat) (f : Hwq → Hwq) : (m.modHwq k f).spills = m.spills := rfl
@[simp] theorem Mach.modHwq_nextRead (k : Nat) (f : Hwq → Hwq) : (m.modHwq k f).nextRead = m.nextRead := rfl
@[simp] theorem Mach.modHwq_routers (k : Nat) (f : Hwq → Hwq) : (m.modHwq k f).routers = m.routers := rfl
@[simp] theorem Mach.modHwq_msgs (k : Nat) (f : Hwq → Hwq) : (m.modHwq k f).msgs = m.msgs := rfl
@[simp] theorem Mach.modHwq_changes (k : Nat) (f : Hwq → Hwq) : (m.modHwq k f).changes = m.changes := rfl
@[simp] theorem Mach.modHwq_anns (k : Nat) (f : Hwq → Hwq) : (m.modHwq k f).anns = m.anns := rfl
@[simp] theorem Mach.modHwq_claims (k : Nat) (f : Hwq → Hwq) : (m.modHwq k f).claims = m.claims := rfl
@[simp] theorem Mach.modHwq_colls (k : Nat) (f : Hwq → Hwq) : (m.modHwq k f).colls = m.colls := rfl
@[simp] theorem Mach.modHwq_touched (k : Nat) (f : Hwq → Hwq) : (m.modHwq k f).touched = m.touched := rfl
@[simp] theorem Mach.modHwq_links (k : Nat) (f : Hwq → Hwq) : (m.modHwq k f).links = m.links := rfl
@[simp] theorem Mach.modHwq_ringFail (k : Nat) (f : Hwq → Hwq) : (m.modHwq k f).ringFail = m.ringFail := rfl
@[simp] theorem Mach.modHwq_hubFail (k : Nat) (f : Hwq → Hwq) : (m.modHwq k f).hubFail = m.hubFail := rfl
@[simp] theorem Mach.modHwq_hot (k : Nat) (f : Hwq → Hwq) : (m.modHwq k f).hot = m.hot := rfl
@[simp] theorem Mach.modHwq_hostPort (k : Nat) (f : Hwq → Hwq) : (m.modHwq k f).hostPort = m.hostPort := rfl

@[simp] theorem Mach.setMset_agenda (k : Nat) (x : MSet) : (m.setMset k x).agenda = m.agenda := rfl
@[simp] theorem Mach.setMset_seed (k : Nat) (x : MSet) : (m.setMset k x).seed = m.seed := rfl
@[simp] theorem Mach.setMset_issue (k : Nat) (x : MSet) : (m.setMset k x).issue = m.issue := rfl
@[simp] theorem Mach.setMset_mem (k : Nat) (x : MSet) : (m.setMset k x).mem = m.mem := rfl
@[simp] theorem Mach.setMset_memChk (k : Nat) (x : MSet) : (m.setMset k x).memChk = m.memChk := rfl
@[simp] theorem Mach.setMset_l2 (k : Nat) (x : MSet) : (m.setMset k x).l2 = m.l2 := rfl
@[simp] theorem Mach.setMset_spad (k : Nat) (x : MSet) : (m.setMset k x).spad = m.spad := rfl
@[simp] theorem Mach.setMset_spadChk (k : Nat) (x : MSet) : (m.setMset k x).spadChk = m.spadChk := rfl
@[simp] theorem Mach.setMset_ctxs (k : Nat) (x : MSet) : (m.setMset k x).ctxs = m.ctxs := rfl
@[simp] theorem Mach.setMset_cores (k : Nat) (x : MSet) : (m.setMset k x).cores = m.cores := rfl
@[simp] theorem Mach.setMset_tasks (k : Nat) (x : MSet) : (m.setMset k x).tasks = m.tasks := rfl
@[simp] theorem Mach.setMset_dies (k : Nat) (x : MSet) : (m.setMset k x).dies = m.dies := rfl
@[simp] theorem Mach.setMset_lqs (k : Nat) (x : MSet) : (m.setMset k x).lqs = m.lqs := rfl
@[simp] theorem Mach.setMset_launches (k : Nat) (x : MSet) : (m.setMset k x).launches = m.launches := rfl
@[simp] theorem Mach.setMset_nextLaunch (k : Nat) (x : MSet) : (m.setMset k x).nextLaunch = m.nextLaunch := rfl
@[simp] theorem Mach.setMset_hwqs (k : Nat) (x : MSet) : (m.setMset k x).hwqs = m.hwqs := rfl
@[simp] theorem Mach.setMset_sets (k : Nat) (x : MSet) : (m.setMset k x).sets = m.sets.put k x := rfl
@[simp] theorem Mach.setMset_grps (k : Nat) (x : MSet) : (m.setMset k x).grps = m.grps := rfl
@[simp] theorem Mach.setMset_arrs (k : Nat) (x : MSet) : (m.setMset k x).arrs = m.arrs := rfl
@[simp] theorem Mach.setMset_spills (k : Nat) (x : MSet) : (m.setMset k x).spills = m.spills := rfl
@[simp] theorem Mach.setMset_nextRead (k : Nat) (x : MSet) : (m.setMset k x).nextRead = m.nextRead := rfl
@[simp] theorem Mach.setMset_routers (k : Nat) (x : MSet) : (m.setMset k x).routers = m.routers := rfl
@[simp] theorem Mach.setMset_msgs (k : Nat) (x : MSet) : (m.setMset k x).msgs = m.msgs := rfl
@[simp] theorem Mach.setMset_changes (k : Nat) (x : MSet) : (m.setMset k x).changes = m.changes := rfl
@[simp] theorem Mach.setMset_anns (k : Nat) (x : MSet) : (m.setMset k x).anns = m.anns := rfl
@[simp] theorem Mach.setMset_claims (k : Nat) (x : MSet) : (m.setMset k x).claims = m.claims := rfl
@[simp] theorem Mach.setMset_colls (k : Nat) (x : MSet) : (m.setMset k x).colls = m.colls := rfl
@[simp] theorem Mach.setMset_touched (k : Nat) (x : MSet) : (m.setMset k x).touched = m.touched := rfl
@[simp] theorem Mach.setMset_links (k : Nat) (x : MSet) : (m.setMset k x).links = m.links := rfl
@[simp] theorem Mach.setMset_ringFail (k : Nat) (x : MSet) : (m.setMset k x).ringFail = m.ringFail := rfl
@[simp] theorem Mach.setMset_hubFail (k : Nat) (x : MSet) : (m.setMset k x).hubFail = m.hubFail := rfl
@[simp] theorem Mach.setMset_hot (k : Nat) (x : MSet) : (m.setMset k x).hot = m.hot := rfl
@[simp] theorem Mach.setMset_hostPort (k : Nat) (x : MSet) : (m.setMset k x).hostPort = m.hostPort := rfl

@[simp] theorem Mach.modGrp_agenda (k : Nat) (f : Grp → Grp) : (m.modGrp k f).agenda = m.agenda := rfl
@[simp] theorem Mach.modGrp_seed (k : Nat) (f : Grp → Grp) : (m.modGrp k f).seed = m.seed := rfl
@[simp] theorem Mach.modGrp_issue (k : Nat) (f : Grp → Grp) : (m.modGrp k f).issue = m.issue := rfl
@[simp] theorem Mach.modGrp_mem (k : Nat) (f : Grp → Grp) : (m.modGrp k f).mem = m.mem := rfl
@[simp] theorem Mach.modGrp_memChk (k : Nat) (f : Grp → Grp) : (m.modGrp k f).memChk = m.memChk := rfl
@[simp] theorem Mach.modGrp_l2 (k : Nat) (f : Grp → Grp) : (m.modGrp k f).l2 = m.l2 := rfl
@[simp] theorem Mach.modGrp_spad (k : Nat) (f : Grp → Grp) : (m.modGrp k f).spad = m.spad := rfl
@[simp] theorem Mach.modGrp_spadChk (k : Nat) (f : Grp → Grp) : (m.modGrp k f).spadChk = m.spadChk := rfl
@[simp] theorem Mach.modGrp_ctxs (k : Nat) (f : Grp → Grp) : (m.modGrp k f).ctxs = m.ctxs := rfl
@[simp] theorem Mach.modGrp_cores (k : Nat) (f : Grp → Grp) : (m.modGrp k f).cores = m.cores := rfl
@[simp] theorem Mach.modGrp_tasks (k : Nat) (f : Grp → Grp) : (m.modGrp k f).tasks = m.tasks := rfl
@[simp] theorem Mach.modGrp_dies (k : Nat) (f : Grp → Grp) : (m.modGrp k f).dies = m.dies := rfl
@[simp] theorem Mach.modGrp_lqs (k : Nat) (f : Grp → Grp) : (m.modGrp k f).lqs = m.lqs := rfl
@[simp] theorem Mach.modGrp_launches (k : Nat) (f : Grp → Grp) : (m.modGrp k f).launches = m.launches := rfl
@[simp] theorem Mach.modGrp_nextLaunch (k : Nat) (f : Grp → Grp) : (m.modGrp k f).nextLaunch = m.nextLaunch := rfl
@[simp] theorem Mach.modGrp_hwqs (k : Nat) (f : Grp → Grp) : (m.modGrp k f).hwqs = m.hwqs := rfl
@[simp] theorem Mach.modGrp_sets (k : Nat) (f : Grp → Grp) : (m.modGrp k f).sets = m.sets := rfl
@[simp] theorem Mach.modGrp_grps (k : Nat) (f : Grp → Grp) : (m.modGrp k f).grps = m.grps.put k (f (m.grp k)) := rfl
@[simp] theorem Mach.modGrp_arrs (k : Nat) (f : Grp → Grp) : (m.modGrp k f).arrs = m.arrs := rfl
@[simp] theorem Mach.modGrp_spills (k : Nat) (f : Grp → Grp) : (m.modGrp k f).spills = m.spills := rfl
@[simp] theorem Mach.modGrp_nextRead (k : Nat) (f : Grp → Grp) : (m.modGrp k f).nextRead = m.nextRead := rfl
@[simp] theorem Mach.modGrp_routers (k : Nat) (f : Grp → Grp) : (m.modGrp k f).routers = m.routers := rfl
@[simp] theorem Mach.modGrp_msgs (k : Nat) (f : Grp → Grp) : (m.modGrp k f).msgs = m.msgs := rfl
@[simp] theorem Mach.modGrp_changes (k : Nat) (f : Grp → Grp) : (m.modGrp k f).changes = m.changes := rfl
@[simp] theorem Mach.modGrp_anns (k : Nat) (f : Grp → Grp) : (m.modGrp k f).anns = m.anns := rfl
@[simp] theorem Mach.modGrp_claims (k : Nat) (f : Grp → Grp) : (m.modGrp k f).claims = m.claims := rfl
@[simp] theorem Mach.modGrp_colls (k : Nat) (f : Grp → Grp) : (m.modGrp k f).colls = m.colls := rfl
@[simp] theorem Mach.modGrp_touched (k : Nat) (f : Grp → Grp) : (m.modGrp k f).touched = m.touched := rfl
@[simp] theorem Mach.modGrp_links (k : Nat) (f : Grp → Grp) : (m.modGrp k f).links = m.links := rfl
@[simp] theorem Mach.modGrp_ringFail (k : Nat) (f : Grp → Grp) : (m.modGrp k f).ringFail = m.ringFail := rfl
@[simp] theorem Mach.modGrp_hubFail (k : Nat) (f : Grp → Grp) : (m.modGrp k f).hubFail = m.hubFail := rfl
@[simp] theorem Mach.modGrp_hot (k : Nat) (f : Grp → Grp) : (m.modGrp k f).hot = m.hot := rfl
@[simp] theorem Mach.modGrp_hostPort (k : Nat) (f : Grp → Grp) : (m.modGrp k f).hostPort = m.hostPort := rfl

@[simp] theorem Mach.modArr_agenda (k : Nat) (f : Arr → Arr) : (m.modArr k f).agenda = m.agenda := rfl
@[simp] theorem Mach.modArr_seed (k : Nat) (f : Arr → Arr) : (m.modArr k f).seed = m.seed := rfl
@[simp] theorem Mach.modArr_issue (k : Nat) (f : Arr → Arr) : (m.modArr k f).issue = m.issue := rfl
@[simp] theorem Mach.modArr_mem (k : Nat) (f : Arr → Arr) : (m.modArr k f).mem = m.mem := rfl
@[simp] theorem Mach.modArr_memChk (k : Nat) (f : Arr → Arr) : (m.modArr k f).memChk = m.memChk := rfl
@[simp] theorem Mach.modArr_l2 (k : Nat) (f : Arr → Arr) : (m.modArr k f).l2 = m.l2 := rfl
@[simp] theorem Mach.modArr_spad (k : Nat) (f : Arr → Arr) : (m.modArr k f).spad = m.spad := rfl
@[simp] theorem Mach.modArr_spadChk (k : Nat) (f : Arr → Arr) : (m.modArr k f).spadChk = m.spadChk := rfl
@[simp] theorem Mach.modArr_ctxs (k : Nat) (f : Arr → Arr) : (m.modArr k f).ctxs = m.ctxs := rfl
@[simp] theorem Mach.modArr_cores (k : Nat) (f : Arr → Arr) : (m.modArr k f).cores = m.cores := rfl
@[simp] theorem Mach.modArr_tasks (k : Nat) (f : Arr → Arr) : (m.modArr k f).tasks = m.tasks := rfl
@[simp] theorem Mach.modArr_dies (k : Nat) (f : Arr → Arr) : (m.modArr k f).dies = m.dies := rfl
@[simp] theorem Mach.modArr_lqs (k : Nat) (f : Arr → Arr) : (m.modArr k f).lqs = m.lqs := rfl
@[simp] theorem Mach.modArr_launches (k : Nat) (f : Arr → Arr) : (m.modArr k f).launches = m.launches := rfl
@[simp] theorem Mach.modArr_nextLaunch (k : Nat) (f : Arr → Arr) : (m.modArr k f).nextLaunch = m.nextLaunch := rfl
@[simp] theorem Mach.modArr_hwqs (k : Nat) (f : Arr → Arr) : (m.modArr k f).hwqs = m.hwqs := rfl
@[simp] theorem Mach.modArr_sets (k : Nat) (f : Arr → Arr) : (m.modArr k f).sets = m.sets := rfl
@[simp] theorem Mach.modArr_grps (k : Nat) (f : Arr → Arr) : (m.modArr k f).grps = m.grps := rfl
@[simp] theorem Mach.modArr_arrs (k : Nat) (f : Arr → Arr) : (m.modArr k f).arrs = m.arrs.put k (f (m.arr k)) := rfl
@[simp] theorem Mach.modArr_spills (k : Nat) (f : Arr → Arr) : (m.modArr k f).spills = m.spills := rfl
@[simp] theorem Mach.modArr_nextRead (k : Nat) (f : Arr → Arr) : (m.modArr k f).nextRead = m.nextRead := rfl
@[simp] theorem Mach.modArr_routers (k : Nat) (f : Arr → Arr) : (m.modArr k f).routers = m.routers := rfl
@[simp] theorem Mach.modArr_msgs (k : Nat) (f : Arr → Arr) : (m.modArr k f).msgs = m.msgs := rfl
@[simp] theorem Mach.modArr_changes (k : Nat) (f : Arr → Arr) : (m.modArr k f).changes = m.changes := rfl
@[simp] theorem Mach.modArr_anns (k : Nat) (f : Arr → Arr) : (m.modArr k f).anns = m.anns := rfl
@[simp] theorem Mach.modArr_claims (k : Nat) (f : Arr → Arr) : (m.modArr k f).claims = m.claims := rfl
@[simp] theorem Mach.modArr_colls (k : Nat) (f : Arr → Arr) : (m.modArr k f).colls = m.colls := rfl
@[simp] theorem Mach.modArr_touched (k : Nat) (f : Arr → Arr) : (m.modArr k f).touched = m.touched := rfl
@[simp] theorem Mach.modArr_links (k : Nat) (f : Arr → Arr) : (m.modArr k f).links = m.links := rfl
@[simp] theorem Mach.modArr_ringFail (k : Nat) (f : Arr → Arr) : (m.modArr k f).ringFail = m.ringFail := rfl
@[simp] theorem Mach.modArr_hubFail (k : Nat) (f : Arr → Arr) : (m.modArr k f).hubFail = m.hubFail := rfl
@[simp] theorem Mach.modArr_hot (k : Nat) (f : Arr → Arr) : (m.modArr k f).hot = m.hot := rfl
@[simp] theorem Mach.modArr_hostPort (k : Nat) (f : Arr → Arr) : (m.modArr k f).hostPort = m.hostPort := rfl

@[simp] theorem Mach.modRouter_agenda (k : Nat) (f : Router → Router) : (m.modRouter k f).agenda = m.agenda := rfl
@[simp] theorem Mach.modRouter_seed (k : Nat) (f : Router → Router) : (m.modRouter k f).seed = m.seed := rfl
@[simp] theorem Mach.modRouter_issue (k : Nat) (f : Router → Router) : (m.modRouter k f).issue = m.issue := rfl
@[simp] theorem Mach.modRouter_mem (k : Nat) (f : Router → Router) : (m.modRouter k f).mem = m.mem := rfl
@[simp] theorem Mach.modRouter_memChk (k : Nat) (f : Router → Router) : (m.modRouter k f).memChk = m.memChk := rfl
@[simp] theorem Mach.modRouter_l2 (k : Nat) (f : Router → Router) : (m.modRouter k f).l2 = m.l2 := rfl
@[simp] theorem Mach.modRouter_spad (k : Nat) (f : Router → Router) : (m.modRouter k f).spad = m.spad := rfl
@[simp] theorem Mach.modRouter_spadChk (k : Nat) (f : Router → Router) : (m.modRouter k f).spadChk = m.spadChk := rfl
@[simp] theorem Mach.modRouter_ctxs (k : Nat) (f : Router → Router) : (m.modRouter k f).ctxs = m.ctxs := rfl
@[simp] theorem Mach.modRouter_cores (k : Nat) (f : Router → Router) : (m.modRouter k f).cores = m.cores := rfl
@[simp] theorem Mach.modRouter_tasks (k : Nat) (f : Router → Router) : (m.modRouter k f).tasks = m.tasks := rfl
@[simp] theorem Mach.modRouter_dies (k : Nat) (f : Router → Router) : (m.modRouter k f).dies = m.dies := rfl
@[simp] theorem Mach.modRouter_lqs (k : Nat) (f : Router → Router) : (m.modRouter k f).lqs = m.lqs := rfl
@[simp] theorem Mach.modRouter_launches (k : Nat) (f : Router → Router) : (m.modRouter k f).launches = m.launches := rfl
@[simp] theorem Mach.modRouter_nextLaunch (k : Nat) (f : Router → Router) : (m.modRouter k f).nextLaunch = m.nextLaunch := rfl
@[simp] theorem Mach.modRouter_hwqs (k : Nat) (f : Router → Router) : (m.modRouter k f).hwqs = m.hwqs := rfl
@[simp] theorem Mach.modRouter_sets (k : Nat) (f : Router → Router) : (m.modRouter k f).sets = m.sets := rfl
@[simp] theorem Mach.modRouter_grps (k : Nat) (f : Router → Router) : (m.modRouter k f).grps = m.grps := rfl
@[simp] theorem Mach.modRouter_arrs (k : Nat) (f : Router → Router) : (m.modRouter k f).arrs = m.arrs := rfl
@[simp] theorem Mach.modRouter_spills (k : Nat) (f : Router → Router) : (m.modRouter k f).spills = m.spills := rfl
@[simp] theorem Mach.modRouter_nextRead (k : Nat) (f : Router → Router) : (m.modRouter k f).nextRead = m.nextRead := rfl
@[simp] theorem Mach.modRouter_routers (k : Nat) (f : Router → Router) : (m.modRouter k f).routers = m.routers.put k (f (m.router k)) := rfl
@[simp] theorem Mach.modRouter_msgs (k : Nat) (f : Router → Router) : (m.modRouter k f).msgs = m.msgs := rfl
@[simp] theorem Mach.modRouter_changes (k : Nat) (f : Router → Router) : (m.modRouter k f).changes = m.changes := rfl
@[simp] theorem Mach.modRouter_anns (k : Nat) (f : Router → Router) : (m.modRouter k f).anns = m.anns := rfl
@[simp] theorem Mach.modRouter_claims (k : Nat) (f : Router → Router) : (m.modRouter k f).claims = m.claims := rfl
@[simp] theorem Mach.modRouter_colls (k : Nat) (f : Router → Router) : (m.modRouter k f).colls = m.colls := rfl
@[simp] theorem Mach.modRouter_touched (k : Nat) (f : Router → Router) : (m.modRouter k f).touched = m.touched := rfl
@[simp] theorem Mach.modRouter_links (k : Nat) (f : Router → Router) : (m.modRouter k f).links = m.links := rfl
@[simp] theorem Mach.modRouter_ringFail (k : Nat) (f : Router → Router) : (m.modRouter k f).ringFail = m.ringFail := rfl
@[simp] theorem Mach.modRouter_hubFail (k : Nat) (f : Router → Router) : (m.modRouter k f).hubFail = m.hubFail := rfl
@[simp] theorem Mach.modRouter_hot (k : Nat) (f : Router → Router) : (m.modRouter k f).hot = m.hot := rfl
@[simp] theorem Mach.modRouter_hostPort (k : Nat) (f : Router → Router) : (m.modRouter k f).hostPort = m.hostPort := rfl

@[simp] theorem Mach.modLink_agenda (k : Nat) (f : Link → Link) : (m.modLink k f).agenda = m.agenda := rfl
@[simp] theorem Mach.modLink_seed (k : Nat) (f : Link → Link) : (m.modLink k f).seed = m.seed := rfl
@[simp] theorem Mach.modLink_issue (k : Nat) (f : Link → Link) : (m.modLink k f).issue = m.issue := rfl
@[simp] theorem Mach.modLink_mem (k : Nat) (f : Link → Link) : (m.modLink k f).mem = m.mem := rfl
@[simp] theorem Mach.modLink_memChk (k : Nat) (f : Link → Link) : (m.modLink k f).memChk = m.memChk := rfl
@[simp] theorem Mach.modLink_l2 (k : Nat) (f : Link → Link) : (m.modLink k f).l2 = m.l2 := rfl
@[simp] theorem Mach.modLink_spad (k : Nat) (f : Link → Link) : (m.modLink k f).spad = m.spad := rfl
@[simp] theorem Mach.modLink_spadChk (k : Nat) (f : Link → Link) : (m.modLink k f).spadChk = m.spadChk := rfl
@[simp] theorem Mach.modLink_ctxs (k : Nat) (f : Link → Link) : (m.modLink k f).ctxs = m.ctxs := rfl
@[simp] theorem Mach.modLink_cores (k : Nat) (f : Link → Link) : (m.modLink k f).cores = m.cores := rfl
@[simp] theorem Mach.modLink_tasks (k : Nat) (f : Link → Link) : (m.modLink k f).tasks = m.tasks := rfl
@[simp] theorem Mach.modLink_dies (k : Nat) (f : Link → Link) : (m.modLink k f).dies = m.dies := rfl
@[simp] theorem Mach.modLink_lqs (k : Nat) (f : Link → Link) : (m.modLink k f).lqs = m.lqs := rfl
@[simp] theorem Mach.modLink_launches (k : Nat) (f : Link → Link) : (m.modLink k f).launches = m.launches := rfl
@[simp] theorem Mach.modLink_nextLaunch (k : Nat) (f : Link → Link) : (m.modLink k f).nextLaunch = m.nextLaunch := rfl
@[simp] theorem Mach.modLink_hwqs (k : Nat) (f : Link → Link) : (m.modLink k f).hwqs = m.hwqs := rfl
@[simp] theorem Mach.modLink_sets (k : Nat) (f : Link → Link) : (m.modLink k f).sets = m.sets := rfl
@[simp] theorem Mach.modLink_grps (k : Nat) (f : Link → Link) : (m.modLink k f).grps = m.grps := rfl
@[simp] theorem Mach.modLink_arrs (k : Nat) (f : Link → Link) : (m.modLink k f).arrs = m.arrs := rfl
@[simp] theorem Mach.modLink_spills (k : Nat) (f : Link → Link) : (m.modLink k f).spills = m.spills := rfl
@[simp] theorem Mach.modLink_nextRead (k : Nat) (f : Link → Link) : (m.modLink k f).nextRead = m.nextRead := rfl
@[simp] theorem Mach.modLink_routers (k : Nat) (f : Link → Link) : (m.modLink k f).routers = m.routers := rfl
@[simp] theorem Mach.modLink_msgs (k : Nat) (f : Link → Link) : (m.modLink k f).msgs = m.msgs := rfl
@[simp] theorem Mach.modLink_changes (k : Nat) (f : Link → Link) : (m.modLink k f).changes = m.changes := rfl
@[simp] theorem Mach.modLink_anns (k : Nat) (f : Link → Link) : (m.modLink k f).anns = m.anns := rfl
@[simp] theorem Mach.modLink_claims (k : Nat) (f : Link → Link) : (m.modLink k f).claims = m.claims := rfl
@[simp] theorem Mach.modLink_colls (k : Nat) (f : Link → Link) : (m.modLink k f).colls = m.colls := rfl
@[simp] theorem Mach.modLink_touched (k : Nat) (f : Link → Link) : (m.modLink k f).touched = m.touched := rfl
@[simp] theorem Mach.modLink_links (k : Nat) (f : Link → Link) : (m.modLink k f).links = m.links.put k (f (m.link k)) := rfl
@[simp] theorem Mach.modLink_ringFail (k : Nat) (f : Link → Link) : (m.modLink k f).ringFail = m.ringFail := rfl
@[simp] theorem Mach.modLink_hubFail (k : Nat) (f : Link → Link) : (m.modLink k f).hubFail = m.hubFail := rfl
@[simp] theorem Mach.modLink_hot (k : Nat) (f : Link → Link) : (m.modLink k f).hot = m.hot := rfl
@[simp] theorem Mach.modLink_hostPort (k : Nat) (f : Link → Link) : (m.modLink k f).hostPort = m.hostPort := rfl

end Sys2Proof.Machine
end

