-- ==== Sys2Proof/Laws/Parts.lean ====
section
/-! SUPPORT. What each update of the machine leaves of each part: the part it names, and every other part as it was. -/

namespace Sys2Proof.Machine

variable (m : Mach)

@[simp] theorem Mach.ctx_setCtx_same (k : Nat) (x : Ctx) : (m.setCtx k x).ctx k = x :=
  SMap.get_put_same _ _ _ _
theorem Mach.ctx_setCtx_of_ne (j k : Nat) (x : Ctx) (h : j ≠ k) : (m.setCtx k x).ctx j = m.ctx j :=
  SMap.get_put_of_ne _ _ _ _ _ h
@[simp] theorem Mach.ctx_modCtx_same (k : Nat) (f : Ctx → Ctx) : (m.modCtx k f).ctx k = f (m.ctx k) :=
  SMap.get_put_same _ _ _ _
theorem Mach.ctx_modCtx_of_ne (j k : Nat) (f : Ctx → Ctx) (h : j ≠ k) : (m.modCtx k f).ctx j = m.ctx j :=
  SMap.get_put_of_ne _ _ _ _ _ h
@[simp] theorem Mach.ctx_modIssue (j : Nat) (f : Issue → Issue) : (m.modIssue f).ctx j = m.ctx j := rfl
@[simp] theorem Mach.ctx_setCore (j : Nat) (k : Nat) (x : Core) : (m.setCore k x).ctx j = m.ctx j := rfl
@[simp] theorem Mach.ctx_modCore (j : Nat) (k : Nat) (f : Core → Core) : (m.modCore k f).ctx j = m.ctx j := rfl
@[simp] theorem Mach.ctx_setTask (j : Nat) (k : Nat) (x : Task) : (m.setTask k x).ctx j = m.ctx j := rfl
@[simp] theorem Mach.ctx_modTask (j : Nat) (k : Nat) (f : Task → Task) : (m.modTask k f).ctx j = m.ctx j := rfl
@[simp] theorem Mach.ctx_setDie (j : Nat) (k : Nat) (x : Die) : (m.setDie k x).ctx j = m.ctx j := rfl
@[simp] theorem Mach.ctx_modDie (j : Nat) (k : Nat) (f : Die → Die) : (m.modDie k f).ctx j = m.ctx j := rfl
@[simp] theorem Mach.ctx_modLq (j : Nat) (k : Nat) (f : Lq → Lq) : (m.modLq k f).ctx j = m.ctx j := rfl
@[simp] theorem Mach.ctx_modLaunch (j : Nat) (k : Nat) (f : Launch → Launch) : (m.modLaunch k f).ctx j = m.ctx j := rfl
@[simp] theorem Mach.ctx_modHwq (j : Nat) (k : Nat) (f : Hwq → Hwq) : (m.modHwq k f).ctx j = m.ctx j := rfl
@[simp] theorem Mach.ctx_setMset (j : Nat) (k : Nat) (x : MSet) : (m.setMset k x).ctx j = m.ctx j := rfl
@[simp] theorem Mach.ctx_modGrp (j : Nat) (k : Nat) (f : Grp → Grp) : (m.modGrp k f).ctx j = m.ctx j := rfl
@[simp] theorem Mach.ctx_modArr (j : Nat) (k : Nat) (f : Arr → Arr) : (m.modArr k f).ctx j = m.ctx j := rfl
@[simp] theorem Mach.ctx_modRouter (j : Nat) (k : Nat) (f : Router → Router) : (m.modRouter k f).ctx j = m.ctx j := rfl
@[simp] theorem Mach.ctx_modLink (j : Nat) (k : Nat) (f : Link → Link) : (m.modLink k f).ctx j = m.ctx j := rfl

@[simp] theorem Mach.core_setCore_same (k : Nat) (x : Core) : (m.setCore k x).core k = x :=
  SMap.get_put_same _ _ _ _
theorem Mach.core_setCore_of_ne (j k : Nat) (x : Core) (h : j ≠ k) : (m.setCore k x).core j = m.core j :=
  SMap.get_put_of_ne _ _ _ _ _ h
@[simp] theorem Mach.core_modCore_same (k : Nat) (f : Core → Core) : (m.modCore k f).core k = f (m.core k) :=
  SMap.get_put_same _ _ _ _
theorem Mach.core_modCore_of_ne (j k : Nat) (f : Core → Core) (h : j ≠ k) : (m.modCore k f).core j = m.core j :=
  SMap.get_put_of_ne _ _ _ _ _ h
@[simp] theorem Mach.core_modIssue (j : Nat) (f : Issue → Issue) : (m.modIssue f).core j = m.core j := rfl
@[simp] theorem Mach.core_setCtx (j : Nat) (k : Nat) (x : Ctx) : (m.setCtx k x).core j = m.core j := rfl
@[simp] theorem Mach.core_modCtx (j : Nat) (k : Nat) (f : Ctx → Ctx) : (m.modCtx k f).core j = m.core j := rfl
@[simp] theorem Mach.core_setTask (j : Nat) (k : Nat) (x : Task) : (m.setTask k x).core j = m.core j := rfl
@[simp] theorem Mach.core_modTask (j : Nat) (k : Nat) (f : Task → Task) : (m.modTask k f).core j = m.core j := rfl
@[simp] theorem Mach.core_setDie (j : Nat) (k : Nat) (x : Die) : (m.setDie k x).core j = m.core j := rfl
@[simp] theorem Mach.core_modDie (j : Nat) (k : Nat) (f : Die → Die) : (m.modDie k f).core j = m.core j := rfl
@[simp] theorem Mach.core_modLq (j : Nat) (k : Nat) (f : Lq → Lq) : (m.modLq k f).core j = m.core j := rfl
@[simp] theorem Mach.core_modLaunch (j : Nat) (k : Nat) (f : Launch → Launch) : (m.modLaunch k f).core j = m.core j := rfl
@[simp] theorem Mach.core_modHwq (j : Nat) (k : Nat) (f : Hwq → Hwq) : (m.modHwq k f).core j = m.core j := rfl
@[simp] theorem Mach.core_setMset (j : Nat) (k : Nat) (x : MSet) : (m.setMset k x).core j = m.core j := rfl
@[simp] theorem Mach.core_modGrp (j : Nat) (k : Nat) (f : Grp → Grp) : (m.modGrp k f).core j = m.core j := rfl
@[simp] theorem Mach.core_modArr (j : Nat) (k : Nat) (f : Arr → Arr) : (m.modArr k f).core j = m.core j := rfl
@[simp] theorem Mach.core_modRouter (j : Nat) (k : Nat) (f : Router → Router) : (m.modRouter k f).core j = m.core j := rfl
@[simp] theorem Mach.core_modLink (j : Nat) (k : Nat) (f : Link → Link) : (m.modLink k f).core j = m.core j := rfl

@[simp] theorem Mach.task_setTask_same (k : Nat) (x : Task) : (m.setTask k x).task k = x :=
  SMap.get_put_same _ _ _ _
theorem Mach.task_setTask_of_ne (j k : Nat) (x : Task) (h : j ≠ k) : (m.setTask k x).task j = m.task j :=
  SMap.get_put_of_ne _ _ _ _ _ h
@[simp] theorem Mach.task_modTask_same (k : Nat) (f : Task → Task) : (m.modTask k f).task k = f (m.task k) :=
  SMap.get_put_same _ _ _ _
theorem Mach.task_modTask_of_ne (j k : Nat) (f : Task → Task) (h : j ≠ k) : (m.modTask k f).task j = m.task j :=
  SMap.get_put_of_ne _ _ _ _ _ h
@[simp] theorem Mach.task_modIssue (j : Nat) (f : Issue → Issue) : (m.modIssue f).task j = m.task j := rfl
@[simp] theorem Mach.task_setCtx (j : Nat) (k : Nat) (x : Ctx) : (m.setCtx k x).task j = m.task j := rfl
@[simp] theorem Mach.task_modCtx (j : Nat) (k : Nat) (f : Ctx → Ctx) : (m.modCtx k f).task j = m.task j := rfl
@[simp] theorem Mach.task_setCore (j : Nat) (k : Nat) (x : Core) : (m.setCore k x).task j = m.task j := rfl
@[simp] theorem Mach.task_modCore (j : Nat) (k : Nat) (f : Core → Core) : (m.modCore k f).task j = m.task j := rfl
@[simp] theorem Mach.task_setDie (j : Nat) (k : Nat) (x : Die) : (m.setDie k x).task j = m.task j := rfl
@[simp] theorem Mach.task_modDie (j : Nat) (k : Nat) (f : Die → Die) : (m.modDie k f).task j = m.task j := rfl
@[simp] theorem Mach.task_modLq (j : Nat) (k : Nat) (f : Lq → Lq) : (m.modLq k f).task j = m.task j := rfl
@[simp] theorem Mach.task_modLaunch (j : Nat) (k : Nat) (f : Launch → Launch) : (m.modLaunch k f).task j = m.task j := rfl
@[simp] theorem Mach.task_modHwq (j : Nat) (k : Nat) (f : Hwq → Hwq) : (m.modHwq k f).task j = m.task j := rfl
@[simp] theorem Mach.task_setMset (j : Nat) (k : Nat) (x : MSet) : (m.setMset k x).task j = m.task j := rfl
@[simp] theorem Mach.task_modGrp (j : Nat) (k : Nat) (f : Grp → Grp) : (m.modGrp k f).task j = m.task j := rfl
@[simp] theorem Mach.task_modArr (j : Nat) (k : Nat) (f : Arr → Arr) : (m.modArr k f).task j = m.task j := rfl
@[simp] theorem Mach.task_modRouter (j : Nat) (k : Nat) (f : Router → Router) : (m.modRouter k f).task j = m.task j := rfl
@[simp] theorem Mach.task_modLink (j : Nat) (k : Nat) (f : Link → Link) : (m.modLink k f).task j = m.task j := rfl

@[simp] theorem Mach.die_setDie_same (k : Nat) (x : Die) : (m.setDie k x).die k = x :=
  SMap.get_put_same _ _ _ _
theorem Mach.die_setDie_of_ne (j k : Nat) (x : Die) (h : j ≠ k) : (m.setDie k x).die j = m.die j :=
  SMap.get_put_of_ne _ _ _ _ _ h
@[simp] theorem Mach.die_modDie_same (k : Nat) (f : Die → Die) : (m.modDie k f).die k = f (m.die k) :=
  SMap.get_put_same _ _ _ _
theorem Mach.die_modDie_of_ne (j k : Nat) (f : Die → Die) (h : j ≠ k) : (m.modDie k f).die j = m.die j :=
  SMap.get_put_of_ne _ _ _ _ _ h
@[simp] theorem Mach.die_modIssue (j : Nat) (f : Issue → Issue) : (m.modIssue f).die j = m.die j := rfl
@[simp] theorem Mach.die_setCtx (j : Nat) (k : Nat) (x : Ctx) : (m.setCtx k x).die j = m.die j := rfl
@[simp] theorem Mach.die_modCtx (j : Nat) (k : Nat) (f : Ctx → Ctx) : (m.modCtx k f).die j = m.die j := rfl
@[simp] theorem Mach.die_setCore (j : Nat) (k : Nat) (x : Core) : (m.setCore k x).die j = m.die j := rfl
@[simp] theorem Mach.die_modCore (j : Nat) (k : Nat) (f : Core → Core) : (m.modCore k f).die j = m.die j := rfl
@[simp] theorem Mach.die_setTask (j : Nat) (k : Nat) (x : Task) : (m.setTask k x).die j = m.die j := rfl
@[simp] theorem Mach.die_modTask (j : Nat) (k : Nat) (f : Task → Task) : (m.modTask k f).die j = m.die j := rfl
@[simp] theorem Mach.die_modLq (j : Nat) (k : Nat) (f : Lq → Lq) : (m.modLq k f).die j = m.die j := rfl
@[simp] theorem Mach.die_modLaunch (j : Nat) (k : Nat) (f : Launch → Launch) : (m.modLaunch k f).die j = m.die j := rfl
@[simp] theorem Mach.die_modHwq (j : Nat) (k : Nat) (f : Hwq → Hwq) : (m.modHwq k f).die j = m.die j := rfl
@[simp] theorem Mach.die_setMset (j : Nat) (k : Nat) (x : MSet) : (m.setMset k x).die j = m.die j := rfl
@[simp] theorem Mach.die_modGrp (j : Nat) (k : Nat) (f : Grp → Grp) : (m.modGrp k f).die j = m.die j := rfl
@[simp] theorem Mach.die_modArr (j : Nat) (k : Nat) (f : Arr → Arr) : (m.modArr k f).die j = m.die j := rfl
@[simp] theorem Mach.die_modRouter (j : Nat) (k : Nat) (f : Router → Router) : (m.modRouter k f).die j = m.die j := rfl
@[simp] theorem Mach.die_modLink (j : Nat) (k : Nat) (f : Link → Link) : (m.modLink k f).die j = m.die j := rfl

@[simp] theorem Mach.lq_modLq_same (k : Nat) (f : Lq → Lq) : (m.modLq k f).lq k = f (m.lq k) :=
  SMap.get_put_same _ _ _ _
theorem Mach.lq_modLq_of_ne (j k : Nat) (f : Lq → Lq) (h : j ≠ k) : (m.modLq k f).lq j = m.lq j :=
  SMap.get_put_of_ne _ _ _ _ _ h
@[simp] theorem Mach.lq_modIssue (j : Nat) (f : Issue → Issue) : (m.modIssue f).lq j = m.lq j := rfl
@[simp] theorem Mach.lq_setCtx (j : Nat) (k : Nat) (x : Ctx) : (m.setCtx k x).lq j = m.lq j := rfl
@[simp] theorem Mach.lq_modCtx (j : Nat) (k : Nat) (f : Ctx → Ctx) : (m.modCtx k f).lq j = m.lq j := rfl
@[simp] theorem Mach.lq_setCore (j : Nat) (k : Nat) (x : Core) : (m.setCore k x).lq j = m.lq j := rfl
@[simp] theorem Mach.lq_modCore (j : Nat) (k : Nat) (f : Core → Core) : (m.modCore k f).lq j = m.lq j := rfl
@[simp] theorem Mach.lq_setTask (j : Nat) (k : Nat) (x : Task) : (m.setTask k x).lq j = m.lq j := rfl
@[simp] theorem Mach.lq_modTask (j : Nat) (k : Nat) (f : Task → Task) : (m.modTask k f).lq j = m.lq j := rfl
@[simp] theorem Mach.lq_setDie (j : Nat) (k : Nat) (x : Die) : (m.setDie k x).lq j = m.lq j := rfl
@[simp] theorem Mach.lq_modDie (j : Nat) (k : Nat) (f : Die → Die) : (m.modDie k f).lq j = m.lq j := rfl
@[simp] theorem Mach.lq_modLaunch (j : Nat) (k : Nat) (f : Launch → Launch) : (m.modLaunch k f).lq j = m.lq j := rfl
@[simp] theorem Mach.lq_modHwq (j : Nat) (k : Nat) (f : Hwq → Hwq) : (m.modHwq k f).lq j = m.lq j := rfl
@[simp] theorem Mach.lq_setMset (j : Nat) (k : Nat) (x : MSet) : (m.setMset k x).lq j = m.lq j := rfl
@[simp] theorem Mach.lq_modGrp (j : Nat) (k : Nat) (f : Grp → Grp) : (m.modGrp k f).lq j = m.lq j := rfl
@[simp] theorem Mach.lq_modArr (j : Nat) (k : Nat) (f : Arr → Arr) : (m.modArr k f).lq j = m.lq j := rfl
@[simp] theorem Mach.lq_modRouter (j : Nat) (k : Nat) (f : Router → Router) : (m.modRouter k f).lq j = m.lq j := rfl
@[simp] theorem Mach.lq_modLink (j : Nat) (k : Nat) (f : Link → Link) : (m.modLink k f).lq j = m.lq j := rfl

@[simp] theorem Mach.launch_modLaunch_same (k : Nat) (f : Launch → Launch) : (m.modLaunch k f).launch k = f (m.launch k) :=
  SMap.get_put_same _ _ _ _
theorem Mach.launch_modLaunch_of_ne (j k : Nat) (f : Launch → Launch) (h : j ≠ k) : (m.modLaunch k f).launch j = m.launch j :=
  SMap.get_put_of_ne _ _ _ _ _ h
@[simp] theorem Mach.launch_modIssue (j : Nat) (f : Issue → Issue) : (m.modIssue f).launch j = m.launch j := rfl
@[simp] theorem Mach.launch_setCtx (j : Nat) (k : Nat) (x : Ctx) : (m.setCtx k x).launch j = m.launch j := rfl
@[simp] theorem Mach.launch_modCtx (j : Nat) (k : Nat) (f : Ctx → Ctx) : (m.modCtx k f).launch j = m.launch j := rfl
@[simp] theorem Mach.launch_setCore (j : Nat) (k : Nat) (x : Core) : (m.setCore k x).launch j = m.launch j := rfl
@[simp] theorem Mach.launch_modCore (j : Nat) (k : Nat) (f : Core → Core) : (m.modCore k f).launch j = m.launch j := rfl
@[simp] theorem Mach.launch_setTask (j : Nat) (k : Nat) (x : Task) : (m.setTask k x).launch j = m.launch j := rfl
@[simp] theorem Mach.launch_modTask (j : Nat) (k : Nat) (f : Task → Task) : (m.modTask k f).launch j = m.launch j := rfl
@[simp] theorem Mach.launch_setDie (j : Nat) (k : Nat) (x : Die) : (m.setDie k x).launch j = m.launch j := rfl
@[simp] theorem Mach.launch_modDie (j : Nat) (k : Nat) (f : Die → Die) : (m.modDie k f).launch j = m.launch j := rfl
@[simp] theorem Mach.launch_modLq (j : Nat) (k : Nat) (f : Lq → Lq) : (m.modLq k f).launch j = m.launch j := rfl
@[simp] theorem Mach.launch_modHwq (j : Nat) (k : Nat) (f : Hwq → Hwq) : (m.modHwq k f).launch j = m.launch j := rfl
@[simp] theorem Mach.launch_setMset (j : Nat) (k : Nat) (x : MSet) : (m.setMset k x).launch j = m.launch j := rfl
@[simp] theorem Mach.launch_modGrp (j : Nat) (k : Nat) (f : Grp → Grp) : (m.modGrp k f).launch j = m.launch j := rfl
@[simp] theorem Mach.launch_modArr (j : Nat) (k : Nat) (f : Arr → Arr) : (m.modArr k f).launch j = m.launch j := rfl
@[simp] theorem Mach.launch_modRouter (j : Nat) (k : Nat) (f : Router → Router) : (m.modRouter k f).launch j = m.launch j := rfl
@[simp] theorem Mach.launch_modLink (j : Nat) (k : Nat) (f : Link → Link) : (m.modLink k f).launch j = m.launch j := rfl

@[simp] theorem Mach.hwq_modHwq_same (k : Nat) (f : Hwq → Hwq) : (m.modHwq k f).hwq k = f (m.hwq k) :=
  SMap.get_put_same _ _ _ _
theorem Mach.hwq_modHwq_of_ne (j k : Nat) (f : Hwq → Hwq) (h : j ≠ k) : (m.modHwq k f).hwq j = m.hwq j :=
  SMap.get_put_of_ne _ _ _ _ _ h
@[simp] theorem Mach.hwq_modIssue (j : Nat) (f : Issue → Issue) : (m.modIssue f).hwq j = m.hwq j := rfl
@[simp] theorem Mach.hwq_setCtx (j : Nat) (k : Nat) (x : Ctx) : (m.setCtx k x).hwq j = m.hwq j := rfl
@[simp] theorem Mach.hwq_modCtx (j : Nat) (k : Nat) (f : Ctx → Ctx) : (m.modCtx k f).hwq j = m.hwq j := rfl
@[simp] theorem Mach.hwq_setCore (j : Nat) (k : Nat) (x : Core) : (m.setCore k x).hwq j = m.hwq j := rfl
@[simp] theorem Mach.hwq_modCore (j : Nat) (k : Nat) (f : Core → Core) : (m.modCore k f).hwq j = m.hwq j := rfl
@[simp] theorem Mach.hwq_setTask (j : Nat) (k : Nat) (x : Task) : (m.setTask k x).hwq j = m.hwq j := rfl
@[simp] theorem Mach.hwq_modTask (j : Nat) (k : Nat) (f : Task → Task) : (m.modTask k f).hwq j = m.hwq j := rfl
@[simp] theorem Mach.hwq_setDie (j : Nat) (k : Nat) (x : Die) : (m.setDie k x).hwq j = m.hwq j := rfl
@[simp] theorem Mach.hwq_modDie (j : Nat) (k : Nat) (f : Die → Die) : (m.modDie k f).hwq j = m.hwq j := rfl
@[simp] theorem Mach.hwq_modLq (j : Nat) (k : Nat) (f : Lq → Lq) : (m.modLq k f).hwq j = m.hwq j := rfl
@[simp] theorem Mach.hwq_modLaunch (j : Nat) (k : Nat) (f : Launch → Launch) : (m.modLaunch k f).hwq j = m.hwq j := rfl
@[simp] theorem Mach.hwq_setMset (j : Nat) (k : Nat) (x : MSet) : (m.setMset k x).hwq j = m.hwq j := rfl
@[simp] theorem Mach.hwq_modGrp (j : Nat) (k : Nat) (f : Grp → Grp) : (m.modGrp k f).hwq j = m.hwq j := rfl
@[simp] theorem Mach.hwq_modArr (j : Nat) (k : Nat) (f : Arr → Arr) : (m.modArr k f).hwq j = m.hwq j := rfl
@[simp] theorem Mach.hwq_modRouter (j : Nat) (k : Nat) (f : Router → Router) : (m.modRouter k f).hwq j = m.hwq j := rfl
@[simp] theorem Mach.hwq_modLink (j : Nat) (k : Nat) (f : Link → Link) : (m.modLink k f).hwq j = m.hwq j := rfl

@[simp] theorem Mach.mset_setMset_same (k : Nat) (x : MSet) : (m.setMset k x).mset k = x :=
  SMap.get_put_same _ _ _ _
theorem Mach.mset_setMset_of_ne (j k : Nat) (x : MSet) (h : j ≠ k) : (m.setMset k x).mset j = m.mset j :=
  SMap.get_put_of_ne _ _ _ _ _ h
@[simp] theorem Mach.mset_modIssue (j : Nat) (f : Issue → Issue) : (m.modIssue f).mset j = m.mset j := rfl
@[simp] theorem Mach.mset_setCtx (j : Nat) (k : Nat) (x : Ctx) : (m.setCtx k x).mset j = m.mset j := rfl
@[simp] theorem Mach.mset_modCtx (j : Nat) (k : Nat) (f : Ctx → Ctx) : (m.modCtx k f).mset j = m.mset j := rfl
@[simp] theorem Mach.mset_setCore (j : Nat) (k : Nat) (x : Core) : (m.setCore k x).mset j = m.mset j := rfl
@[simp] theorem Mach.mset_modCore (j : Nat) (k : Nat) (f : Core → Core) : (m.modCore k f).mset j = m.mset j := rfl
@[simp] theorem Mach.mset_setTask (j : Nat) (k : Nat) (x : Task) : (m.setTask k x).mset j = m.mset j := rfl
@[simp] theorem Mach.mset_modTask (j : Nat) (k : Nat) (f : Task → Task) : (m.modTask k f).mset j = m.mset j := rfl
@[simp] theorem Mach.mset_setDie (j : Nat) (k : Nat) (x : Die) : (m.setDie k x).mset j = m.mset j := rfl
@[simp] theorem Mach.mset_modDie (j : Nat) (k : Nat) (f : Die → Die) : (m.modDie k f).mset j = m.mset j := rfl
@[simp] theorem Mach.mset_modLq (j : Nat) (k : Nat) (f : Lq → Lq) : (m.modLq k f).mset j = m.mset j := rfl
@[simp] theorem Mach.mset_modLaunch (j : Nat) (k : Nat) (f : Launch → Launch) : (m.modLaunch k f).mset j = m.mset j := rfl
@[simp] theorem Mach.mset_modHwq (j : Nat) (k : Nat) (f : Hwq → Hwq) : (m.modHwq k f).mset j = m.mset j := rfl
@[simp] theorem Mach.mset_modGrp (j : Nat) (k : Nat) (f : Grp → Grp) : (m.modGrp k f).mset j = m.mset j := rfl
@[simp] theorem Mach.mset_modArr (j : Nat) (k : Nat) (f : Arr → Arr) : (m.modArr k f).mset j = m.mset j := rfl
@[simp] theorem Mach.mset_modRouter (j : Nat) (k : Nat) (f : Router → Router) : (m.modRouter k f).mset j = m.mset j := rfl
@[simp] theorem Mach.mset_modLink (j : Nat) (k : Nat) (f : Link → Link) : (m.modLink k f).mset j = m.mset j := rfl

@[simp] theorem Mach.grp_modGrp_same (k : Nat) (f : Grp → Grp) : (m.modGrp k f).grp k = f (m.grp k) :=
  SMap.get_put_same _ _ _ _
theorem Mach.grp_modGrp_of_ne (j k : Nat) (f : Grp → Grp) (h : j ≠ k) : (m.modGrp k f).grp j = m.grp j :=
  SMap.get_put_of_ne _ _ _ _ _ h
@[simp] theorem Mach.grp_modIssue (j : Nat) (f : Issue → Issue) : (m.modIssue f).grp j = m.grp j := rfl
@[simp] theorem Mach.grp_setCtx (j : Nat) (k : Nat) (x : Ctx) : (m.setCtx k x).grp j = m.grp j := rfl
@[simp] theorem Mach.grp_modCtx (j : Nat) (k : Nat) (f : Ctx → Ctx) : (m.modCtx k f).grp j = m.grp j := rfl
@[simp] theorem Mach.grp_setCore (j : Nat) (k : Nat) (x : Core) : (m.setCore k x).grp j = m.grp j := rfl
@[simp] theorem Mach.grp_modCore (j : Nat) (k : Nat) (f : Core → Core) : (m.modCore k f).grp j = m.grp j := rfl
@[simp] theorem Mach.grp_setTask (j : Nat) (k : Nat) (x : Task) : (m.setTask k x).grp j = m.grp j := rfl
@[simp] theorem Mach.grp_modTask (j : Nat) (k : Nat) (f : Task → Task) : (m.modTask k f).grp j = m.grp j := rfl
@[simp] theorem Mach.grp_setDie (j : Nat) (k : Nat) (x : Die) : (m.setDie k x).grp j = m.grp j := rfl
@[simp] theorem Mach.grp_modDie (j : Nat) (k : Nat) (f : Die → Die) : (m.modDie k f).grp j = m.grp j := rfl
@[simp] theorem Mach.grp_modLq (j : Nat) (k : Nat) (f : Lq → Lq) : (m.modLq k f).grp j = m.grp j := rfl
@[simp] theorem Mach.grp_modLaunch (j : Nat) (k : Nat) (f : Launch → Launch) : (m.modLaunch k f).grp j = m.grp j := rfl
@[simp] theorem Mach.grp_modHwq (j : Nat) (k : Nat) (f : Hwq → Hwq) : (m.modHwq k f).grp j = m.grp j := rfl
@[simp] theorem Mach.grp_setMset (j : Nat) (k : Nat) (x : MSet) : (m.setMset k x).grp j = m.grp j := rfl
@[simp] theorem Mach.grp_modArr (j : Nat) (k : Nat) (f : Arr → Arr) : (m.modArr k f).grp j = m.grp j := rfl
@[simp] theorem Mach.grp_modRouter (j : Nat) (k : Nat) (f : Router → Router) : (m.modRouter k f).grp j = m.grp j := rfl
@[simp] theorem Mach.grp_modLink (j : Nat) (k : Nat) (f : Link → Link) : (m.modLink k f).grp j = m.grp j := rfl

@[simp] theorem Mach.arr_modArr_same (k : Nat) (f : Arr → Arr) : (m.modArr k f).arr k = f (m.arr k) :=
  SMap.get_put_same _ _ _ _
theorem Mach.arr_modArr_of_ne (j k : Nat) (f : Arr → Arr) (h : j ≠ k) : (m.modArr k f).arr j = m.arr j :=
  SMap.get_put_of_ne _ _ _ _ _ h
@[simp] theorem Mach.arr_modIssue (j : Nat) (f : Issue → Issue) : (m.modIssue f).arr j = m.arr j := rfl
@[simp] theorem Mach.arr_setCtx (j : Nat) (k : Nat) (x : Ctx) : (m.setCtx k x).arr j = m.arr j := rfl
@[simp] theorem Mach.arr_modCtx (j : Nat) (k : Nat) (f : Ctx → Ctx) : (m.modCtx k f).arr j = m.arr j := rfl
@[simp] theorem Mach.arr_setCore (j : Nat) (k : Nat) (x : Core) : (m.setCore k x).arr j = m.arr j := rfl
@[simp] theorem Mach.arr_modCore (j : Nat) (k : Nat) (f : Core → Core) : (m.modCore k f).arr j = m.arr j := rfl
@[simp] theorem Mach.arr_setTask (j : Nat) (k : Nat) (x : Task) : (m.setTask k x).arr j = m.arr j := rfl
@[simp] theorem Mach.arr_modTask (j : Nat) (k : Nat) (f : Task → Task) : (m.modTask k f).arr j = m.arr j := rfl
@[simp] theorem Mach.arr_setDie (j : Nat) (k : Nat) (x : Die) : (m.setDie k x).arr j = m.arr j := rfl
@[simp] theorem Mach.arr_modDie (j : Nat) (k : Nat) (f : Die → Die) : (m.modDie k f).arr j = m.arr j := rfl
@[simp] theorem Mach.arr_modLq (j : Nat) (k : Nat) (f : Lq → Lq) : (m.modLq k f).arr j = m.arr j := rfl
@[simp] theorem Mach.arr_modLaunch (j : Nat) (k : Nat) (f : Launch → Launch) : (m.modLaunch k f).arr j = m.arr j := rfl
@[simp] theorem Mach.arr_modHwq (j : Nat) (k : Nat) (f : Hwq → Hwq) : (m.modHwq k f).arr j = m.arr j := rfl
@[simp] theorem Mach.arr_setMset (j : Nat) (k : Nat) (x : MSet) : (m.setMset k x).arr j = m.arr j := rfl
@[simp] theorem Mach.arr_modGrp (j : Nat) (k : Nat) (f : Grp → Grp) : (m.modGrp k f).arr j = m.arr j := rfl
@[simp] theorem Mach.arr_modRouter (j : Nat) (k : Nat) (f : Router → Router) : (m.modRouter k f).arr j = m.arr j := rfl
@[simp] theorem Mach.arr_modLink (j : Nat) (k : Nat) (f : Link → Link) : (m.modLink k f).arr j = m.arr j := rfl

@[simp] theorem Mach.router_modRouter_same (k : Nat) (f : Router → Router) : (m.modRouter k f).router k = f (m.router k) :=
  SMap.get_put_same _ _ _ _
theorem Mach.router_modRouter_of_ne (j k : Nat) (f : Router → Router) (h : j ≠ k) : (m.modRouter k f).router j = m.router j :=
  SMap.get_put_of_ne _ _ _ _ _ h
@[simp] theorem Mach.router_modIssue (j : Nat) (f : Issue → Issue) : (m.modIssue f).router j = m.router j := rfl
@[simp] theorem Mach.router_setCtx (j : Nat) (k : Nat) (x : Ctx) : (m.setCtx k x).router j = m.router j := rfl
@[simp] theorem Mach.router_modCtx (j : Nat) (k : Nat) (f : Ctx → Ctx) : (m.modCtx k f).router j = m.router j := rfl
@[simp] theorem Mach.router_setCore (j : Nat) (k : Nat) (x : Core) : (m.setCore k x).router j = m.router j := rfl
@[simp] theorem Mach.router_modCore (j : Nat) (k : Nat) (f : Core → Core) : (m.modCore k f).router j = m.router j := rfl
@[simp] theorem Mach.router_setTask (j : Nat) (k : Nat) (x : Task) : (m.setTask k x).router j = m.router j := rfl
@[simp] theorem Mach.router_modTask (j : Nat) (k : Nat) (f : Task → Task) : (m.modTask k f).router j = m.router j := rfl
@[simp] theorem Mach.router_setDie (j : Nat) (k : Nat) (x : Die) : (m.setDie k x).router j = m.router j := rfl
@[simp] theorem Mach.router_modDie (j : Nat) (k : Nat) (f : Die → Die) : (m.modDie k f).router j = m.router j := rfl
@[simp] theorem Mach.router_modLq (j : Nat) (k : Nat) (f : Lq → Lq) : (m.modLq k f).router j = m.router j := rfl
@[simp] theorem Mach.router_modLaunch (j : Nat) (k : Nat) (f : Launch → Launch) : (m.modLaunch k f).router j = m.router j := rfl
@[simp] theorem Mach.router_modHwq (j : Nat) (k : Nat) (f : Hwq → Hwq) : (m.modHwq k f).router j = m.router j := rfl
@[simp] theorem Mach.router_setMset (j : Nat) (k : Nat) (x : MSet) : (m.setMset k x).router j = m.router j := rfl
@[simp] theorem Mach.router_modGrp (j : Nat) (k : Nat) (f : Grp → Grp) : (m.modGrp k f).router j = m.router j := rfl
@[simp] theorem Mach.router_modArr (j : Nat) (k : Nat) (f : Arr → Arr) : (m.modArr k f).router j = m.router j := rfl
@[simp] theorem Mach.router_modLink (j : Nat) (k : Nat) (f : Link → Link) : (m.modLink k f).router j = m.router j := rfl

@[simp] theorem Mach.link_modLink_same (k : Nat) (f : Link → Link) : (m.modLink k f).link k = f (m.link k) :=
  SMap.get_put_same _ _ _ _
theorem Mach.link_modLink_of_ne (j k : Nat) (f : Link → Link) (h : j ≠ k) : (m.modLink k f).link j = m.link j :=
  SMap.get_put_of_ne _ _ _ _ _ h
@[simp] theorem Mach.link_modIssue (j : Nat) (f : Issue → Issue) : (m.modIssue f).link j = m.link j := rfl
@[simp] theorem Mach.link_setCtx (j : Nat) (k : Nat) (x : Ctx) : (m.setCtx k x).link j = m.link j := rfl
@[simp] theorem Mach.link_modCtx (j : Nat) (k : Nat) (f : Ctx → Ctx) : (m.modCtx k f).link j = m.link j := rfl
@[simp] theorem Mach.link_setCore (j : Nat) (k : Nat) (x : Core) : (m.setCore k x).link j = m.link j := rfl
@[simp] theorem Mach.link_modCore (j : Nat) (k : Nat) (f : Core → Core) : (m.modCore k f).link j = m.link j := rfl
@[simp] theorem Mach.link_setTask (j : Nat) (k : Nat) (x : Task) : (m.setTask k x).link j = m.link j := rfl
@[simp] theorem Mach.link_modTask (j : Nat) (k : Nat) (f : Task → Task) : (m.modTask k f).link j = m.link j := rfl
@[simp] theorem Mach.link_setDie (j : Nat) (k : Nat) (x : Die) : (m.setDie k x).link j = m.link j := rfl
@[simp] theorem Mach.link_modDie (j : Nat) (k : Nat) (f : Die → Die) : (m.modDie k f).link j = m.link j := rfl
@[simp] theorem Mach.link_modLq (j : Nat) (k : Nat) (f : Lq → Lq) : (m.modLq k f).link j = m.link j := rfl
@[simp] theorem Mach.link_modLaunch (j : Nat) (k : Nat) (f : Launch → Launch) : (m.modLaunch k f).link j = m.link j := rfl
@[simp] theorem Mach.link_modHwq (j : Nat) (k : Nat) (f : Hwq → Hwq) : (m.modHwq k f).link j = m.link j := rfl
@[simp] theorem Mach.link_setMset (j : Nat) (k : Nat) (x : MSet) : (m.setMset k x).link j = m.link j := rfl
@[simp] theorem Mach.link_modGrp (j : Nat) (k : Nat) (f : Grp → Grp) : (m.modGrp k f).link j = m.link j := rfl
@[simp] theorem Mach.link_modArr (j : Nat) (k : Nat) (f : Arr → Arr) : (m.modArr k f).link j = m.link j := rfl
@[simp] theorem Mach.link_modRouter (j : Nat) (k : Nat) (f : Router → Router) : (m.modRouter k f).link j = m.link j := rfl

@[simp] theorem Mach.cur_modCur (f : Ctx → Ctx) : (m.modCur f).cur = f m.cur := SMap.get_put_same _ _ _ _
@[simp] theorem Mach.cur_modIssue (f : Issue → Issue) (h : (f m.issue).ck = m.issue.ck) :
    (m.modIssue f).cur = m.cur := by simp only [Mach.cur, Mach.modIssue_issue, Mach.ctx_modIssue, h]
@[simp] theorem Mach.curTask_modCurTask (f : Task → Task) : (m.modCurTask f).curTask = f m.curTask :=
  SMap.get_put_same _ _ _ _
theorem Mach.ctx_modCur_of_ne (j : Nat) (f : Ctx → Ctx) (h : j ≠ m.issue.ck) : (m.modCur f).ctx j = m.ctx j :=
  SMap.get_put_of_ne _ _ _ _ _ h
theorem Mach.modCur_modCur (f g : Ctx → Ctx) : (m.modCur f).modCur g = m.modCur fun c => g (f c) := by
  simp only [Mach.modCur, Mach.modCtx, Mach.setCtx, Mach.ctx, SMap.get_put_same, SMap.put_put_same]
theorem Mach.modIssue_modIssue (f g : Issue → Issue) : (m.modIssue f).modIssue g = m.modIssue fun i => g (f i) := rfl

end Sys2Proof.Machine
end

