-- ==== Sys2Proof/Laws/Slot.lean ====
section
/-! SUPPORT. What a slot can do: it does nothing, or acts, or stops, and what each of its reads delivers. -/

namespace Sys2Proof.Machine

/-! ### The monad of the meanings -/

section monad

variable {α β : Type} {a : M α} {f : α → M β} {e : Env} {m m' : Mach} {x : α} {st : Stop}

theorem bind_ok (h : a e m = .ok x m') : (a >>= f) e m = f x e m' := by
  show EStateM.bind (a e) (fun x => f x e) m = _
  simp only [EStateM.bind, h]

theorem bind_error (h : a e m = .error st m') : (a >>= f) e m = .error st m' := by
  show EStateM.bind (a e) (fun x => f x e) m = _
  simp only [EStateM.bind, h]

theorem pure_ok : (pure x : M α) e m = .ok x m := rfl

theorem get_ok : (get : M Mach) e m = .ok m m := rfl

theorem read_ok : (read : M Env) e m = .ok e m := rfl

theorem modify_ok (g : Mach → Mach) : (modify g : M Unit) e m = .ok () (g m) := rfl

theorem throw_error (st : Stop) : (throw st : M α) e m = .error st m := rfl

theorem trap_error (c : Nat) (v : W64) : (trap c v : M α) e m = .error (.trap c v) m := rfl

theorem block_error (w : Wait) (v : W64) (b : Bool) : (block w v b : M α) e m = .error (.block w v b) m := rfl

end monad

/-! ### Reading -/

section reading

variable (s : State) (i : Instr)

@[simp] theorem began_issue_slot : (s.m.began i).issue.slot = s.m.issue.slot := by
  unfold Mach.began; split <;> rfl
@[simp] theorem began_issue_ck : (s.m.began i).issue.ck = s.m.issue.ck := by
  unfold Mach.began; split <;> rfl
@[simp] theorem began_cur : (s.m.began i).cur = s.m.cur := by
  unfold Mach.began; split <;> rfl
@[simp] theorem began_ports : (s.m.began i).issue.ports = s.m.issue.ports := by
  unfold Mach.began; split <;> rfl
@[simp] theorem began_start : (s.m.began i).issue.start = s.m.issue.start := by
  unfold Mach.began; split <;> rfl
@[simp] theorem began_snaps : (s.m.began i).issue.snaps = s.m.issue.snaps := by
  unfold Mach.began; split <;> rfl
@[simp] theorem began_moved : (s.m.began i).issue.moved = s.m.issue.moved := by
  unfold Mach.began; split <;> rfl

theorem slotSource_began (e : Env) (k : Nat) (src : Src) :
    slotSource e (s.m.began i) k src = slotSource e s.m k src := by
  unfold Mach.began
  split <;> rfl

theorem badOperand_began (k : Nat) (src : Src) : badOperand (s.m.began i) k src = badOperand s.m k src := by
  unfold Mach.began
  split <;> rfl

variable {s} {i}

theorem operand_ok {src : Src} {x : W512} (h : s.Reads src x) :
    operand src ⟨s.boot, s.clk⟩ (s.m.began i) = .ok x (s.m.began i) := by
  obtain ⟨h, hb⟩ := h
  unfold operand
  rw [bind_ok get_ok, bind_ok read_ok, began_issue_slot, slotSource_began, h]
  simp only [badOperand_began, hb]
  rfl

theorem operand64_ok {src : Src} {x : W512} (h : s.Reads src x) :
    operand64 src ⟨s.boot, s.clk⟩ (s.m.began i) = .ok (x.setWidth 64) (s.m.began i) := by
  unfold operand64
  rw [bind_ok (operand_ok h)]
  rfl

theorem port_ok {f k : Nat} {x : W512} (h : s.Port f k x) :
    port f k ⟨s.boot, s.clk⟩ (s.m.began i) = .ok x (s.m.began i) := by
  obtain ⟨h, hb⟩ := h
  unfold port
  rw [bind_ok get_ok]
  simp only [began_start, began_moved, hb, began_ports, h]
  rfl

theorem port64_ok {f k : Nat} {x : W512} (h : s.Port f k x) :
    port64 f k ⟨s.boot, s.clk⟩ (s.m.began i) = .ok (x.setWidth 64) (s.m.began i) := by
  unfold port64
  rw [bind_ok (port_ok h)]
  rfl

theorem result_ok {e : Env} {m : Mach} (q lat : Nat) (v : W512) :
    result q lat v e m = .ok () (m.modCur fun c =>
      { c with res := c.res ++ [{ latch := q, value := v, due := e.clk.cycle + lat, wait := .none, buf := [] }] }) :=
  rfl

end reading

/-! ### A slot as a step -/

section slot

variable {s : State} {i : Instr} {u o : Nat} {t : Trig} {body : M Unit}

/-- A slot always answers a next state, which differs in the machine only. -/
theorem slotStep_next (g : Guard) : slotStep i g body s = .next { s with m := runSlot ⟨s.boot, s.clk⟩ i g body s.m } := rfl

theorem checkTrigger_ok (hu : s.m.issue.units.contains u = false) (hs : (inSegment s.m && segmentForbids u o) = false)
    (hi : opCode i = some (u, o, t)) :
    checkTrigger u o t ⟨s.boot, s.clk⟩ (s.m.modIssue fun x => { x with raw := (encode i).getD 0 })
      = .ok () (s.m.began i) := by
  unfold checkTrigger
  rw [bind_ok get_ok]
  simp only [Mach.modIssue_issue, hu]
  rw [if_neg (by simp), bind_ok (modify_ok _), bind_ok get_ok]
  have : inSegment ((s.m.modIssue fun x => { x with raw := (encode i).getD 0 }).modIssue
      fun i => { i with units := u :: i.units }) = inSegment s.m := rfl
  rw [this, hs]
  simp only [Mach.began, hi]
  rfl

theorem slotStep_of_ok (ha : s.acts i = true) (hi : opCode i = some (u, o, t)) {m' : Mach}
    (hb : body ⟨s.boot, s.clk⟩ (s.m.began i) = .ok () m') : slotStep i t.guard body s = .next { s with m := m' } := by
  unfold State.acts at ha
  rw [hi] at ha
  simp only [Bool.and_eq_true, decide_eq_true_eq, Bool.not_eq_true'] at ha
  obtain ⟨⟨⟨ho, hg⟩, hu⟩, hs⟩ := ha
  rw [slotStep_next]
  unfold runSlot
  simp only [ho, hg, decide_true, Bool.and_self, if_true, hi, bind_ok (checkTrigger_ok hu hs hi), hb]

theorem slotStep_of_error (ha : s.acts i = true) (hi : opCode i = some (u, o, t)) {m' : Mach} {st : Stop}
    (hb : body ⟨s.boot, s.clk⟩ (s.m.began i) = .error st m') :
    slotStep i t.guard body s = .next { s with m := stopSlot ⟨s.boot, s.clk⟩ st m' } := by
  unfold State.acts at ha
  rw [hi] at ha
  simp only [Bool.and_eq_true, decide_eq_true_eq, Bool.not_eq_true'] at ha
  obtain ⟨⟨⟨ho, hg⟩, hu⟩, hs⟩ := ha
  rw [slotStep_next]
  unfold runSlot
  simp only [ho, hg, decide_true, Bool.and_self, if_true, hi, bind_ok (checkTrigger_ok hu hs hi), hb]

end slot

end Sys2Proof.Machine
end

