-- ==== Sys2Proof/Tests/Slice0.lean ====
section
/-! SUPPORT. Tests: ill-formed terms, words written out from the spec's encodings, single operations on fixed values
computed by hand from the rules, and a state for each statement that meets its hypotheses. -/

namespace Sys2Proof.Tests

open Sys2Proof Sys2Proof.Machine

set_option Elab.async false

/-! ### Ill-formed terms -/

/-- R37: p0 is no destination; a step refuses the term. -/
theorem test_wf_p0 : (Instr.dataMove ⟨false, 0⟩ (.p 0) (.g 1)).wf = false
    ∧ (step { State.reset with m := { State.reset.m with agenda := [.dataMove ⟨false, 0⟩ (.p 0) (.g 1)] } }
        = .refused .illFormed) := ⟨rfl, rfl⟩

/-- A host access has bytes and stays in its line. -/
theorem test_wf_host : (Instr.hostMemoryAccess (.read 0 0 0)).wf = false
    ∧ (Instr.hostMemoryAccess (.read 120 0 9)).wf = false ∧ (Instr.hostMemoryAccess (.read 120 0 8)).wf = true
    ∧ (Instr.hostMemoryAccess (.write 127 0 [1, 2])).wf = false ∧ (Instr.hostMemoryAccess (.write 0 0 [])).wf = false := by
  decide +kernel

/-! ### Words of the spec's encodings (R32, R33, R35 to R37, R52, R140) -/

/-- R52: the opcodes of unit 0, left to right in the table, with source code 3. -/
theorem test_opcodes_ix0 :
    (List.range 32).map (fun m => decodeSlot (BitVec.ofNat 24 (0x800003 + m * 0x400))) =
    [some (.ixAdd 0 ⟨⟨false, 0⟩, .g 3⟩), some (.ixSub 0 ⟨⟨false, 0⟩, .g 3⟩), some (.ixAddw 0 ⟨⟨false, 0⟩, .g 3⟩),
     some (.ixSubw 0 ⟨⟨false, 0⟩, .g 3⟩), some (.ixAnd 0 ⟨⟨false, 0⟩, .g 3⟩), some (.ixOr 0 ⟨⟨false, 0⟩, .g 3⟩),
     some (.ixXor 0 ⟨⟨false, 0⟩, .g 3⟩), some (.ixAndn 0 ⟨⟨false, 0⟩, .g 3⟩), some (.ixShl 0 ⟨⟨false, 0⟩, .g 3⟩),
     some (.ixShr 0 ⟨⟨false, 0⟩, .g 3⟩), some (.ixSha 0 ⟨⟨false, 0⟩, .g 3⟩), some (.ixRotl 0 ⟨⟨false, 0⟩, .g 3⟩),
     some (.ixCeq 0 ⟨⟨false, 0⟩, .g 3⟩), some (.ixCne 0 ⟨⟨false, 0⟩, .g 3⟩), some (.ixClt 0 ⟨⟨false, 0⟩, .g 3⟩),
     some (.ixCltu 0 ⟨⟨false, 0⟩, .g 3⟩), some (.ixCle 0 ⟨⟨false, 0⟩, .g 3⟩), some (.ixCleu 0 ⟨⟨false, 0⟩, .g 3⟩),
     some (.ixMin 0 ⟨⟨false, 0⟩, .g 3⟩), some (.ixMax 0 ⟨⟨false, 0⟩, .g 3⟩), some (.ixMinu 0 ⟨⟨false, 0⟩, .g 3⟩),
     some (.ixMaxu 0 ⟨⟨false, 0⟩, .g 3⟩), some (.ixSel 0 ⟨⟨false, 0⟩, .g 3⟩), some (.ixMul 0 ⟨⟨false, 0⟩, .g 3⟩),
     some (.ixMulh 0 ⟨⟨false, 0⟩, .g 3⟩), some (.ixMulhu 0 ⟨⟨false, 0⟩, .g 3⟩), some (.ixClz 0 ⟨⟨false, 0⟩, .g 3⟩),
     some (.ixPopc 0 ⟨⟨false, 0⟩, .g 3⟩), some (.ixBext 0 ⟨⟨false, 0⟩, .g 3⟩), some (.ixBins 0 ⟨⟨false, 0⟩, .g 3⟩),
     some (.ixSext 0 ⟨⟨false, 0⟩, .g 3⟩), some (.ixZext 0 ⟨⟨false, 0⟩, .g 3⟩)] := by decide +kernel

/-- R52: the opcodes of unit 2, left to right in the table, with source code 3. -/
theorem test_opcodes_ix2 :
    (List.range 32).map (fun m => decodeSlot (BitVec.ofNat 24 (0x810003 + m * 0x400))) =
    [some (.ixAdd 2 ⟨⟨false, 0⟩, .g 3⟩), some (.ixSub 2 ⟨⟨false, 0⟩, .g 3⟩), some (.ixAddw 2 ⟨⟨false, 0⟩, .g 3⟩),
     some (.ixSubw 2 ⟨⟨false, 0⟩, .g 3⟩), some (.ixAnd 2 ⟨⟨false, 0⟩, .g 3⟩), some (.ixOr 2 ⟨⟨false, 0⟩, .g 3⟩),
     some (.ixXor 2 ⟨⟨false, 0⟩, .g 3⟩), some (.ixAndn 2 ⟨⟨false, 0⟩, .g 3⟩), some (.ixShl 2 ⟨⟨false, 0⟩, .g 3⟩),
     some (.ixShr 2 ⟨⟨false, 0⟩, .g 3⟩), some (.ixSha 2 ⟨⟨false, 0⟩, .g 3⟩), some (.ixRotl 2 ⟨⟨false, 0⟩, .g 3⟩),
     some (.ixCeq 2 ⟨⟨false, 0⟩, .g 3⟩), some (.ixCne 2 ⟨⟨false, 0⟩, .g 3⟩), some (.ixClt 2 ⟨⟨false, 0⟩, .g 3⟩),
     some (.ixCltu 2 ⟨⟨false, 0⟩, .g 3⟩), some (.ixCle 2 ⟨⟨false, 0⟩, .g 3⟩), some (.ixCleu 2 ⟨⟨false, 0⟩, .g 3⟩),
     some (.ixMin 2 ⟨⟨false, 0⟩, .g 3⟩), some (.ixMax 2 ⟨⟨false, 0⟩, .g 3⟩), some (.ixMinu 2 ⟨⟨false, 0⟩, .g 3⟩),
     some (.ixMaxu 2 ⟨⟨false, 0⟩, .g 3⟩), some (.ixSel 2 ⟨⟨false, 0⟩, .g 3⟩), some (.ixMul 2 ⟨⟨false, 0⟩, .g 3⟩),
     some (.ixMulh 2 ⟨⟨false, 0⟩, .g 3⟩), some (.ixMulhu 2 ⟨⟨false, 0⟩, .g 3⟩), some (.ixClz 2 ⟨⟨false, 0⟩, .g 3⟩),
     some (.ixPopc 2 ⟨⟨false, 0⟩, .g 3⟩), some (.ixBext 2 ⟨⟨false, 0⟩, .g 3⟩), some (.ixBins 2 ⟨⟨false, 0⟩, .g 3⟩),
     some (.ixSext 2 ⟨⟨false, 0⟩, .g 3⟩), some (.ixZext 2 ⟨⟨false, 0⟩, .g 3⟩)] := by decide +kernel

/-- R52: the opcodes of unit 3, left to right in the table, with source code 3. -/
theorem test_opcodes_ag :
    (List.range 32).map (fun m => decodeSlot (BitVec.ofNat 24 (0x818003 + m * 0x400))) =
    [some (.agAdda ⟨⟨false, 0⟩, .g 3⟩), some (.agMkl ⟨⟨false, 0⟩, .g 3⟩), some (.agMkc ⟨⟨false, 0⟩, .g 3⟩),
     some (.agMkp ⟨⟨false, 0⟩, .g 3⟩), some (.agTag ⟨⟨false, 0⟩, .g 3⟩), some (.agTsta ⟨⟨false, 0⟩, .g 3⟩),
     some (.agCvtc ⟨⟨false, 0⟩, .g 3⟩), some (.agXlk ⟨⟨false, 0⟩, .g 3⟩), none, none, none, none, none, none, none,
     none, none, none, none, none, none, none, none, none, none, none, none, none, none, none, none, none] := by decide +kernel

/-- R52: the opcodes of unit 4, left to right in the table, with source code 3. -/
theorem test_opcodes_ls0 :
    (List.range 32).map (fun m => decodeSlot (BitVec.ofNat 24 (0x820003 + m * 0x400))) =
    [some (.lsLdb 0 ⟨⟨false, 0⟩, .g 3⟩), some (.lsLdbu 0 ⟨⟨false, 0⟩, .g 3⟩), some (.lsLdh 0 ⟨⟨false, 0⟩, .g 3⟩),
     some (.lsLdhu 0 ⟨⟨false, 0⟩, .g 3⟩), some (.lsLdw 0 ⟨⟨false, 0⟩, .g 3⟩), some (.lsLdwu 0 ⟨⟨false, 0⟩, .g 3⟩),
     some (.lsLdd 0 ⟨⟨false, 0⟩, .g 3⟩), some (.lsLdv 0 ⟨⟨false, 0⟩, .g 3⟩), some (.lsStb 0 ⟨⟨false, 0⟩, .g 3⟩),
     some (.lsSth 0 ⟨⟨false, 0⟩, .g 3⟩), some (.lsStw 0 ⟨⟨false, 0⟩, .g 3⟩), some (.lsStd 0 ⟨⟨false, 0⟩, .g 3⟩),
     some (.lsStv 0 ⟨⟨false, 0⟩, .g 3⟩), some (.lsLddi 0 ⟨⟨false, 0⟩, .g 3⟩), some (.lsLdvi 0 ⟨⟨false, 0⟩, .g 3⟩),
     some (.lsStdi 0 ⟨⟨false, 0⟩, .g 3⟩), some (.lsStvi 0 ⟨⟨false, 0⟩, .g 3⟩), some (.lsGath 0 ⟨⟨false, 0⟩, .g 3⟩),
     some (.lsScat 0 ⟨⟨false, 0⟩, .g 3⟩), some (.lsLdaq 0 ⟨⟨false, 0⟩, .g 3⟩), some (.lsStrl 0 ⟨⟨false, 0⟩, .g 3⟩),
     some (.lsPref 0 ⟨⟨false, 0⟩, .g 3⟩), some (.lsWbk 0 ⟨⟨false, 0⟩, .g 3⟩), some (.lsInv 0 ⟨⟨false, 0⟩, .g 3⟩),
     some (.lsAadd 0 ⟨⟨false, 0⟩, .g 3⟩), some (.lsAmin 0 ⟨⟨false, 0⟩, .g 3⟩), some (.lsAmax 0 ⟨⟨false, 0⟩, .g 3⟩),
     some (.lsAand 0 ⟨⟨false, 0⟩, .g 3⟩), some (.lsAor 0 ⟨⟨false, 0⟩, .g 3⟩), some (.lsAxch 0 ⟨⟨false, 0⟩, .g 3⟩),
     some (.lsAcas 0 ⟨⟨false, 0⟩, .g 3⟩), some (.lsAfadd 0 ⟨⟨false, 0⟩, .g 3⟩)] := by decide +kernel

/-- R52: the opcodes of unit 5, left to right in the table, with source code 3. -/
theorem test_opcodes_ls1 :
    (List.range 32).map (fun m => decodeSlot (BitVec.ofNat 24 (0x828003 + m * 0x400))) =
    [some (.lsLdb 1 ⟨⟨false, 0⟩, .g 3⟩), some (.lsLdbu 1 ⟨⟨false, 0⟩, .g 3⟩), some (.lsLdh 1 ⟨⟨false, 0⟩, .g 3⟩),
     some (.lsLdhu 1 ⟨⟨false, 0⟩, .g 3⟩), some (.lsLdw 1 ⟨⟨false, 0⟩, .g 3⟩), some (.lsLdwu 1 ⟨⟨false, 0⟩, .g 3⟩),
     some (.lsLdd 1 ⟨⟨false, 0⟩, .g 3⟩), some (.lsLdv 1 ⟨⟨false, 0⟩, .g 3⟩), some (.lsStb 1 ⟨⟨false, 0⟩, .g 3⟩),
     some (.lsSth 1 ⟨⟨false, 0⟩, .g 3⟩), some (.lsStw 1 ⟨⟨false, 0⟩, .g 3⟩), some (.lsStd 1 ⟨⟨false, 0⟩, .g 3⟩),
     some (.lsStv 1 ⟨⟨false, 0⟩, .g 3⟩), some (.lsLddi 1 ⟨⟨false, 0⟩, .g 3⟩), some (.lsLdvi 1 ⟨⟨false, 0⟩, .g 3⟩),
     some (.lsStdi 1 ⟨⟨false, 0⟩, .g 3⟩), some (.lsStvi 1 ⟨⟨false, 0⟩, .g 3⟩), some (.lsGath 1 ⟨⟨false, 0⟩, .g 3⟩),
     some (.lsScat 1 ⟨⟨false, 0⟩, .g 3⟩), some (.lsLdaq 1 ⟨⟨false, 0⟩, .g 3⟩), some (.lsStrl 1 ⟨⟨false, 0⟩, .g 3⟩),
     some (.lsPref 1 ⟨⟨false, 0⟩, .g 3⟩), some (.lsWbk 1 ⟨⟨false, 0⟩, .g 3⟩), some (.lsInv 1 ⟨⟨false, 0⟩, .g 3⟩),
     some (.lsAadd 1 ⟨⟨false, 0⟩, .g 3⟩), some (.lsAmin 1 ⟨⟨false, 0⟩, .g 3⟩), some (.lsAmax 1 ⟨⟨false, 0⟩, .g 3⟩),
     some (.lsAand 1 ⟨⟨false, 0⟩, .g 3⟩), some (.lsAor 1 ⟨⟨false, 0⟩, .g 3⟩), some (.lsAxch 1 ⟨⟨false, 0⟩, .g 3⟩),
     some (.lsAcas 1 ⟨⟨false, 0⟩, .g 3⟩), some (.lsAfadd 1 ⟨⟨false, 0⟩, .g 3⟩)] := by decide +kernel

/-- R52: the opcodes of unit 6, left to right in the table, with source code 3. -/
theorem test_opcodes_vx0 :
    (List.range 32).map (fun m => decodeSlot (BitVec.ofNat 24 (0x830003 + m * 0x400))) =
    [some (.vxVadd 0 ⟨⟨false, 0⟩, .g 3⟩), some (.vxVsub 0 ⟨⟨false, 0⟩, .g 3⟩), some (.vxVmul 0 ⟨⟨false, 0⟩, .g 3⟩),
     some (.vxVfma 0 ⟨⟨false, 0⟩, .g 3⟩), some (.vxVmax 0 ⟨⟨false, 0⟩, .g 3⟩), some (.vxVmin 0 ⟨⟨false, 0⟩, .g 3⟩),
     some (.vxVabs 0 ⟨⟨false, 0⟩, .g 3⟩), some (.vxVneg 0 ⟨⟨false, 0⟩, .g 3⟩), some (.vxVceq 0 ⟨⟨false, 0⟩, .g 3⟩),
     some (.vxVclt 0 ⟨⟨false, 0⟩, .g 3⟩), some (.vxVcle 0 ⟨⟨false, 0⟩, .g 3⟩), some (.vxVsel 0 ⟨⟨false, 0⟩, .g 3⟩),
     some (.vxVand 0 ⟨⟨false, 0⟩, .g 3⟩), some (.vxVor 0 ⟨⟨false, 0⟩, .g 3⟩), some (.vxVxor 0 ⟨⟨false, 0⟩, .g 3⟩),
     some (.vxVshl 0 ⟨⟨false, 0⟩, .g 3⟩), some (.vxVshr 0 ⟨⟨false, 0⟩, .g 3⟩), some (.vxVsha 0 ⟨⟨false, 0⟩, .g 3⟩),
     some (.vxVbc 0 ⟨⟨false, 0⟩, .g 3⟩), some (.vxVext 0 ⟨⟨false, 0⟩, .g 3⟩), some (.vxVins 0 ⟨⟨false, 0⟩, .g 3⟩),
     some (.vxVshf 0 ⟨⟨false, 0⟩, .g 3⟩), some (.vxVrsum 0 ⟨⟨false, 0⟩, .g 3⟩), some (.vxVrmax 0 ⟨⟨false, 0⟩, .g 3⟩),
     some (.vxVrmin 0 ⟨⟨false, 0⟩, .g 3⟩), some (.vxVrcp 0 ⟨⟨false, 0⟩, .g 3⟩), some (.vxVrsq 0 ⟨⟨false, 0⟩, .g 3⟩),
     some (.vxVexp 0 ⟨⟨false, 0⟩, .g 3⟩), some (.vxVlog 0 ⟨⟨false, 0⟩, .g 3⟩), some (.vxVdot 0 ⟨⟨false, 0⟩, .g 3⟩),
     none, none] := by decide +kernel

/-- R52: the opcodes of unit 7, left to right in the table, with source code 3. -/
theorem test_opcodes_vx1 :
    (List.range 32).map (fun m => decodeSlot (BitVec.ofNat 24 (0x838003 + m * 0x400))) =
    [some (.vxVadd 1 ⟨⟨false, 0⟩, .g 3⟩), some (.vxVsub 1 ⟨⟨false, 0⟩, .g 3⟩), some (.vxVmul 1 ⟨⟨false, 0⟩, .g 3⟩),
     some (.vxVfma 1 ⟨⟨false, 0⟩, .g 3⟩), some (.vxVmax 1 ⟨⟨false, 0⟩, .g 3⟩), some (.vxVmin 1 ⟨⟨false, 0⟩, .g 3⟩),
     some (.vxVabs 1 ⟨⟨false, 0⟩, .g 3⟩), some (.vxVneg 1 ⟨⟨false, 0⟩, .g 3⟩), some (.vxVceq 1 ⟨⟨false, 0⟩, .g 3⟩),
     some (.vxVclt 1 ⟨⟨false, 0⟩, .g 3⟩), some (.vxVcle 1 ⟨⟨false, 0⟩, .g 3⟩), some (.vxVsel 1 ⟨⟨false, 0⟩, .g 3⟩),
     some (.vxVand 1 ⟨⟨false, 0⟩, .g 3⟩), some (.vxVor 1 ⟨⟨false, 0⟩, .g 3⟩), some (.vxVxor 1 ⟨⟨false, 0⟩, .g 3⟩),
     some (.vxVshl 1 ⟨⟨false, 0⟩, .g 3⟩), some (.vxVshr 1 ⟨⟨false, 0⟩, .g 3⟩), some (.vxVsha 1 ⟨⟨false, 0⟩, .g 3⟩),
     some (.vxVbc 1 ⟨⟨false, 0⟩, .g 3⟩), some (.vxVext 1 ⟨⟨false, 0⟩, .g 3⟩), some (.vxVins 1 ⟨⟨false, 0⟩, .g 3⟩),
     some (.vxVshf 1 ⟨⟨false, 0⟩, .g 3⟩), some (.vxVrsum 1 ⟨⟨false, 0⟩, .g 3⟩), some (.vxVrmax 1 ⟨⟨false, 0⟩, .g 3⟩),
     some (.vxVrmin 1 ⟨⟨false, 0⟩, .g 3⟩), some (.vxVrcp 1 ⟨⟨false, 0⟩, .g 3⟩), some (.vxVrsq 1 ⟨⟨false, 0⟩, .g 3⟩),
     some (.vxVexp 1 ⟨⟨false, 0⟩, .g 3⟩), some (.vxVlog 1 ⟨⟨false, 0⟩, .g 3⟩), some (.vxVdot 1 ⟨⟨false, 0⟩, .g 3⟩),
     none, none] := by decide +kernel

/-- R52: the opcodes of unit 8, left to right in the table, with source code 3. -/
theorem test_opcodes_vs :
    (List.range 32).map (fun m => decodeSlot (BitVec.ofNat 24 (0x840003 + m * 0x400))) =
    [some (.vsVcvt ⟨⟨false, 0⟩, .g 3⟩), some (.vsVqnt ⟨⟨false, 0⟩, .g 3⟩), some (.vsVdq ⟨⟨false, 0⟩, .g 3⟩),
     some (.vsVpk ⟨⟨false, 0⟩, .g 3⟩), some (.vsVupk ⟨⟨false, 0⟩, .g 3⟩), some (.vsPart ⟨⟨false, 0⟩, .g 3⟩),
     some (.vsPcnt ⟨⟨false, 0⟩, .g 3⟩), some (.vsVcmp ⟨⟨false, 0⟩, .g 3⟩), some (.vsVexd ⟨⟨false, 0⟩, .g 3⟩),
     some (.vsVmxe ⟨⟨false, 0⟩, .g 3⟩), some (.vsRand ⟨⟨false, 0⟩, .g 3⟩), some (.vsNorm ⟨⟨false, 0⟩, .g 3⟩), none,
     none, none, none, none, none, none, none, none, none, none, none, none, none, none, none, none, none, none, none] := by decide +kernel

/-- R52: the opcodes of unit 9, left to right in the table, with source code 3. -/
theorem test_opcodes_br :
    (List.range 32).map (fun m => decodeSlot (BitVec.ofNat 24 (0x848003 + m * 0x400))) =
    [some (.brBr ⟨⟨false, 0⟩, .g 3⟩), some (.brBra ⟨⟨false, 0⟩, .g 3⟩), some (.brCall ⟨⟨false, 0⟩, .g 3⟩),
     some (.brCalla ⟨⟨false, 0⟩, .g 3⟩), some (.brRet ⟨⟨false, 0⟩, .g 3⟩), some (.brTrap ⟨⟨false, 0⟩, .g 3⟩),
     some (.brHalt ⟨⟨false, 0⟩, .g 3⟩), some (.brYield ⟨⟨false, 0⟩, .g 3⟩), some (.brUiret ⟨⟨false, 0⟩, .g 3⟩),
     some (.brWait ⟨⟨false, 0⟩, .g 3⟩), none, none, none, none, none, none, none, none, none, none, none, none, none,
     none, none, none, none, none, none, none, none, none] := by decide +kernel

/-- R52: the opcodes of unit 10, left to right in the table, with source code 3. -/
theorem test_opcodes_sq :
    (List.range 32).map (fun m => decodeSlot (BitVec.ofNat 24 (0x850003 + m * 0x400))) =
    [some (.sqLease ⟨⟨false, 0⟩, .g 3⟩), some (.sqRels ⟨⟨false, 0⟩, .g 3⟩), some (.sqCfg ⟨⟨false, 0⟩, .g 3⟩),
     some (.sqLen ⟨⟨false, 0⟩, .g 3⟩), some (.sqSeeda ⟨⟨false, 0⟩, .g 3⟩), some (.sqSeedb ⟨⟨false, 0⟩, .g 3⟩),
     some (.sqLda ⟨⟨false, 0⟩, .g 3⟩), some (.sqLdb ⟨⟨false, 0⟩, .g 3⟩), some (.sqRun ⟨⟨false, 0⟩, .g 3⟩),
     some (.sqRunc ⟨⟨false, 0⟩, .g 3⟩), some (.sqTile ⟨⟨false, 0⟩, .g 3⟩), some (.sqClr ⟨⟨false, 0⟩, .g 3⟩),
     some (.sqPromo ⟨⟨false, 0⟩, .g 3⟩), some (.sqDrain ⟨⟨false, 0⟩, .g 3⟩), some (.sqRdc ⟨⟨false, 0⟩, .g 3⟩),
     some (.sqStat ⟨⟨false, 0⟩, .g 3⟩), some (.sqBar ⟨⟨false, 0⟩, .g 3⟩), some (.sqWait ⟨⟨false, 0⟩, .g 3⟩), none,
     none, none, none, none, none, none, none, none, none, none, none, none, none] := by decide +kernel

/-- R52: the opcodes of unit 11, left to right in the table, with source code 3. -/
theorem test_opcodes_nt :
    (List.range 32).map (fun m => decodeSlot (BitVec.ofNat 24 (0x858003 + m * 0x400))) =
    [some (.ntDefn ⟨⟨false, 0⟩, .g 3⟩), some (.ntAnn ⟨⟨false, 0⟩, .g 3⟩), some (.ntInt ⟨⟨false, 0⟩, .g 3⟩),
     some (.ntCanc ⟨⟨false, 0⟩, .g 3⟩), some (.ntRet ⟨⟨false, 0⟩, .g 3⟩), some (.ntRout ⟨⟨false, 0⟩, .g 3⟩),
     some (.ntPin ⟨⟨false, 0⟩, .g 3⟩), some (.ntUnpn ⟨⟨false, 0⟩, .g 3⟩), some (.ntProb ⟨⟨false, 0⟩, .g 3⟩),
     some (.ntStat ⟨⟨false, 0⟩, .g 3⟩), some (.ntWait ⟨⟨false, 0⟩, .g 3⟩), none, none, none, none, none, none, none,
     none, none, none, none, none, none, none, none, none, none, none, none, none, none] := by decide +kernel

/-- R52: the opcodes of unit 12, left to right in the table, with source code 3. -/
theorem test_opcodes_eq :
    (List.range 32).map (fun m => decodeSlot (BitVec.ofNat 24 (0x860003 + m * 0x400))) =
    [some (.eqLnch ⟨⟨false, 0⟩, .g 3⟩), some (.eqPop ⟨⟨false, 0⟩, .g 3⟩), some (.eqPush ⟨⟨false, 0⟩, .g 3⟩),
     some (.eqQcls ⟨⟨false, 0⟩, .g 3⟩), some (.eqCpy ⟨⟨false, 0⟩, .g 3⟩), some (.eqFill ⟨⟨false, 0⟩, .g 3⟩),
     some (.eqMig ⟨⟨false, 0⟩, .g 3⟩), some (.eqMigs ⟨⟨false, 0⟩, .g 3⟩), some (.eqCopn ⟨⟨false, 0⟩, .g 3⟩),
     some (.eqCred ⟨⟨false, 0⟩, .g 3⟩), some (.eqCmc ⟨⟨false, 0⟩, .g 3⟩), some (.eqCxp ⟨⟨false, 0⟩, .g 3⟩),
     some (.eqCcls ⟨⟨false, 0⟩, .g 3⟩), none, none, none, none, none, none, none, none, none, none, none, none, none,
     none, none, none, none, none, none] := by decide +kernel

/-- R52: the opcodes of unit 13, left to right in the table, with source code 3. -/
theorem test_opcodes_sy :
    (List.range 32).map (fun m => decodeSlot (BitVec.ofNat 24 (0x868003 + m * 0x400))) =
    [some (.syCsrr ⟨⟨false, 0⟩, .g 3⟩), some (.syCsrw ⟨⟨false, 0⟩, .g 3⟩), some (.syFnc ⟨⟨false, 0⟩, .g 3⟩),
     some (.syFncx ⟨⟨false, 0⟩, .g 3⟩), some (.syFncp ⟨⟨false, 0⟩, .g 3⟩), some (.syLayo ⟨⟨false, 0⟩, .g 3⟩),
     some (.sySetv ⟨⟨false, 0⟩, .g 3⟩), some (.syFlar ⟨⟨false, 0⟩, .g 3⟩), some (.syUie ⟨⟨false, 0⟩, .g 3⟩),
     some (.sySeed ⟨⟨false, 0⟩, .g 3⟩), some (.syEvr ⟨⟨false, 0⟩, .g 3⟩), none, none, none, none, none, none, none,
     none, none, none, none, none, none, none, none, none, none, none, none, none, none] := by decide +kernel

/-- R52: the opcodes of unit 14, left to right in the table, with source code 3. -/
theorem test_opcodes_ck :
    (List.range 32).map (fun m => decodeSlot (BitVec.ofNat 24 (0x870003 + m * 0x400))) =
    [some (.ckCmp ⟨⟨false, 0⟩, .g 3⟩), some (.ckCmpv ⟨⟨false, 0⟩, .g 3⟩), some (.ckCmpp ⟨⟨false, 0⟩, .g 3⟩),
     some (.ckSig ⟨⟨false, 0⟩, .g 3⟩), some (.ckSigc ⟨⟨false, 0⟩, .g 3⟩), some (.ckInj ⟨⟨false, 0⟩, .g 3⟩), none,
     none, none, none, none, none, none, none, none, none, none, none, none, none, none, none, none, none, none,
     none, none, none, none, none, none, none] := by decide +kernel

/-- R52: the opcodes of unit 15, left to right in the table, with source code 3. -/
theorem test_opcodes_gs :
    (List.range 32).map (fun m => decodeSlot (BitVec.ofNat 24 (0x878003 + m * 0x400))) =
    [some (.gsJoin ⟨⟨false, 0⟩, .g 3⟩), some (.gsLeav ⟨⟨false, 0⟩, .g 3⟩), some (.gsMemb ⟨⟨false, 0⟩, .g 3⟩),
     some (.gsBarr ⟨⟨false, 0⟩, .g 3⟩), some (.gsBarw ⟨⟨false, 0⟩, .g 3⟩), some (.gsRdv ⟨⟨false, 0⟩, .g 3⟩),
     some (.gsSegb ⟨⟨false, 0⟩, .g 3⟩), some (.gsSegc ⟨⟨false, 0⟩, .g 3⟩), some (.gsFlgw ⟨⟨false, 0⟩, .g 3⟩),
     some (.gsTokw ⟨⟨false, 0⟩, .g 3⟩), some (.gsWto ⟨⟨false, 0⟩, .g 3⟩), none, none, none, none, none, none, none,
     none, none, none, none, none, none, none, none, none, none, none, none, none, none] := by decide +kernel

/-- Words that the chapters write out in their examples. -/
theorem test_example_words :
    ([0x805C03, 0x040002, 0x400000, 0x5824E0, 0x0427FF, 0x8C84E0, 0x960407, 0x042007, 0x813C08, 0x8064F0,
      0x869A81, 0x046080, 0x832600, 0x81981E, 0x145007, 0x92AC08, 0x82E006, 0x868A22, 0x8544CD, 0x851CF1,
      0x858816, 0x861028, 0x879603, 0x87A4CF, 0x8700C9, 0x86A81F] : List (BitVec 24)).map decodeSlot =
    [some (.ixMul 0 ⟨⟨false, 0⟩, .g 3⟩),
     some (.dataMove ⟨false, 0⟩ (.port 0 0) (.g 2)),
     some (.dataMove ⟨true, 0⟩ (.g 0) (.g 0)),
     some (.dataMove ⟨true, 3⟩ (.g 9) (.lit 0)),
     some (.dataMove ⟨false, 0⟩ (.port 2 1) (.imm (-1))),
     some (.brBra ⟨⟨false, 1⟩, .lit 0⟩),
     some (.eqPop ⟨⟨false, 2⟩, .g 7⟩),
     some (.dataMove ⟨false, 0⟩ (.port 2 0) (.g 7)),
     some (.ixCltu 2 ⟨⟨false, 0⟩, .g 8⟩),
     some (.ixMulhu 0 ⟨⟨false, 0⟩, .pair 0⟩),
     some (.sySetv ⟨⟨false, 0⟩, .imm 0x81⟩),
     some (.dataMove ⟨false, 0⟩ (.port 6 0) (.v 0)),
     some (.vxVclt 0 ⟨⟨false, 0⟩, .imm 0⟩),
     some (.agCvtc ⟨⟨false, 0⟩, .g 30⟩),
     some (.dataMove ⟨false, 2⟩ (.port 5 0) (.g 7)),
     some (.lsStd 1 ⟨⟨false, 2⟩, .g 8⟩),
     some (.lsAadd 1 ⟨⟨false, 0⟩, .g 6⟩),
     some (.syFnc ⟨⟨false, 0⟩, .imm 0x22⟩),
     some (.sqWait ⟨⟨false, 0⟩, .q 13⟩),
     some (.sqLdb ⟨⟨false, 0⟩, .pair 1⟩),
     some (.ntInt ⟨⟨false, 0⟩, .g 22⟩),
     some (.eqCpy ⟨⟨false, 0⟩, .g 40⟩),
     some (.gsRdv ⟨⟨false, 0⟩, .imm 3⟩),
     some (.gsTokw ⟨⟨false, 0⟩, .q 15⟩),
     some (.ckCmp ⟨⟨false, 0⟩, .q 9⟩),
     some (.syEvr ⟨⟨false, 0⟩, .g 31⟩)] := by decide +kernel

/-- R8: the memories right after reset have their canonical form. -/
theorem test_reset_memories : State.reset.m.mem.wf && State.reset.m.memChk.wf && State.reset.m.spad.wf
    && State.reset.m.spadChk.wf = true := by rfl

/-! ### A small state: one bundle of context 0 of core 0 of die 0 at issue -/

/-- A machine whose core 0 issues a bundle of a context, with given ports. -/
def demo (c : Ctx) (ports : SMap W512) (f : Issue → Issue := id) (g : Mach → Mach := id) : State :=
  { State.reset with
    m := g { State.reset.m with ctxs := [(0, c)], issue := f { start := c, ports := ports } } }

/-- A slot with no guard whose source is g8, and one whose source is v1. -/
abbrev t8 : Trig := ⟨⟨false, 0⟩, .g 8⟩
abbrev tv : Trig := ⟨⟨false, 0⟩, .v 1⟩

/-- A context that holds x in g8. -/
def has (x : W64) : Ctx := { g := [(8, x)] }

/-- The machine that an outcome answers, if it goes on. -/
def after (o : Out) : Option Mach :=
  match o with
  | .next s => some s.m
  | _ => none

/-- What an outcome has sent to latches: latch, value and due cycle. -/
def sent (o : Out) : List (Nat × Nat × Nat) :=
  match after o with
  | some m => m.cur.res.map fun r => (r.latch, r.value.toNat, r.due)
  | none => []

/-- The trap that a meaning raises: cause and tval. -/
def stopOf (a : M Unit) (s : State) : Option (Nat × Nat) :=
  match a ⟨s.boot, s.clk⟩ s.m with
  | .error (.trap c v) _ => some (c, v.toNat)
  | .error (.userTrap v) _ => some (18, v.toNat)
  | .error (.mismatch v) _ => some (10, v.toNat)
  | _ => none

/-- What ix0 sends for a in port a, b in port b and x as the operand. -/
def ix (op : Fin 3 → Trig → Instr) (a b x : Nat) : List (Nat × Nat × Nat) :=
  sent (exec (op 0 t8) (demo (has (w64 x)) [(portCode 0 0, w512 a), (portCode 0 1, w512 b)]))

/-- The boundary values that R149's section lists. -/
theorem test_ix_boundary : ∀ r ∈ ([
    (Instr.ixAdd, 0x7FFFFFFFFFFFFFFF, 0, 1, 0x8000000000000000, 1),
    (Instr.ixAddw, 0x7FFFFFFF, 0, 1, 0xFFFFFFFF80000000, 1),
    (Instr.ixSubw, 0x100000000, 0, 0, 0, 1),
    (Instr.ixShl, 5, 0, 0x40, 5, 1),
    (Instr.ixSha, 0x8000000000000000, 0, 0x3F, 0xFFFFFFFFFFFFFFFF, 1),
    (Instr.ixShr, 0x8000000000000000, 0, 0x3F, 1, 1),
    (Instr.ixRotl, 0x8000000000000001, 0, 1, 3, 1),
    (Instr.ixClt, 0xFFFFFFFFFFFFFFFF, 0, 0, 1, 1),
    (Instr.ixCltu, 0xFFFFFFFFFFFFFFFF, 0, 0, 0, 1),
    (Instr.ixMul, 0xFFFFFFFFFFFFFFFF, 0, 0xFFFFFFFFFFFFFFFF, 1, 3),
    (Instr.ixMulh, 0xFFFFFFFFFFFFFFFF, 0, 0xFFFFFFFFFFFFFFFF, 0, 3),
    (Instr.ixMulhu, 0xFFFFFFFFFFFFFFFF, 0, 0xFFFFFFFFFFFFFFFF, 0xFFFFFFFFFFFFFFFE, 3),
    (Instr.ixMulh, 0x8000000000000000, 0, 0x8000000000000000, 0x4000000000000000, 3),
    (Instr.ixClz, 0, 0, 0, 0x40, 1),
    (Instr.ixPopc, 0, 0, 0, 0, 1),
    (Instr.ixBext, 0xABCD, 0, 0x804, 0xBC, 1),
    (Instr.ixBext, 0xF000000000000000, 0, 0x83C, 0xF, 1),
    (Instr.ixBins, 0xFFFF, 0, 0x804, 0xF00F, 1),
    (Instr.ixSext, 0x80, 0, 8, 0xFFFFFFFFFFFFFF80, 1),
    (Instr.ixZext, 0x80, 0, 8, 0x80, 1),
    (Instr.ixSel, 0x11, 0x22, 2, 0x11, 1)] :
    List ((Fin 3 → Trig → Instr) × Nat × Nat × Nat × Nat × Nat)),
    ix r.1 r.2.1 r.2.2.1 r.2.2.2.1 = [(0, r.2.2.2.2)] := by decide +kernel

/-- R71's examples of LaneShift. -/
theorem test_laneShift : laneShift 1 0 = 0x3B1 ∧ laneShift 2 0 = 0x763 ∧ laneShift 0 0 = 0 := by decide +kernel

/-- The generator columns of the 16-step table of R72, k = 4, lane 0, seeds 1 and 2. -/
theorem test_generators :
    (List.range 16).map (fun i => genValues (sobol1 i) 4 1 1) =
      [[0x3B1], [0xBB1], [0x7B1], [0xFB1], [0x1B1], [0x9B1], [0x5B1], [0xDB1], [0x2B1], [0xAB1], [0x6B1], [0xEB1], [0x0B1],
       [0x8B1], [0x4B1], [0xCB1]]
    ∧ (List.range 16).map (fun i => genValues (sobol2 i) 4 2 1) =
      [[0x763], [0xF63], [0xB63], [0x363], [0xD63], [0x563], [0x163], [0x963], [0x863], [0x063], [0x463], [0xC63], [0x263],
       [0xA63], [0xE63], [0x663]] := by decide +kernel

/-- The worked edge conversion of R76: shift, magnitudes with signs, and bipolar values. -/
theorem test_edge :
    autoShift ([0x7E, 0xC5, 0x24, 0x18, 0x80].map Fmt.e4m3.read) = 3
    ∧ [0x7E, 0xC5, 0x24, 0x18, 0x80].map (fun x => edgeElem 3 (Fmt.e4m3.read x)) =
        [(0x0E00, false, false), (0x101A, false, false), (2, false, false), (0, true, false), (0x1000, false, false)]
    ∧ [0x7E, 0xC5, 0x24, 0x18, 0x80].map (fun x => bipolar (edgeElem 3 (Fmt.e4m3.read x)).1) =
        [3840, 2035, 2049, 2048, 2048] := by decide +kernel

/-- The worked promotion of R78. -/
theorem test_promote : promote 2 128 24 7 0x3DCCCCCD 0x3F000000 3 11 0x42C80000 = 0x42E5DDDE := by decide +kernel

/-! ### Witnesses: states that meet the hypotheses of the statements -/

/-- The machine with a program's first bundle placed. -/
def placed (w : Nat) : State := State.reset.withFetchWord 24 w

theorem wit_StepsRunInstructions :
    ({ State.reset with m := { State.reset.m with agenda := [.tickIncrement] } } : State).m.agenda = [.tickIncrement]
    ∧ Instr.tickIncrement.wf = true ∧ State.reset.m.agenda = []
    ∧ decodeSlot 0x805C03 = some (.ixMul 0 ⟨⟨false, 0⟩, .g 3⟩)
    ∧ (demo (has 1) []).m.issue.out = .going ∧ (demo (has 1) []).m.issue.done.getLsbD 7 = false := by decide +kernel

/-- The bundle of ix0.mul with g3 issues from reset: its hypotheses, and the result that is due three cycles on. -/
theorem wit_BundleIssueRunsItsSlots :
    (match judgeIssue ⟨(placed 0x805C03).boot, (placed 0x805C03).clk⟩ 0 (pickCur (coreKey 0 0) (placed 0x805C03).m) with
      | (.go b, m) =>
        let e : Env := ⟨(placed 0x805C03).boot, (placed 0x805C03).clk⟩
        let m1 := b.slots.zipIdx.foldl (fun m p => actSlot e p m) (movePorts e (beginIssue e 0 b m))
        e.live 0 && decide (issuer (coreKey 0 0) (pickCur (coreKey 0 0) (placed 0x805C03).m) = some 0)
          && decide (m1.issue.out = .going) && !m1.issue.halt && !(m1.ctx 0).haltPend
          && decide (m1.issue.start.retPend = 0) && !m1.issue.yield_ && decide (m1.issue.ck = 0)
      | _ => false) = true
    ∧ (placed 0x805C03).boot.failed = false := by decide +kernel

theorem test_first_bundle : sent (step (placed 0x805C03)) = [(0, 0, 4)] := by decide +kernel

theorem wit_EncodingRoundTrip :
    (Instr.lsStd 1 ⟨⟨false, 2⟩, .g 8⟩).wf = true ∧ encode (.lsStd 1 ⟨⟨false, 2⟩, .g 8⟩) = some 0x92AC08
    ∧ decodeSlot 0x92AC08 = some (.lsStd 1 ⟨⟨false, 2⟩, .g 8⟩) := by decide +kernel

/-- R35, R37, R52: each reserved range at both ends. -/
theorem wit_ReservedCodes :
    ([0x8000A8, 0x8000BF, 0x8000D3, 0x8000DF, 0x8000EF, 0x8000F7, 0x8000FF, 0x800110, 0x8001FF,
        0x028000, 0x02A000, 0x03FC00, 0x040C00, 0x04FC00, 0x050000, 0x07FC00, 0x81A000, 0x81FC00] : List (BitVec 24)).map
      decodeSlot = List.replicate 18 none := by decide +kernel

/-- An enabled slot of a reserved code, and one that is not enabled. -/
theorem wit_ReservedCodes_slot :
    (demo {} []).m.issue.out = .going ∧ (demo {} []).m.issue.done.getLsbD 7 = false
    ∧ enabled (demo {} []).m (slotGuard 0x81A000) = true ∧ enabled (demo {} []).m (slotGuard 0xC1A000) = false
    ∧ decodeSlot 0xC1A000 = none ∧ (demo {} []).m.cur.csr.intrap = false := by decide +kernel

/-- R33, R34, R44: a stopped bundle, a false predicate, an inverted true one, an inverted p0, and a unit named twice. -/
theorem wit_SlotsThatDoNotAct :
    opCode (.ixAdd 0 t8) = some (0, 0, t8) ∧ opCode (.ixAdd 0 ⟨⟨false, 7⟩, .g 8⟩) = some (0, 0, ⟨⟨false, 7⟩, .g 8⟩)
    ∧ opCode (.ixAdd 0 ⟨⟨true, 7⟩, .g 8⟩) = some (0, 0, ⟨⟨true, 7⟩, .g 8⟩)
    ∧ opCode (.ixAdd 0 ⟨⟨true, 0⟩, .g 8⟩) = some (0, 0, ⟨⟨true, 0⟩, .g 8⟩)
    ∧ (demo {} [] fun i => { i with out := .stopped }).m.issue.out ≠ .going
    ∧ (demo {} []).m.issue.preds.getLsbD 7 = false
    ∧ (demo {} [] fun i => { i with preds := 0x81 }).m.issue.preds.getLsbD 7 = true
    ∧ (demo {} [] fun i => { i with units := [0] }).m.issue.units.contains 0 = true
    ∧ (demo {} [] fun i => { i with units := [0] }).m.issue.out = .going
    ∧ enabled (demo {} [] fun i => { i with units := [0] }).m t8.guard = true
    ∧ (demo {} [] fun i => { i with units := [0] }).m.cur.csr.intrap = false := by decide +kernel

theorem test_unit_twice :
    stopOf (checkTrigger 0 0 t8) (demo {} [] fun i => { i with units := [0], raw := 0x800008 }) = some (1, 0x800008) := by
  decide +kernel

/-- R22: at cycle 1024 a tick boundary has passed and the increment is due. -/
theorem wit_TicksFollowCycles :
    State.reset.TickFollows ∧ step State.reset = .next (passCycle State.reset)
    ∧ ({ State.reset with clk := { State.reset.clk with cycle := 1024 },
                          m := { State.reset.m with agenda := [.tickIncrement] } } : State).TickFollows := by
  refine ⟨Or.inl (by decide), rfl, Or.inr ⟨rfl, by decide⟩⟩

theorem wit_TickAndBoot :
    ({ State.reset with clk := { State.reset.clk with cycle := 1024 } } : State).clk.tick
      ≠ ({ State.reset with clk := { State.reset.clk with cycle := 1024 } } : State).clk.ticks
    ∧ (∀ b, Instr.tickIncrement ≠ .moduleReset b) ∧ (∀ a, Instr.tickIncrement ≠ .securityAlarm a)
    ∧ ∃ t, exec .tickIncrement State.reset = .next t := by
  refine ⟨by decide, by simp, by simp, ?_⟩
  exact ⟨_, rfl⟩

/-- R37: moves to g, v, p and a port; the last general register, and g0. -/
theorem wit_DataMoves :
    (demo (has 9) []).m.issue.out = .going ∧ enabled (demo (has 9) []).m ⟨false, 0⟩ = true
    ∧ (demo (has 9) []).Reads (.g 8) 9 ∧ (∀ f k, Dst.g 127 ≠ .port f k) ∧ Dst.g 127 ≠ .p 0
    ∧ (∀ f k, Dst.p 7 ≠ .port f k) ∧ Dst.p 7 ≠ .p 0 := by decide +kernel

theorem test_move_g0 :
    (after (exec (.dataMove ⟨false, 0⟩ (.g 0) (.g 8)) (demo (has 9) []))).map (fun m => (m.cur.readG 0, m.cur.readG 8))
      = some (0, 9)
    ∧ (after (exec (.dataMove ⟨false, 0⟩ (.p 7) (.g 8)) (demo (has 9) []))).map (fun m => m.cur.p) = some 0x81 := by
  decide +kernel

/-- Ports a and b of ix0 and the operand, with every integer operation of the statements acting. -/
theorem wit_IntegerAddLogicShift :
    (demo (has 3) [(portCode 0 0, 5)]).Port 0 0 5 ∧ (demo (has 3) []).Reads t8.src 3
    ∧ ∀ i ∈ [Instr.ixAdd 0 t8, .ixSub 0 t8, .ixAddw 0 t8, .ixSubw 0 t8, .ixAnd 0 t8, .ixOr 0 t8, .ixXor 0 t8, .ixAndn 0 t8,
        .ixShl 0 t8, .ixShr 0 t8, .ixSha 0 t8, .ixRotl 0 t8],
        (demo (has 3) [(portCode 0 0, 5)]).acts i = true := by decide +kernel

theorem wit_IntegerOthers :
    (demo (has 3) [(portCode 2 0, 5), (portCode 2 1, 6)]).Port 2 0 5
    ∧ (demo (has 3) [(portCode 2 0, 5), (portCode 2 1, 6)]).Port 2 1 6
    ∧ (demo (has 3) [(portCode 2 0, 5), (portCode 2 1, 6)]).Reads t8.src 3
    ∧ ∀ i ∈ [Instr.ixCeq 2 t8, .ixCne 2 t8, .ixClt 2 t8, .ixCltu 2 t8, .ixCle 2 t8, .ixCleu 2 t8, .ixMin 2 t8, .ixMax 2 t8,
        .ixMinu 2 t8, .ixMaxu 2 t8, .ixMul 2 t8, .ixMulh 2 t8, .ixMulhu 2 t8, .ixClz 2 t8, .ixPopc 2 t8, .ixBext 2 t8,
        .ixSext 2 t8, .ixZext 2 t8, .ixSel 2 t8, .ixBins 2 t8],
        (demo (has 3) [(portCode 2 0, 5), (portCode 2 1, 6)]).acts i = true := by decide +kernel

/-- A task with one extent of a page at virtual address 0x200000, and its context. -/
def mapped (c : Ctx) (ports : SMap W512) : State :=
  demo c ports id fun m => m.setTask 0 { st := .running 0, extents := [⟨0x200000, 0x1000, 3, 0, 0, []⟩] }

/-- R194 to R198: an address of each aperture, and an extent that covers one, at its last byte and beyond. -/
theorem wit_AddressUnit :
    (mapped (has 0x200FFF) [(portCode 3 0, 0x200000), (portCode 3 1, 7)]).Port 3 0 0x200000
    ∧ (mapped (has 0x200FFF) [(portCode 3 0, 0x200000), (portCode 3 1, 7)]).Port 3 1 7
    ∧ (mapped (has 0x200FFF) []).Reads t8.src 0x200FFF
    ∧ (mapped (has 0x200FFF) []).m.curTask.extents[0]? = some ⟨0x200000, 0x1000, 3, 0, 0, []⟩
    ∧ (mapped (has 0x201000) []).Reads t8.src 0x201000
    ∧ (∀ y ∈ (mapped (has 0x201000) []).m.curTask.extents, ¬ (y.va ≤ 0x201000 ∧ 0x201000 < y.va + y.len))
    ∧ ∀ i ∈ [Instr.agAdda t8, .agTag t8, .agMkl t8, .agMkc t8, .agMkp t8, .agTsta t8, .agCvtc t8, .agXlk t8],
        (mapped (has 0x200FFF) []).acts i = true := by decide +kernel

theorem test_ag :
    sent (exec (.agXlk t8) (mapped (has 0x200FFF) [])) = [(3, 3 * 64 + 1 * 65536, 1)]
    ∧ sent (exec (.agXlk t8) (mapped (has 0x201000) [])) = [(3, 2 ^ 63, 1)] := by decide +kernel

/-- R51, R125: targets on both sides of 2^48, and a delay bundle. -/
theorem wit_ControlTransfers :
    (demo (has 0xFFFFFFFFFFFF) []).Reads t8.src 0xFFFFFFFFFFFF ∧ (demo (has 0xFFFFFFFFFFFF) []).m.issue.start.pend = none
    ∧ (demo (has 0xFFFFFFFFFFFF) []).m.issue.start.retPend = 0
    ∧ (demo (has 0x1000000000000) []).Reads t8.src 0x1000000000000
    ∧ (demo { has 1 with pend := some 32 } []).m.issue.start.pend.isSome = true
    ∧ (demo { has 1 with pend := some 32 } []).Reads t8.src 1
    ∧ (∀ i ∈ [Instr.brBr t8, .brBra t8, .brCall t8, .brCalla t8, .brRet t8, .brUiret t8],
        (demo (has 0xFFFFFFFFFFFF) []).acts i = true ∧ (demo { has 1 with pend := some 32 } []).acts i = true)
    ∧ (demo (has 0x1000000000000) []).m.cur.csr.intrap = false := by decide +kernel

theorem test_br_far :
    stopOf (slotBrBra t8) (demo (has 0x1000000000000) []) = some (5, 0x1000000000000)
    ∧ stopOf (slotBrBra t8) (demo { has 1 with pend := some 32 } [] fun i => { i with raw := 0x848408 })
        = some (1, 0x848408)
    ∧ stopOf (slotBrTrap t8) (demo (has 77) []) = some (18, 77) := by decide +kernel

/-- R126 to R130: a trap, the returns inside a handler and inside a trap and their faults, and both waits. -/
theorem wit_BranchUnitOthers :
    (demo (has 0) []).Reads t8.src 0 ∧ (demo (has 0) []).m.cur.csr.intrap = false
    ∧ (∀ i ∈ [Instr.brTrap t8, .brHalt t8, .brYield t8, .brUiret t8, .brWait t8], (demo (has 0) []).acts i = true)
    ∧ (demo { has 0 with csr := { inui := true } } []).m.cur.csr.inui = true
    ∧ (demo { has 1 with csr := { priv := true, intrap := true } } []).m.cur.csr.intrap = true
    ∧ (demo { has 1 with csr := { priv := true, intrap := true } } []).acts (.brUiret t8) = true
    ∧ (demo (has 0) []).m.cur.csr.inui = false ∧ (demo (has 1) []).m.cur.csr.priv = false
    ∧ ((demo (has 0) []).clk.tick - (0 : W64).setWidth 48).toNat < 2 ^ 47
    ∧ 2 ^ 47 ≤ ((demo (has 0x7FFFFFFFFFFF) []).clk.tick - (0x7FFFFFFFFFFF : W64).setWidth 48).toNat
    ∧ (demo { has 0x7FFFFFFFFFFF with uiq := [(1, 1)], csr := { uien := true } } []).m.cur.uiq ≠ []
    ∧ (demo { has 0x7FFFFFFFFFFF with uiq := [(1, 1)], csr := { uien := true } } []).m.issue.start.csr.uien = true
    ∧ (demo (has 0x7FFFFFFFFFFF) []).m.cur.uiq = [] := by decide +kernel

theorem test_uiret_wait :
    stopOf (slotBrUiret t8) (demo (has 1) []) = some (8, 1)
    ∧ stopOf (slotBrUiret t8) (demo (has 0) []) = some (1, 0)
    ∧ sent (exec (.brWait t8) (demo (has 0) [])) = [(12, 0, 1)]
    ∧ (after (exec (.brWait t8) (demo (has 0x7FFFFFFFFFFF) []))).map (fun m => m.issue.out)
        = some (.blocked ⟨.tick 0x7FFFFFFFFFFF, 0, 0x7FFFFFFFFFFF, false⟩) := by decide +kernel

/-- A context with x in g8 and a scratchpad run of 4,096 bytes. -/
def runs (x : W64) : Ctx := { g := [(8, x)], csr := { spadSize := 4096 } }

/-- The L address at an offset. -/
def lAddr (off : Nat) : W64 := w64 (2 ^ 58 + off)

/-- Bytes 1 to 8 at the start of core 0's scratchpad. -/
def withSpad (m : Mach) : Mach :=
  (spadWrite ⟨State.reset.boot, State.reset.clk⟩ (lsAgent m 0) 0 0 [0x81, 0x82, 0x83, 0x84, 0x85, 0x86, 0x87, 0x88] m).2

/-- A task whose page at virtual address 0x200000 lies at 4 MiB of die 0, readable and writable. -/
def paged (c : Ctx) (ports : SMap W512) : State :=
  demo c ports id fun m => m.setTask 0
    { st := .running 0, extents := [⟨0x200000, 0x200000, 3, 0, 0, [⟨1, 0x400000, true, true, true, 0, true⟩]⟩] }

/-- The last doubleword and the last byte of the run. -/
theorem wit_ScratchpadLoads :
    (demo (runs (lAddr 4088)) []).Reads t8.src ((lAddr 4088).setWidth 512)
    ∧ (demo (runs (lAddr 4088)) []).m.cur.csr.spadBase % 64 = 0 ∧ (demo (runs (lAddr 4088)) []).m.cur.fences = []
    ∧ (demo (runs (lAddr 4088)) []).m.cur.stq = [] ∧ (demo (runs (lAddr 4088)) []).m.cur.seg = none
    ∧ (lAddr 4088).toNat / 2 ^ 58 % 8 = 1 ∧ (lAddr 4088).toNat / 2 ^ 22 % 2 ^ 36 = 0 ∧ (lAddr 4088).toNat % 8 = 0
    ∧ (lAddr 4088).toNat % 2 ^ 22 + 8 ≤ (demo (runs (lAddr 4088)) []).m.cur.csr.spadSize
    ∧ (demo (runs (lAddr 4088)) []).m.spadClean (demo (runs (lAddr 4088)) []).m.issue.core
        ((demo (runs (lAddr 4088)) []).runOffset (lAddr 4088)) = true
    ∧ (∀ i ∈ [Instr.lsLdb 0 t8, .lsLdbu 1 t8, .lsLdh 0 t8, .lsLdhu 1 t8, .lsLdw 0 t8, .lsLdwu 1 t8, .lsLdd 0 t8, .lsLdv 1 t8],
        (demo (runs (lAddr 4088)) []).acts i = true) := by decide +kernel

/-- R201: sign and zero extension, little-endian. -/
theorem test_load :
    sent (exec (.lsLdh 0 t8) (demo (runs (lAddr 0)) [] id withSpad)) = [(4, 0xFFFFFFFFFFFF8281, 4)]
    ∧ sent (exec (.lsLdwu 1 t8) (demo (runs (lAddr 4)) [] id withSpad)) = [(6, 0x88878685, 4)] := by decide +kernel

/-- An L address, and a G address that a page covers, pass the checks; the C and P latencies are met by their apertures. -/
theorem wit_LoadsDeliver :
    (paged (has 0x200008) [(portCode 4 1, 8)]).Reads t8.src 0x200008 ∧ (paged (has 0x200008) [(portCode 4 1, 8)]).Port 4 1 8
    ∧ (match check .read 8 8 0x200008 ⟨(paged (has 0x200008) []).boot, (paged (has 0x200008) []).clk⟩
          ((paged (has 0x200008) []).m.began (.lsLdd 0 t8)) with
        | .ok a m1 =>
          (match loadBytes a 8 ⟨(paged (has 0x200008) []).boot, (paged (has 0x200008) []).clk⟩ m1 with
            | .ok _ _ => true
            | .error _ _ => false)
        | .error _ _ => false) = true
    ∧ (0x200008 : W64).toNat / 2 ^ 58 % 8 = 0 ∧ (lAddr 0).toNat / 2 ^ 58 % 8 = 1
    ∧ (∀ i ∈ [Instr.lsLdb 0 t8, .lsLdbu 0 t8, .lsLdh 0 t8, .lsLdhu 0 t8, .lsLdw 0 t8, .lsLdwu 0 t8, .lsLdd 0 t8, .lsLdv 0 t8,
          .lsLddi 0 t8, .lsLdvi 0 t8],
        (paged (has 0x200008) [(portCode 4 1, 8)]).acts i = true) := by decide +kernel

theorem wit_ScratchpadStores :
    (demo (runs (lAddr 4088)) [(portCode 5 0, 0x1122), (portCode 5 1, 8)]).Port 5 0 0x1122
    ∧ (demo (runs (lAddr 4088)) [(portCode 5 0, 0x1122), (portCode 5 1, 8)]).Port 5 1 8
    ∧ (demo (runs (lAddr 4088)) [(portCode 5 0, 0x1122), (portCode 5 1, 8)]).Reads t8.src ((lAddr 4088).setWidth 512)
    ∧ inSegment (demo (runs (lAddr 4088)) [(portCode 5 0, 0x1122), (portCode 5 1, 8)]).m = false
    ∧ (∀ i ∈ [Instr.lsStb 1 t8, .lsSth 1 t8, .lsStw 1 t8, .lsStd 1 t8, .lsStv 1 t8, .lsStdi 1 t8, .lsStvi 1 t8],
        (demo (runs (lAddr 4088)) [(portCode 5 0, 0x1122), (portCode 5 1, 8)]).acts i = true) := by decide +kernel

/-- A store with a load after it in the same bundle: the state that the store answers lets the load act. -/
theorem wit_ScratchpadStores_load :
    (match exec (.lsStd 0 t8) (demo (runs (lAddr 8)) [(portCode 4 0, 0x1122)]) with
      | .next s => s.acts (.lsLdd 1 t8) && decide (s.m.cur.stq.length = 1)
      | _ => false) = true := by decide +kernel

/-- R186: must-be-zero bits, alignment, the bounds of L and C, and extents: the first address beyond each. -/
theorem wit_AccessChecks :
    (demo (runs (w64 (2 ^ 48))) []).Reads t8.src (w512 (2 ^ 48))
    ∧ (demo (runs (lAddr 4089)) []).m.cur.csr.spadSize < (lAddr 4096).toNat % 2 ^ 22 + 1
    ∧ (lAddr 4089).toNat % 8 ≠ 0 ∧ (lAddr 4096).toNat % 8 = 0
    ∧ 191 < (w64 (2 * 2 ^ 58 + 192 * 2 ^ 22)).toNat / 2 ^ 22 % 2 ^ 8
    ∧ (∀ y ∈ (mapped (has 0x201000) []).m.curTask.extents, ¬ (y.va ≤ 0x201000 ∧ 0x201000 < y.va + y.len))
    ∧ (demo (has 0x200000) [] id fun m => m.setTask 0
        { extents := [⟨0x200000, 8, 1, 0, 0, []⟩] }).m.curTask.extents[0]? = some ⟨0x200000, 8, 1, 0, 0, []⟩
    ∧ (1 : Nat).testBit 1 = false ∧ (demo (runs 0) []).m.cur.csr.intrap = false
    ∧ (∀ i ∈ [Instr.lsLdb 0 t8, .lsStb 0 t8, .lsLdaq 0 t8, .lsStrl 0 t8, .lsWbk 0 t8, .lsInv 0 t8],
        (demo (runs (w64 (2 ^ 48))) []).acts i = true) := by decide +kernel

theorem test_access :
    stopOf (slotLsLdd 0 t8) (demo (runs (w64 (2 ^ 48))) []) = some (5, 2 ^ 48)
    ∧ stopOf (slotLsLdd 0 t8) (demo (runs (lAddr 4089)) []) = some (7, 2 ^ 58 + 4089)
    ∧ stopOf (slotLsLdd 0 t8) (demo (runs (lAddr 4096)) []) = some (5, 2 ^ 58 + 4096)
    ∧ stopOf (slotLsLdd 0 t8) (demo (runs 0x200000) []) = some (6, 0x200000) := by decide +kernel

/-- R203: the allowed control words at their ends, and the first wrong ones. -/
theorem wit_GatherAndScatter :
    (demo (runs (lAddr 64)) [(portCode 4 0, 0), (portCode 4 1, 0), (portCode 4 2, 0)]).Reads t8.src ((lAddr 64).setWidth 512)
    ∧ (demo (runs (lAddr 64)) []).Port 4 0 0 ∧ (demo (runs (lAddr 64)) []).Port 4 1 0
    ∧ (demo (runs (lAddr 64)) [(portCode 4 2, 12)]).Port 4 2 12 ∧ (12 : W64).toNat / 4 < 4 / 2 ^ ((12 : W64).toNat % 4)
    ∧ (demo (runs (lAddr 64)) [(portCode 4 2, 16)]).Port 4 2 16 ∧ 4 / 2 ^ ((9 : W64).toNat % 4) ≤ (9 : W64).toNat / 4 % 4
    ∧ (∀ j < 16, ((0 : W512).extractLsb' (32 * j) 32 != 0x80000000#32) = true →
        (addA (lAddr 64) (((0 : W512).extractLsb' (32 * j) 32).signExtend 64)) = lAddr 64)
    ∧ (demo (runs (lAddr 64)) []).m.spadClean (demo (runs (lAddr 64)) []).m.issue.core
        ((demo (runs (lAddr 64)) []).runOffset (lAddr 64)) = true
    ∧ (demo (runs (lAddr 64)) []).acts (.lsGath 0 t8) = true ∧ (demo (runs (lAddr 64)) []).acts (.lsScat 0 t8) = true
    ∧ inSegment (demo (runs (lAddr 64)) []).m = false := by decide +kernel

theorem wit_AcquireReleaseAndLines :
    (demo (runs (lAddr 8)) [(portCode 4 0, 7)]).Port 4 0 7
    ∧ (demo (runs (lAddr 8)) [(portCode 4 0, 7)]).Reads t8.src ((lAddr 8).setWidth 512)
    ∧ (demo (runs (lAddr 8)) [(portCode 4 0, 7)]).m.issue.x < 4
    ∧ (∀ i ∈ [Instr.lsLdaq 0 t8, .lsStrl 0 t8, .lsPref 0 t8, .lsWbk 0 t8, .lsInv 0 t8],
        (demo (runs (lAddr 8)) [(portCode 4 0, 7)]).acts i = true)
    ∧ ((paged (has 0x200080) []).m.core (paged (has 0x200080) []).m.issue.core).sectors = []
    ∧ ((paged (has 0x200080) []).m.core (paged (has 0x200080) []).m.issue.core).l1 ≠ 0
    ∧ (paged (has 0x200080) []).m.homeClean 0 0x400080 = true := by decide +kernel

/-- Whatever the issue record, the check of a line of the mapped page answers the same place and no change. -/
theorem wit_AcquireReleaseAndLines_place (i : Instr) :
    checkAcc ⟨(paged (has 0x200080) []).boot, (paged (has 0x200080) []).clk⟩ (paged (has 0x200080) []).m.who .read 1 1
        0x200080 ((paged (has 0x200080) []).m.began i)
      = (.ok ⟨.phys 0x400080, .own, 0, 0, 0x200080, 0⟩, (paged (has 0x200080) []).m.began i) := rfl

/-- R218, R219: control words at their ends, an L address, and the old value of a mapped doubleword. -/
theorem wit_Atomics :
    (paged (has 0x200080) [(portCode 4 0, 5), (portCode 4 1, 0), (portCode 4 2, 6)]).Port 4 0 5
    ∧ (paged (has 0x200080) [(portCode 4 0, 5), (portCode 4 1, 0), (portCode 4 2, 6)]).Port 4 1 0
    ∧ (paged (has 0x200080) [(portCode 4 0, 5), (portCode 4 1, 0), (portCode 4 2, 6)]).Port 4 2 6
    ∧ (paged (has 0x200080) [(portCode 4 0, 5), (portCode 4 1, 0), (portCode 4 2, 6)]).Reads t8.src 0x200080
    ∧ 0x400080 % 8 = 0 ∧ (paged (has 0x200080) []).m.cur.fences = [] ∧ (paged (has 0x200080) []).m.cur.stq = []
    ∧ (demo (runs (lAddr 8)) [(portCode 4 2, 16)]).Port 4 2 16 ∧ (lAddr 8).toNat / 2 ^ 58 % 8 = 1
    ∧ (∀ i ∈ [Instr.lsAadd 0 t8, .lsAmin 0 t8, .lsAmax 0 t8, .lsAand 0 t8, .lsAor 0 t8, .lsAxch 0 t8, .lsAcas 0 t8,
          .lsAfadd 0 t8],
        (paged (has 0x200080) [(portCode 4 0, 5), (portCode 4 1, 0), (portCode 4 2, 6)]).acts i = true) := by
  decide +kernel

theorem wit_Atomics_place (i : Instr) :
    checkAcc ⟨(paged (has 0x200080) []).boot, (paged (has 0x200080) []).clk⟩ (paged (has 0x200080) []).m.who .both 8 8
        0x200080 ((paged (has 0x200080) []).m.began i)
      = (.ok ⟨.phys 0x400080, .own, 0, 0, 0x200080, 0⟩, (paged (has 0x200080) []).m.began i) := rfl

/-- R218: the old value is delivered 40 cycles on; a wrong control word and an L address stop. -/
theorem test_atomic :
    sent (exec (.lsAadd 0 t8) (paged (has 0x200080) [(portCode 4 0, 5)])) = [(4, 0, 40)]
    ∧ stopOf (slotLsAadd 0 t8) (paged (has 0x200080) [(portCode 4 2, 8)]) = some (1, 8)
    ∧ stopOf (slotLsAadd 0 t8) (demo (runs (lAddr 8)) []) = some (5, 2 ^ 58 + 8) := by decide +kernel

/-- A context that holds a vector in v1, in an element format. -/
def holds (x : W512) : Ctx := { v := [(1, x)], csr := {} }

/-- A vector bundle: format, mode, ports a, b of vx0 and of vs. -/
def vec (fmt mode : Nat) (x : W512) : State :=
  demo (holds x) [(portCode 6 0, 7), (portCode 6 1, 9), (portCode 8 0, 7), (portCode 8 1, 9)]
    fun i => { i with fmt := fmt, mode := mode }

theorem wit_VectorArithmetic :
    (vec 0 4 5).Port 6 0 7 ∧ (vec 0 4 5).Port 6 1 9 ∧ (vec 0 4 5).Reads tv.src 5 ∧ (vec 0 4 5).elem = .flt .fp32
    ∧ (vec 7 0 5).elem = .int 4
    ∧ ∀ i ∈ [Instr.vxVadd 0 tv, .vxVsub 0 tv, .vxVmul 0 tv, .vxVfma 0 tv], (vec 0 4 5).acts i = true := by decide +kernel

theorem wit_VectorOrderAndBits :
    (vec 6 0 5).Port 6 0 7 ∧ (vec 6 0 5).Port 6 1 9 ∧ (vec 6 0 5).Reads tv.src 5
    ∧ ∀ i ∈ [Instr.vxVabs 0 tv, .vxVneg 0 tv, .vxVmax 0 tv, .vxVmin 0 tv, .vxVceq 0 tv, .vxVclt 0 tv, .vxVcle 0 tv,
        .vxVbc 0 tv, .vxVand 0 tv, .vxVor 0 tv, .vxVxor 0 tv, .vxVshl 0 tv, .vxVshr 0 tv, .vxVsha 0 tv, .vxVext 0 tv,
        .vxVsel 0 tv, .vxVins 0 tv, .vxVshf 0 tv], (vec 6 0 5).acts i = true := by decide +kernel

theorem wit_VectorReductions :
    (vec 8 0 5).elem = .flt .e2m1 ∧ (vec 1 0 5).elem = .int 32 ∧ (vec 8 0 5).Port 6 0 7 ∧ (vec 8 0 5).Reads tv.src 5
    ∧ ∀ i ∈ [Instr.vxVrsum 0 tv, .vxVrmax 0 tv, .vxVrmin 0 tv, .vxVdot 0 tv],
        (vec 8 0 5).acts i = true ∧ (vec 1 0 5).acts i = true := by decide +kernel

theorem wit_VectorFunctions :
    (vec 5 0 5).elem = .flt .e4m3 ∧ (vec 4 0 5).elem = .int 16 ∧ (vec 4 0 5).m.cur.csr.intrap = false
    ∧ ∀ i ∈ [Instr.vxVrcp 0 tv, .vxVrsq 0 tv, .vxVexp 0 tv, .vxVlog 0 tv],
        (vec 5 0 5).acts i = true ∧ (vec 4 0 5).acts i = true := by decide +kernel

theorem wit_ExactValuesAreNotRounded :
    Fmt.fp16 ∈ [Fmt.fp32, Fmt.bf16, Fmt.fp16, Fmt.e4m3, Fmt.e2m1] ∧ 0x7BFF < 2 ^ Fmt.fp16.w
    ∧ Fmt.fp16.read 0x7BFF ≠ .nan ∧ Fmt.bf16.read 0x80 ≠ .nan ∧ (0x80 / 2 ^ 7 % 2 ^ 8 = 0 → 0x80 % 2 ^ 7 = 0) := by
  decide +kernel

/-- R68's examples: INT8 100 to E2M1 is 6, INT32 2^31 − 1 to FP16 is +∞ in RNE. -/
theorem test_conversions :
    Fmt.e2m1.round 0 0 (Elem.read (.int 8) 100) = 7 ∧ Fmt.fp16.round 0 0 (Elem.read (.int 32) 0x7FFFFFFF) = 0x7C00
    ∧ Fmt.e4m3.round 1 0 (Fmt.fp32.read 0x7F800000) = 0x7E ∧ Fmt.fp16.round 1 0 (Fmt.fp32.read 0x7F7FFFFF) = 0x7BFF := by
  decide +kernel

/-- The control word of a conversion, in g8, with ports a and b of vs. -/
def conv (fmt : Nat) (x : W64) : State :=
  demo (has x) [(portCode 8 0, 7), (portCode 8 1, 9)] fun i => { i with fmt := fmt }

/-- FP32 to FP16 into part 1, FP16 to FP32 from part 1; the first wrong words. -/
theorem wit_VectorConversionsAndScales :
    (conv 0 0x130).Reads t8.src 0x130 ∧ (conv 0 0x130).Port 8 0 7 ∧ (conv 0 0x130).Port 8 1 9
    ∧ (conv 0 0x103).Reads t8.src 0x103 ∧ (conv 0 0x800).Reads t8.src 0x800 ∧ (conv 0 0x200).m.cur.csr.intrap = false
    ∧ (conv 0 0x20000000000).Reads t8.src 0x20000000000 ∧ (conv 6 0).elem = .int 8
    ∧ 512 / (elemOf 3).w = 32 ∧ 512 / (elemOf 0).w = 16
    ∧ (∀ i ∈ [Instr.vsVcvt t8, .vsVqnt t8, .vsVdq t8, .vsVmxe t8], (conv 0 0x130).acts i = true)
    ∧ (∀ i ∈ [Instr.vsVpk tv, .vsVupk tv], (vec 6 0 5).acts i = true ∧ (vec 7 0 5).acts i = true) := by decide +kernel

theorem test_conversion_word :
    stopOf (slotVsVcvt t8) (conv 0 0x800) = some (1, 0x800) ∧ stopOf (slotVsVmxe t8) (conv 0 9) = some (1, 9)
    ∧ stopOf (slotVsVqnt t8) (conv 0 0x10000000000) = some (1, 0x10000000000) := by decide +kernel

theorem wit_VectorDivergenceAndRandom :
    (vec 8 0 5).Port 8 0 7 ∧ (vec 8 0 5).Port 8 1 9 ∧ (vec 8 0 5).Reads tv.src 5 ∧ 512 / (vec 8 0 5).elem.w = 128
    ∧ ∀ i ∈ [Instr.vsPcnt tv, .vsPart tv, .vsVcmp tv, .vsVexd tv, .vsRand tv, .vsNorm tv], (vec 8 0 5).acts i = true := by
  decide +kernel

/-! ### The system unit -/

/-- A context with x in g8, in sy port a a value, at a privilege. -/
def sys (priv : Bool) (x a : W64) : State :=
  demo { g := [(8, x)], csr := { priv := priv, spadSize := 131072 } } [(portCode 13 0, a.setWidth 512)]

/-- A user register, a supervisor register at both privileges, and numbers that the table does not hold. -/
theorem wit_ControlRegisters :
    (sys false 0x042 0).Reads t8.src 0x042 ∧ (sys false 0x042 0).m.cur.csr.fmt < 2 ^ 32
    ∧ (sys false 0x042 0).m.cur.csr.mode < 2 ^ 24 ∧ (sys true 0x106 96).Reads t8.src 0x106
    ∧ (sys true 0x106 96).Port 13 0 96 ∧ (sys true 0x106 96).m.cur.csr.priv = true
    ∧ (readCsr ⟨State.reset.boot, State.reset.clk⟩ (sys true 0x106 96).m 0x106).isSome = true
    ∧ (sys false 0x10B 0).m.cur.csr.priv = false ∧ supervisorOnly 0x042 = false ∧ (sys false 0x10C 0).Reads t8.src 0x10C
    ∧ (∀ i ∈ [Instr.syCsrr t8, .syCsrw t8], (sys false 0x042 0).acts i = true ∧ (sys true 0x106 96).acts i = true) := by
  decide +kernel

theorem test_csr :
    sent (exec (.syCsrr t8) (sys false 0x030 0)) = [(16, 16384, 2)]
    ∧ sent (exec (.syCsrr t8) (sys false 0x200 0)) = [(16, 0xFFFF0010, 2)]
    ∧ stopOf (slotSyCsrr t8) (sys false 0x100 0) = some (8, 0x100)
    ∧ stopOf (slotSyCsrr t8) (sys true 0x003 0) = some (1, 3)
    ∧ stopOf (slotSyCsrw t8) (sys true 0x020 13) = some (1, 13) := by decide +kernel

/-- sy.uie with its highest legal operand and vector, sy.setv and sy.seed at the ends of their ranges. -/
theorem wit_SettingsOfTheContext :
    (sys false 0x7F 0xFFFFFFFFFFE0).Reads t8.src 0x7F ∧ (sys false 0x7F 0xFFFFFFFFFFE0).Port 13 0 0xFFFFFFFFFFE0
    ∧ (sys false 0x80 0).Reads t8.src 0x80 ∧ (sys false 1 0x1000000000000).Port 13 0 0x1000000000000
    ∧ (sys false 0x8488 0).Reads t8.src 0x8488 ∧ (sys false 0x8588 0).Reads t8.src 0x8588
    ∧ (sys false 0xFFFFFFFF 0xFFFFFFFFFF).Reads t8.src 0xFFFFFFFF ∧ (sys false 0 0x10000000000).Port 13 0 0x10000000000
    ∧ (∀ i ∈ [Instr.syUie t8, .sySetv t8, .sySeed t8], (sys false 0x7F 0).acts i = true)
    ∧ (sys false 0x7F 0).m.cur.csr.intrap = false := by decide +kernel

theorem test_settings :
    stopOf (slotSySetv t8) (sys false 0x8588 0) = some (1, 0x8588)
    ∧ stopOf (slotSyUie t8) (sys false 1 33) = some (7, 33)
    ∧ (after (exec (.sySetv t8) (sys false 0x8488 0))).map (fun m => (m.issue.newFmt, m.issue.newMode))
        = some (some 8, some 4) := by decide +kernel

/-- A store on its way to the bank. -/
def pending : PStore :=
  { id := 0, loc := .spad 0 64, bytes := [1], cls := .bank, acls := 0, gaddr := 0, legend := 0, buf := 0 }

/-- A die release with nothing pending, and with a store pending; wrong operands; a refused store. -/
theorem wit_Fences :
    (sys false 0x22 0).Reads t8.src 0x22 ∧ (sys false 0x22 0).m.cur.fences = [] ∧ (sys false 0x22 0).m.issue.x < 4
    ∧ (sys false 0x22 0).m.cur.stq = [] ∧ (sys false 0x22 0).m.cur.refusals = []
    ∧ ((sys false 0x22 0).m.core (sys false 0x22 0).m.issue.core).sectors = []
    ∧ pending ∈ (demo { has 0x22 with stq := [pending], nextStore := 1 } []).m.cur.stq ∧ pending.id < 1
    ∧ pending.cls ≠ .far ∧ (sys false 0x40 0).Reads t8.src 0x40 ∧ (sys false 0x13 0).Reads t8.src 0x13
    ∧ (demo { has 0 with refusals := [(3, 77), (4, 78)] } []).m.cur.refusals = (3, 77) :: [(4, 78)]
    ∧ (∀ i ∈ [Instr.syFnc t8, .syFncx t8, .syFncp t8], (sys false 0x22 0).acts i = true
        ∧ (demo { has 0x22 with stq := [pending], nextStore := 1 } []).acts i = true) := by decide +kernel

theorem wit_NoPeerSectors : (sys false 0x22 0).NoPeerSectors := by
  refine ⟨by decide +kernel, fun k sec h => ?_⟩
  have : ((sys false 0x22 0).m.core (sys false 0x22 0).m.issue.core).sectors = [] := by decide +kernel
  rw [this] at h
  cases h

theorem test_fence :
    stopOf (slotSyFnc t8) (sys false 0x13 0) = some (1, 0x13)
    ∧ stopOf (slotSyFncx t8) (demo { has 0 with refusals := [(3, 77), (4, 78)] } []) = some (5, 77)
    ∧ sent (exec (.syFnc t8) (sys false 0x22 0)) = [(16, 0, 2)] := by decide +kernel

/-- The last region of a run of two regions, the first address beyond, and the wrong words; flares and records. -/
theorem wit_RegionsFlaresEvents :
    (sys false (lAddr 65536) 0x901).Reads t8.src ((lAddr 65536).setWidth 512)
    ∧ (sys false (lAddr 65536) 0x901).Port 13 0 0x901 ∧ (lAddr 65536).toNat / 2 ^ 22 % 2 ^ 36 = 0
    ∧ (lAddr 65536).toNat % 2 ^ 22 + 1 * 65536 ≤ (sys false (lAddr 65536) 0x901).m.cur.csr.spadSize
    ∧ (sys false (lAddr 65537) 0x901).m.cur.csr.spadSize < (lAddr 65537).toNat % 2 ^ 22 + 1 * 65536
    ∧ (lAddr 1).toNat % 65536 ≠ 0 ∧ State.reset.m.MemWf
    ∧ (demo (has 0xFFFF) [] id fun m => m.modDie 0 fun y => { y with flArm := true, flUser := true }).Reads t8.src 0xFFFF
    ∧ (sys false 0x10000 0).Reads t8.src 0x10000 ∧ (sys false 0 0).m.cur.csr.priv = false
    ∧ ((sys false 0 0).m.die 0).flUser = false
    ∧ (sys true 0x100000000 (lAddr 64)).Port 13 0 ((lAddr 64).setWidth 512)
    ∧ ((demo (has 0) [] id fun m => m.modDie 0 fun y =>
        { y with evStore := [⟨1, 5⟩], evCount := 1 }).m.die 0).evStore = ⟨1, 5⟩ :: []
    ∧ (∀ i ∈ [Instr.syLayo t8, .syFlar t8, .syEvr t8], (sys false (lAddr 65536) 0x901).acts i = true) := by
  refine ⟨by decide +kernel, by decide +kernel, by decide +kernel, by decide +kernel, by decide +kernel, by decide +kernel,
    by unfold Mach.MemWf; decide +kernel, by decide +kernel, by decide +kernel, by decide +kernel, by decide +kernel,
    by decide +kernel, by decide +kernel, by decide +kernel⟩

theorem test_layo_flar :
    stopOf (slotSyLayo t8) (sys false (lAddr 65536) 0xA01) = some (1, 0xA01)
    ∧ stopOf (slotSyLayo t8) (sys false (lAddr 65536) 0x902) = some (5, 2 ^ 58 + 65536)
    ∧ stopOf (slotSyFlar t8) (sys false 1 0) = some (8, 1)
    ∧ sent (exec (.syEvr t8) (sys true 0x100000000 (lAddr 64))) = [(16, 0x8000000000000001, 8)] := by decide +kernel

/-! ### Checked execution, groups, waits and segments -/

/-- A context with x in g8, in ports a, b and c of a unit three values, at a privilege, on a machine. -/
def unit3 (f : Nat) (priv : Bool) (x a b c : W64) (g : Mach → Mach := id) : State :=
  demo { g := [(8, x)], csr := { priv := priv, spadSize := 4096 } }
    [(portCode f 0, a.setWidth 512), (portCode f 1, b.setWidth 512), (portCode f 2, c.setWidth 512)] id g

/-- An open segment that has been rewound r times. -/
def segOf (r : Nat) (again : Bool) (at_ : W64) : Seg :=
  { handler := false, n := 4, used := 1, held := [pending], g := [(8, 1)], shadow := [], v := [], p := 1, rctr := 0, addr := at_,
    rewinds := r, again := again }

/-- Equal and unequal operands, an armed context, segments rewound twice and three times; the injections. -/
theorem wit_CheckedComparisonsAndInjection :
    (unit3 14 false 5 5 0 0).Reads t8.src 5 ∧ (unit3 14 false 5 5 0 0).Port 14 0 5 ∧ (unit3 14 false 5 6 0 0).Port 14 0 6
    ∧ (unit3 14 false 5 5 0 0).m.cur.armed = false ∧ (demo { has 5 with armed := true } []).m.cur.armed = true
    ∧ (demo { has 5 with seg := some (segOf 2 false 0) } []).m.cur.seg = some (segOf 2 false 0)
    ∧ (segOf 2 false 0).rewinds < 3 ∧ 3 ≤ (segOf 3 false 0).rewinds ∧ (unit3 14 false 5 6 0 0).m.cur.csr.intrap = false
    ∧ (unit3 14 true 1 767 0 0).m.cur.csr.priv = true ∧ (767 : W64).toNat / 4 ≤ 191 ∧ 191 < (768 : W64).toNat / 4
    ∧ (unit3 14 true 3 0 0 0).Reads t8.src 3 ∧ (unit3 14 true 0x11D00002 0 0 0).Reads t8.src 0x11D00002
    ∧ (unit3 14 true (16 * 1151) (lAddr 0) 0 0).Reads t8.src (16 * 1151)
    ∧ (∀ i ∈ [Instr.ckCmp t8, .ckCmpv t8, .ckCmpp t8, .ckSig t8, .ckSigc t8, .ckInj t8],
        (unit3 14 true 5 5 0 0).acts i = true ∧ (demo { has 5 with seg := some (segOf 2 false 0) } []).acts i = true) := by
  decide +kernel

theorem test_ck :
    sent (exec (.ckCmp t8) (unit3 14 false 5 5 0 0)) = [(17, 0, 1)]
    ∧ stopOf (slotCkInj t8) (unit3 14 false 1 0 0 0) = some (8, 1)
    ∧ stopOf (slotCkInj t8) (unit3 14 true 3 0 0 0) = some (1, 3)
    ∧ (after (exec (.ckInj t8) (unit3 14 true 1 767 0 0))).map (fun m => (m.ctx 767).armed) = some true := by
  decide +kernel

/-- A set that task 0 is a member of, alone or with task 1. -/
def setOf (gang : Bool) (ms aw : List Nat) (m : Mach) : Mach :=
  (m.setMset 0 { used := true, gen := 1, gang := gang, members := ms, awaited := aw }).setTask 0
    { st := .running 0, sets := [0] }

/-- A new set, a handle of another generation, a member, and one that is none. -/
theorem wit_MembershipSets :
    (unit3 15 false 0x10000 0 0 0).Reads t8.src 0x10000 ∧ ((unit3 15 false 0x10000 0 0 0).m.mset 0).used = false
    ∧ (unit3 15 false 0x10000 0 0 0).m.curTask.sets.length < 8
    ∧ ((unit3 15 false 0x100 0 0 0 (setOf false [0] [0])).m.mset 0).gen = 0x100 / 256
    ∧ 0 ∈ ((unit3 15 false 0x100 0 0 0 (setOf false [0] [0])).m.mset 0).members
    ∧ 0 ∉ ((unit3 15 false 0x100 0 0 0 (setOf false [1] [1])).m.mset 0).members
    ∧ ((unit3 15 false 0x200 0 0 0 (setOf false [0] [0])).m.mset 0).gen ≠ 0x200 / 256
    ∧ (0x11000 : W64).toNat &&& 0x10FFF ≠ (0x11000 : W64).toNat
    ∧ (∀ i ∈ [Instr.gsJoin t8, .gsLeav t8, .gsMemb t8],
        (unit3 15 false 0x100 0 0 0 (setOf false [0] [0])).acts i = true) := by decide +kernel

theorem test_sets :
    sent (exec (.gsJoin t8) (unit3 15 false 0x10000 0 0 0)) = [(18, 0x100, 4)]
    ∧ sent (exec (.gsMemb t8) (unit3 15 false 0x100 0 0 0 (setOf true [0, 1] [0]))) = [(18, 0x80010002, 4)]
    ∧ sent (exec (.gsLeav t8) (unit3 15 false 0x200 0 0 0 (setOf false [0] [0]))) = [(18, 0x8000000000000002, 4)] := by
  decide +kernel

/-- The last and an earlier arrival, one who is awaited no more, the phases of gs.barw, and a rendezvous of a gang. -/
theorem wit_BarriersAndRendezvous :
    (unit3 15 false 0x100 0 0 0 (setOf true [0, 1] [0, 1])).Reads t8.src 0x100
    ∧ (unit3 15 false 0x100 0 0 0 (setOf true [0, 1] [0, 1])).Port 15 0 0
    ∧ ((unit3 15 false 0x100 0 0 0 (setOf true [0, 1] [0, 1])).m.mset 0).used = true
    ∧ (∃ j ∈ ([0, 1] : List Nat), j ≠ 0) ∧ (∀ j ∈ ([0] : List Nat), j = 0) ∧ 0 ∉ ([1] : List Nat)
    ∧ (unit3 15 false 0x100 0 0 0 (setOf true [0, 1] [0, 1])).m.cur.pendArr = none
    ∧ (unit3 15 false 0x100 0xFFFFFFFF 0 0 (setOf true [0, 1] [0, 1])).Port 15 0 0xFFFFFFFF
    ∧ 1 ≤ ((0 : W32) - (0xFFFFFFFF : W64).setWidth 32).toNat
    ∧ ((0 : W32) - (0xFFFFFFFF : W64).setWidth 32).toNat < 2 ^ 31
    ∧ (unit3 15 false 63 0x100 0 0 (setOf true [0, 1] [0, 1])).Reads t8.src 63
    ∧ (unit3 15 false 63 0x100 0 0 (setOf true [0, 1] [0, 1])).Port 15 0 0x100
    ∧ (unit3 15 false 63 0x100 0 0 (setOf true [0, 1] [0, 1])).m.issue.r < 192
    ∧ ((unit3 15 false 63 0x100 0 0 (setOf true [0, 1] [0, 1])).m.core 0).sectors = []
    ∧ (∀ i ∈ [Instr.gsBarr t8, .gsBarw t8, .gsRdv t8],
        (unit3 15 false 0x100 0 0 0 (setOf true [0, 1] [0, 1])).acts i = true) := by decide +kernel

theorem test_barrier :
    sent (exec (.gsBarr t8) (unit3 15 false 0x100 0 0 0 (setOf false [0, 1] [0, 1]))) = [(18, 0, 4)]
    ∧ (after (exec (.gsBarr t8) (unit3 15 false 0x100 0 0 0 (setOf false [0, 1] [0])))).map
        (fun m => ((m.mset 0).phase, (m.mset 0).awaited)) = some (1, [0, 1])
    ∧ stopOf (slotGsRdv t8) (unit3 15 false 63 0x100 0 0 (setOf false [0, 1] [])) = some (1, 0x100) := by decide +kernel

/-- One entry and all 1,024, none left, an open segment, one rewound whose bundle issues again, and its end. -/
theorem wit_Segments :
    (unit3 15 false 1024 0 0 0).Reads t8.src 1024 ∧ (unit3 15 false 1025 0 0 0).Reads t8.src 1025
    ∧ (unit3 15 false 1024 0 0 0).m.cur.seg = none ∧ ((unit3 15 false 1024 0 0 0).m.core 0).segAsk = []
    ∧ 1024 < 1024 + (([(1, 1)] : List (Nat × Nat)).map (·.2)).sum
    ∧ (demo { has 4 with seg := some (segOf 1 true 0) } []).m.cur.seg = some (segOf 1 true 0)
    ∧ (segOf 1 true 0).addr = (demo { has 4 with seg := some (segOf 1 true 0) } []).m.issue.addr
    ∧ (segOf 1 false 0).again = false
    ∧ (demo { has 4 with seg := some (segOf 1 true 0) } []).m.spadClean 0 64 = true
    ∧ (demo { has 0 with seg := some (segOf 1 false 0) } []).Reads t8.src 0
    ∧ (demo { has 0 with seg := some (segOf 1 false 0) } []).acts (.gsSegc t8) = true
    ∧ (demo { has 4 with seg := some (segOf 1 true 0) } []).acts (.gsSegb t8) = true
    ∧ (unit3 15 false 1024 0 0 0).acts (.gsSegb t8) = true := by decide +kernel

theorem test_segment :
    stopOf (slotGsSegb t8) (unit3 15 false 1025 0 0 0) = some (1, 1025)
    ∧ stopOf (slotGsSegc t8) (unit3 15 false 0 0 0 0) = some (1, 0)
    ∧ sent (exec (.gsSegc t8) (demo { has 0 with seg := some (segOf 2 false 0) } [])) = [(18, 0x20001, 2)] := by
  decide +kernel

/-- A token of task 0: kind and completion. -/
def tokenOf (kind : Nat) (v : Option W64) (name : Option W64) (m : Mach) : Mach :=
  m.setTask 0 { st := .running 0, toks := [⟨kind, 7, 1, v, name⟩] }

/-- The relations at their ends, a token that is complete, one that is not, and one that is unknown. -/
theorem wit_WaitsForFlagsAndTokens :
    (unit3 15 false (lAddr 4088) 0 0xFFFFFFFFFFFFFFFF 0).Reads t8.src ((lAddr 4088).setWidth 512)
    ∧ (unit3 15 false (lAddr 4088) 0 0xFFFFFFFFFFFFFFFF 0).Port 15 1 0xFFFFFFFFFFFFFFFF
    ∧ (unit3 15 false (lAddr 4088) 0 0 13).Port 15 2 13 ∧ (13 : W64).toNat % 8 ≤ 5 ∧ 5 < (14 : W64).toNat % 8
    ∧ (unit3 15 false (lAddr 4088) 0 0 0).m.spadClean 0 4088 = true
    ∧ (unit3 15 false (w64 (2 ^ 52 + 7)) 0 0 0 (tokenOf 1 (some 5) none)).m.curTask.token 0 0 (w64 (2 ^ 52 + 7))
        = some ⟨1, 7, 1, some 5, none⟩
    ∧ (unit3 15 false (w64 (2 ^ 52 + 7)) 0 0 0 (tokenOf 1 none none)).m.curTask.token 0 0 (w64 (2 ^ 52 + 7))
        = some ⟨1, 7, 1, none, none⟩
    ∧ (unit3 15 false (w64 (2 ^ 52 + 8)) 0 0 0 (tokenOf 1 none none)).m.curTask.token 0 0 (w64 (2 ^ 52 + 8)) = none
    ∧ (unit3 15 false 0xFFFFFFFF 0 0 0).Reads t8.src 0xFFFFFFFF ∧ (unit3 15 false 0x100000000 0 0 0).Reads t8.src 0x100000000
    ∧ (∀ i ∈ [Instr.gsFlgw t8, .gsTokw t8, .gsWto t8], (unit3 15 false 1 0 0 0).acts i = true) := by decide +kernel

theorem test_waits :
    sent (exec (.gsFlgw t8) (unit3 15 false (lAddr 0) 0 0xFF00 0 withSpad)) = []
    ∧ sent (exec (.gsFlgw t8) (unit3 15 false (lAddr 0) 0x8200 0xFF00 0 withSpad)) = [(18, 0x8887868584838281, 10)]
    ∧ sent (exec (.gsTokw t8) (unit3 15 false (w64 (2 ^ 52 + 7)) 0 0 0 (tokenOf 1 (some 5) none))) = [(18, 5, 2)]
    ∧ stopOf (slotGsTokw t8) (unit3 15 false 9 0 0 0) = some (12, 9)
    ∧ sent (exec (.gsWto t8) (unit3 15 false 1 0 0 0)) = [(18, 16384, 2)] := by decide +kernel

/-! ### Stream arrays -/

/-- Task 0 with a lease state, and array 0 as f makes it. -/
def leased (l : Lease) (f : Arr → Arr) (m : Mach) : Mach :=
  (m.setTask 0 { st := .running 0, lease := l, toks := [⟨4, 7, 1, some 5, none⟩] }).modArr 0 f

/-- The array that task 0 holds. -/
def heldArr (f : Arr → Arr := id) : Mach → Mach := leased .held fun y => f { y with holder := some 0 }

theorem wit_StreamSettingsAndLease :
    (unit3 10 false 12 0 0 0).Reads t8.src 12 ∧ (unit3 10 false 13 0 0 0).Reads t8.src 13
    ∧ (unit3 10 false 0 0 0 0 (heldArr)).m.curTask.lease = .held
    ∧ (unit3 10 false 0 0 0 0 (leased .suspended id)).m.curTask.lease = .suspended
    ∧ (unit3 10 false 0 0 0 0).m.curTask.lease = .none
    ∧ (unit3 10 false 0 0 0 0).m.issue.start.csr = (unit3 10 false 0 0 0 0).m.cur.csr
    ∧ (unit3 10 false (w64 (4 * 2 ^ 52 + 7)) 0 0 0 (heldArr)).m.curTask.token 0 0 (w64 (4 * 2 ^ 52 + 7))
        = some ⟨4, 7, 1, some 5, none⟩
    ∧ (unit3 10 false 9 0 0 0).m.curTask.token 0 0 9 = none
    ∧ (∀ i ∈ [Instr.sqLen t8, .sqSeeda t8, .sqSeedb t8, .sqLease t8, .sqRels t8, .sqWait t8],
        (unit3 10 false 0 0 0 0 (heldArr)).acts i = true) := by decide +kernel

theorem test_settings_sq :
    sent (exec (.sqLen t8) (unit3 10 false 12 0 0 0)) = [(13, 6, 2)]
    ∧ stopOf (slotSqLen t8) (unit3 10 false 3 0 0 0) = some (1, 3)
    ∧ sent (exec (.sqLease t8) (unit3 10 false 0 0 0 0 fun m => { heldArr id m with issue.lstat := 9 })) = [(13, 9, 2)]
    ∧ sent (exec (.sqWait t8) (unit3 10 false (w64 (4 * 2 ^ 52 + 7)) 0 0 0 (heldArr))) = [(13, 5, 2)] := by decide +kernel

/-- sq.cfg for 4 rows, 8 lanes and 2 columns, bipolar, compared columns 0 and 1. -/
def cfgWord : W64 := w64 (1 + 3 * 2 ^ 7 + 7 * 2 ^ 14 + 1 * 2 ^ 21 + 1 * 2 ^ 28 + 2 * 2 ^ 30)

/-- A configuration of two rows, two lanes, two columns. -/
def small : ArrCfg := { mode := 2, m := 2, k := 2, n := 2 }

/-- Commands of each shape that a held lease accepts: plain words, a configuration, loads, a drain and a tile. -/
theorem wit_ArrayCommands :
    (unit3 10 false 0 0 0 0 (heldArr)).Port 10 0 0 ∧ (unit3 10 false 0 0 0 0 (heldArr)).Port 10 1 0
    ∧ (unit3 10 false 0 0 0 0 (heldArr)).Port 10 2 0 ∧ groupArr (unit3 10 false 0 0 0 0 (heldArr)).m.tkey = 0
    ∧ ((unit3 10 false 0 0 0 0 (heldArr)).m.arr 0).grantOver ⟨State.reset.boot, State.reset.clk⟩ = false
    ∧ ((unit3 10 false 0 0 0 0 (heldArr)).m.arr 0).queue.length < 16
    ∧ (unit3 10 false 0 0 0 0 (heldArr)).m.curTask.tokenRoom 4 = true
    ∧ cfgWord.toNat < 2 ^ 35 ∧ cfgWord.toNat / 2 ^ 3 % 2 ^ 4 = 0 ∧ cfgWord.toNat % 8 ≤ 5
    ∧ cfgWord.toNat / 2 ^ 30 % 2 ^ 5 = ([0, 1] : List Nat).length ∧ ctlOk (w64 (64 * 2 ^ 16)) = true
    ∧ small.n * 4 ≤ (w64 (64 * 2 ^ 16)).toNat / 2 ^ 16 % 2 ^ 24
    ∧ (∀ i ∈ [Instr.sqRun t8, .sqRunc t8, .sqClr t8, .sqPromo t8, .sqBar t8, .sqRdc t8, .sqStat t8, .sqCfg t8, .sqLda t8,
          .sqLdb t8, .sqDrain t8, .sqTile t8],
        (unit3 10 false 0 0 0 0 (heldArr)).acts i = true) := by decide +kernel

/-- R260, R261: rule 3, a repeated column, a margin of 0, and a control word with bit 2 set. -/
theorem test_array_operands :
    stopOf (slotSqCfg t8) (unit3 10 false (w64 (3 * 2 ^ 28)) 0 0 0 (heldArr)) = some (1, 3 * 2 ^ 28)
    ∧ stopOf (slotSqCfg t8) (unit3 10 false cfgWord 0x101 0 0 (heldArr)) = some (1, 0x101)
    ∧ stopOf (slotSqCfg t8) (unit3 10 false cfgWord 0x10100 0 0 (heldArr)) = some (1, 0x10100)
    ∧ stopOf (slotSqCfg t8) (unit3 10 false (cfgWord + w64 (2 ^ 28)) 0x100 0 0 (heldArr)) = some (1, 0)
    ∧ stopOf (slotSqLda t8) (unit3 10 false 0 4 0 0 (heldArr)) = some (1, 4)
    ∧ stopOf (slotSqDrain t8) (unit3 10 false 0 0 0 0 (heldArr)) = some (1, 0) := by decide +kernel

theorem wit_ArrayCommands_columns :
    (cfgWord + w64 (2 ^ 28)).toNat / 2 ^ 28 % 4 = 2 ∧ cfgWord.toNat / 2 ^ 28 % 4 = 1 ∧ cfgWord.toNat / 2 ^ 30 % 2 ^ 5 = 2
    ∧ (∃ i < 1, (0x101 : W64).toNat / 2 ^ (8 * 1) % 2 ^ 8 = (0x101 : W64).toNat / 2 ^ (8 * i) % 2 ^ 8)
    ∧ (unit3 10 false 0 0 0 0 (heldArr)).m.curTask.lease = .held ∧ (3 * 2 ^ 28 : Nat) < 2 ^ 35 := by decide +kernel

/-- The checks of a load, of a drain and of a tile's first chunk pass over a mapped page. -/
theorem wit_ArrayCommands_regions :
    (match loadCheck ⟨State.reset.boot, State.reset.clk⟩ (arrWho (paged {} []).m 0) small false 0x200000
        (w64 (64 * 2 ^ 16)) 0x200100 (paged {} []).m with
      | (.ok, _) => true
      | _ => false) = true
    ∧ (match drainCheck ⟨State.reset.boot, State.reset.clk⟩ (arrWho (paged {} []).m 0) small 0x200000
        (w64 (64 * 2 ^ 16)) (paged {} []).m with
      | (.ok, _) => true
      | _ => false) = true
    ∧ (match tileCheck ⟨State.reset.boot, State.reset.clk⟩ (arrWho (paged {} []).m 0) small
        [0x200000, 0x200100, 0x200000, 0x200100, w64 (64 * 2 ^ 16), w64 (64 * 2 ^ 16), 0, 0] 1 0 (paged {} []).m with
      | (.ok, _) => true
      | _ => false) = true := by decide +kernel

/-- R255, R257: a pass is queued and its token is the task's first of kind 4; the wrong words and no lease. -/
theorem test_array_commands :
    sent (exec (.sqRun t8) (unit3 10 false 0 0 0 0 (heldArr))) = [(13, 4 * 2 ^ 52 + 1, 2)]
    ∧ stopOf (slotSqRun t8) (unit3 10 false 1 0 0 0 (heldArr)) = some (1, 1)
    ∧ stopOf (slotSqRun t8) (unit3 10 false 0 0 0 0) = some (11, 0)
    ∧ stopOf (slotSqCfg t8) (unit3 10 false 6 0 0 0 (heldArr)) = some (1, 6)
    ∧ (after (exec (.sqCfg t8) (unit3 10 false cfgWord 0x100 0 0 (heldArr)))).map (fun m => (m.arr 0).issueCfg.cols)
        = some [0, 1] := by decide +kernel

/-- A machine outside any bundle. -/
def quiet (f : Mach → Mach) (cycle : Nat := 0) : State :=
  { State.reset with clk := { State.reset.clk with cycle := cycle }, m := f State.reset.m }

/-- Frame 5 asks, and holds nothing; a grant that ended, a spill due, and a holder that leaves. -/
theorem wit_ArrayLeases :
    askers (quiet fun m => m.setTask 5 { st := .suspended, asking := true }).m 0 = [5]
    ∧ ((quiet fun m => m.setTask 5 { st := .suspended, asking := true }).m.arr 0).holder = none
    ∧ ((quiet fun m => m.setTask 5 { st := .suspended, asking := true }).m.arr 0).prev < 3072
    ∧ (quiet fun m => m.setTask 5 { st := .suspended, asking := true }).m.spills.find 5 = none
    ∧ ((quiet fun m => m.modArr 0 fun y => { y with holder := some 5, cmds := 64 }).m.arr 0).cmds = 64
    ∧ ((quiet fun m => m.modArr 0 fun y => { y with holder := some 5, spill := true }).m.arr 0).queue = []
    ∧ ((quiet fun m => m.modArr 0 fun y => { y with holder := some 5, leaving := true }).m.arr 0).holder.isSome = true := by
  decide +kernel

/-- The command of an opcode under the small configuration. -/
def cmdOf (op : Nat) (ph : CmdPhase) : Cmd :=
  { op := op, addr := 0, t := 0, a := 0, b := 0, c := 0, tok := 7, k := 4, seedA := 1, seedB := 2, cfg := small,
    phase := ph, desc := [], chunk := 0, prog := 0, rid := 0, val := 0 }

/-- Task 0 off its core, with an array token, and array 0 with one command at its head. -/
def working (op : Nat) (ph : CmdPhase) (f : Arr → Arr) (m : Mach) : Mach :=
  (m.setTask 0 { st := .suspended, lease := .held, toks := [⟨4, 7, 1, none, none⟩] }).modArr 0 fun y =>
    f { y with holder := some 0, queue := [cmdOf op ph] }

/-- R249, R238: a start whose turn has come, a pass that starts, and its last step. -/
theorem wit_ArrayPasses :
    ((quiet (working 8 .queued id)).m.arr 0).queue = cmdOf 8 .queued :: []
    ∧ ((quiet fun m => (working 8 .queued id m).modDie 0 fun y => { y with startAsk := [(0, 0)] }).m.die 0).startAsk.head? = some (0, 0)
    ∧ ((quiet (working 8 .queued id)).m.die 0).lastStart = none ∧ 0 < ((quiet (working 8 .queued id)).m.die 0).didt
    ∧ ((quiet (working 8 .queued id)).m.arr 0).pass = none ∧ ((quiet (working 8 .queued id)).m.arr 0).spill = false
    ∧ ((quiet (working 8 .started fun y => { y with pass := some ⟨4, 1, 2, false, 15⟩, startOk := true })).m.arr 0).pass
        = some ⟨4, 1, 2, false, 15⟩
    ∧ ((quiet (working 8 .started fun y => { y with pass := some ⟨4, 1, 2, false, 15⟩, startOk := true })).m.arr 0).lastStep
        = none
    ∧ (∀ m < 128, (((quiet (working 8 .queued id)).m.arr 0).counts m).length = 128)
    ∧ (∀ r < 128, (((quiet (working 8 .queued id)).m.arr 0).aF.row r).length = 128)
    ∧ small.m ≤ 128 ∧ small.k ≤ 128 ∧ small.n ≤ 128 ∧ small.mode ≤ 5 := by decide +kernel

theorem wit_ArrayCommandsExecute :
    ((quiet (working 12 .queued fun y => { y with steps := [(0, 16)] })).m.arr 0).queue = cmdOf 12 .queued :: []
    ∧ ((quiet (working 12 .queued id)).m.task 0).toks = [⟨4, 7, 1, none, none⟩] ∧ (cmdOf 12 .queued).tok = 7
    ∧ ((quiet (working 12 .queued id)).m.task 0).st = .suspended
    ∧ (∀ m < 128, (((quiet (working 12 .queued id)).m.arr 0).accs m).length = 128)
    ∧ (∀ r ∈ ((quiet (working 14 .queued id)).m.task 0).saved.res, r.wait ≠ .arr (cmdOf 14 .queued).rid) := by decide +kernel

/-- The page of virtual address 0x200000, for task 0 of a machine outside any bundle. -/
def pagedTask (m : Mach) : Mach :=
  m.modTask 0 fun t =>
    { t with extents := [⟨0x200000, 0x200000, 3, 0, 0, [⟨1, 0x400000, true, true, true, 0, true⟩]⟩] }

/-- A load of two rows and a drain of two rows run over a mapped page. -/
theorem wit_ArrayCommandsExecute_regions :
    (match runLoad ⟨State.reset.boot, State.reset.clk⟩ 0 0 small false 0x200000 (w64 (64 * 2 ^ 16)) 0x200100
        (quiet fun m => pagedTask (working 6 .queued id m)).m with
      | some (_, m2) => decide ((m2.task 0).st = .suspended) && decide ((m2.task 0).toks = [⟨4, 7, 1, none, none⟩])
      | none => false) = true
    ∧ (match runDrain ⟨State.reset.boot, State.reset.clk⟩ 0 0 small 0x200000 (w64 (64 * 2 ^ 16))
        (quiet fun m => pagedTask (working 13 .queued id m)).m with
      | some m2 => decide ((m2.task 0).st = .suspended)
      | none => false) = true := by decide +kernel

/-- Task 0's run holds a line of bytes from its start; a load or a drain of one row of five elements there. -/
def rowOf (op : Nat) (line : Nat) : State :=
  quiet fun m => setSpadLine 0 line (checkBits 0 line) (working op .queued (fun y =>
    { y with queue := [{ cmdOf op .queued with cfg := { small with m := 1, k := 5, n := 5 }, t := w64 (2 ^ 58),
                                               a := w64 (64 * 2 ^ 16), b := w64 (2 ^ 58 + 128) }] }) m)

theorem wit_ArrayCommandsExecute_run :
    (w64 (2 ^ 58)).toNat / 2 ^ 58 % 8 = 1 ∧ (w64 (2 ^ 58 + 128)).toNat / 2 ^ 22 % 2 ^ 36 = 0
    ∧ (w64 (2 ^ 58 + 128)).toNat % 2 ^ 22 = 128 ∧ (w64 (64 * 2 ^ 16) : W64) = BitVec.ofNat 64 (0 * 2 ^ 8 + 64 * 2 ^ 16)
    ∧ ((rowOf 6 0).m.task 0).spadBase = 0 ∧ ((rowOf 6 0).m.task 0).st ≠ .free
    ∧ 0 + 128 + 4 * 1 ≤ spadBytes ((rowOf 6 0).m.core 0).l1 ∧ ((rowOf 6 0).m.arr 0).pinned ≤ 1024
    ∧ (∀ j < 5, (rowOf 6 0x80_1824_C57E).m.spadClean 0 (0 + 0 + 0 * 64 + j) = true)
    ∧ (∀ j < 4, (rowOf 6 0x80_1824_C57E).m.spadClean 0 (0 + 128 + j) = true) ∧ 4 * 5 ≤ 64
    ∧ (∀ m < 128, (((rowOf 13 0).m.arr 0).accs m).length = 128) := by decide +kernel

/-- The worked conversion of the chapter on numbers (R76): sha = 3, five elements, one underflow. -/
theorem test_edge_conversion :
    (after (exec (.arrayLoad 0 0 0) (rowOf 6 0x80_1824_C57E))).map (fun m =>
        ((m.arr 0).aB.shift.get 0 0, (((m.arr 0).aB.row 0).take 6).map (fun z => (z.toNat % 4096, z.getLsbD 12)),
          ((m.task 0).toks.map (·.done))))
      = some (3, [(3584, false), (26, true), (2, false), (0, false), (0, true), (0, false)], [some 1]) := by decide +kernel

/-- R267: the status of row 1, whose stop step is 5. -/
def stopped5 : State :=
  quiet (working 15 .queued fun y => { y with stop := [(1, 5)], stopped := 2, queue := [{ cmdOf 15 .queued with t := 263 }] })

theorem wit_ArrayCommandsExecute_stat :
    (7 : W64).toNat % 2 ^ 5 = 7 ∧ ((quiet (working 15 .queued id)).m.taskCtx 0).res = []
    ∧ (∃ top, (∀ m < small.m, (stopped5.m.arr 0).stop.get 0 m ≤ top)
        ∧ (top = 0 ∨ ∃ m < small.m, (stopped5.m.arr 0).stop.get 0 m = top)) := by
  refine ⟨by decide +kernel, by decide +kernel, 5, by decide +kernel, .inr ⟨1, by decide +kernel, by decide +kernel⟩⟩

theorem test_stat :
    (after (exec (.arrayRead 0 0) stopped5)).map (fun m => (m.task 0).reads.find 0) = some (some 0x10005) := by decide +kernel

/-- R256: the pass of two steps' counts that ends here, with a row held at its bound. -/
def ending (runc : Bool) (f : Arr → Arr) : State :=
  quiet (working (if runc then 9 else 8) .started fun y => f { y with pass := some ⟨4, 1, 2, runc, 15⟩, startOk := true })

theorem wit_ArrayPasses_token :
    ((ending false id).m.task 0).st ≠ .free ∧ (cmdOf 8 .started).val = (if false then 2 ^ 24 else 0) + (if false then 2 ^ 25 else 0)
    ∧ ((ending false fun y => { y with aB := { inv := 1 }, freshA := true }).m.arr 0).aB.inv.getLsbD 0 = true := by
  decide +kernel

theorem test_pass_token :
    (after (exec (.arrayPassStep 0 0) (ending false id))).map (fun m => (m.task 0).toks.map (·.done)) = some [some 16]
    ∧ (after (exec (.arrayPassStep 0 0) (ending true fun y => { y with stopped := 1, stop := [(0, 5)] }))).map
        (fun m => (m.task 0).toks.map (·.done)) = some [some 0x10010] := by decide +kernel

/-! ### Named tiles -/

/-- A binding of id 3: one-line tiles of 4 KiB, rows and columns 0 to 9, iterations 0 to 7 live. -/
def bound : Binding :=
  { id := 3, size := 0, rows := 9, cols := 9, base := 0, win := 8, legend := 0, buf := 0, hub := false, transit := false,
    cons := false }

/-- The name of row r, column c and iteration t of id 3. -/
def nameOf (t r c : Nat) : W64 := w64 (3 * 2 ^ 44 + t * 2 ^ 32 + r * 2 ^ 16 + c)

def routed (f : Router → Router) (m : Mach) : Mach :=
  (m.setTask 0 { st := .running 0 }).modRouter 0 fun y => f { y with binds := [bound] }

/-- A copy of a tile, and a local entry of task 0. -/
def copyOf (pin : Bool) : Copy := { name := nameOf 0 1 1, lines := [(0, 0)], legend := 0, origin := true, pinned := pin, used := 0 }
def localOf : LocalEntry := { name := nameOf 0 1 1, dst := 0, task := 0, seq := 7, e := 100, core := 0, extents := [] }

/-- A router that is there and ones that are not, the range of names at both privileges, the hub, copies, tokens. -/
theorem wit_TileQueries :
    (unit3 11 true 0 31 0 0 (routed id)).Reads t8.src 0 ∧ (unit3 11 true 0 31 0 0 (routed id)).Port 11 0 31
    ∧ 16 < (17 : W64).toNat ∧ (17 : W64).toNat < 31 ∧ 32 ≤ (32 : W64).toNat ∧ 8 < (9 : W64).toNat
    ∧ (unit3 11 true 0 31 0 0 (routed id)).m.cur.csr.priv = true ∧ Env.live ⟨State.reset.boot, State.reset.clk⟩ 0 = true
    ∧ (unit3 11 false 0 31 0 0 (routed id)).m.cur.csr.ntrange.getLsbD 0 = false
    ∧ ((unit3 11 true (nameOf 0 1 1) 31 0 0 (routed fun y => { y with copies := [copyOf true] })).m.router 0).copy (nameOf 0 1 1)
        = some (copyOf true)
    ∧ ((unit3 11 true (nameOf 0 1 1) 31 0 0 (routed id)).m.router 0).copy (nameOf 0 1 1) = none
    ∧ ((unit3 11 true 0 31 0 0 (routed fun y => { y with locals := [localOf] })).m.router 0).locals = [localOf]
    ∧ localOf.task = ownerOf (unit3 11 true 0 31 0 0 (routed id)).m (unit3 11 true 0 31 0 0 (routed id)).m.tkey
    ∧ (unit3 11 true (w64 (5 * 2 ^ 52 + 7)) 0 0 0 (tokenOf 5 (some 5) none)).m.curTask.token 0 0 (w64 (5 * 2 ^ 52 + 7))
        = some ⟨5, 7, 1, some 5, none⟩
    ∧ (unit3 11 true (w64 (5 * 2 ^ 52 + 7)) 0 0 0 (tokenOf 5 (some (w64 (2 ^ 63 + 6))) (some 9))).m.curTask.token 0 0
        (w64 (5 * 2 ^ 52 + 7)) = some ⟨5, 7, 1, some (w64 (2 ^ 63 + 6)), some 9⟩
    ∧ (∀ i ∈ [Instr.ntProb t8, .ntPin t8, .ntUnpn t8, .ntStat t8, .ntCanc t8, .ntWait t8],
        (unit3 11 true 0 31 0 0 (routed id)).acts i = true) := by decide +kernel

theorem test_tile_queries :
    sent (exec (.ntStat t8) (unit3 11 true 8 31 0 0 (routed id))) = [(14, 1, 16)]
    ∧ stopOf (slotNtStat t8) (unit3 11 true 9 31 0 0 (routed id)) = some (1, 9)
    ∧ stopOf (slotNtProb t8) (unit3 11 true 0 17 0 0 (routed id)) = some (1, 17)
    ∧ stopOf (slotNtProb t8) (unit3 11 false 5 31 0 0 (routed id)) = some (17, 5)
    ∧ sent (exec (.ntPin t8) (unit3 11 true (nameOf 0 1 1) 31 0 0 (routed id))) = [(14, 1, 16)]
    ∧ stopOf (slotNtWait t8) (unit3 11 false (w64 (5 * 2 ^ 52 + 7)) 0 0 0
        (tokenOf 5 (some (w64 (2 ^ 63 + 6))) (some 9))) = some (16, 9) := by decide +kernel

/-- A retirement, a definition of zeros read from the run, a route, an announcement in the grid and an interest. -/
theorem wit_TileOperationsIssued :
    (unit3 11 true 0 0 0 0 (routed id)).m.curTask.tokenRoom 5 = true
    ∧ (unit3 11 true (lAddr 0) 0 0 0 (routed id)).m.spadClean 0 0 = true
    ∧ (w64 (0xFFF * 2 ^ 16 + 16)).toNat < 2 ^ 28 ∧ (w64 (0xFFF * 2 ^ 16 + 16)).toNat / 2 ^ 5 % 2 ^ 11 = 0
    ∧ (unit3 11 true (w64 (0x3FF * 2 ^ 16)) 0 0 0 (routed id)).Reads t8.src (w512 (0x3FF * 2 ^ 16))
    ∧ ((unit3 11 true (nameOf 0 9 9) (lAddr 0) 0 0 (routed id)).m.router 0).binding ((nameOf 0 9 9).toNat / 2 ^ 44) = some bound
    ∧ (nameOf 0 9 9).toNat / 2 ^ 16 % 2 ^ 16 ≤ bound.rows ∧ (nameOf 0 9 9).toNat % 2 ^ 16 ≤ bound.cols
    ∧ bound.rows < (nameOf 0 10 9).toNat / 2 ^ 16 % 2 ^ 16
    ∧ (lAddr 0).toNat % 2 ^ 22 + 2 ^ (12 + bound.size) ≤ (unit3 11 true 0 0 0 0 (routed id)).m.cur.csr.spadSize
    ∧ bound.live ((nameOf 7 9 9).toNat / 2 ^ 32 % 2 ^ 12) = true
    ∧ faceFor ⟨State.reset.boot, State.reset.clk⟩ (unit3 11 true 0 0 0 0 (routed id)).m 0 (nameOf 7 9 9) = some 3
    ∧ leads 0 3 = .router 16 0 ∧ (unit3 11 true 0 0 0 0 (routed id)).m.curTask.st ≠ .free
    ∧ (unit3 11 true 0 0 0xFFFFFFFF 0 (routed id)).Port 11 1 0xFFFFFFFF
    ∧ (∀ i ∈ [Instr.ntRet t8, .ntDefn t8, .ntRout t8, .ntAnn t8, .ntInt t8],
        (unit3 11 true 0 0 0 0 (routed id)).acts i = true) := by decide +kernel

theorem test_tile_operations :
    (after (exec (.ntInt t8) (unit3 11 true (nameOf 7 9 9) (lAddr 0) 5 0 (routed id)))).map
        (fun m => ((m.router 0).locals.map (·.e), m.msgs.map fun z => (z.to_, z.face)))
      = some ([5], [(16, 0)])
    ∧ stopOf (slotNtRet t8) (unit3 11 true 2 0 0 0 (routed id)) = some (1, 2)
    ∧ stopOf (slotNtInt t8) (unit3 11 true (nameOf 7 9 9) 0 0 0 (routed id)) = some (1, 0) := by decide +kernel

/-- A machine of routers outside any bundle. -/
def nets (r : Nat) (f : Router → Router) (msgs : List NtMsg) (g : Mach → Mach := id) : State :=
  quiet fun m => g { (m.modRouter r fun y => f { y with binds := [bound] }) with msgs := msgs }

/-- An entry whose interest came on face f and went on by face u. -/
def waitsOn (f u : Nat) : TransitEntry := { name := nameOf 0 1 1, recs := [(f, 100)], up := some u, ended := false, hops := 0 }

/-- An interest in an unbound and in a bound name, a tile and an answer for an entry, and a record whose end is past. -/
theorem wit_TileMessages :
    (nets 0 id [⟨0, 1, .interest 9 100 0⟩]).m.msgs[0]? = some ⟨0, 1, .interest 9 100 0⟩
    ∧ ((nets 0 id []).m.router 0).never 9 = some 3 ∧ leads 0 1 = .router 1 2
    ∧ ((nets 0 id []).m.router 0).never (nameOf 0 1 1) = none ∧ ((nets 0 id []).m.router 0).never (nameOf 8 1 1) = some 0
    ∧ ((nets 0 id []).m.router 0).copy (nameOf 0 1 1) = none
    ∧ faceFor ⟨State.reset.boot, State.reset.clk⟩ (nets 0 id []).m 0 (nameOf 0 1 1) = some 3 ∧ leads 0 3 = .router 16 0
    ∧ vigilUse (nets 0 id []).m 0 < 4096
    ∧ ((nets 0 (fun y => { y with transits := [waitsOn 1 3] }) []).m.router 0).transits = [waitsOn 1 3]
    ∧ reached State.reset.clk.tick 100 = false ∧ bound.hub = false ∧ bound.transit = false
    ∧ reached State.reset.clk.tick 0 = true
    ∧ (∀ l2 ∈ ((nets 0 (fun y => { y with locals := [{ localOf with e := 0 }] }) []).m.router 0).locals,
        l2 = { localOf with e := 0 }) := by decide +kernel

theorem test_interest :
    (after (exec (.ntInterestArrival (.queued 0)) (nets 0 id [⟨0, 1, .interest (nameOf 8 1 1) 100 0⟩]))).map (·.msgs)
      = some [⟨1, 2, .answer (nameOf 8 1 1) (w64 (2 ^ 63 + 6))⟩]
    ∧ (after (exec (.ntInterestArrival (.queued 0)) (nets 0 id [⟨0, 1, .interest (nameOf 0 1 1) 100 0⟩]))).map (·.msgs)
      = some [⟨16, 0, .interest (nameOf 0 1 1) 100 1⟩] := by decide +kernel

/-- A change of each kind at its last ring stop, and the announcement of a tile in a core's scratchpad. -/
def change (c : NtChange) (todo : List Nat) : NtPending := { chg := c, task := 0, seq := 7, todo := todo, value := 0 }
def announced : Ann :=
  { die := 0, name := nameOf 0 1 1, src := w64 (2 * 2 ^ 58), pin := false, task := 0, seq := 7, launch := 0, core := 0,
    extents := [] }

theorem wit_TileChangesApplied :
    (quiet fun m => { m with changes := [change (.bind bound) [0]] }).m.changes[0]? = some (change (.bind bound) [0])
    ∧ inOrder (quiet fun m => { m with changes := [change (.bind bound) [0]] }).m 0 0 = true
    ∧ ((nets 16 id []).m.router 16).binding bound.id = some bound ∧ (State.reset.m.router 16).binding bound.id = none
    ∧ (State.reset.m.router 16).binds.length < 4096 ∧ Env.dieList ⟨State.reset.boot, State.reset.clk⟩ ≠ []
    ∧ ((nets 0 id []).m.router 0).transits = [] ∧ ((nets 0 id []).m.router 0).locals = []
    ∧ (nets 0 id [] fun m => { m with anns := [announced] }).m.anns[0]? = some announced ∧ announced.die = 0
    ∧ ((nets 0 id []).m.router 0).never announced.name = none ∧ ((nets 0 id []).m.router 0).copies = [] := by decide +kernel

theorem wit_TileChangesApplied_read :
    (match readTile ⟨State.reset.boot, State.reset.clk⟩ announced bound.legend bound.buf bound.bytes (nets 0 id []).m with
      | (some lines, _) => decide (128 * lines.length ≤ 8 * 2 ^ 20)
      | (none, _) => false) = true := by decide +kernel

/-! ### Work queues, launches, job cards and collectives -/

/-- Queue 5 of die 0 in a state with items. -/
def queueOf (st : HwqSt) (xs : List (BitVec 63)) (m : Mach) : Mach := m.modHwq 5 fun q => { q with st := st, items := xs }

theorem wit_QueuesAndRecords :
    (unit3 12 false 5 9 0 0 (queueOf .opened [3, 4])).Reads t8.src 5 ∧ (unit3 12 false 5 9 0 0 (queueOf .opened [3, 4])).Port 12 0 9
    ∧ ((unit3 12 false 5 9 0 0 (queueOf .opened [3, 4])).m.hwq 5).items = 3 :: [4]
    ∧ ((unit3 12 false 5 9 0 0 (queueOf .closed [])).m.hwq 5).st = .closed ∧ ((unit3 12 false 5 9 0 0).m.hwq 5).st = .free
    ∧ (0x1FF : W64).toNat < 2 ^ 9 ∧ 2 ^ 9 ≤ (0x200 : W64).toNat
    ∧ ((unit3 12 false 5 9 0 0 (queueOf .opened (List.replicate 256 0))).m.hwq 5).items.length = 256
    ∧ (∀ i ∈ [Instr.eqPop t8, .eqPush t8, .eqQcls t8, .eqLnch t8],
        (unit3 12 false 5 9 0 0 (queueOf .opened [3, 4])).acts i = true) := by decide +kernel

theorem test_queues :
    sent (exec (.eqPop t8) (unit3 12 false 5 9 0 0 (queueOf .opened [3, 4]))) = [(15, 3, 6)]
    ∧ sent (exec (.eqPop t8) (unit3 12 false 0x105 9 0 0 (queueOf .opened []))) = [(15, 0x8000000000000001, 6)]
    ∧ sent (exec (.eqPop t8) (unit3 12 false 5 9 0 0)) = [(15, 0x8000000000000002, 6)]
    ∧ (after (exec (.eqPush t8) (unit3 12 false 5 9 0 0 (queueOf .opened [3])))).map (fun m => (m.hwq 5).items) = some [3, 9]
    ∧ stopOf (slotEqLnch t8) (unit3 12 false 0 1024 0 0) = some (1, 1024)
    ∧ stopOf (slotEqLnch t8) (unit3 12 false 0 1023 0 0) = some (8, 1023) := by decide +kernel

/-- Page tables of die 0 that map the page of virtual address 0 to 4 MiB, readable and writable. -/
def tabled (m : Mach) : Mach :=
  placeLine (placeTables 0 + 8192) (placeCode 0 + 0x1F)
    (placeLine (placeTables 0 + 4096) (placeTables 0 + 8192 + 1)
      (placeLine (placeTables 0) (placeTables 0 + 4096 + 1) (m.modDie 0 fun x => { x with ptRoot := placeTables 0 })))

/-- A device queue 1,023 whose ring lies at virtual address 0, with room. -/
def device (m : Mach) : Mach := (tabled m).modLq 1023 fun y => { y with dev := true, en := true, lsize := 4 }

theorem wit_QueuesAndRecords_ring :
    (unit3 12 false (lAddr 256) 1023 0 0 device).Port 12 0 1023 ∧ ((unit3 12 false (lAddr 256) 1023 0 0 device).m.lq 1023).dev = true
    ∧ (lAddr 256).toNat % 256 = 0 ∧ (lAddr 255).toNat % 256 ≠ 0
    ∧ ((unit3 12 false (lAddr 256) 1023 0 0 device).m.lq 1023).lsize = 4
    ∧ (match walk ⟨State.reset.boot, State.reset.clk⟩ 0 0
          ((unit3 12 false (lAddr 256) 1023 0 0 device).m.began (.eqLnch t8)) with
        | (some (_, l), m2) => l.w && l.pr && decide (l.pa % 2 ^ 21 = 0) && decide (m2.spad = []) && decide ((m2.lq 1023).dev = true)
        | (none, _) => false) = true := by decide +kernel

/-- A card of 128 bytes from offset 512 to offset 1024 of core 0's scratchpad, at offset 0 of the run. -/
def carded (op : Nat) (m : Mach) : Mach :=
  (spadWrite ⟨State.reset.boot, State.reset.clk⟩ (lsAgent m 0) 0 0
    (bytesOf op 8 ++ bytesOf 128 8 ++ bytesOf (if op = 1 then 0 else 2 ^ 58 + 512) 8 ++ bytesOf (2 ^ 58 + 1024) 8
      ++ List.replicate 32 0) (m.setTask 0 { st := .running 0 })).2

theorem wit_CardsMigrationsGroups :
    (match readCard 0 (lAddr 0) ⟨State.reset.boot, State.reset.clk⟩ ((unit3 12 false (lAddr 0) 0 0 0 (carded 0)).m.began (.eqCpy t8)) with
      | .ok (c, _) m2 => decide (c.n = 128) && decide (((m2.die 0).cards .copy).length < 256) && decide (m2.issue.out = .going)
      | .error _ _ => false) = true
    ∧ (match readCard 1 (lAddr 0) ⟨State.reset.boot, State.reset.clk⟩ ((unit3 12 false (lAddr 0) 0 0 0 (carded 1)).m.began (.eqFill t8)) with
      | .ok (c, _) _ => decide (c.op = 1)
      | .error _ _ => false) = true
    ∧ (unit3 12 false (lAddr 0) 0 0 0 (carded 0)).m.curTask.tokenRoom 1 = true
    ∧ (∀ i ∈ [Instr.eqCpy t8, .eqFill t8, .eqCred t8, .eqCmc t8, .eqCxp t8, .eqMig t8, .eqMigs t8, .eqCopn t8, .eqCcls t8],
        (unit3 12 false (lAddr 0) 0 0 0 (carded 0)).acts i = true)
    ∧ (2 ^ 49 - 1 : W64).toNat < 2 ^ 49 ∧ (unit3 12 false 0 0 4096 0).Port 12 1 4096
    ∧ ((unit3 12 false 5 0 0 0 fun m => m.modGrp 5 fun g => { g with st := .opened, gen := 0 }).m.grp 5).st = .opened
    ∧ (5 : W64).toNat / 256 = 0 := by decide +kernel

/-- A task whose extent covers one page to be moved, and the group's member list in the run. -/
def grouped (m : Mach) : Mach :=
  (spadWrite ⟨State.reset.boot, State.reset.clk⟩ (lsAgent m 0) 0 0
    (bytesOf 2 8 ++ bytesOf (5 * 2 ^ 24) 8 ++ bytesOf (6 * 2 ^ 24) 8 ++ List.replicate 40 0)
    (pagedTask (m.setTask 0 { st := .running 0 }))).2

theorem wit_CardsMigrationsGroups_open :
    (match check .read 8 64 (lAddr 0) ⟨State.reset.boot, State.reset.clk⟩ ((unit3 12 false (lAddr 0) 5 1 0 grouped).m.began (.eqCopn t8)) with
      | .ok _ _ => true
      | .error _ _ => false) = true
    ∧ (match readWords (lAddr 0) 1 ⟨State.reset.boot, State.reset.clk⟩ ((unit3 12 false (lAddr 0) 5 1 0 grouped).m.began (.eqCopn t8)) with
      | .ok ws _ => decide (ws = [2])
      | .error _ _ => false) = true
    ∧ (match readWords (addA (lAddr 0) 8) 2 ⟨State.reset.boot, State.reset.clk⟩
          ((unit3 12 false (lAddr 0) 5 1 0 grouped).m.began (.eqCopn t8)) with
      | .ok ws _ => decide (ws = [5 * 2 ^ 24, 6 * 2 ^ 24])
      | .error _ _ => false) = true
    ∧ ((unit3 12 false (lAddr 0) 5 1 0 grouped).m.grp 5).st = .free
    ∧ (∃ z ∈ (unit3 12 false 0 0x200000 1 0 grouped).m.curTask.extents, z.access.testBit 1 = true ∧ z.va ≤ 0x200000
        ∧ 0x200000 + 1 * 2 ^ 21 ≤ z.va + z.len) := by decide +kernel

/-- R354, R362: a token of kind 1, a group's first handle, and wrong operands. -/
theorem test_cards :
    sent (exec (.eqCpy t8) (unit3 12 false (lAddr 0) 0 0 0 (carded 0))) = [(15, 2 ^ 52 + 1, 8)]
    ∧ sent (exec (.eqCopn t8) (unit3 12 false (lAddr 0) 5 1 0 grouped)) = [(15, 0x105, 8)]
    ∧ sent (exec (.eqMig t8) (unit3 12 false 0 0x200000 1 0 grouped)) = [(15, 3 * 2 ^ 52 + 1, 8)]
    ∧ stopOf (slotEqMig t8) (unit3 12 false 0 0x200000 4097 0 grouped) = some (1, 0)
    ∧ stopOf (slotEqCpy t8) (unit3 12 false (lAddr 0) 0 0 0 (carded 1)) = some (1, 2 ^ 58) := by decide +kernel

/-! ### Events -/

/-- Context 0 as f makes it, and task 0 on it. -/
def onCore (f : Ctx → Ctx) (g : Task → Task) (m : Mach) : Mach :=
  (m.setCtx 0 (f { st := .ready })).setTask 0 (g { st := .running 0 })

/-- A result due, one not due, a blocked context whose token is complete or not, and its deadline past. -/
def blockOf (w : Wait) : Block := { wait := w, slot := 3, operand := 9, bounded := true }
def resOf (due : Nat) : Res := { latch := 0, value := 5, due := due, wait := .none, buf := [] }

theorem wit_ResultsAndWaits :
    ((quiet (onCore (fun c => { c with res := [resOf 3] }) id) 3).m.ctx 0).res = [resOf 3] ∧ (resOf 3).latch = 0
    ∧ ((quiet (onCore (fun c => { c with st := .blocked (blockOf (.token (w64 (2 ^ 52 + 7)))), deadline := some 0 })
        fun t => { t with toks := [⟨1, 7, 1, none, none⟩] })).m.ctx 0).st = .blocked (blockOf (.token (w64 (2 ^ 52 + 7))))
    ∧ ((quiet (onCore id fun t => { t with toks := [⟨1, 7, 1, none, none⟩] })).m.task 0).token 0 0 (w64 (2 ^ 52 + 7))
        = some ⟨1, 7, 1, none, none⟩
    ∧ (blockOf .lease).bounded = true ∧ (State.reset.clk.tick - 0#48).toNat < 2 ^ 47
    ∧ (lAddr 0).toNat / 2 ^ 58 % 8 = 1 ∧ (State.reset.m.spadClean 0 0) = true ∧ (5 : W64).toNat % 8 < 6 := by decide +kernel

/-- R349, R106, R48: an event ends a wait when what it waits for has come; before, it changes nothing. -/
theorem test_waits_end :
    (after (exec (.contextReady 0 0 0) (quiet (onCore (fun c => { c with st := .blocked (blockOf (.token (w64 (2 ^ 52 + 7)))) })
        fun t => { t with toks := [⟨1, 7, 1, some 1, none⟩] })))).map (fun m => (m.ctx 0).st) = some .ready
    ∧ (after (exec (.contextReady 0 0 0) (quiet (onCore (fun c => { c with st := .blocked (blockOf (.token (w64 (2 ^ 52 + 7)))) })
        fun t => { t with toks := [⟨1, 7, 1, none, none⟩] })))).map (fun m => (m.ctx 0).st)
        = some (.blocked (blockOf (.token (w64 (2 ^ 52 + 7)))))
    ∧ (after (exec (.latchResultLand 0 0 0 0) (quiet (onCore (fun c => { c with res := [resOf 3] }) id) 3))).map
        (fun m => (m.ctx 0).latches) = some [(0, 5)]
    ∧ (after (exec (.latchResultLand 0 0 0 0) (quiet (onCore (fun c => { c with res := [resOf 3] }) id) 2))).map
        (fun m => (m.ctx 0).latches) = some [] := by decide +kernel

/-- The placed bundle's core, with its context changed. -/
def nearIssue (w : Nat) (f : Ctx → Ctx) : State :=
  { placed w with m := { (placed w).m.modCtx 0 f with agenda := [] } }

/-- How the next bundle of the placed context is judged. -/
def judged (w : Nat) (f : Ctx → Ctx) : IssueVerdict :=
  (judgeIssue ⟨(nearIssue w f).boot, (nearIssue w f).clk⟩ 0 (pickCur (coreKey 0 0) (nearIssue w f).m)).1

theorem wit_Judged :
    issuer (coreKey 0 0) (pickCur (coreKey 0 0) (nearIssue 0x805C03 id).m) = some 0
    ∧ Env.live ⟨(nearIssue 0x805C03 id).boot, (nearIssue 0x805C03 id).clk⟩ 0 = true
    ∧ (nearIssue 0x805C03 id).boot.failed = false := by decide +kernel

/-- R49: a read of ls0.q, whose data are late; R338, R121: a count that passes its limit, and a queued interrupt. -/
theorem wit_ResultsAndWaits_late :
    (match judged 0x8000C4 (fun c => { c with res := [⟨4, 0, 1, .data, []⟩], lateSince := some 0 }) with
      | .waits late => late == [4]
      | _ => false) = true := by decide +kernel

theorem wit_WatchdogAndInterrupts :
    (match judged 0x805C03 (fun c => { c with wdCount := 3, csr := { wdLimit := 3 } }) with
      | .watchdog _ => true
      | _ => false) = true
    ∧ (match judged 0x805C03 (fun c => { c with uiq := [(1, 2)], csr := { uien := true, uimask := 0x3F } }) with
      | .interrupt => true
      | _ => false) = true := by decide +kernel

/-- A bundle that blocks on a token again after its deadline: gs.tokw of a token that is not complete. -/
theorem wit_ResultsAndWaits_timeout :
    (let s : State := nearIssue 0x87A408 fun c => { c with timedOut := some (blockOf .lease), g := [(8, w64 (2 ^ 52 + 7))] }
     let s : State := { s with m := s.m.setTask 0 { st := .running 0, toks := [⟨1, 7, 1, none, none⟩] } }
     match judgeIssue ⟨s.boot, s.clk⟩ 0 (pickCur (coreKey 0 0) s.m) with
      | (.go b, n) =>
        let n1 := b.slots.zipIdx.foldl (fun m p => actSlot ⟨s.boot, s.clk⟩ p m)
          (movePorts ⟨s.boot, s.clk⟩ (beginIssue ⟨s.boot, s.clk⟩ 0 b n))
        (match n1.issue.out with | .blocked bl => bl.bounded | _ => false) && (n.ctx 0).timedOut.isSome && !(n1.ctx 0).csr.intrap
      | _ => false) = true := by decide +kernel

/-- A task whose only page is absent. -/
def absent : Task :=
  { st := .waitPage, page := some 1, extents := [⟨0x200000, 64, 1, 0, 0, [⟨1, 0, false, true, false, 0, true⟩]⟩] }

/-- A second trigger of a unit inside a handler; a load from a page that is absent; the return after its delay bundle. -/
theorem wit_DoubleFaultsPagesAndReturns :
    (demo { csr := { intrap := true, priv := true } } [] fun i => { i with units := [0] }).m.cur.csr.intrap = true
    ∧ opCode (.ixAdd 0 t8) = some (0, 0, t8) ∧ (State.reset.m.die 0).ev.en = false
    ∧ (demo (has 0x200000) [] id fun m => m.setTask 0 absent).m.curTask.extents
        = [⟨0x200000, 64, 1, 0, 0, [⟨1, 0, false, true, false, 0, true⟩]⟩]
    ∧ (demo (has 0x20003F) []).acts (.lsLdb 0 t8) = true ∧ 0x20003F / 2 ^ 21 = 1
    ∧ (let s : State := nearIssue 0x805C03 fun c => { c with retPend := 2, pend := some 0,
                                                             csr := { intrap := true, priv := true } }
       match judgeIssue ⟨s.boot, s.clk⟩ 0 (pickCur (coreKey 0 0) s.m) with
        | (.go b, n) =>
          let n1 := b.slots.zipIdx.foldl (fun m p => actSlot ⟨s.boot, s.clk⟩ p m)
            (movePorts ⟨s.boot, s.clk⟩ (beginIssue ⟨s.boot, s.clk⟩ 0 b n))
          decide (n1.issue.out = .going) && decide (n1.issue.start.retPend = 2) && !n1.issue.halt && !n1.issue.yield_
        | _ => false) = true := by decide +kernel

/-- Stores on their way to a bank, to memory and to a peer package, two that overlap, sectors and an L2 line. -/
def storeTo (l : Loc) (id : Nat) : PStore :=
  { id := id, loc := l, bytes := [1, 2], cls := .own, acls := 0, gaddr := 77, legend := 0, buf := 0 }
def sectorOf (dirty : Bool) : Sector :=
  { data := 5, par := sectorParity 5, dirty := dirty, bad := false, filled := 0, since := 0, loc := .phys 0x100, cls := .own, legend := 0, buf := 0, frame := 0,
    stores := [] }
def l2Of (dirty : BitVec 8) (pins : Nat) : L2Line := { data := 0, chk := 0, legend := 0, dirty := dirty, pins := pins }

theorem wit_StoresAtTheirHomes :
    ((quiet (onCore (fun c => { c with stq := [storeTo (.spad 0 126) 0] }) id)).m.ctx 0).stq = [storeTo (.spad 0 126) 0]
    ∧ 126 % 128 + (storeTo (.spad 0 126) 0).bytes.length ≤ 128 ∧ State.reset.m.spadClean 0 126 = true
    ∧ State.reset.m.homeClean 0 0x10007E = true
    ∧ (storeTo (.phys 0x100) 0).overlaps (storeTo (.phys 0x101) 1).loc 2 = true
    ∧ (storeTo (.phys 0x100) 0).id ≠ (storeTo (.phys 0x101) 1).id ∧ (storeTo (.phys 0x100) 0).acls = 0
    ∧ ((quiet fun m => m.modCore 0 fun c => { c with sectors := [(16, sectorOf true)] }).m.core 0).sectors.find 16
        = some (sectorOf true)
    ∧ (sectorOf false).dirty = false ∧ 0x100 % 16 = 0
    ∧ (quiet fun m => { m with l2 := [(2, l2Of 1 0)] }).m.l2.find 2 = some (l2Of 1 0)
    ∧ (quiet fun m => { m with l2 := [(2, l2Of 0 1)] }).m.l2.find 2 = some (l2Of 0 1)
    ∧ (decodeCopy 0 (l2Of 1 0).data.toNat (l2Of 1 0).chk.toNat).sev = 0 := by decide +kernel

theorem test_store_order :
    (after (exec (.storeAcknowledgement 0 0 0 1) (quiet (onCore (fun c =>
      { c with stq := [storeTo (.phys 0x100) 0, storeTo (.phys 0x101) 1] }) id)))).map (fun m => (m.ctx 0).stq.length)
      = some 2
    ∧ (after (exec (.storeAcknowledgement 0 0 0 0) (quiet (onCore (fun c =>
      { c with stq := [storeTo (.phys 0x100) 0, storeTo (.phys 0x101) 1] }) id)))).map
        (fun m => ((m.ctx 0).stq.length, m.byteAt 0x100, m.byteAt 0x101, m.byteAt 0x102)) = some (1, 1, 2, 0) := by
  decide +kernel

/-! ### The dispatcher -/

/-- Queue 1,023 of die 0 as f makes it. -/
def queued (f : Lq → Lq) (g : Mach → Mach := id) (cycle : Nat := 0) : State := quiet (fun m => g (m.modLq 1023 f)) cycle

/-- Idle, busy and halted queues, and their registers. -/
theorem wit_LaunchQueueRegisters :
    ((queued fun y => { y with en := true, tail := 1 }).m.lq 1023).tail ≠ ((queued fun y => { y with en := true, tail := 1 }).m.lq 1023).head
    ∧ ((queued fun y => { y with halted := true, off := true }).m.lq 1023).part = none
    ∧ ((queued id).m.lq 1023).en = false ∧ (State.reset.m.die 0).ev.en = false
    ∧ 2 ^ min 0 12 < ((2 : W64).setWidth 32 - (0 : W32)).toNat := by decide +kernel

theorem test_queue_registers :
    (after (exec (.lqBaseWrite 0 1023 0x100) (queued fun y => { y with en := true, tail := 1 }))).map
        (fun m => ((m.lq 1023).halted, (m.lq 1023).cause, (m.lq 1023).base)) = some (true, 5, 0)
    ∧ (after (exec (.lqTailWrite 0 1023 2) (queued fun y => { y with en := true }))).map
        (fun m => ((m.lq 1023).halted, (m.lq 1023).cause, (m.lq 1023).tail)) = some (true, 5, 2)
    ∧ (after (exec (.lqCtlWrite 0 1023 0x1001) (queued fun y => { y with halted := true, off := true, tail := 1 }))).map
        (fun m => ((m.lq 1023).halted, (m.lq 1023).head)) = some (false, 1) := by decide +kernel

/-- A launch over its budget, a queue that has waited 21,973 ticks, the end of a quantum. -/
def aged (tick : BitVec 48) : State :=
  let s := queued fun y => { y with en := true, tail := 1, since := some 0 }
  { s with clk := { s.clk with tick := tick } }

theorem wit_LaunchesAndSlots :
    (quiet fun m => m.modLaunch 4 fun z => { z with live := true, budget := 1, charge := 10 ^ 10 }).m.launch 4
      = { live := true, budget := 1, charge := 10 ^ 10 }
    ∧ ((aged 21973).m.lq 1023).since = some 0 ∧ slotOf ((aged 21973).m.die 0) 1023 = none
    ∧ ((aged 21973).clk.tick - 0#48).toNat = 21973 ∧ (aged 110).clk.tick.toNat % 110 = 0
    ∧ (aged 110).m.lqs = [(1023, (aged 110).m.lq 1023)] ∧ ((aged 110).m.lq 1023).lid = none := by decide +kernel

theorem test_ageing :
    (after (exec (.queueAgeing 0 1023) (aged 21972))).map (fun m => (m.lq 1023).boost) = some 0
    ∧ (after (exec (.queueAgeing 0 1023) (aged 21973))).map (fun m => (m.lq 1023).boost) = some 1
    ∧ (after (exec (.quantumBoundary 0) (aged 110))).map (fun m => (m.die 0).slots) = some [(0, some 1023)] := by decide +kernel

/-- A record at the head of a queue that holds slot 0: of kind 0 and size 8, and of an unknown kind. -/
def recorded (w : Nat) : State :=
  quiet fun m =>
    let m := placeLine (placeCode 0) w (tabled m)
    (m.modLq 1023 fun y => { y with en := true, tail := 1, lsize := 4 }).modDie 0 fun x => { x with slots := [(0, some 1023)] }

theorem wit_LaunchesAndSlots_record :
    picked ⟨(recorded 0x800).boot, (recorded 0x800).clk⟩ 0 1023 (recorded 0x800).m = true
    ∧ (match readHead ⟨(recorded 0x800).boot, (recorded 0x800).clk⟩ 0 1023 (recorded 0x800).m with
        | (.bytes w, m1) => decide (recordCause m1 0 w = none) && decide (m1.launches.find m1.nextLaunch = none)
            && decide ((m1.lq 1023).part = none)
        | _ => false) = true
    ∧ (match readHead ⟨(recorded 0x804).boot, (recorded 0x804).clk⟩ 0 1023 (recorded 0x804).m with
        | (.bytes w, m1) => decide (recordCause m1 0 w = some 1)
        | _ => false) = true := by decide +kernel

/-- An iteration that waits in queue 1,023, its launch, and the machine it waits on. -/
def entryOf : Entry := { no := 1, dom := 0, ranges := [], gang := none, placed := false, extents := [], launch := 4, iter := 0 }
def waitingIn (kind : Nat) (g : Mach → Mach := id) : State :=
  queued (fun y => { y with wait := [1] }) fun m =>
    g ((m.modLaunch 4 fun z => { z with live := true, kind := kind, total := 1, queue := 1023, running := 1 }).modDie 0 fun x =>
      { x with entries := [entryOf] })

theorem wit_TasksPlacedAndEnded :
    waiting (waitingIn 0).m 0 1023 = entryOf :: [] ∧ (waitingIn 0).m.lqs = [(1023, (waitingIn 0).m.lq 1023)]
    ∧ (∀ z ∈ [entryOf], ∀ w ∈ ((waitingIn 0).m.die 0).entries, w.holds z = false)
    ∧ (eligibleRanks (waitingIn 0).m 0 ((waitingIn 0).m.launch 4)).head? = some 0 ∧ freeFrame (waitingIn 0).m 0 0 = some 0
    ∧ freeCtx (waitingIn 0).m 0 0 = some 0
    ∧ freeRun (waitingIn 0).m 0 0 ((((waitingIn 0).m.launch 4).spad + 16383) / 16384) = some 0
    ∧ nextSet (waitingIn 2).m 0 = some (0, 256) ∧ usesSet ((waitingIn 2).m.launch 4) = false
    ∧ coreTasks State.reset.m 0 = [] ∧ (State.reset.m.core 0).l1 ≠ ((quiet fun m => m.modDie 0 fun x =>
        { x with sramL1 := 1 }).m.die 0).sramL1 := by decide +kernel

theorem test_placement :
    (after (exec (.taskPlacement 0 1023) (waitingIn 0))).map
        (fun m => ((m.ctx 0).st, (m.ctx 0).frame, (m.lq 1023).wait, (m.task 0).entry)) = some (.ready, 0, [], 1) := by
  decide +kernel

/-- Two tasks of core 0 and no free context: one runs long enough to give way, the other waits. -/
def crowded : State :=
  { quiet (fun m =>
      let m := (List.range 4).foldl (fun m x =>
        (m.setCtx x { st := .ready, frame := x }).setTask x { st := .running x, launch := 4 }) m
      (m.setTask 5 { st := .suspended, launch := 4 }).modLaunch 4 fun z => { z with live := true }) with
    clk := ⟨0, 110⟩ }

theorem wit_TasksPlacedAndEnded_quantum :
    (crowded.m.ctx 0).preemptible = true ∧ 110 ≤ (crowded.clk.tick - (crowded.m.task 0).startTick).toNat
    ∧ freeCtx crowded.m 0 0 = none ∧ (coreTasks crowded.m 0).length < 16 ∧ suspendedOn crowded.m 0 0 = 5 :: []
    ∧ (5 : Nat) ≠ 0 ∧ (crowded.m.launch (crowded.m.task 5).launch).cls ≤ (crowded.m.launch (crowded.m.task 0).launch).cls := by
  decide +kernel

/-- A suspended task and a free context, a task that waits for its page, and one that has halted. -/
theorem wit_TasksPlacedAndEnded_tasks :
    ((quiet fun m => m.setTask 0 { st := .suspended }).m.task 0).page = none
    ∧ freeCtx (quiet fun m => m.setTask 0 { st := .suspended }).m 0 0 = some 0
    ∧ ((quiet fun m => m.setTask 0 absent).m.task 0).page = some 1
    ∧ ((quiet (onCore (fun c => { c with st := .halted }) id)).m.ctx 0).st = .halted
    ∧ ((quiet (onCore (fun c => { c with st := .halted }) id)).m.arr 0).holder ≠ some 0
    ∧ (match putWord ⟨State.reset.boot, State.reset.clk⟩ 0 8 5 ((quiet tabled).m.modLaunch 4 fun z => z) with
        | (some true, _) => true
        | _ => false) = true := by decide +kernel

/-! ### Engines, the host, reset, links -/

/-- A copy job of one line between offsets of core 0's scratchpad, as its fields say. -/
def jobOf (op : Nat) (admitted : Bool) (done : List Nat) : Job :=
  { op := op, dom := 0, buf := 0, redop := 0, fmt := 0, nodst := false, root := 0, n := 128, src := w64 (2 * 2 ^ 58),
    dst := w64 (2 * 2 ^ 58 + 1024), pattern := 7, task := 0, kind := 1, seq := 7, launch := 4, extents := [], core := 0,
    taskEntry := 0, entry := some 1, ranges := [], admitted := admitted, started := false, doneLines := done, peerLines := [], seen := [],
    high := 0, low := 0, g := 5, gen := 1, opno := 1, disagree := false, written := false, no := 1 }

def copying (j : Job) : State :=
  quiet fun m => (m.modLaunch 4 fun z => { z with live := true, running := 1 }).modDie 0 fun y =>
    { y with copyQ := [j], entries := [entryOf] }

/-- The destination and the source of a packet: member 0 is identifier 5 of die 0, member 1 identifier 6. -/
def collective (st : GrpSt) : State :=
  quiet fun m => (m.modGrp 5 fun g =>
      { g with st := st, gen := 1, members := [w64 (5 * 2 ^ 24), w64 (6 * 2 ^ 24)] }).modDie 0 fun y =>
    { y with collQ := [{ jobOf 2 true [] with n := 64 }] }

def packet (gen len : Nat) : CollPacket :=
  { g := 5, gen := gen, digest := 0, seq := 1, shape := [], rank := 1, member := w64 (6 * 2 ^ 24), bytes := List.replicate len 0, high := [] }

/-- A card not yet admitted, lines still to copy and to fill, a job whose line is written, collectives and packets. -/
theorem wit_Engines :
    ((copying (jobOf 0 false [])).m.die 0).cards .copy = [jobOf 0 false []]
    ∧ ((copying (jobOf 0 false [])).m.die 0).entries.find? (fun z => z.no == 1) = some entryOf
    ∧ (∀ z ∈ ((copying (jobOf 0 false [])).m.die 0).entries, z.no < entryOf.no → z.no ≠ 0 → z.dom = entryOf.dom →
        entryOf.dom ≠ 255 → conflicts z.ranges entryOf.ranges = false)
    ∧ ((copying (jobOf 1 true [])).m.die 0).copyQ[0]? = some (jobOf 1 true []) ∧ 0 ∉ (jobOf 1 true []).doneLines
    ∧ (jobOf 1 true []).dst.toNat / 2 ^ 58 % 8 = 2 ∧ (jobOf 1 true []).dst.toNat / 2 ^ 30 % 2 ^ 28 = 0
    ∧ (jobOf 0 true []).src.toNat / 2 ^ 58 % 8 = 2 ∧ 128 * 0 < (jobOf 1 true []).n
    ∧ (jobOf 1 true []).dst.toNat % 2 ^ 22 + 128 ≤ spadBytes (State.reset.m.core 0).l1 ∧ State.reset.m.spadClean 0 0 = true
    ∧ ((jobOf 0 true [0]).dst.toNat % 128 + (jobOf 0 true [0]).n + 127) / 128 ≤ (jobOf 0 true [0]).doneLines.length
    ∧ ((copying (jobOf 0 true [0])).m.launch 4).running = 1 := by decide +kernel

theorem wit_Engines_collective :
    (collective .opened).clk.cycle % 1024 = 0 ∧ ((collective .opened).m.grp 5).rank = 0 ∧ ((collective .opened).m.grp 5).pkts = []
    ∧ (w64 (6 * 2 ^ 24)).toNat % 2 ^ 16 = ((collective .opened).m.die 0).pkgSelf
    ∧ (quiet fun m => { m with colls := [{ src := 1, dst := 0, pkt := packet 2 16 }] }).m.colls[0]?
        = some { src := 1, dst := 0, pkt := packet 2 16 }
    ∧ (packet 1 16).gen = ((quiet id).m.grp 5).gen + 1 ∧ (packet 2 16).gen ≠ (((quiet id).m.grp 5).gen + 1) % 16
    ∧ ((collective .closing).m.grp 5).st = .closing := by decide +kernel

/-- A packet that the hold buffer has just room for, and one that it has not. -/
theorem wit_Engines_hold :
    32 + (packet 1 65504).bytes.length ≤ 65536 ∧ 65536 < 32 + (packet 1 65505).bytes.length := by
  have h (n : Nat) : (packet 1 n).bytes.length = n := List.length_replicate
  rw [h, h]
  decide

/-- R356: a fill writes the pattern of the line and nothing beyond it. -/
theorem test_fill :
    (after (exec (.copyExecute 0 0 0) (copying (jobOf 1 true [])))).map
        (fun m => (m.spad.read 1023, m.spad.read 1024, m.spad.read 1025, m.spad.read 1144, m.spad.read 1152))
      = some (0, 7, 0, 7, 0) := by decide +kernel

/-- A migration of a page that the tables map, and one of an address that they do not. -/
def moving (va : Nat) : State :=
  quiet fun m => (tabled (m.modLaunch 4 fun z => { z with live := true, running := 1 })).modDie 0 fun y =>
    { y with migQ := [⟨va, 2, true, 0, 0, 7, 4, 0, 0, 0, 0⟩] }

theorem wit_Engines_migration :
    (match walk ⟨State.reset.boot, State.reset.clk⟩ 0 0x40000000 (moving 0x40000000).m with
      | (none, _) => true
      | _ => false) = true
    ∧ (match walk ⟨State.reset.boot, State.reset.clk⟩ 0 0 (moving 0).m with
      | (some (_, l), _) => decide (l.pa / 2 ^ 44 = 0)
      | _ => false) = true
    ∧ ((moving 0).m.die 0).migQ = [⟨0, 2, true, 0, 0, 7, 4, 0, 0, 0, 0⟩] := by decide +kernel

/-- A free page in the ring that the host keeps at virtual address 0, and a release ring behind it. -/
def ringed : State :=
  quiet fun m =>
    let m := (tabled m).modDie 0 fun y =>
      { y with hostMem := 2 ^ 30, mfhost := { en := true, lsize := 4, tail := 1 }, mrel := { en := true, lsize := 4, base := 4096 },
               migQ := [⟨0, 2, true, 0, 0, 7, 4, 0, 0, 0, 0⟩] }
    placeLine (placeCode 0) (2 ^ 44 + 1) m

theorem wit_Engines_rings :
    (match walk ⟨ringed.boot, ringed.clk⟩ 0 0 ringed.m with
      | (some (_, l), m1) =>
        (match freePage ⟨ringed.boot, ringed.clk⟩ 0 (m1.die 0).mfhost m1 with
          | (some _, m2) => (releasePage ⟨ringed.boot, ringed.clk⟩ 0 l.pa m2).1
          | (none, _) => false)
      | (none, _) => false) = true := by decide +kernel

/-- A window register, an offset that is no multiple of 8, a frame in use, a lit fibre, a host port that runs. -/
theorem wit_HostWindow :
    Env.live ⟨State.reset.boot, State.reset.clk⟩ 15 = true ∧ (0x10004 : BitVec 18).toNat % 8 ≠ 0
    ∧ (match walk ⟨State.reset.boot, State.reset.clk⟩ 0 (0 * 2 ^ 21) (quiet tabled).m with
        | (some _, _) => true
        | _ => false) = true
    ∧ (quiet tabled).m.claims = []
    ∧ ((quiet (onCore id id)).m.task 0).st = .running 0 ∧ (0x1000 : W64).getLsbD 12 = true ∧ (0x1000 : W64).toNat % 2 ^ 12 = 0
    ∧ linkGone ⟨State.reset.boot, State.reset.clk⟩ 127 = false
    ∧ hostReached ⟨State.reset.boot, State.reset.clk⟩ (quiet fun m => { m with hostPort := [(0, 1)] }).m = true
    ∧ backed ⟨State.reset.boot, State.reset.clk⟩ State.reset.m 0 0 = true
    ∧ backed ⟨State.reset.boot, State.reset.clk⟩ State.reset.m 0 (2 ^ 44) = false
    ∧ State.reset.m.homeClean 9 126 = true := by decide +kernel

theorem test_host_register :
    (after (exec (.hostRegisterWrite 3 0x10130 0x12345) State.reset)).map (fun m => (m.die 3).pkgSelf) = some 0x2345
    ∧ (after (exec (.hostRegisterWrite 3 0x10134 0x12345) State.reset)).map (fun m => (m.die 3).pkgSelf) = some 0
    ∧ exec (.hostMemoryAccess (.read (2 ^ 44) 0 8)) { State.reset with m := { State.reset.m with hostPort := [(0, 1)] } }
        = .fault .unbacked := by
  refine ⟨by decide +kernel, by decide +kernel, by rfl⟩

/-- A record tick, a die whose telemetry ring is on and mapped, and a droop with a threshold. -/
theorem wit_ResetAlarmsAndSamples :
    (State.reset.m.die 0).policy ≠ 1 ∧ ((quiet fun m => m.modDie 0 fun y => { y with policy := 2 }).m.die 0).policy = 2
    ∧ (∀ d ∈ Env.dieList ⟨State.reset.boot, State.reset.clk⟩, (State.reset.m.die d).ev.en = false)
    ∧ State.reset.clk.tick.toNat % 2197 = 0 ∧ State.reset.clk.tick = State.reset.clk.ticks
    ∧ (State.reset.m.die 0).droopTh = 0
    ∧ ((quiet fun m => m.modDie 0 fun y => { y with droopTh := 3 }).m.die 0).flOn.testBit 2 = false := by decide +kernel

/-- A telemetry ring that is on and whose page is mapped. -/
def telling : State :=
  quiet fun m => (tabled m).modDie 0 fun y => { y with tel := { en := true, lsize := 4 } }

theorem wit_ResetAlarmsAndSamples_ring :
    (telling.m.die 0).tel.en = true ∧ (telling.m.die 0).tel.full = false
    ∧ (ringWriteWith event ⟨telling.boot, telling.clk⟩ 0 (telling.m.die 0).tel
        (telemetryBytes ⟨telling.boot, telling.clk⟩ (telling.m.die 0) 0 (Config.freeWord 0) (Config.freeWord 1)
          (Config.freeWord 2)) telling.m).1 = true := by decide +kernel

/-- A link in service with flits unacknowledged. -/
def linked (f : Link → Link) : State := quiet fun m => m.modLink 127 fun x => f { x with state := 2, lanes := 0xFFFF, lit := 0xF }

/-- A flit on its way that is its packet's header. -/
def flit (b : BitVec 256) : TxFlit := ⟨b, true, {}⟩

/-- R396's CRC of a flit of zeros as data, a window of two flits, NAKs, a lane mask, timers, light and training. -/
theorem wit_LinksAndPeers :
    ((linked id).m.link 127).state = 2 ∧ ((linked id).m.link 127).hold = false
    ∧ ((linked fun x => { x with win := [flit 1, flit 2], old := 65535 }).m.link 127).win = [flit 1] ++ [flit 2]
    ∧ (0 : BitVec 16).toNat = (65535 + [flit 1].length) % 65536 ∧ ((linked id).m.link 127).lanes ≠ 0
    ∧ ((linked fun x => { x with naks := 15 }).m.link 127).naks = 15 ∧ ((linked id).m.link 127).lanes &&& 0xFFF0 ≠ 0
    ∧ ((linked fun x => { x with since := 63 }).m.link 127).since = 63 ∧ ((linked id).m.link 127).lit.getLsbD 3 = true
    ∧ (State.reset.m.die 15).ev.en = false ∧ (State.reset.m.die 15).flOn.testBit 3 = false
    ∧ ((linked fun x => { x with state := 1 }).m.link 127).state = 1 ∧ ((linked id).m.link 127).txq = []
    ∧ State.reset.m.ringFail.getLsbD 15 = false ∧ State.reset.m.hubFail.getLsbD 15 = false
    ∧ linkGone ⟨State.reset.boot, State.reset.clk⟩ 127 = false := by decide +kernel

theorem wit_LinksAndPeers_crc :
    flitCrc 0xFFFFFFFF 0 = (BitVec.ofNat 32 (flitCrc 0xFFFFFFFF 0)).toNat ∧ flitCrc 0xFFFFFFFF 0 ≠ 0 ∧ flitCrc 0 0 ≠ 0 := by
  decide +kernel

/-- A peer's read and write of 8 bytes through handle 0, a window of one page at 4 MiB. -/
def imported : State :=
  quiet fun m =>
    let m := m.modDie 15 fun y => { y with ihBase := placeTables 15, ihCount := 1 }
    placeLine (placeTables 15) (2 ^ 63 + 2 ^ 60 + 2 ^ 59 + (15 * 2 ^ 40 + 2 ^ 22) + 2 ^ 64) m

theorem wit_LinksAndPeers_request :
    (match checkP ⟨imported.boot, imported.clk⟩ 15 0xFFFF (requestRight (.read 8)) 8 (w64 (3 * 2 ^ 58 + 120)) imported.m with
      | (.ok a, m1) =>
        (match a.loc with | .phys pa => decide (pa % 128 + 8 ≤ 128) && m1.homeClean a.legend pa | _ => false)
      | _ => false) = true
    ∧ requestWidth (.write [1, 2, 3, 4, 5, 6, 7, 8]) = 8 ∧ 120 % 128 + 8 ≤ 128 := by decide +kernel

/-! ### Clauses at the ends of their ranges -/

/-- The machine's environment right after reset. -/
abbrev e0 : Env := ⟨State.reset.boot, State.reset.clk⟩

/-- The tables that map the page of virtual address 0 as bits of its leaf say, with a line at its start. -/
def codePage (bits line : Nat) : Mach :=
  placeLine (placeCode 0) line (placeLine (placeTables 0 + 8192) (placeCode 0 + bits)
    (placeLine (placeTables 0 + 4096) (placeTables 0 + 8192 + 1) (placeLine (placeTables 0) (placeTables 0 + 4096 + 1)
      (State.reset.m.modDie 0 fun x => { x with ptRoot := placeTables 0 }))))

/-- Addresses at the ends of the first rows of R31, the leaves of a page that is absent or not executable, headers at the
ends of theirs, and a bundle of two blocks. -/
theorem wit_BundleIssueRunsItsSlots_fetch :
    ([2 ^ 48, 2 ^ 48 - 1, 2 ^ 48 - 32].map fun a => (fetchMemory e0 0 0 (BitVec.ofNat 64 a) State.reset.m).1)
      = [.fault 5, .fault 3, .fault 6]
    ∧ (walk e0 0 (2 ^ 48 - 32) State.reset.m).1.isNone = true
    ∧ ([0x01, 0x11, 0x03].map fun bits => (walk e0 0 0 (codePage bits 0)).1.map fun p => (p.2.pr, p.2.x))
      = [some (false, false), some (false, true), some (true, false)]
    ∧ ([0xC0000000, 0x7FFFFFFF, 0xB0000000, 0x80800000, 0x80000001, 0x8F000000].map headerFault)
      = [some 4, some 2, some 2, some 2, some 2, none]
    ∧ (fetchMemory e0 0 0 0 (codePage 0x13 (0x90000000 + 0xC0000000 * 2 ^ 256))).1 = .ok [0x90000000, 0xC0000000] := by
  decide +kernel

/-- A poisoned line of code. -/
theorem wit_BundleIssueRunsItsSlots_poison :
    (let m := setMemLine (placeCode 0 / 128) 0 poisonChk (codePage 0x13 0)
     (((homeRead e0 ⟨1, 0, 0⟩ 0 (placeCode 0 / 128) m).1.sev, (fetchMemory e0 0 0 0 m).1))) = (3, .fault 9) := by decide +kernel

/-- A context whose next bundle is no bundle, and one whose page is absent. -/
theorem wit_BundleIssueRunsItsSlots_fault :
    (match judged 0x805C03 (fun c => { c with pc := 16 }) with | .fault c => c == 3 | _ => false) = true
    ∧ (let s : State := nearIssue 0x805C03 id
       let s : State := { s with m := placeLine (placeTables 0 + 8192) (placeCode 0 + 0x11) s.m }
       match (judgeIssue ⟨s.boot, s.clk⟩ 0 (pickCur (coreKey 0 0) s.m)).1 with | .absent a => a == 0 | _ => false) = true
    ∧ ((nearIssue 0x805C03 id).m.ctx 0).csr.intrap = false := by decide +kernel

/-- R52: the first reserved cell of each unit, and the last operation before it. -/
theorem wit_ReservedCodes_cells : ∀ p ∈ [(3, 8), (6, 30), (7, 30), (8, 12), (9, 10), (10, 18), (11, 11), (12, 13), (13, 11),
      (14, 6), (15, 11)],
    decodeSlot (BitVec.ofNat 24 (0x800003 + p.1 * 0x8000 + p.2 * 0x400)) = none
    ∧ (decodeSlot (BitVec.ofNat 24 (0x800003 + p.1 * 0x8000 + (p.2 - 1) * 0x400))).isSome = true
    ∧ (decodeSrc 3).isSome = true := by decide +kernel

/-- R35: pools of one and of eight words, and the first literal and the first pair beyond each. -/
theorem wit_SlotsThatDoNotAct_literals :
    (demo {} [] fun i => { i with lits := [9] }).m.issue.lits.length = 1 + 7 * 0
    ∧ (demo {} [] fun i => { i with lits := List.replicate 8 9 }).m.issue.lits.length = 1 + 7 * 1
    ∧ (bundleOf [0x80000000]).lits.length = 1 ∧ (bundleOf [0x90000000, 0xC0000000]).lits.length = 8
    ∧ 1 + 7 * 0 ≤ (1 : Fin 15).val ∧ 1 + 7 * 0 ≤ 2 * (0 : Fin 7).val + 1 ∧ 1 + 7 * 1 ≤ (8 : Fin 15).val
    ∧ 1 + 7 * 1 ≤ 2 * (4 : Fin 7).val + 1 ∧ enabled (demo {} []).m ⟨false, 0⟩ = true
    ∧ (demo {} []).m.cur.csr.intrap = false := by decide +kernel

/-- R35: a pair whose second word is beyond the pool is beyond it. -/
theorem test_literal_pool :
    slotSource e0 (demo {} [] fun i => { i with lits := [0xFFFFFFF7] }).m 0 (.pair 0) = none
    ∧ slotSource e0 (demo {} [] fun i => { i with lits := [0xFFFFFFF7] }).m 0 (.lit 0) = some 0xFFFFFFFFFFFFFFF7 := by
  decide +kernel

/-- The mapped page with a sector of its second line in the core's L1 whose fill was HIGH. -/
def spoilt : State :=
  { paged (has 0x200080) [] with m := (paged (has 0x200080) []).m.modCore 0 fun c =>
      { c with sectors := [(0x40008, { sectorOf false with bad := true, loc := .phys 0x400080 })] } }

/-- A 1-byte load of the line reads it, or finds it HIGH. -/
theorem wit_AcquireReleaseAndLines_reads : ∀ i ∈ [Instr.lsWbk 0 t8, .lsInv 0 t8],
    (match loadBytes ⟨.phys 0x400080, .own, 0, 0, 0x200080, 0⟩ 1 e0 ((paged (has 0x200080) []).m.began i) with
      | .ok _ _ => true
      | _ => false) = true
    ∧ (match loadBytes ⟨.phys 0x400080, .own, 0, 0, 0x200080, 0⟩ 1 e0 (spoilt.m.began i) with
      | .error (.trap 9 v) m => decide (v = 0x200080) && decide (m.cur = spoilt.m.cur) && decide (m.issue = (spoilt.m.began i).issue)
      | _ => false) = true
    ∧ (checkAcc e0 spoilt.m.who .read 1 1 0x200080 (spoilt.m.began i)).1 = .ok ⟨.phys 0x400080, .own, 0, 0, 0x200080, 0⟩ := by
  decide +kernel

/-- A refused store, and a store for a peer package that it refuses at the fence where the free value says so. -/
theorem wit_Fences_refusals :
    (∀ q ∈ (demo { has 0 with refusals := [(3, 77)] } []).m.cur.stq, q.isPeer = false)
    ∧ { pending with loc := .peer 1 0 0 0, cls := .far }.isPeer = true
    ∧ (demo { has 0 with stq := [{ pending with loc := .peer 1 0 0 0, cls := .far }] } []).m.cur.refusals = []
    ∧ (demo (has 0) []).Reads t8.src 0 := by decide +kernel

theorem wit_Fences_noPeer : (demo { has 0 with refusals := [(3, 77), (4, 78)] } []).NoPeerBytes := by
  intro p h
  have : ((demo { has 0 with refusals := [(3, 77), (4, 78)] } []).m.core
      (demo { has 0 with refusals := [(3, 77), (4, 78)] } []).m.issue.core).sectors = [] := by decide +kernel
  rw [this] at h
  cases h

/-- An item of bad parity that a slot reads, and a port of ix0 that its bundle does not write. -/
theorem wit_CheckedComparisonsAndInjection_parity :
    (demo { has 5 with bad := [8] } []).m.issue.start.badSrc (.g 8) = true
    ∧ slotSource e0 (demo { has 5 with bad := [8] } []).m 0 (.g 8) = some 5
    ∧ (demo { has 5 with bad := [8] } []).m.cur.seg = none ∧ (demo { has 5 with bad := [8] } []).m.issue.snaps = none
    ∧ (demo { has 5 with bad := [8] } []).acts (.ixAdd 0 t8) = true
    ∧ (demo { has 5 with bad := [0x1100] } []).m.issue.start.bad.contains (0x1100 + 4 * 0) = true
    ∧ (demo { has 5 with bad := [0x1100] } []).m.issue.moved.contains (0x100 + 4 * 0) = false
    ∧ (demo { has 5 with bad := [0x1100] } []).Reads t8.src 5 ∧ (demo { has 5 with bad := [0x1100] } []).acts (.ixAdd 0 t8) = true
    ∧ (segOf 3 false 0).handler = false ∧ { segOf 0 false 0 with handler := true }.handler = true := by decide +kernel

/-- The ends of the operands of ck.inj: kinds 0, 1 and 2, and codes that it can spoil. -/
theorem wit_CheckedComparisonsAndInjection_inject :
    (∀ x ∈ [0x8000, 16 * 1152, 0x11, 2, 2 + 0xA0 * 0x10000, 2 + 0xBF * 0x10000, 2 + 0xD3 * 0x10000, 0x12 + 0x10000, 0x4000002, 3],
      stopOf (slotCkInj t8) (unit3 14 true (w64 x) 0 0 0) = some (1, x))
    ∧ stopOf (slotCkInj t8) (unit3 14 true 0 (w64 (3 * 2 ^ 58)) 0 0) = some (5, 3 * 2 ^ 58)
    ∧ stopOf (slotCkInj t8) (unit3 14 true 1 768 0 0) = some (1, 768)
    ∧ stopOf (slotCkInj t8) (unit3 14 true (w64 (2 + 0x10000)) 768 0 0) = some (1, 768)
    ∧ ([0x10002, 0x9F0002, 0xC00002, 0xD20002].map fun x =>
        (after (exec (.ckInj t8) (unit3 14 true (w64 x) 0 0 0))).map fun m => (m.ctx 0).bad)
      = [some [1], some [0x9F], some [0xC0], some [0xD2]] := by decide +kernel

/-- Operations that an open segment forbids at the ends of their ranges, and ones that it does not. -/
theorem wit_Segments_forbidden :
    (∀ i ∈ [Instr.sqLease t8, .ntDefn t8, .eqLnch t8, .syCsrr t8, .gsJoin t8, .gsRdv t8, .gsFlgw t8, .gsWto t8, .brTrap t8,
        .brWait t8, .lsLdaq 0 t8, .lsStrl 1 t8, .lsWbk 0 t8, .lsAfadd 1 t8],
      (opCode i).bind (fun p => stopOf (checkTrigger p.1 p.2.1 p.2.2) (demo { has 77 with seg := some (segOf 0 false 0) } []))
        = some (1, 77))
    ∧ (∀ i ∈ [Instr.gsSegb t8, .gsSegc t8, .brRet t8, .lsScat 0 t8, .lsPref 0 t8, .ixAdd 0 t8],
        (demo { has 77 with seg := some (segOf 0 false 0) } []).acts i = true) := by decide +kernel

/-- The held array after 64 commands, alone and with another task of its group asking. -/
def granted (asks : Bool) (m : Mach) : Mach :=
  heldArr (fun y => { y with cmds := 64 }) (if asks then m.setTask 5 { st := .suspended, asking := true } else m)

/-- A grant that is over with and without another asker, a port of bad parity that no command without one reads. -/
theorem wit_ArrayCommands_grants :
    ((unit3 10 false 0 0 0 0 (granted false)).m.arr 0).grantOver e0 = true
    ∧ (askers (unit3 10 false 0 0 0 0 (granted false)).m 0).filter (fun g => g ≠ 0) = []
    ∧ askers (unit3 10 false 0 0 0 0 (granted true)).m 0 = [5] ∧ ((unit3 10 false 0 0 0 0 (granted true)).m.arr 0).holder = some 0
    ∧ ((unit3 10 false 0 0 0 0 (heldArr)).m.arr 0).cmds < 64
    ∧ (unit3 10 false 0 0 0 0 (heldArr)).m.issue.lstat = 0 := by decide +kernel

/-- R382, R255: a pass is queued whatever the parity of the ports, which its row does not read. -/
theorem test_array_ports :
    sent (exec (.sqRun t8) (demo { has 0 with bad := [0x1128, 0x1129, 0x112A] } [] id (heldArr))) = [(13, 4 * 2 ^ 52 + 1, 2)]
    ∧ stopOf (slotSqLda t8) (demo { has 0 with bad := [0x1128] } [] id (heldArr)) = some (10, 2 ^ 63 + 0x1128) := by
  decide +kernel

/-- An array of frame 5 with a spill asked for: idle, with a load to be done, and in a pass at and off a multiple of 64. -/
def spilling (f : Arr → Arr) : State := quiet fun m => m.modArr 0 fun y => f { y with holder := some 5, spill := true }

theorem wit_ArrayLeases_checkpoints :
    ((spilling id).m.arr 0).atCheckpoint = true
    ∧ ((spilling fun y => { y with queue := [cmdOf 6 .queued] }).m.arr 0).atCheckpoint = false
    ∧ ((spilling fun y => { y with queue := [cmdOf 6 .queued] }).m.arr 0).openAt 0 = true
    ∧ ((spilling fun y => { y with queue := [cmdOf 8 .started], pass := some ⟨8, 1, 2, false, 64⟩ }).m.arr 0).atCheckpoint = true
    ∧ ((spilling fun y => { y with queue := [cmdOf 8 .started], pass := some ⟨8, 1, 2, false, 65⟩ }).m.arr 0).atCheckpoint = false
    ∧ ((spilling fun y => { y with queue := [cmdOf 8 .started], pass := some ⟨8, 1, 2, false, 0⟩ }).m.arr 0).atCheckpoint = false
    ∧ ((State.reset.m.die 0).saSpill + 5 * 2 ^ 18) % 128 = 0
    ∧ ownBacked e0 State.reset.m 0 ((State.reset.m.die 0).saSpill + 5 * 2 ^ 18) = true
    ∧ ownBacked e0 State.reset.m 0 ((State.reset.m.die 0).saSpill + 6 * 2 ^ 18 - 1) = true := by decide +kernel

/-- A spilled task whose slot lies beyond the die's memory. -/
theorem wit_ArrayLeases_lost :
    (let m : Mach := { (State.reset.m.modDie 0 fun y => { y with saSpill := 2 ^ 44 - 2 ^ 18 }).setTask 5
        { st := .suspended, asking := true } with spills := [(5, ⟨[], {}⟩)] }
     decide (m.spills.find 5 = some ⟨[], {}⟩) && !ownBacked e0 m 0 ((m.die 0).saSpill + 5 * 2 ^ 18)
       && decide (askers m 0 = [5]) && decide ((m.task 5).st = .suspended)) = true
    ∧ ((quiet fun m => m.setTask 5 { st := .halted, asking := true }).m.task 5).st = .halted
    ∧ askers (quiet fun m => m.setTask 5 { st := .halted, asking := true }).m 0 = [5] := by decide +kernel

/-- A line of a memory that nothing has written reads CLEAN under RAW. -/
theorem empty_home_clean (m : Mach) (pa : Nat) (h : m.l2 = []) (h1 : m.mem = []) (h2 : m.memChk = []) :
    m.homeClean 0 pa = true := by
  have hd : (decodeCopy 0 (ofBytes (List.replicate 128 0)) (ofBytes (List.replicate 16 0))).sev = 0 := by decide +kernel
  simpa [Mach.homeClean, Mach.l2Room, l2Ways, memData, memCheck, Memory.bytes, SMap.find, h, h1, h2] using hd

/-- R248: a task with a clear in its spilled queue, whose slot has been written over with zeros. -/
def waitingSpill : State :=
  quiet fun m => { (m.setTask 5 { st := .suspended, asking := true, lease := .suspended }) with
    spills := [(5, ⟨[cmdOf 11 .queued], {}⟩)] }

theorem wit_ArrayLeases_restored :
    (∀ j < 2048, waitingSpill.m.homeClean 0 (5 * 2 ^ 18 + 128 * j) = true) ∧ (waitingSpill.m.task 5).st ≠ .halted
    ∧ waitingSpill.m.spills.find 5 = some ⟨[cmdOf 11 .queued], {}⟩ ∧ askers waitingSpill.m 0 = [5]
    ∧ (waitingSpill.m.arr 0).holder = none ∧ (waitingSpill.m.die 0).saSpill = 0
    ∧ ofBytes ((List.range 8).map fun i => waitingSpill.m.byteAt (5 * 2 ^ 18 + 0xC00 + i)) % 32 ≠ 10 :=
  ⟨fun _ _ => empty_home_clean _ _ rfl rfl rfl, by decide +kernel, by decide +kernel, by decide +kernel, by decide +kernel,
    by decide +kernel, by decide +kernel⟩

/-- A configuration with early stop under the margin rule between its two columns. -/
def early : ArrCfg := { small with rule := 2, cols := [0, 1], margin := 1 }

/-- R240: a pass that may stop early, at its start, in its midst and at its last step, and the leads of two columns. -/
theorem wit_ArrayPasses_early :
    ({ cmdOf 9 .queued with cfg := early }.cfg.cols.length = 2) ∧ (∀ n ∈ early.cols, n < early.n) ∧ early.margin < 2 ^ 20
    ∧ ((quiet (working 9 .started fun y => { y with pass := some ⟨4, 1, 2, true, 7⟩, startOk := true })).m.arr 0).pass
        = some ⟨4, 1, 2, true, 7⟩
    ∧ (7 : Nat) + 1 ≠ 2 ^ 4 ∧ (15 : Nat) + 1 = 2 ^ 4
    ∧ { cmdOf 10 .queued with prog := 3 }.loaded = true ∧ { cmdOf 10 .queued with prog := 3 }.prog / 4 % 2 = 0
    ∧ { cmdOf 10 .queued with prog := 3, a := 2 ^ 16 }.a.getLsbD 16 = true
    ∧ { cmdOf 10 .started with prog := 7 }.prog / 4 % 2 = 1 ∧ { cmdOf 10 .started with prog := 7 }.prog / 8 % 2 = 0 := by
  decide +kernel

/-- Array 0 one step into a pass with early stop: its first row has counted 3 in the first column and 0 in the second. -/
def leading : State :=
  quiet (fun m => (working 9 .started (fun y => { y with
    pass := some ⟨4, 1, 2, true, 7⟩, lastStep := some 0, queue := [{ cmdOf 9 .started with cfg := early }],
    cnt := [(0, 3 :: List.replicate 127 0), (1, List.replicate 128 0)] })) m) 5

/-- R240, R241: the row whose lead reaches the margin stops after the step, at the number of steps run; the other, whose
counts are equal, goes on. -/
theorem test_early_stop :
    (after (exec (.arrayPassStep 0 0) leading)).map (fun m =>
        ((m.arr 0).stopped.getLsbD 0, (m.arr 0).stop.get 0 0, (m.arr 0).stopped.getLsbD 1, (m.arr 0).steps.get 0 0,
          (m.arr 0).pass.isSome)) = some (true, 8, false, 1, true) := by decide +kernel

/-- Names inside, below and above a user's range of 3 to 5, and the range off. -/
def userNt (range : W64) (x a b : W64) : State :=
  demo { g := [(8, x)], csr := { spadSize := 4096, ntrange := range } }
    [(portCode 11 0, a.setWidth 512), (portCode 11 1, b.setWidth 512)] id (routed id)
def range35 : W64 := w64 (5 * 2 ^ 44 + 3 * 2 ^ 24 + 1)

theorem wit_TileOperationsIssued_user :
    (userNt range35 (nameOf 0 1 1) 0 0).m.issue.start.csr.ntrange.toNat / 2 ^ 24 % 2 ^ 20 = 3
    ∧ (userNt range35 (nameOf 0 1 1) 0 0).m.issue.start.csr.ntrange.toNat / 2 ^ 44 = 5
    ∧ (nameOf 0 1 1).toNat / 2 ^ 44 = 3 ∧ (w64 (6 * 2 ^ 44)).toNat / 2 ^ 44 = 6 ∧ (w64 (2 * 2 ^ 44)).toNat / 2 ^ 44 = 2
    ∧ (userNt range35 0 0 0).m.cur.csr.priv = false ∧ (userNt range35 0 0 0).m.curTask.tokenRoom 5 = true
    ∧ (∀ i ∈ [Instr.ntRet t8, .ntDefn t8, .ntRout t8, .ntAnn t8, .ntInt t8], (userNt range35 0 0 0).acts i = true) := by
  decide +kernel

/-- R275: user forms inside and outside nt.range. -/
theorem test_user_names :
    stopOf (slotNtRet t8) (userNt range35 (w64 (6 * 2 ^ 44)) 0 0) = some (17, 6 * 2 ^ 44)
    ∧ stopOf (slotNtRet t8) (userNt range35 (w64 (2 * 2 ^ 44)) 0 0) = some (17, 2 * 2 ^ 44)
    ∧ stopOf (slotNtRet t8) (userNt 0 (w64 (3 * 2 ^ 44)) 0 0) = some (17, 3 * 2 ^ 44)
    ∧ sent (exec (.ntRet t8) (userNt range35 (w64 (5 * 2 ^ 44)) 0 0)) = [(14, 5 * 2 ^ 52 + 1, 4)]
    ∧ stopOf (slotNtRout t8) (userNt range35 16 (w64 (2 ^ 63 + 6 * 2 ^ 20 + 3)) 0) = some (8, 16)
    ∧ sent (exec (.ntRout t8) (userNt range35 16 (w64 (2 ^ 63 + 5 * 2 ^ 20 + 3)) 0)) = [(14, 5 * 2 ^ 52 + 1, 4)]
    ∧ stopOf (slotNtInt t8) (userNt range35 (w64 (6 * 2 ^ 44)) 0 5) = some (17, 6 * 2 ^ 44)
    ∧ stopOf (slotNtAnn t8) (userNt range35 (w64 (6 * 2 ^ 44)) 0 1) = some (17, 6 * 2 ^ 44) := by decide +kernel

/-- The first message of its class on its path: one behind an answer, and not one behind an interest. -/
theorem wit_TileMessages_order :
    (let msgs := (nets 0 id [⟨0, 1, .answer 9 5⟩, ⟨0, 1, .interest 9 100 0⟩, ⟨0, 1, .interest 8 100 0⟩]).m.msgs
     (∀ j < 1, ∀ z, msgs[j]? = some z → z.to_ = 0 → z.face = 1 → ∃ n v, z.body = .answer n v)
     ∧ ¬(∀ j < 2, ∀ z, msgs[j]? = some z → z.to_ = 0 → z.face = 1 → ∃ n v, z.body = .answer n v)) := by
  refine ⟨fun j hj z hz _ _ => ?_, fun h => ?_⟩
  · obtain rfl : j = 0 := by omega
    cases hz
    exact ⟨_, _, rfl⟩
  · obtain ⟨n, v, h⟩ := h 1 (by omega) _ rfl rfl rfl
    cases h

/-- A page that the tables map for reading alone. -/
theorem wit_QueuesAndRecords_readOnly :
    (match walk e0 0 0 ((unit3 12 false (lAddr 256) 1023 0 0 fun m => placeLine (placeTables 0 + 8192) (placeCode 0 + 0x07)
          (device m)).m.began (.eqLnch t8)) with
      | (some (_, l), _) => !l.w && l.pr
      | _ => false) = true := by decide +kernel

/-- R366: handles of one generation, and one with a bit beyond it. -/
theorem wit_CardsMigrationsGroups_handles :
    (0xFFF : W64).toNat < 2 ^ 12 ∧ 2 ^ 12 ≤ (0x1000 : W64).toNat
    ∧ stopOf (slotEqCcls t8) (unit3 12 false 0x1000 0 0 0) = some (1, 0x1000)
    ∧ sent (exec (.eqCcls t8) (unit3 12 false 0xF05 0 0 0)) = [(15, 0x8000000000000002, 4)]
    ∧ (∀ a ∈ [Instr.eqCred t8, .eqCmc t8, .eqCxp t8], (unit3 12 false 0 0x1000 0 0).acts a = true) := by decide +kernel

/-- R129: a wait for a tick that has not come, with an interrupt queued, and one whose tick has. -/
theorem wit_ResultsAndWaits_tick :
    (after (exec (.contextReady 0 0 0) (quiet (onCore (fun c => { c with st := .blocked (blockOf (.tick 5)), uiq := [(1, 2)], csr := { uien := true } }) id)))).map (fun m => ((m.ctx 0).st, (m.ctx 0).woken)) = some (.ready, true)
    ∧ (after (exec (.contextReady 0 0 0) (quiet (onCore (fun c => { c with st := .blocked (blockOf (.tick 0)), uiq := [(1, 2)], csr := { uien := true } }) id)))).map (fun m => ((m.ctx 0).st, (m.ctx 0).woken)) = some (.ready, false)
    ∧ (after (exec (.contextReady 0 0 0) (quiet (onCore (fun c => { c with st := .blocked (blockOf (.tick 5)) }) id)))).map
        (fun m => (m.ctx 0).st) = some (.blocked (blockOf (.tick 5)))
    ∧ (State.reset.clk.tick - (5 : BitVec 48)).toNat ≥ 2 ^ 47 := by decide +kernel

/-- The machine in which the return from a trap above has run its slots, and the frame that the return reads. -/
theorem wit_DoubleFaultsPagesAndReturns_frame :
    (let s : State := nearIssue 0x805C03 fun c => { c with retPend := 2, pend := some 0,
                                                             csr := { intrap := true, priv := true } }
     match judgeIssue ⟨s.boot, s.clk⟩ 0 (pickCur (coreKey 0 0) s.m) with
      | (.go b, n) =>
        let n1 := b.slots.zipIdx.foldl (fun m p => actSlot ⟨s.boot, s.clk⟩ p m)
          (movePorts ⟨s.boot, s.clk⟩ ((beginIssue ⟨s.boot, s.clk⟩ 0 b n).modCtx 0 Ctx.unblock))
        let f := frameAddr n1 0 (n1.ctx 0).frame
        f % 128 == 0 && n1.issue.newCsr.isEmpty && (n1.die 0).trcCtl == 0 && n1.homeClean 0 (f + 0xC00)
          && (List.range 82).all (fun k => n1.homeClean 0 (f + 0x1000 + 128 * k))
      | _ => false) = true := by decide +kernel

/-- R82: an overrun halts a queue that is not enabled, and one tail short of it does not. -/
theorem test_overrun :
    (after (exec (.lqTailWrite 0 1023 17) (queued fun y => { y with lsize := 4 }))).map
        (fun m => ((m.lq 1023).halted, (m.lq 1023).cause, (m.lq 1023).en)) = some (true, 5, false)
    ∧ (after (exec (.lqTailWrite 0 1023 16) (queued fun y => { y with lsize := 4 }))).map
        (fun m => ((m.lq 1023).halted, (m.lq 1023).cause, (m.lq 1023).tail)) = some (false, 0, 16) := by decide +kernel

/-- R93: a charge of 2 and of 5 budgets at once, in classes 0 and 1. -/
def charged (cls budgets : Nat) : State :=
  quiet fun m => m.modLaunch 4 fun z => { z with live := true, cls := cls, budget := 1, charge := budgets * 10 ^ 10 }

theorem test_demotion :
    (after (exec (.energyDemotion 0 4) (charged 0 2))).map (fun m => ((m.launch 4).cls, (m.launch 4).demotions)) = some (2, 2)
    ∧ (after (exec (.energyDemotion 0 4) (charged 1 5))).map (fun m => ((m.launch 4).cls, (m.launch 4).demotions)) = some (3, 5)
    ∧ (after (exec (.energyDemotion 0 4) (charged 0 0))).map (fun m => ((m.launch 4).cls, (m.launch 4).demotions)) = some (0, 0) := by
  decide +kernel

/-- Two queues with work at a quantum's end. -/
def rivals : State :=
  let s := quiet fun m => (m.modLq 3 fun y => { y with en := true, tail := 1 }).modLq 1023 fun y =>
    { y with en := true, tail := 1, boost := 1 }
  { s with clk := { s.clk with tick := 110 } }

theorem wit_LaunchesAndSlots_rivals :
    rivals.m.lqs.rising = true ∧ (∀ p ∈ [3, 1023], headClass e0 0 p rivals.m - (rivals.m.lq p).boost < 4)
    ∧ (∀ c < 4, (rivals.m.die 0).lastQ.get 0 c ≤ 1024)
    ∧ (after (exec (.quantumBoundary 0) rivals)).map (fun m => (m.die 0).slots) = some [(0, some 1023), (1, some 3)] := by decide +kernel

/-- The cause that the walker finds in the head record of queue 1,023 with these lines, none where it cannot read it. -/
def causeOf (words : List (Nat × Nat)) : Option (Option Nat) :=
  let s := recorded 0
  let m := words.foldl (fun m p => placeLine (placeCode 0 + 128 * p.1) p.2 m) s.m
  match readHead ⟨s.boot, s.clk⟩ 0 1023 m with
  | (.bytes w, m1) => some (recordCause m1 0 w)
  | _ => none

/-- R85: a record of each cause, with a word that has it alone; and a record that is in order. -/
theorem wit_LaunchesAndSlots_causes :
    [[(0, 0x804)], [(0, 0x700)], [(0, 0x8C0)], [(0, 0x100800)], [(0, 0x90800)], [(0, 0x802)],
      [(0, 0x10000000802 + 25 * 2 ^ 112)], [(0, 0x10000000802 + 24 * 2 ^ 112)], [(0, 0x800)]].map causeOf
      = [some (some 1), some (some 2), some (some 3), some (some 4), some (some 4), some (some 4), some (some 8), some none,
         some none] := by decide +kernel

/-- R84: a nest of one loop with a bound of 0 is complete at once. -/
theorem test_empty_nest :
    causeOf [(0, 0x801)] = some none
    ∧ (after (exec (.launchRecordAdmit 0 1023) (recorded 0x801))).map
        (fun m => ((m.lq 1023).head, (m.lq 1023).lid, (m.lq 1023).halted, m.nextLaunch)) = some (1, none, false, 1) := by
  decide +kernel

/-- R85: the head record's page is absent: the queue waits for it. -/
theorem test_absent_record :
    (after (exec (.launchRecordAdmit 0 1023)
      (let s := recorded 0x800
       { s with m := placeLine (placeTables 0 + 8192) (placeCode 0 + 0x1D) s.m }))).map
      (fun m => ((m.lq 1023).page, (m.lq 1023).halted)) = some (some 0, false) := by decide +kernel


/-- A launch whose next iteration the walker translates: one footprint of n bytes from a. -/
def admitting (a n : Nat) (entries : List Entry) : State :=
  let s := recorded 0x800
  let m := (s.m.modLq 1023 fun y => { y with lid := some 4 }).modLaunch 4 fun z =>
    { z with live := true, total := 1, queue := 1023,
             foots := [{ base := a, extent := n, buf := 0, coef := [0, 0, 0, 0], cs := 0, access := 2, acls := 0 }] }
  { s with m := m.modDie 0 fun x => { x with entries := entries, nextEntry := 2 } }

/-- An entry in flight whose task writes the first page. -/
def inFlight : Entry := { entryOf with launch := 9, ranges := [(placeCode 0, placeCode 0 + 64, true)] }

theorem wit_TasksPlacedAndEnded_admission :
    walkerPick e0 0 (admitting 0 64 [inFlight]).m = some (0, 1023, 0)
    ∧ (translate e0 0 ((admitting 0 64 [inFlight]).m.launch 4).foots [0, 0, 0, 0, 0] (admitting 0 64 [inFlight]).m).1
        = .inr [⟨0, 64, 2, 0, 0, [⟨0, placeCode 0, true, true, true, 0, true⟩]⟩]
    ∧ (translate e0 0 ((admitting (2 ^ 48 - 1) 2 []).m.launch 4).foots [0, 0, 0, 0, 0] (admitting (2 ^ 48 - 1) 2 []).m).1 = .inl 7
    ∧ (translate e0 0 ((admitting (2 ^ 21) 1 []).m.launch 4).foots [0, 0, 0, 0, 0] (admitting (2 ^ 21) 1 []).m).1 = .inl 7
    ∧ inFlight.holds { entryOf with no := 2, ranges := rangesOf [⟨0, 64, 2, 0, 0, [⟨0, placeCode 0, true, true, true, 0, true⟩]⟩] }
        = true
    ∧ (∀ p ∈ (admitting 0 64 [inFlight]).m.tasks, p.2.st = .free) := by decide +kernel

theorem test_admission :
    (after (exec (.taskPlacement 0 1023) (admitting 0 64 [inFlight]))).map (fun m => ((m.lq 1023).wait, (m.lq 1023).head,
        (m.lq 1023).lid, (m.die 0).entries.length)) = some ([2], 1, none, 2)
    ∧ (after (exec (.taskPlacement 0 1023) (admitting (2 ^ 48 - 1) 2 [inFlight]))).map (fun m => ((m.lq 1023).halted,
        (m.lq 1023).cause, (m.lq 1023).part)) = some (true, 7, some 4) := by decide +kernel

/-- Rank 0 of the idle die is eligible, with a run of no granules at granule 0, and after rank 191 it comes first. -/
theorem wit_TasksPlacedAndEnded_eligible :
    State.reset.m.Eligible 0 {} 0 ∧ State.reset.m.FreeRun 0 (Launch.need {}) 0 ∧ State.reset.m.FreeRun 0 1 0
    ∧ (quiet fun m => m.modDie 0 fun x => { x with lastRank := 191 }).m.turn 0 0 = 0 := by
  have h : State.reset.m.FreeRun 0 (Launch.need {}) 0 := by
    refine ⟨by decide +kernel, fun p hp => ?_⟩
    have : State.reset.m.tasks = [] := rfl
    rw [this] at hp; cases hp
  refine ⟨⟨by decide, Or.inl rfl, by decide +kernel, ⟨0, by decide, by decide +kernel⟩, ⟨0, by decide, by decide +kernel⟩, 0, h⟩,
    h, ⟨by decide +kernel, fun p hp => ?_⟩, by decide +kernel⟩
  have : State.reset.m.tasks = [] := rfl
  rw [this] at hp; cases hp

/-- Rank 0 alone has taken its die's split, its four contexts run tasks of class 3, and a task of class 0 waits. -/
def giving : State :=
  let m := (crowded.m.modLaunch 4 fun z => { z with cls := 3 }).modCore 0 fun k => { k with l1 := 1 }
  let m := m.modDie 0 fun x => { x with sramL1 := 1, entries := [{ entryOf with launch := 6 }] }
  { crowded with m := m.modLq 1023 fun y => { y with wait := [1] } }

/-- R94: no core is eligible, and the highest of rank 0's contexts gives way. -/
theorem wit_TasksPlacedAndEnded_givesWay :
    (∀ i, ¬giving.m.Eligible 0 {} i) ∧ giving.m.GivesWay 0 {} 0 3 ∧ (giving.m.task 3).st = .running 3
    ∧ waiting giving.m 0 1023 = { entryOf with launch := 6 } :: [] ∧ (giving.m.launch 6) = {} := by
  have split : ∀ i < 192, splitTaken giving.m 0 i = true → i = 0 := by decide +kernel
  have busy : ∀ x < 4, (giving.m.ctx (0 * 768 + 0 * 4 + x)).st ≠ .free := by decide +kernel
  have cls : ∀ x < 4, ctxClass giving.m (0 * 768 + 0 * 4 + x) = 3 := by decide +kernel
  refine ⟨fun i h => ?_, ⟨⟨by decide, Or.inl rfl, by decide +kernel, busy, by decide +kernel, 0, ?_⟩, by decide,
    by decide +kernel, by decide +kernel, fun r x h hx _ => ?_⟩, by decide +kernel, by decide +kernel, by decide +kernel⟩
  · obtain ⟨hi, _, hs, ⟨x, hx, hf⟩, _⟩ := h
    obtain rfl := split i hi hs
    exact busy x hx hf
  · refine ⟨by decide +kernel, ?_⟩
    decide +kernel
  · obtain rfl := split r h.1 h.2.2.1
    exact .inr ⟨by rw [cls x hx, cls 3 (by decide)], .inr ⟨rfl, by omega⟩⟩

/-- A gang of one member in die 0's first set, on rank 0 as the first of the ranks. -/
theorem wit_TasksPlacedAndEnded_gang :
    ((waitingIn 2).m.launch 4).kind = 2 ∧ ((waitingIn 2).m.launch 4).foots = [] ∧ ((waitingIn 2).m.mset 0).used = false
    ∧ 0 + (((waitingIn 2).m.mset 0).gen + 1) % 16 * 256 = 256 ∧ (waitingIn 2).m.tasks = []
    ∧ (waiting (waitingIn 2).m 0 1023).length ≤ (List.range 192).length
    ∧ (waitingIn 2).m.turn 0 0 < (waitingIn 2).m.turn 0 1 ∧ ((waitingIn 2).m.die 0).lastRank < 192
    ∧ (after (exec (.gangPlacement 0 1023) (waitingIn 2))).map (fun m => ((m.mset 0).members, (m.mset 0).gang,
        (m.task ((m.mset 0).members.headD 0)).sets, (m.lq 1023).wait)) = some ([0], true, [0], []) := by decide +kernel

/-- The frame of a task that is to go on, and pages that have come or have no entry any more. -/
theorem wit_TasksPlacedAndEnded_frame :
    frameAddr State.reset.m 0 0 % 128 = 0 ∧ frameAddr State.reset.m 0 3071 % 128 = 0
    ∧ (List.range 114).all (fun k => State.reset.m.homeClean 0 (frameAddr State.reset.m 0 0 + 128 * k)) = true
    ∧ (∀ z ∈ absent.extents, ∀ w ∈ z.pages, w.vpage = 1) ∧ (∀ z ∈ absent.extents, ∀ w ∈ z.pages, w.pr = false)
    ∧ (quiet (onCore (fun c => { c with st := .halted }) fun k => { k with lease := .held })).m.ctx 0 = { st := .halted }
    ∧ (after (exec (.taskEnd 0 0) (quiet (onCore (fun c => { c with st := .halted }) fun k => { k with lease := .held })))).map
        (fun m => ((m.task 0).st, (m.ctx 0).st)) = some (.halted, .free) := by decide +kernel

/-- A core without tasks whose split is the die's, and one to which the same split has been written again. -/
theorem wit_TasksPlacedAndEnded_split :
    ((quiet fun m => m.modDie 0 fun x => { x with splitNo := 1 }).m.core 0).l1
        = ((quiet fun m => m.modDie 0 fun x => { x with splitNo := 1 }).m.die 0).sramL1
    ∧ ((quiet fun m => m.modDie 0 fun x => { x with splitNo := 1 }).m.core 0).splitNo
        ≠ ((quiet fun m => m.modDie 0 fun x => { x with splitNo := 1 }).m.die 0).splitNo
    ∧ (after (exec (.splitAdopt 0 0) { quiet (fun m => m.modDie 0 fun x => { x with splitNo := 1 }) with })).map
        (fun m => (m.core 0).splitNo) = some 1 := by decide +kernel

/-- The first card of two, and a job whose destination lies in package 1's memory, sent and with a packet on its way. -/
def remote (tag : TxTag) : State :=
  quiet fun m =>
    let m := (m.modLaunch 4 fun z => { z with running := 1 }).modDie 0 fun y =>
      { y with ihBase := placeTables 0, ihCount := 1, pkgRoute := placeTables 0 + 4096, entries := [entryOf],
               copyQ := [{ jobOf 0 true [0] with dst := w64 (3 * 2 ^ 58) }] }
    placeLine (placeTables 0 + 4096) 0xFF (placeLine (placeTables 0)
      (2 ^ 63 + 2 ^ 61 * 2 + 2 ^ 60 + 2 ^ 59 + 2 ^ 64 + 2 ^ 112) (m.modLink 0 fun x => { x with win := [⟨1, true, { tag := tag }⟩] }))

theorem wit_Engines_order :
    (∀ x ∈ [jobOf 0 false [], { jobOf 0 false [] with no := 2 }, { jobOf 0 true [] with no := 0 }],
      x.entry ≠ none ∧ (x.no = (jobOf 0 false []).no → x = jobOf 0 false [])
        ∧ (x.admitted = false → (jobOf 0 false []).no ≤ x.no))
    ∧ (∀ p ∈ (remote (.job 0 1 8)).m.links, ∀ f ∈ p.2.win ++ p.2.txq, f.info.tag ≠ .job 0 1 7)
    ∧ ¬(∀ p ∈ (remote (.job 0 1 7)).m.links, ∀ f ∈ p.2.win ++ p.2.txq, f.info.tag ≠ .job 0 1 7)
    ∧ (∃ p ∈ (remote (.coll 0 5 1)).m.links, ∃ f ∈ p.2.win ++ p.2.txq, f.info.tag = .coll 0 5 1)
    ∧ ((remote .none).m.die 0).copyQ.all (fun j => refusable e0 0 j (remote .none).m) = true := by decide +kernel

/-- R357: the token waits for the packets, and for a line's acknowledgement, and completes without them. -/
theorem test_remote_token :
    (after (exec (.engineTokenComplete 0 .copy 0 false) (remote (.job 0 1 7)))).map (fun m => (m.die 0).copyQ.length) = some 1
    ∧ (after (exec (.engineTokenComplete 0 .copy 0 false) { remote (.job 0 1 8) with
        m := (remote (.job 0 1 8)).m.modDie 0 fun y => { y with copyQ := y.copyQ.map fun j => { j with peerLines := [0] } } })).map
        (fun m => (m.die 0).copyQ.length) = some 1
    ∧ (after (exec (.engineTokenComplete 0 .copy 0 false) (remote (.job 0 1 8)))).map (fun m => (m.die 0).copyQ.length)
        = some 0 := by decide +kernel

/-- Two packets of one sender to a die, the first of which waits for room; a third from another sender. -/
def senders : List CollMsg :=
  [{ src := 1, dst := 0, pkt := packet 2 16, waits := true }, { src := 1, dst := 0, pkt := packet 2 16 },
    { src := 2, dst := 0, pkt := packet 2 16 }]

theorem wit_Engines_turns :
    ((∀ i < 0, ∀ z, senders[i]? = some z → z.src ≠ 1 ∨ z.dst ≠ 0)
      ∧ ∀ i < 3, i ≠ 0 → ∀ z, senders[i]? = some z → z.waits = true → z.src ≠ 1)
    ∧ ¬(∀ i < 1, ∀ z, senders[i]? = some z → z.src ≠ 1 ∨ z.dst ≠ 0)
    ∧ (∀ i < 2, ∀ z, senders[i]? = some z → z.src ≠ 2 ∨ z.dst ≠ 0) := by
  refine ⟨⟨fun i h => absurd h (by omega), ?_⟩, fun h => ?_, ?_⟩
  · decide +kernel
  · exact (h 0 (by omega) _ rfl).elim (fun h => h rfl) fun h => h rfl
  · decide +kernel

/-- R368, R401: the packet behind one that waits does not arrive, and another sender's does. -/
theorem test_collective_order :
    (after (exec (.collPacketArrival (.queued 1)) (quiet fun m => { m with colls := senders }))).map (·.colls.length) = some 3
    ∧ (after (exec (.collPacketArrival (.queued 2)) (quiet fun m => { m with colls := senders }))).map (·.colls.length) = some 2 := by
  decide +kernel

/-- Offsets of lq.ntr at both ends, a queue that waits for the page that is woken, and a link that is down for good. -/
theorem wit_HostWindow_ends :
    (0x28 : BitVec 18).toNat = 64 * 0 + 0x28 ∧ (0xFFE8 : BitVec 18).toNat = 64 * 1023 + 0x28
    ∧ ((queued fun y => { y with page := some 0 }).m.lq 1023).page = some 0
    ∧ ((quiet fun m => m.setTask 3071 absent).m.task 3071).st = .waitPage ∧ (0xBFF : W64).toNat % 2 ^ 12 = 3071
    ∧ linkGone ⟨{ State.reset.boot with odies := 0 }, State.reset.clk⟩ 127 = true
    ∧ Env.live ⟨{ State.reset.boot with odies := 0 }, State.reset.clk⟩ (127 / 8) = true := by decide +kernel

/-- R8, R399: the device bit of a ring is kept, and so are the counts of a link that is down for good. -/
theorem test_window_bits :
    (after (exec (.hostRegisterWrite 0 0x10048 0x10F01) State.reset)).map (fun m => readWindow e0 0 0x10048 m) = some 0x10F01
    ∧ (after (exec (.lkStatRetrain 127 0x0005000700000000 0) { State.reset with boot := { State.reset.boot with odies := 0 } })).map
        (fun m => ((m.link 127).crc, (m.link 127).replay)) = some (5, 7) := by decide +kernel

/-- R17, R406: die 3's image is older than the counter, and its ring stop has failed its test. -/
theorem test_boot_images :
    (let b : BootResult := { BootResult.full with fresh := BitVec.allOnes 25 ^^^ 8, ring := 0xFFF7 }
     let s := State.afterBoot b 0
     (s.boot.active, s.boot.failed, s.m.ringFail, (s.m.die 0).sigfail)) = (0xFFF7, false, 0xC, true) := by decide +kernel

/-- A flit that is not the one expected, a NAK on its way, and a link that trains with the lanes it had. -/
theorem wit_LinksAndPeers_late :
    ((linked fun x => { x with far := 1 }).m.link 127).far ≠ ((linked fun x => { x with far := 1 }).m.link 127).rx
    ∧ ((linked fun x => { x with backs := [0] }).m.link 127).backs.length = 1
    ∧ ((linked fun x => { x with win := [flit 1, flit 2], old := 65535, nakNo := 7 }).m.link 127).nakNo ≠ (0 : BitVec 16).toNat
    ∧ ((linked fun x => { x with state := 1, may := some 0xFF }).m.link 127).may ≠ none
    ∧ (0xFFFF : BitVec 16) &&& 0xFFF0 ≠ 0xFFFF ∧ (0xFFF0 : BitVec 16) &&& 0xFFFF = 0xFFF0 := by decide +kernel

/-- R398: a training of all fibres leaves a link the lanes it had, and a lane map already obeyed is only acknowledged. -/
theorem test_lanes :
    (after (exec (.rhavorLinkTrained 127 15) (linked fun x => { x with state := 1, may := some 0xFF }))).map
        (fun m => ((m.link 127).lanes, (m.link 127).state)) = some (0xFF, 2)
    ∧ (after (exec (.rhavorLaneMap 127 0xFFFF) (linked fun x => { x with lanes := 0xFF }))).map
        (fun m => ((m.link 127).lanes, (m.link 127).replay, (m.link 127).ctl)) = some (0xFF, 0, [⟨1, 0⟩]) := by decide +kernel

/-! ### Links, waits and writes that act after their bundle -/

/-- R125: the delay bundle of a call. -/
theorem wit_BundleIssueRunsItsSlots_link :
    ((pickCur (coreKey 0 0) (nearIssue 0x805C03 fun c => { c with link := true, pend := some 64 }).m).ctx 0).link = true
    ∧ (match judged 0x805C03 (fun c => { c with link := true, pend := some 64 }) with | .go _ => true | _ => false) = true := by
  decide +kernel

/-- R33, R35: a data move that is not enabled, and a trigger that names the first literal beyond the pool. -/
theorem wit_SlotsThatDoNotAct_moves :
    (demo {} []).m.issue.preds.getLsbD (⟨false, 7⟩ : Guard).p.val = false
    ∧ after (exec (.dataMove ⟨false, 7⟩ (.g 8) (.g 9)) (demo {} [])) = some (demo {} []).m
    ∧ opCode (.ixAdd 0 ⟨⟨false, 0⟩, .lit 1⟩) = some (0, 0, ⟨⟨false, 0⟩, .lit 1⟩)
    ∧ (demo {} [] fun i => { i with lits := [9] }).acts (.ixAdd 0 ⟨⟨false, 0⟩, .lit 1⟩) = true := by decide +kernel

/-- R129, R130: a br.wait that an interrupt has woken delivers 1 though its tick has come, and br.uiret 1 outside a trap. -/
theorem wit_BranchUnitOthers_woken :
    (demo { has 0 with woken := true } []).m.issue.start.woken = true
    ∧ sent (exec (.brWait t8) (demo { has 0 with woken := true } [])) = [(12, 1, 1)]
    ∧ (demo { has 1 with csr := { priv := true } } []).m.cur.csr.priv = true
    ∧ stopOf (slotBrUiret t8) (demo { has 1 with csr := { priv := true } } []) = some (1, 1) := by decide +kernel

/-- R187: a byte stored, then 64 bytes loaded around it, and a byte loaded out of 64 stored while another store is on its
way. -/
theorem wit_ScratchpadStores_widths :
    (match exec (.lsStb 0 t8) (demo (runs (lAddr 0)) [(portCode 4 0, 0x1122)]) with
      | .next s => s.acts (.lsLdv 1 t8) && decide (s.m.cur.stq.length = 1)
      | _ => false) = true
    ∧ (match exec (.lsStv 0 t8) (demo { runs (lAddr 0) with stq := [storeTo (.spad 0 62) 0], nextStore := 1 }
          [(portCode 4 0, 0x1122)]) with
      | .next s => s.acts (.lsLdb 1 t8) && decide (s.m.cur.stq.length = 2)
      | _ => false) = true
    ∧ (0 ≤ 63 ∧ 63 + 1 ≤ 0 + 64) := by decide +kernel

/-- R131: what a bundle has asked of the CSRs, and the value that its other slots still read. -/
theorem wit_ControlRegisters_writes :
    (demo {} [] fun i => { i with newCsr := [⟨0x107, 0x1FA008000, false⟩] }).m.issue.newCsr = [⟨0x107, 0x1FA008000, false⟩]
    ∧ (demo { csr := { priv := true } } []).m.cur.csr.priv = true
    ∧ (applySettings (demo { csr := { priv := true } } [] fun i => { i with newCsr := [⟨0x107, 0x1FA00FFFF, false⟩] }).m).die 0
        = { State.reset.m.die 0 with frameBase := 0x1FA008000 }
    ∧ (applySettings (demo { csr := { priv := true } } [] fun i => { i with newCsr := [⟨0x7FF, 5, false⟩] }).m).hot.get 0 511 = 5
    ∧ (applySettings (demo {} [] fun i => { i with newCsr := [⟨0x030, 0, true⟩] }).m).cur.csr.waitTo = 16384
    ∧ (applySettings (demo {} [] fun i => { i with newCsr := [⟨0x020, 12, true⟩] }).m).cur.csr.sqlen = 12
    ∧ (applySettings (demo {} [] fun i => { i with newFmt := some 8, newMode := some 4, newSeed := some 7 }).m).cur.csr.rmode = 4
    ∧ readCsr e0 (demo { csr := { sqlen := 12 } } [] fun i => { i with oldCsr := some {} }).m 0x020 = some 6 := by decide +kernel

/-- R237, R256: a promotion of a row that ran counts it in its value. -/
theorem test_promotion_value :
    (after (exec (.arrayPromotion 0 0) (quiet (working 12 .queued fun y => { y with steps := [(0, 16)], ovf := 1 })))).map
        (fun m => ((m.task 0).toks.map (·.done), (m.arr 0).ovf)) = some ([some 0x201], 0) := by decide +kernel

/-- R293: a record's address that is no multiple of 64. -/
theorem wit_TileOperationsIssued_align :
    (lAddr 1).toNat % 64 ≠ 0 ∧ (unit3 11 true (lAddr 1) 0 0 0 (routed id)).acts (.ntDefn t8) = true
    ∧ stopOf (slotNtDefn t8) (unit3 11 true (lAddr 1) 0 0 0 (routed id)) = some (7, (lAddr 1).toNat) := by decide +kernel

/-- What a router has sent once an interest of 1 in row 1, with an end and hops, has come on face 1 of ring stop 0. -/
def interested (f : Router → Router) (end_ : BitVec 48) (hops : Nat) : Option Mach :=
  after (execNtInterestArrival (.queued 0) (nets 0 f [⟨0, 1, .interest (nameOf 0 1 1) end_ hops⟩]))

/-- R281, R282: a copy of the name, and an interest that has made 32 hops. -/
theorem wit_TileMessages_served :
    (decodeCopy 0 0 0).sev = 0
    ∧ (interested (fun y => { y with copies := [copyOf false] }) 100 0).map (·.msgs)
      = some [⟨1, 2, .tile (nameOf 0 1 1) [(0, false, false)] 0 1⟩]
    ∧ (interested id 100 32).map (·.msgs) = some [⟨1, 2, .answer (nameOf 0 1 1) 0x8000000000000206⟩] := by decide +kernel

/-- R281: a later interest of the same face refreshes the entry upstream, one of another face joins it. -/
theorem wit_TileMessages_merged :
    (interested (fun y => { y with transits := [waitsOn 1 3] }) 101 0).map (·.msgs)
      = some [⟨16, 0, .interest (nameOf 0 1 1) 101 1⟩]
    ∧ (interested (fun y => { y with transits := [waitsOn 2 3] }) 100 0).map (·.msgs) = some []
    ∧ ((interested (fun y => { y with transits := [waitsOn 2 3] }) 100 0).map fun m => (m.router 0).transits.map (·.recs))
      = some [[(2, 100), (1, 100)]] := by decide +kernel

theorem wit_QueuesAndRecords_room :
    (unit3 12 false (lAddr 256) 1023 0 0 device).m.l2Room (0x400000 / 128) = true
    ∧ (unit3 12 false (lAddr 256) 1023 0 0 device).m.l2Room (0x400000 / 128 + 1) = true := by decide +kernel

/-- A core whose task 5 was pre-empted while it waited for a token, with a deadline. -/
def awaySince (v : Option W64) (deadline : BitVec 48) : State :=
  let c : Ctx := { frame := 5, st := .blocked (blockOf (.token (w64 (2 ^ 52 + 5 * 2 ^ 32 + 7)))), deadline := some deadline }
  quiet fun m => m.setTask 5 { st := .suspended, toks := [⟨1, 7, 1, v, none⟩], saved := c }

/-- R334: a pre-empted task whose wait has not come about times out once the tick of its deadline has passed. -/
theorem wit_ResultsAndWaits_away :
    ([(none, 0xFFFFFFFFFFFF#48), (none, 0), (some 1, 0xFFFFFFFFFFFF#48)].map fun v : Option W64 × BitVec 48 =>
      (after (exec (.waitTimeout 0 0 0) (awaySince v.1 v.2))).map fun m => (m.task 5).saved.timedOut.isSome)
      = [some true, some false, some false]
    ∧ ((awaySince none 0).m.task 5).token 0 5 (w64 (2 ^ 52 + 5 * 2 ^ 32 + 7)) = some ⟨1, 7, 1, none, none⟩ := by
  decide +kernel

/-- A bundle with gs.tokw whose context is as f makes it, and whose token is complete or not. -/
def tokenWait (v : Option W64) (f : Ctx → Ctx) : State :=
  let s : State := nearIssue 0x87A408 fun c => f { c with g := [(8, w64 (2 ^ 52 + 7))] }
  { s with m := s.m.setTask 0 { st := .running 0, toks := [⟨1, 7, 1, v, none⟩] } }

/-- How its bundle comes out: whether its context is ready, its cause and its deadline. -/
def waited (s : State) : Option (Bool × Nat × Option Nat) :=
  (after (exec (.bundleIssue 0 0) s)).map fun m =>
    ((m.ctx 0).st == .ready, (m.ctx 0).csr.tcause.toNat, (m.ctx 0).deadline.map (·.toNat))

/-- R106, R334: a wait blocks, with a deadline or with the one that it had. -/
theorem wit_ResultsAndWaits_blocks :
    (waited (tokenWait none id) == some (false, 0, some 16384)) = true
    ∧ (waited (tokenWait none fun c => { c with deadline := some 5 }) == some (false, 0, some 5)) = true := by decide +kernel

/-- How the slots of a state's next bundle come out, up to what follows for the context: the wait that blocks, if one
does, whether the context's time is over, and whether it is in a trap. -/
def slotsOut (s : State) : Option (Option Bool × Bool × Bool) :=
  match judgeIssue ⟨s.boot, s.clk⟩ 0 (pickCur (coreKey 0 0) s.m) with
  | (.go b, n) =>
    let n1 := b.slots.zipIdx.foldl (fun m p => actSlot ⟨s.boot, s.clk⟩ p m)
      (movePorts ⟨s.boot, s.clk⟩ ((beginIssue ⟨s.boot, s.clk⟩ 0 b n).modCtx 0 Ctx.unblock))
    some (match n1.issue.out with | .blocked bl => some bl.bounded | _ => none,
      pastDeadline ⟨s.boot, s.clk⟩ (n.ctx 0).deadline || (n.ctx 0).timedOut.isSome, (n1.ctx 0).csr.intrap)
  | _ => none

/-- R334: past its deadline a wait blocks again, and one that had not come about in time is expired though it has since; a
wait of another slot is not. -/
theorem wit_ResultsAndWaits_past :
    slotsOut (tokenWait none fun c => { c with deadline := some 0xFFFFFFFFFFFF#48 }) = some (some true, true, false)
    ∧ slotsOut (tokenWait (some 1) fun c =>
        { c with deadline := some 0xFFFFFFFFFFFF#48, timedOut := some { blockOf .lease with slot := 7 } })
      = some (none, true, false)
    ∧ (demo { timedOut := some (blockOf .lease) } []).m.issue.expired 3 = some (blockOf .lease)
    ∧ (demo { timedOut := some (blockOf .lease) } []).m.issue.expired 4 = none := by decide +kernel

/-- R217: a set of 16 lines, the last of which a fetch pins. -/
def fullSet : State :=
  quiet fun m => { m with l2 := (List.range 16).map fun i => ((2 ^ 24 + 2 ^ 32) * i, l2Of 1 (if i = 15 then 1 else 0)) }

theorem wit_StoresAtTheirHomes_full :
    fullSet.m.l2.rising = true ∧ fullSet.m.l2.find (2 ^ 28 + 2 ^ 36) = none ∧ (l2Ways fullSet.m (2 ^ 28 + 2 ^ 36)).length = 16
    ∧ ((l2Ways fullSet.m (2 ^ 28 + 2 ^ 36)).any fun p => p.2.pins == 0) = true
    ∧ ((l2Ways fullSet.m (2 ^ 28 + 2 ^ 36)).all fun p => (decodeCopy p.2.legend p.2.data.toNat p.2.chk.toNat).sev == 0) = true
    ∧ (decodeCopy 0 (memData fullSet.m (2 ^ 28 + 2 ^ 36)) (memCheck fullSet.m (2 ^ 28 + 2 ^ 36))).sev = 0 := by decide +kernel

/-- R127: a halted task whose read of its array has not returned, and one whose clear is still queued. -/
theorem wit_TasksPlacedAndEnded_reads :
    readsOut (quiet (working 15 .queued id)).m 0 = true ∧ readsOut (quiet (working 11 .queued id)).m 0 = false
    ∧ ((quiet (working 15 .queued id)).m.arr (groupArr 0)).holder = some 0
    ∧ cmdOf 15 .queued ∈ ((quiet (working 15 .queued id)).m.arr (groupArr 0)).queue := by decide +kernel

/-- R361, R366: a packet of another member list, and an operation that hears no more of a dropped packet. -/
theorem wit_Engines_dropped :
    (∀ x : W64, x + 1 ≠ x) ∧ ((collective .opened).m.grp 5).st = .opened ∧ (packet 1 16).gen = ((collective .opened).m.grp 5).gen
    ∧ (({ (collective .closing).m.grp 5 with dropped := [(1, w64 (6 * 2 ^ 24)), (1, w64 (5 * 2 ^ 24))] } : Grp).heard 1) = true
    ∧ (({ (collective .closing).m.grp 5 with dropped := [(1, w64 (6 * 2 ^ 24))] } : Grp).heard 1) = false
    ∧ ({ jobOf 0 true [0] with peerLines := [0] } : Job).peerLines ≠ [] := by
  refine ⟨fun x h => ?_, ?_⟩
  · simp at h
  · decide +kernel

/-- R366: such an operation does not hold its identifier, and one that may still hear does. -/
theorem test_dropped :
    ([[(1, w64 (6 * 2 ^ 24)), (1, w64 (5 * 2 ^ 24))], [(1, w64 (6 * 2 ^ 24))]].map fun l =>
      let s := collective .closing
      let m := (s.m.modGrp 5 fun x => { x with dropped := l }).modDie 0 fun y =>
        { y with collQ := y.collQ.map fun j => { j with started := true } }
      (after (exec (.collIdFree 0 5) { s with m := m })).map fun m => (m.grp 5).st)
      = [some .free, some .closing] := by decide +kernel

/-- A lane change whose record waits for two flits that are sent again, a training, and a link of which no fibre is lit. -/
def changing : LaneChange := ⟨0xFFFF, 0xFFF0, 1, 0, 5⟩

theorem wit_LinksAndPeers_change :
    ((linked fun x => { x with win := [flit 1, flit 2], old := 65535, sent := 1, change := some changing }).m.link 127).change
      = some changing
    ∧ (changing.upto + 65536 - (0 : BitVec 16).toNat) % 65536 = 1 ∧ (changing.upto + 65536 - (1 : BitVec 16).toNat) % 65536 = 0
    ∧ ((linked fun x => { x with hold := true }).m.link 127).hold = true
    ∧ ((linked fun x => { x with sent := 2 }).m.link 127).sent = 2 ∧ ((linked id).m.link 127).change = none
    ∧ ((linked fun x => { x with lit := 0 }).m.link 127).lit = 0 ∧ ((linked id).m.link 127).state ≠ 1 := by decide +kernel

/-- R398, R423: the record of a lane change comes when the flits sent again have left, with their number. -/
theorem test_lane_change :
    (after (exec (.rhavorLaneMap 127 0xFFF0) (linked fun x => { x with win := [flit 1, flit 2], sent := 2 }))).map
        (fun m => ((m.link 127).change, (m.link 127).sent)) = some (some ⟨0xFFFF, 0xFFF0, 2, 0, 0⟩, 0)
    ∧ (({ win := [flit 1, flit 2], state := 2, lanes := 1, sent := 1, change := some ⟨0xFFFF, 1, 2, 1, 0⟩ } : Link).pump 5).change
        = some ⟨0xFFFF, 1, 2, 2, 0⟩ := by decide +kernel

/-- A tile that comes back from face 3 for the local entry of its name, which waits in an entry and asks for byte 256 of the
scratchpad of core 3. -/
def arriving : State :=
  nets 0 (fun y => { y with
      transits := [waitsOn 0 3], locals := [{ localOf with dst := w64 (2 * 2 ^ 58 + 3 * 2 ^ 22 + 256) }] })
    [⟨0, 3, .tile (nameOf 0 1 1) [(5, false, false), (7, false, true)] 2 0⟩]

theorem wit_TileMessages_claimed :
    ((arriving.m.router 0).binding ((nameOf 0 1 1).toNat / 2 ^ 44)) = some bound
    ∧ bound.live ((nameOf 0 1 1).toNat / 2 ^ 32 % 2 ^ 12) = true ∧ (arriving.m.router 0).transits = [waitsOn 0 3]
    ∧ (waitsOn 0 3).recs = [(0, 100)] ∧ reached arriving.clk.tick 100 = false ∧ reached arriving.clk.tick localOf.e = false
    ∧ bound.cons = false ∧ arriving.m.NamesSpad 0 (w64 (2 * 2 ^ 58 + 3 * 2 ^ 22 + 256)) (128 * 2) 3 256 := by
  unfold Mach.NamesSpad
  decide +kernel

theorem wit_TileMessages_terminal :
    faceFor ⟨State.reset.boot, State.reset.clk⟩ (nets 16 id []).m 16 (nameOf 0 1 1) = none ∧ leads 16 1 = .router 1 3
    ∧ ((nets 16 id []).m.router 16).never (nameOf 0 1 1) = none
    ∧ faceFor ⟨State.reset.boot, State.reset.clk⟩ (nets 0 (fun y => { y with
        routes := [(0, { lo := 0, hi := 99, rowEn := false, rlo := 0, rhi := 0, face := 0 })] }) []).m 0 (nameOf 0 1 1)
        = some 0 := by decide +kernel

/-- R282, R289: the tile's lines are written, and the interest is gone from both of its entries. -/
theorem test_tile_claimed :
    (after (exec (.ntTileArrival (.queued 0)) arriving)).map (fun m =>
        ([255, 256, 257, 384, 385].map fun a => m.spad.read (3 * 2 ^ 22 + a), (m.router 0).locals.length,
          (m.router 0).transits.length, m.msgs.length))
      = some ([0, 5, 0, 7, 0], 0, 0, 0)
    ∧ (after (exec (.ntInterestArrival (.queued 0)) (nets 16 id [⟨16, 1, .interest (nameOf 0 1 1) 100 0⟩]))).map (·.msgs)
      = some [⟨1, 3, .answer (nameOf 0 1 1) 0x8000000000000106⟩] := by decide +kernel

/-- R363 to R365: two members add two FP32 numbers into the scratchpad of core 0; member 1's packet is the last to come. -/
def reducing (n0 n1 : Nat) : State :=
  let mem := [w64 (5 * 2 ^ 24), w64 (6 * 2 ^ 24)]
  let pkt (r n : Nat) (v : Nat) : CollPacket :=
    { g := 5, gen := 1, digest := Config.memberDigest mem, seq := 1, shape := [2, n, 0, 0, 0], rank := r,
      member := mem.getD r 0, bytes := bytesOf v 8, high := [] }
  quiet fun m => { (m.modGrp 5 fun g => { g with st := .opened, gen := 1, members := mem, pkts := [pkt 0 n0 0x400000003F800000] }).modDie 0
      fun y => { y with collQ := [{ jobOf 2 true [] with n := 8, started := true, dst := w64 (2 * 2 ^ 58 + 64) }] } with
    colls := [{ src := 1, dst := 0, pkt := pkt 1 n1 0x404000003F800000 }] }

theorem wit_Engines_result :
    ((reducing 8 8).m.grp 5).st = .opened ∧ ((reducing 8 8).m.die 0).collQ.length = 1
    ∧ (reducing 8 8).m.NamesSpad 0 (w64 (2 * 2 ^ 58 + 64)) 8 0 64
    ∧ (∀ a < 8, (reducing 8 8).m.spadClean 0 (64 + a) = true) ∧ 8 % 4 = 0
    ∧ ((reducing 8 8).m.grp 5).members.length = 2 ∧ (reducing 8 8).m.colls.map (·.pkt.shape) = [[2, 8, 0, 0, 0]] := by
  unfold Mach.NamesSpad
  refine ⟨?_, ?_, ?_, ?_, ?_, ?_, ?_⟩ <;> decide +kernel

/-- An extent that covers one page of memory, and a copy of 100 bytes from its byte 6 to byte 1,030 of core 0's scratchpad. -/
def partCopy : Job :=
  { jobOf 0 true [] with
      n := 100, src := w64 (4096 + 6), dst := w64 (2 * 2 ^ 58 + 1030)
      extents := [⟨4096, 2 ^ 20, 3, 0, 9, [⟨0, 3 * 2 ^ 21, true, true, true, 0, true⟩]⟩] }

theorem wit_Engines_copied :
    (match checkAcc ⟨State.reset.boot, State.reset.clk⟩ (jobWho (copying partCopy).m 0 partCopy) .write 1 1
        (addA partCopy.dst 0) (copying partCopy).m with
      | (.ok acc, m1) =>
        (match checkAcc ⟨State.reset.boot, State.reset.clk⟩ (jobWho m1 0 partCopy) .read 1 1 (addA partCopy.src 0) m1 with
          | (.ok src, m2) => m2.lineClean src 100 && m2.lineClean acc 100 && m2.l2.isEmpty
              && decide (src.loc = .phys (3 * 2 ^ 21 + 4096 + 6))
          | _ => false)
      | _ => false) = true
    ∧ partCopy.src.toNat % 128 = 6 ∧ (6 + 0) / 128 = (6 + 100 - 1) / 128 := by decide +kernel

/-- A collective job whose result stands. -/
def collected : State :=
  quiet fun m => (m.modLaunch 4 fun z => { z with live := true, running := 1 }).modDie 0 fun y =>
    { y with collQ := [{ jobOf 2 true [] with started := true, written := true, high := 2, low := 3, disagree := true }],
             entries := [entryOf] }

theorem test_collected :
    (after (exec (.engineTokenComplete 0 .coll 0 false)
      { collected with m := collected.m.setTask 0 { st := .suspended, toks := [⟨1, 7, 1, none, none⟩] } })).map
        (fun m => ((m.task 0).toks.map (·.done), (m.die 0).collQ.length, (m.die 0).entries.length))
      = some ([some (w64 (2 + 3 * 2 ^ 16 + 2 ^ 61))], 0, 0) := by decide +kernel

/-- R403, R225: the sector that is written back stands in the L2 as well, for a task that runs. -/
def charging : State :=
  quiet fun m => { (m.modCore 0 fun c => { c with sectors := [(16, sectorOf true)] }).setTask 0 { st := .suspended } with
    l2 := [(2, l2Of 0 0)] }

theorem wit_StoresAtTheirHomes_charge :
    Env.live ⟨charging.boot, charging.clk⟩ 0 = true ∧ charging.m.hubFail.getLsbD 0 = false
    ∧ (charging.m.l2.find 2).isSome = true ∧ (charging.m.task (0 * 3072 + (sectorOf true).frame)).st ≠ .free := by decide +kernel

theorem test_write_back_charge :
    (after (exec (.l1SectorWriteback 0 0 16) charging)).map (fun m => (m.hot.get 0 0, (m.task 0).energy))
      = some (16, 192000) := by decide +kernel

/-- R371 to R376: RAW words, elements of 32 bits and of 4, each with a flipped bit, and a poisoned line. -/
theorem wit_StoresAtTheirHomes_legends :
    (let c := checkBits 0 5
     let x := decodeCopy 0 (5 ^^^ 2 ^ 70) c
     let y := decodeCopy 0 (5 ^^^ 2 ^ 70 ^^^ 2 ^ 127) c
     x.sev = 1 ∧ x.data = 5 ∧ x.newChk = c ∧ y.sev = 3 ∧ y.known = false)
    ∧ (decodeCopy 1 (5 ^^^ 2 ^ (32 * 3 + 20)) (checkBits 1 5)).sev = 2
    ∧ (decodeCopy 1 (5 ^^^ 2 ^ (32 * 3 + 2)) (checkBits 1 5)).sev = 0
    ∧ (decodeCopy 6 5 (checkBits 6 5 ^^^ 2 ^ (11 * 8 + 1))).sev = 2 ∧ (decodeCopy 6 0 (2 ^ 128 - 1)).sev = 3 := by
  decide +kernel

/-- R372: bit 31 of an element of 32 bits, of nine bits in the high plane, and the last bit of a code of nine groups. -/
theorem wit_CheckedComparisonsAndInjection_high :
    (1, 32, 9, 9) ∈ [(1, 32, 9, 9), (2, 16, 9, 9)] ∧ 31 < 1024 / 32 ∧ 32 - 9 ≤ 31 ∧ 31 < 32 ∧ 98 < 11 * 9 ∧ 5 < 2 ^ 1024 := by
  decide +kernel

/-- R93: two tasks of launch 4, one of die 1, and a free one, whose energy of the tick is charged. -/
def burning : State :=
  quiet (fun m => { m with tasks := [(0, { st := .suspended, launch := 4, energy := 100 }), (1, { energy := 7 }),
    (3073, { st := .suspended, launch := 4, energy := 20 })] }) 1024

theorem wit_TickAndBoot_charge :
    burning.m.tasks.rising = true ∧ burning.clk.tick ≠ burning.clk.ticks
    ∧ (after (exec .tickIncrement burning)).map (fun m =>
        ((m.launch 4).charge, (m.die 0).telCharge, (m.die 1).telCharge, (m.task 0).energy, (m.task 1).energy))
      = some (120, 100, 20, 0, 7) := by decide +kernel

/-- R410: the bundle of ix0.mul on a die that traces in mode 2, into a ring of the task's own memory. -/
def tracing (ctl : Nat) : State :=
  let s := placed 0x805C03
  { s with m := ((tabled s.m).modDie 0 fun y => { y with trcCtl := ctl, trc := { y.trc with en := true, base := 2 ^ 20 } }) }

theorem wit_BundleIssueRunsItsSlots_trace :
    ((tracing 2).m.die 0).trc.en = true ∧ ((tracing 2).m.die 0).trc.full = false ∧ ((tracing 2).m.die 0).trcStop = false
    ∧ (ringWriteWith event ⟨(tracing 2).boot, (tracing 2).clk⟩ 0 ((tracing 2).m.die 0).trc (bytesOf 0 16) (tracing 2).m).1 = true
    ∧ (after (step (tracing 2))).map (fun m => (m.die 0).trc.tail) = some 1
    ∧ (after (step (tracing 0))).map (fun m => (m.die 0).trc.tail) = some 0 := by
  decide +kernel

/-- R225: the late load of ls0 waits on the data of buffer 9. -/
theorem wit_ResultsAndWaits_stall :
    (let s := nearIssue 0x8000C4 fun c => { c with res := [⟨4, 0, 0, .data, [9]⟩], lateSince := some 0 }
     (match judgeIssue ⟨s.boot, s.clk⟩ 0 (pickCur (coreKey 0 0) s.m) with
      | (.waits late, n) => late == [4] && (n.ctx 0).res.any fun y => decide (y.latch ∈ late ∧ y.due ≤ s.clk.cycle) && y.buf.contains 9
      | _ => false) = true
     ∧ (after (exec (.bundleIssue 0 0) s)).map (fun m => m.hot.get 0 (256 + 9)) = some 1) := by decide +kernel

/-- R218: a context with an own store on its way elsewhere, and nothing of the line in its core's L1. -/
theorem wit_Atomics_pending :
    (storeTo (.phys 0x100) 0).overlaps (.phys 0x400080) 8 = false
    ∧ (∀ k < 8, (State.reset.m.core 0).sectors.find (0x400080 / 128 * 8 + k) = none) ∧ (0 : W64).toNat / 4 % 2 = 0 := by
  decide +kernel

/-- A record of one footprint of 64 bytes from base. -/
def footed (base : Nat) : State := recorded (0x10800 + (base + 64 * 2 ^ 48 + 0x40 * 2 ^ 144) * 2 ^ (8 * 0x58))

/-- R85: the footprint names a page that is not mapped: the record is in order and its first iteration is not. -/
theorem wit_LaunchesAndSlots_translation :
    (match readHead ⟨(footed (2 ^ 30)).boot, (footed (2 ^ 30)).clk⟩ 0 1023 (footed (2 ^ 30)).m with
      | (.bytes w, m1) => decide (recordCause m1 0 w = none) && decide (0 < (launchOf 0 1023 w {}).total)
          && (match (translateNext ⟨(footed (2 ^ 30)).boot, (footed (2 ^ 30)).clk⟩ 0 (launchOf 0 1023 w {}) m1).1 with
            | .inl 7 => true
            | _ => false)
      | _ => false) = true := by decide +kernel

theorem test_footprint :
    ([0, 2 ^ 30].map fun b => (after (exec (.launchRecordAdmit 0 1023) (footed b))).map fun m =>
        ((m.lq 1023).halted, (m.lq 1023).cause, m.nextLaunch, m.launches.length))
      = [some (false, 0, 1, 1), some (true, 7, 0, 0)] := by decide +kernel

/-- R418: the same tile for a page of memory whose extent entry names buffer 6, the binding buffer 0. -/
theorem test_delivery_counts :
    (after (exec (.ntTileArrival (.queued 0)) (nets 0 (fun y => { y with
        transits := [waitsOn 0 3]
        locals := [{ localOf with dst := 4096, extents := [⟨4096, 4096, 3, 0, 6, [⟨0, 3 * 2 ^ 21, true, true, true, 0, true⟩]⟩] }] })
      [⟨0, 3, .tile (nameOf 0 1 1) [(5, false, false), (7, false, true)] 2 0⟩]))).map
        (fun m => (m.hot.get 0 bound.buf, m.hot.get 0 6)) = some (256, 256) := by decide +kernel

end Sys2Proof.Tests
end

section
/-! PROOFS. What module reset leaves. -/

namespace Sys2Proof

/-- A value listed under each key below n. -/
theorem SMap.get_map_range {α : Type} (d : α) (f : Nat → α) (n k : Nat) :
    SMap.get d ((List.range n).map fun i => (i, f i)) k = if k < n then f k else d := by
  induction n with
  | zero => rfl
  | succ n ih =>
    rw [List.range_succ, List.map_append]
    by_cases hk : k = n
    · subst hk
      rw [Memory.get_append d _ _ k (by simp; omega)]
      simp [SMap.get]
    · rw [Memory.get_append_of_get d _ _ k (by simp; omega), ih]
      exact if_congr (by omega) rfl rfl

end Sys2Proof

namespace Sys2Proof.Machine

theorem afterBoot_die {d : Nat} (b : BootResult) (seed : Nat) (hd : d < 16) :
    (State.afterBoot b seed).m.die d = Die.reset d b := by
  show SMap.get {} ((List.range 16).map fun d => (d, Die.reset d b)) d = _
  rw [SMap.get_map_range, if_pos hd]

theorem afterBoot_ctx (b : BootResult) (seed k : Nat) : (State.afterBoot b seed).m.ctx k = {} := rfl

theorem rebooted_die {d : Nat} (b : BootResult) (m : Mach) (hd : d < 16) : (rebooted b m).m.die d = Die.reset d b :=
  afterBoot_die b m.seed hd

/-- Settles O8: the fields of the state after reset, the dies and contexts by what a boot leaves in each. -/
theorem resetState : Obligations.ResetState := by
  refine ⟨rfl, rfl, Or.inl rfl, ⟨rfl, rfl, rfl, rfl⟩, by decide, by decide, fun d => ?_, fun k c hc => ?_⟩
  · rw [State.reset, afterBoot_die _ _ d.isLt]
    exact ⟨rfl, rfl, rfl⟩
  · rw [State.reset, afterBoot_ctx] at hc
    subst hc
    have preds (n : Nat) : Ctx.readP {} n = decide (n = 0) := by
      cases n with
      | zero => rfl
      | succ n =>
        show (1#8).getLsbD (n + 1) = _
        simp [BitVec.getLsbD_one]
    refine ⟨rfl, rfl, rfl, fun n => ?_, fun _ => rfl, preds, ?_⟩
    · simp [Ctx.readG]
    · simp [Ctx.latch, Csrs.vfmt, Csrs.rmode, Csrs.tstat, w64, b2n]

/-! ### The boot of R17 to R20, bit by bit -/

theorem bootImages_getLsbD (b : BootResult) (i : Nat) :
    (bootImages b).getLsbD i = (b.ecdsa.getLsbD i && b.lms.getLsbD i && b.fresh.getLsbD i) := by
  simp [bootImages]

theorem boot_active_getLsbD (b : BootResult) {d : Nat} (hd : d < 16) :
    (Boot.of b).active.getLsbD d
      = (b.cpass.getLsbD d && b.ecdsa.getLsbD d && b.lms.getLsbD d && b.fresh.getLsbD d) := by
  simp [Boot.of, bootImages_getLsbD, hd, Bool.and_assoc]

theorem boot_odies_getLsbD (b : BootResult) {o : Nat} (ho : o < 8) :
    (Boot.of b).odies.getLsbD o
      = (b.opass.getLsbD o && b.ecdsa.getLsbD (16 + o) && b.lms.getLsbD (16 + o) && b.fresh.getLsbD (16 + o)) := by
  simp [Boot.of, bootImages_getLsbD, ho, Bool.and_assoc]

theorem boot_failed (b : BootResult) :
    (Boot.of b).failed = !(b.hpass && b.ecdsa.getLsbD 24 && b.lms.getLsbD 24 && b.fresh.getLsbD 24
      && ((Boot.of b).active.getLsbD 0 || (Boot.of b).active.getLsbD 8)) := by
  show (!(b.hpass && (bootImages b).getLsbD 24 && _)) = _
  rw [bootImages_getLsbD, ← Bool.and_assoc, ← Bool.and_assoc]
  rfl

/-- R17: a ring link is marked where either of its stops is out. -/
theorem boot_ringFail_getLsbD (x : Boot) {n : Nat} (hn : n < 16) :
    x.ringFail.getLsbD n = (!(x.active.getLsbD n || x.ringPass.getLsbD n)
      || !(x.active.getLsbD ((n + 1) % 16) || x.ringPass.getLsbD ((n + 1) % 16))) := by
  have next : (n + 1) % 16 = if n < 15 then 1 + n else n - 15 := by split <;> omega
  by_cases h : n < 15
  · simp [Boot.ringFail, next, h, hn, show 1 + n < 16 by omega]
  · obtain rfl : n = 15 := by omega
    simp [Boot.ringFail]

/-- Package memory reads as zero after a reset, and host memory keeps its bytes (log entries 3 and 36). -/
theorem rebooted_mem_read (b : BootResult) (m : Mach) (a : Nat) :
    (rebooted b m).m.mem.read a = if 2 ^ 44 ≤ a then m.mem.read a else 0 := by
  show SMap.get 0 (m.mem.filter fun p => decide (2 ^ 44 ≤ p.1)) a = _
  split
  · exact Memory.get_filter 0 m.mem (fun k => decide (2 ^ 44 ≤ k)) a (by simpa)
  · refine SMap.get_of_lt 0 a fun p hp => ?_
    have := of_decide_eq_true (List.mem_filter.1 hp).2
    omega

end Sys2Proof.Machine
end

section
/-! PROOFS. Module reset, the security alarm, telemetry records and droop samples. -/

namespace Sys2Proof.Machine

/-! ### Records of a die whose event ring is off (R393) -/

theorem Mach.modDie_modDie (m : Mach) (d : Nat) (f g : Die → Die) :
    (m.modDie d f).modDie d g = m.modDie d fun x => g (f x) := by
  simp only [Mach.modDie, Mach.setDie, Mach.die, SMap.get_put_same, SMap.put_put_same]

/-- A die that numbers a record and places it in its event store (R393). -/
def Die.records (e : Env) (type body : Nat) (x : Die) : Die :=
  { x with evCount := x.evCount + 1
           evStore := (⟨type, w512 (type + body + e.clk.tick.toNat * 2 ^ 128)⟩ :: x.evStore).take 256 }

theorem event_of_ring_off {m : Mach} {d : Nat} (e : Env) (type body : Nat) (h : (m.die d).ev.en = false) :
    event e d type body m = m.modDie d (Die.records e type body) := by
  have off : ((storeEvent e d type body m).2.die d).ev.en = false := by simp [storeEvent, h]
  have note : noteEvent e d type body m = (storeEvent e d type body m).2 := by
    show (if ((storeEvent e d type body m).2.die d).ev.en then _ else _) = _
    rw [off]
    rfl
  show (if ((noteEvent e d type body m).die d).ev.en then _ else _) = _
  rw [note, off]
  rfl

/-! ### The security alarm (R407) -/

/-- A die that an alarm has marked (R407). -/
def Die.marked (a : Alarm) (x : Die) : Die :=
  match a with
  | .tamper => { x with tamper := true }
  | .glitch => { x with glitch := true }

theorem Die.marked_ev (a : Alarm) (x : Die) : (x.marked a).ev = x.ev := by cases a <;> rfl

/-- A die that an alarm has marked and that has recorded it (R407). -/
def Die.alarmed (e : Env) (a : Alarm) (x : Die) : Die := Die.records e 0x30 (alarmBit a * 2 ^ 8) (x.marked a)

theorem alarmOn_of_ring_off {m : Mach} {d : Nat} (e : Env) (a : Alarm) (h : (m.die d).ev.en = false) :
    alarmOn e a d m = m.modDie d (Die.alarmed e a) := by
  show event e d 0x30 (alarmBit a * 2 ^ 8) (m.modDie d (Die.marked a)) = _
  rw [event_of_ring_off _ _ _ (by rw [Mach.die_modDie_same, Die.marked_ev, h]), Mach.modDie_modDie]
  rfl

/-- An alarm changes the dies that it reaches, and nothing else, while their event rings are off. -/
theorem alarmOn_foldl (e : Env) (a : Alarm) {l : List Nat} (hl : l.Nodup) {m n : Mach}
    (h : ∀ d ∈ l, (m.die d).ev.en = false) (hn : l.foldl (fun m d => alarmOn e a d m) m = n) :
    n.ctxs = m.ctxs ∧ n.mem = m.mem ∧ ∀ k, n.die k = if k ∈ l then (m.die k).alarmed e a else m.die k := by
  induction l generalizing m with
  | nil =>
    subst hn
    exact ⟨rfl, rfl, fun k => rfl⟩
  | cons d l ih =>
    obtain ⟨hd, hl⟩ := List.nodup_cons.1 hl
    rw [List.foldl_cons, alarmOn_of_ring_off e a (h d List.mem_cons_self)] at hn
    have others (k : Nat) (hk : k ≠ d) : (m.modDie d (Die.alarmed e a)).die k = m.die k :=
      Mach.die_modDie_of_ne _ _ _ _ hk
    obtain ⟨hc, hm, hdie⟩ := ih hl (fun k hk => by
      rw [others k (fun c => hd (c ▸ hk)), h k (List.mem_cons_of_mem _ hk)]) hn
    refine ⟨hc, hm, fun k => ?_⟩
    rw [hdie]
    by_cases hk : k = d
    · subst hk
      simp [hd]
    · simp [others k hk, hk]

/-! ### Droop samples (R411) -/

/-- A droop's sample of core i of a domain, in the set of number s (R411). -/
def droopStep (d dom s : Nat) (m : Mach) (i : Nat) : Mach :=
  let (w, m) := droopSampleOf d (48 * dom + i) m
  m.modDie d fun y => { y with window := y.window.put (0x30000 + 0x200 * (s % 64) + 8 * i) w }

theorem droopSampleOf_machine (d r : Nat) (m : Mach) :
    (droopSampleOf d r m).2 = { m with seed := (droopSampleOf d r m).2.seed } := by
  unfold droopSampleOf
  split <;> rfl

theorem droopSampleOf_issuing {d r c : Nat} {m : Mach} (h : (m.core (coreKey d r)).cur = some c) :
    (droopSampleOf d r m).1 = Config.droopSample (m.ctx (ctxKey d r c)).pc c := by
  simp only [droopSampleOf, h]

/-- The samples of the first n cores of a domain: they change the die's window alone, and the sample of a core that issues
names its bundle and context. -/
theorem droopStep_foldl (d dom s n : Nat) {m t : Mach} (ht : (List.range n).foldl (droopStep d dom s) m = t) :
    t.ctxs = m.ctxs ∧ t.mem = m.mem ∧ t.cores = m.cores ∧ t.die d = { m.die d with window := (t.die d).window }
      ∧ ∀ i < n, ∀ c, (m.core (coreKey d (48 * dom + i))).cur = some c →
          (t.die d).window.get 0 (0x30000 + 0x200 * (s % 64) + 8 * i)
            = Config.droopSample (m.ctx (ctxKey d (48 * dom + i) c)).pc c := by
  induction n generalizing t with
  | zero =>
    subst ht
    exact ⟨rfl, rfl, rfl, rfl, fun i hi => absurd hi (Nat.not_lt_zero i)⟩
  | succ n ih =>
    rw [List.range_succ, List.foldl_append, List.foldl_cons, List.foldl_nil] at ht
    obtain ⟨hc, hm, hr, hd, hw⟩ := ih rfl
    generalize (List.range n).foldl (droopStep d dom s) m = u at *
    have hu := droopSampleOf_machine d (48 * dom + n) u
    have step : t = (droopSampleOf d (48 * dom + n) u).2.modDie d fun y =>
        { y with window := y.window.put (0x30000 + 0x200 * (s % 64) + 8 * n) (droopSampleOf d (48 * dom + n) u).1 } :=
      ht.symm
    rw [hu] at step
    subst step
    have dies (k : Nat) (x : Nat) : ({ u with seed := x } : Mach).die k = u.die k := rfl
    refine ⟨hc, hm, hr, ?_, fun i hi c hcur => ?_⟩
    · rw [Mach.die_modDie_same, dies, hd]
    · rw [Mach.die_modDie_same, dies]
      by_cases hin : i = n
      · subst hin
        simp only [SMap.get_put_same]
        rw [droopSampleOf_issuing (c := c) (by simpa only [Mach.core, hr] using hcur)]
        simp only [Mach.ctx, hc]
      · rw [SMap.get_put_of_ne _ _ _ _ _ (by omega)]
        exact hw i (by omega) c hcur

theorem tst_eq_testBit (x i : Nat) : tst x i = x.testBit i := by
  rw [Nat.testBit_eq_decide_div_mod_eq, tst, bitN, Nat.shiftRight_eq_div_pow, beq_eq_decide]

theorem flareOn_of_masked {e : Env} {d bit : Nat} {m : Mach} (h : (m.die d).flOn.testBit (bit - 8) = false) :
    flareOn e d bit m = m := by
  simp [flareOn, tst_eq_testBit, h]

theorem droopAt_of_armed {e : Env} {d dom : Nat} {depth : W64} {m : Mach} (hl : e.live d = true)
    (ht : (m.die d).droopTh ≠ 0) :
    droopAt e d dom depth m = flareOn e d 10 (event e d 0x31
      (dom * 2 ^ 8 + depth.toNat * 2 ^ 64 + (m.die d).droopNo % 2 ^ 64 * 2 ^ 192)
      (((List.range 48).foldl (droopStep d dom (m.die d).droopNo) m).modDie d fun y =>
        { y with droopNo := (m.die d).droopNo + 1 })) := by
  simp only [droopAt, hl, ht]
  rfl

/-! ### Telemetry (R405) -/

/-- A record written to a telemetry ring that has room (R391, R405). -/
theorem telemetryPut_written {e : Env} {d : Nat} {bs : List Byte} {m m1 : Mach} (hen : (m.die d).tel.en = true)
    (hroom : (m.die d).tel.full = false) (hw : ringWriteWith event e d (m.die d).tel bs m = (true, m1)) :
    telemetryPut e d bs m = m1.modDie d fun x => { x with tel := { x.tel with tail := x.tel.tail + 1 } } := by
  simp [telemetryPut, hen, hroom, hw]

theorem telemetryAt_of_due {e : Env} {d : Nat} {m : Mach} (hl : e.live d = true) (ht : e.clk.tick.toNat % 2197 = 0)
    (hc : e.clk.tickDue = false) :
    telemetryAt e d m = (telemetryPut e d (telemetryBytes e (m.die d) d (Config.freeWord m.seed)
        (Config.freeWord (m.seed + 1)) (Config.freeWord (m.seed + 2))) { m with seed := m.seed + 3 }).modDie d
      fun x => { x with startDelays := 0, telCharge := 0 } := by
  simp only [telemetryAt, hl, ht, hc]
  rfl

/-! ### The steps -/

theorem moduleReset_spec (s : State) (b : BootResult) :
    ∃ t, exec (.moduleReset b) s = .next t ∧ t.clk = ⟨0, 0⟩ ∧ (∀ d < 16, t.boot.active.getLsbD d
          = (b.cpass.getLsbD d && b.ecdsa.getLsbD d && b.lms.getLsbD d && b.fresh.getLsbD d))
      ∧ (∀ o < 8, t.boot.odies.getLsbD o = (b.opass.getLsbD o && b.ecdsa.getLsbD (16 + o) && b.lms.getLsbD (16 + o)
          && b.fresh.getLsbD (16 + o)))
      ∧ t.boot.failed = !(b.hpass && b.ecdsa.getLsbD 24 && b.lms.getLsbD 24 && b.fresh.getLsbD 24
          && (t.boot.active.getLsbD 0 || t.boot.active.getLsbD 8))
      ∧ (∀ n < 16, t.m.ringFail.getLsbD n = (!(t.boot.active.getLsbD n || b.ring.getLsbD n)
          || !(t.boot.active.getLsbD ((n + 1) % 16) || b.ring.getLsbD ((n + 1) % 16))))
      ∧ t.m.ctxs = [] ∧ t.m.cores = [] ∧ t.m.tasks = [] ∧ t.m.lqs = [] ∧ t.m.launches = [] ∧ t.m.routers = []
      ∧ t.m.links = [] ∧ t.m.l2 = [] ∧ t.m.spad = [] ∧ (∀ a < 2 ^ 44, t.m.mem.read a = 0)
      ∧ (∀ a, 2 ^ 44 ≤ a → t.m.mem.read a = s.m.mem.read a)
      ∧ ∀ d : Fin 16, t.m.die d.val = { frameBase := d.val * 2 ^ 40 + 0x17FA000000, policy := b.policy,
                                        erased := b.erased,
                                        sigfail := decide (b.ecdsa &&& b.lms &&& b.fresh ≠ BitVec.allOnes 25) } := by
  refine ⟨rebooted b s.m, rfl, rfl, fun d hd => boot_active_getLsbD b hd, fun o ho => boot_odies_getLsbD b ho,
    boot_failed b, fun n hn => boot_ringFail_getLsbD (Boot.of b) hn, rfl, rfl, rfl, rfl, rfl, rfl, rfl, rfl, rfl,
    fun a ha => ?_, fun a ha => ?_, fun d => ?_⟩
  · rw [rebooted_mem_read, if_neg (by omega)]
  · rw [rebooted_mem_read, if_pos ha]
  · rw [rebooted_die b s.m d.isLt, Die.reset, bootImages]
    congr 1
    exact (decide_not.trans (by simp [bne, beq_eq_decide])).symm

/-- Policies 0 and 3 to 15 (log entry 37). -/
theorem securityAlarm_records (s : State) (a : Alarm) {e : Env} (he : e = ⟨s.boot, s.clk⟩)
    (h1 : (s.m.die (e.dieList.headD 0)).policy ≠ 1) (h2 : (s.m.die (e.dieList.headD 0)).policy ≠ 2)
    (hoff : ∀ d ∈ e.dieList, (s.m.die d).ev.en = false) :
    ∃ t, exec (.securityAlarm a) s = .next t ∧ t.clk = s.clk ∧ t.m.ctxs = s.m.ctxs ∧ t.m.mem = s.m.mem
      ∧ ∀ d ∈ e.dieList, (a = .tamper → (t.m.die d).tamper = true ∧ s.Recorded t.m d 0x30 (1 * 2 ^ 8))
        ∧ (a = .glitch → (t.m.die d).glitch = true ∧ s.Recorded t.m d 0x30 (2 * 2 ^ 8)) := by
  subst he
  have hl : (Env.dieList ⟨s.boot, s.clk⟩).Nodup := List.nodup_range.filter _
  obtain ⟨hc, hm, hdie⟩ := alarmOn_foldl ⟨s.boot, s.clk⟩ a hl hoff rfl
  refine ⟨_, if_neg (not_or.2 ⟨h1, h2⟩), rfl, hc, hm, fun d hd => ?_⟩
  have hd := (hdie d).trans (if_pos hd)
  constructor <;> rintro rfl <;> simp only [State.Recorded, hd] <;> exact ⟨rfl, rfl, rfl⟩

theorem securityAlarm_resets (s : State) (a : Alarm) {e : Env} (he : e = ⟨s.boot, s.clk⟩) {x : Die}
    (hx : x = s.m.die (e.dieList.headD 0)) (hp : x.policy = 1 ∨ x.policy = 2) :
    ∃ t, exec (.securityAlarm a) s = .next t ∧ t.clk = ⟨0, 0⟩ ∧ t.m.ctxs = [] ∧ t.m.tasks = [] ∧ t.m.spad = []
      ∧ ∀ d : Fin 16, (t.m.die d.val).policy = x.policy
        ∧ (t.m.die d.val).erased = (x.erased || decide (x.policy = 2)) := by
  subst he hx
  refine ⟨_, if_pos hp, rfl, rfl, rfl, rfl, fun d => ?_⟩
  rw [rebooted_die _ _ d.isLt]
  exact ⟨rfl, rfl⟩

theorem telemetryRecord_spec (s : State) (d : Fin 16) {e : Env} (he : e = ⟨s.boot, s.clk⟩) (hl : e.live d.val = true)
    {y : Die} {m0 m1 : Mach} (hy : y = s.m.die d.val) (ht : s.clk.tick.toNat % 2197 = 0) (hc : s.clk.tick = s.clk.ticks)
    (h0 : m0 = { s.m with seed := s.m.seed + 3 }) (hen : y.tel.en = true) (hroom : y.tel.full = false)
    (hw : ringWriteWith event e d.val y.tel (telemetryBytes e y d.val (Config.freeWord s.m.seed)
      (Config.freeWord (s.m.seed + 1)) (Config.freeWord (s.m.seed + 2))) m0 = (true, m1)) :
    ∃ t, exec (.telemetryRecord d) s = .next t ∧ t.m.mem = m1.mem
      ∧ (t.m.die d.val).tel.tail = (m1.die d.val).tel.tail + 1 ∧ (t.m.die d.val).startDelays = 0
      ∧ (t.m.die d.val).telCharge = 0 := by
  subst he hy h0
  have due : s.clk.tickDue = false := bne_eq_false_iff_eq.2 hc
  refine ⟨{ s with m := telemetryAt ⟨s.boot, s.clk⟩ d.val s.m }, rfl, ?_⟩
  simp only [telemetryAt_of_due (e := ⟨s.boot, s.clk⟩) hl ht due]
  rw [telemetryPut_written (m := { s.m with seed := s.m.seed + 3 }) hen hroom hw, Mach.modDie_modDie,
    Mach.die_modDie_same]
  exact ⟨rfl, rfl, rfl, rfl⟩

theorem droop_of_disarmed (s : State) (d : Fin 16) (dom : Fin 4) (depth : W64) (h : (s.m.die d.val).droopTh = 0) :
    exec (.droop d dom depth) s = .next s := by
  show Host.Outcome.next { s with m := droopAt ⟨s.boot, s.clk⟩ d.val dom.val depth s.m } = _
  simp [droopAt, h]

theorem droop_of_armed (s : State) (d : Fin 16) (dom : Fin 4) (depth : W64) {y : Die}
    (hl : Env.live ⟨s.boot, s.clk⟩ d.val = true) (hy : y = s.m.die d.val) (ht : y.droopTh ≠ 0) (hen : y.ev.en = false)
    (hfl : y.flOn.testBit 2 = false) :
    ∃ t, exec (.droop d dom depth) s = .next t ∧ (t.m.die d.val).droopNo = y.droopNo + 1
      ∧ t.m.ctxs = s.m.ctxs ∧ t.m.mem = s.m.mem
      ∧ s.Recorded t.m d.val 0x31 (dom.val * 2 ^ 8 + depth.toNat * 2 ^ 64 + y.droopNo % 2 ^ 64 * 2 ^ 192)
      ∧ ∀ i < 48, ∀ c, (s.m.core (d.val * 192 + 48 * dom.val + i)).cur = some c →
          (t.m.die d.val).window.get 0 (0x30000 + 0x200 * (y.droopNo % 64) + 8 * i)
            = Config.droopSample (s.m.ctx (d.val * 768 + (48 * dom.val + i) * 4 + c)).pc c := by
  subst hy
  obtain ⟨hc, hm, -, hd, hw⟩ := droopStep_foldl d.val dom.val (s.m.die d.val).droopNo 48 (m := s.m) rfl
  refine ⟨{ s with m := droopAt ⟨s.boot, s.clk⟩ d.val dom.val depth s.m }, rfl, ?_⟩
  simp only [droopAt_of_armed hl ht]
  generalize (List.range 48).foldl (droopStep d.val dom.val (s.m.die d.val).droopNo) s.m = u at *
  have evOff : (u.die d.val).ev.en = false := (congrArg (·.ev.en) hd).trans hen
  have flOff : (u.die d.val).flOn.testBit (10 - 8) = false := (congrArg (·.flOn.testBit 2) hd).trans hfl
  have evCount : (u.die d.val).evCount = (s.m.die d.val).evCount := by rw [hd]
  have evStore : (u.die d.val).evStore = (s.m.die d.val).evStore := by rw [hd]
  rw [event_of_ring_off _ _ _ (by rw [Mach.die_modDie_same]; exact evOff), Mach.modDie_modDie,
    flareOn_of_masked (by rw [Mach.die_modDie_same]; exact flOff), State.Recorded, Mach.die_modDie_same, ← evCount,
    ← evStore]
  refine ⟨rfl, hc, hm, ⟨rfl, rfl⟩, fun i hi c hcur => ?_⟩
  have key : ctxKey d.val (48 * dom.val + i) c = d.val * 768 + (48 * dom.val + i) * 4 + c := by
    unfold ctxKey coreKey
    omega
  rw [← key]
  exact hw i hi c (by rw [coreKey, ← Nat.add_assoc]; exact hcur)

/-- Settles O59: each step by its own lemma. -/
theorem resetAlarmsAndSamples : Obligations.ResetAlarmsAndSamples := by
  intro s e he
  refine ⟨moduleReset_spec s, fun a x hx => ⟨fun h1 h2 hoff => ?_, securityAlarm_resets s a he hx⟩, fun d hl =>
    ⟨fun y m0 m1 hy ht hc h0 hen hroom hw => telemetryRecord_spec s d he hl hy ht hc h0 hen hroom hw,
      fun dom depth y hy => ⟨fun h => ?_, fun ht hen hfl => ?_⟩⟩⟩
  · exact securityAlarm_records s a he (hx ▸ h1) (hx ▸ h2) hoff
  · exact droop_of_disarmed s d dom depth (hy ▸ h)
  · exact droop_of_armed s d dom depth (he ▸ hl) hy ht hen hfl

end Sys2Proof.Machine
end

section
/-! PROOFS. The handle of a token and the frame of its task (R109, R332). -/

namespace Sys2Proof.Machine

/-- A context of die 0 whose frame is 3072, one past a die's last frame, so that its task's key is that of frame 0 of
die 1; its task may migrate the page at address 0, and port b of eq holds a count of one page. -/
def strayFrame : State :=
  { State.reset with m := { State.reset.m with
      ctxs := [(0, { frame := 3072 })]
      tasks := [(3072, { extents := [⟨0, 2 ^ 21, 2, 0, 0, []⟩] })]
      issue := { ports := [(portCode 12 1, 1)] } } }

/-- eq.mig with g0 as its source. -/
def migrateNow : Instr := .eqMig ⟨⟨false, 0⟩, .g 0⟩

/-- The values that an outcome has on their way to latches of the issuing context. -/
def resultsOf (o : Out) : List W512 :=
  match o with
  | .next t => t.m.cur.res.map (·.value)
  | _ => []

theorem strayFrame_reads : strayFrame.Reads (.g 0) 0 := by decide +kernel
theorem strayFrame_portA : strayFrame.Port 12 0 0 := by decide +kernel
theorem strayFrame_portB : strayFrame.Port 12 1 1 := by decide +kernel
theorem strayFrame_noPeerSectors : strayFrame.NoPeerSectors := ⟨rfl, fun _ _ h => by cases h⟩

theorem strayFrame_covered : ∃ z ∈ strayFrame.m.curTask.extents, z.access.testBit 1 = true
    ∧ z.va ≤ (0 : W64).toNat % 2 ^ 48 ∧ (0 : W64).toNat % 2 ^ 48 + (1 : W64).toNat * 2 ^ 21 ≤ z.va + z.len :=
  ⟨⟨0, 2 ^ 21, 2, 0, 0, []⟩, List.mem_singleton.2 rfl, by decide, by decide, by decide⟩

/-- eq.mig acts, with room for its token and its migration. -/
theorem strayFrame_ready : strayFrame.m.curTask.tokenRoom 3 = true ∧ (strayFrame.m.die 0).migQ.length < 64
    ∧ strayFrame.acts migrateNow = true := by decide +kernel

/-- The machine answers the handle of token 1 of die 1 and frame 0. -/
theorem strayFrame_handle : resultsOf (exec migrateNow strayFrame) = [(tokenHandle 3 1 0 1).setWidth 512] := by
  decide +kernel

/-- The statement asks for the handle of token 1 of die 0 and frame 3072. -/
theorem strayFrame_asked :
    (strayFrame.sends 15 8 ((BitVec.ofNat 64 (3 * 2 ^ 52 + strayFrame.m.issue.d * 2 ^ 48
      + strayFrame.m.cur.frame * 2 ^ 32 + strayFrame.nextSeq 3)).setWidth 512)).m.cur.res.map (·.value)
      = [(tokenHandle 3 0 3072 1).setWidth 512] := by
  decide +kernel

/-- Refutes O49: a handle is formed from its task's key, as the key's quotient and remainder by 3072 (R109), and the
statement, which wants the die and the frame of the context there, allows a context whose frame is 3072. -/
theorem not_cardsMigrationsGroups : ¬ Obligations.CardsMigrationsGroups := by
  unfold Obligations.CardsMigrationsGroups
  rintro ⟨-, h⟩
  obtain ⟨room, queue, acts⟩ := strayFrame_ready
  obtain ⟨-, hmig, -⟩ := h strayFrame ⟨⟨false, 0⟩, .g 0⟩ 0 1 0 strayFrame_reads strayFrame_portA strayFrame_portB
    0 0 1 0 _ _ (by simp) (by simp) (by simp) rfl rfl rfl rfl rfl strayFrame_noPeerSectors (by decide)
  obtain ⟨-, -, hgo⟩ := hmig (by decide) (by decide) (by decide)
  obtain ⟨t, hexec, ⟨⟨-, hcur, -⟩, -⟩, -⟩ := hgo (by decide) (by decide) strayFrame_covered room queue acts
  have sent : resultsOf (exec migrateNow strayFrame) = t.m.cur.res.map (·.value) := congrArg resultsOf hexec
  rw [hcur, strayFrame_handle, strayFrame_asked] at sent
  exact absurd sent (by decide)

end Sys2Proof.Machine
end

section
/-! PROOFS. Looking up keys of sparse maps: what is listed, and what taking a key out leaves. -/

namespace Sys2Proof

variable {α : Type} {l : SMap α} {k n : Nat} {v : α}

theorem SMap.get_eq_getD_find (d : α) (l : SMap α) (n : Nat) : l.get d n = (l.find n).getD d := by
  induction l with
  | nil => rfl
  | cons p l ih =>
    obtain ⟨k, v⟩ := p
    simp only [SMap.get, SMap.find]
    split
    · rfl
    · exact ih

theorem SMap.mem_of_find (h : l.find k = some v) : (k, v) ∈ l := by
  induction l with
  | nil => cases h
  | cons p l ih =>
    obtain ⟨j, x⟩ := p
    simp only [SMap.find] at h
    split at h
    next hj =>
      cases h
      exact hj ▸ List.mem_cons_self
    · exact List.mem_cons_of_mem _ (ih h)

theorem SMap.find_eq_none_iff : l.find k = none ↔ ∀ p ∈ l, p.1 ≠ k := by
  induction l with
  | nil => simp [SMap.find]
  | cons p l ih =>
    obtain ⟨j, x⟩ := p
    simp only [SMap.find, List.forall_mem_cons]
    split
    next hj => simp [hj]
    next hj => simp [hj, ih]

/-- Where keys rise, a listed value is the one found under its key. -/
theorem SMap.find_of_mem (hl : l.rising = true) {p : Nat × α} (hp : p ∈ l) : l.find p.1 = some p.2 := by
  have rising := (Memory.rising_iff l).1 hl
  clear hl
  induction l with
  | nil => cases hp
  | cons q l ih =>
    obtain ⟨j, x⟩ := q
    obtain ⟨first, rising⟩ := List.pairwise_cons.1 rising
    simp only [SMap.find]
    obtain rfl | hp := List.mem_cons.1 hp
    · rw [if_pos rfl]
    · rw [if_neg (Nat.ne_of_lt (first p hp)), ih hp rising]

theorem SMap.find_del (l : SMap α) (k n : Nat) : (l.del k).find n = if n = k then none else l.find n := by
  induction l with
  | nil => simp [SMap.del, SMap.find]
  | cons p l ih =>
    obtain ⟨j, x⟩ := p
    unfold SMap.del at ih ⊢
    by_cases hj : j = k
    · subst hj
      rw [List.filter_cons_of_neg (by simp), ih]
      split
      · rfl
      next hn => exact (if_neg (Ne.symm hn)).symm
    · rw [List.filter_cons_of_pos (by simpa using hj)]
      simp only [SMap.find]
      split
      next hn => rw [if_neg (hn ▸ hj)]
      · exact ih

@[simp] theorem SMap.find_del_same (l : SMap α) (k : Nat) : (l.del k).find k = none := by simp [SMap.find_del]

theorem SMap.find_del_of_ne (l : SMap α) (h : n ≠ k) : (l.del k).find n = l.find n := by simp [SMap.find_del, h]

end Sys2Proof
end

section
/-! PROOFS. The boot outcome and the clock over every step, and what TICK_INCREMENT charges. -/

namespace Sys2Proof.Machine

/-! ### What a step does to the boot outcome and the clock (R20, R22, R36) -/

/-- A next state that differs from s in the machine only. -/
theorem next_machine {s t : State} (h : ∃ m, Host.Outcome.next (φ := Fault) (ρ := Refusal) { s with m := m } = .next t) :
    t.boot = s.boot ∧ t.clk = s.clk := by
  obtain ⟨m, h⟩ := h
  cases h
  exact ⟨rfl, rfl⟩

theorem hostMemoryAccess_keeps_clock {a : HostAccess} {s t : State} (h : exec (.hostMemoryAccess a) s = .next t) :
    t.boot = s.boot ∧ t.clk = s.clk := by
  change execHostMemoryAccess a s = .next t at h
  unfold execHostMemoryAccess at h
  dsimp only at h
  split at h
  · exact next_machine ⟨s.m, h⟩
  · split at h
    · cases h
    · exact next_machine ⟨_, h⟩

theorem tickIncrement_next (s : State) :
    exec .tickIncrement s
      = .next (if s.clk.tick = s.clk.ticks then s
          else { s with clk := { s.clk with tick := s.clk.tick + 1 }, m := chargeTick s.m }) := by
  show Host.Outcome.next (if s.clk.tickDue then _ else s) = _
  by_cases h : s.clk.tick = s.clk.ticks
  · rw [if_pos h, if_neg (by simpa [Clock.tickDue, Clock.ticks] using h)]
  · rw [if_neg h, if_pos (by simpa [Clock.tickDue, Clock.ticks] using h)]

theorem securityAlarm_next {a : Alarm} {s t : State} (h : exec (.securityAlarm a) s = .next t) :
    (t.boot = s.boot ∧ t.clk = s.clk) ∨ ∃ b m, t = rebooted b m := by
  change execSecurityAlarm a s = .next t at h
  unfold execSecurityAlarm at h
  dsimp only at h
  split at h
  · cases h
    exact .inr ⟨_, _, rfl⟩
  · exact .inl (next_machine ⟨_, h⟩)

/-- Every instruction but TICK_INCREMENT, module reset and the security alarm changes the machine only. -/
theorem exec_keeps_clock {i : Instr} {s t : State} (h : exec i s = .next t) (tick : i ≠ .tickIncrement)
    (reset : ∀ b, i ≠ .moduleReset b) (alarm : ∀ a, i ≠ .securityAlarm a) : t.boot = s.boot ∧ t.clk = s.clk := by
  cases i with
  | tickIncrement => exact absurd rfl tick
  | moduleReset b => exact absurd rfl (reset b)
  | securityAlarm a => exact absurd rfl (alarm a)
  | hostMemoryAccess a => exact hostMemoryAccess_keeps_clock h
  | _ => exact next_machine ⟨_, h⟩

/-- A boundary passes only as the last cycle before it does (R22). -/
theorem ticks_next (c : Clock) :
    c.next.ticks = if c.next.cycle % 1024 = 0 then c.ticks + 1 else c.ticks := by
  show BitVec.ofNat 48 ((c.cycle + 1) / 1024) = if (c.cycle + 1) % 1024 = 0 then BitVec.ofNat 48 (c.cycle / 1024) + 1 else _
  split
  · rw [show (c.cycle + 1) / 1024 = c.cycle / 1024 + 1 by omega, BitVec.ofNat_add]
    rfl
  · rw [show (c.cycle + 1) / 1024 = c.cycle / 1024 by omega]
    rfl

theorem passCycle_clk (s : State) : (passCycle s).clk = s.clk.next := rfl

theorem passCycle_agenda_at_boundary {s : State} (h : s.clk.next.cycle % 1024 = 0) :
    (passCycle s).m.agenda.head? = some .tickIncrement := by
  show (due ⟨s.boot, s.clk.next⟩ _).head? = _
  unfold due
  rw [if_pos h]
  rfl

theorem passCycle_tickFollows {s : State} (h : s.clk.tick = s.clk.ticks) : (passCycle s).TickFollows := by
  unfold State.TickFollows
  rw [passCycle_clk, ticks_next]
  have tick : s.clk.next.tick = s.clk.ticks := h
  split
  next boundary => exact .inr ⟨passCycle_agenda_at_boundary boundary, by rw [tick]⟩
  · exact .inl tick

theorem rebooted_counts (b : BootResult) (m : Mach) : (rebooted b m).clk.tick = (rebooted b m).clk.ticks := by
  show (0 : BitVec 48) = BitVec.ofNat 48 (0 / 1024)
  decide

theorem tickFollows_of_counted {s : State} (h : s.clk.tick = s.clk.ticks) : s.TickFollows := .inl h

theorem tickIncrement_counts {s t : State} (h : exec .tickIncrement s = .next t)
    (hs : s.clk.tick = s.clk.ticks ∨ s.clk.tick + 1 = s.clk.ticks) : t.clk.tick = t.clk.ticks := by
  rw [tickIncrement_next] at h
  split at h
  next counted =>
    cases h
    exact counted
  next late =>
    cases h
    exact hs.resolve_left late

/-- Settles O7: a cycle passes with every boundary counted; a due TICK_INCREMENT counts the one that is not; a reset starts
both counts at 0; and no other instruction touches the clock. -/
theorem ticksFollowCycles : Obligations.TicksFollowCycles := by
  intro s t hs hstep
  unfold step at hstep
  split at hstep
  next idle =>
    cases hstep
    exact passCycle_tickFollows (hs.resolve_right (by simp [idle]))
  next i rest agenda =>
    split at hstep
    case isFalse => cases hstep
    refine tickFollows_of_counted ?_
    by_cases tick : i = .tickIncrement
    · subst tick
      exact tickIncrement_counts hstep (hs.imp_right And.right)
    have counted : s.clk.tick = s.clk.ticks := hs.resolve_right fun ⟨first, _⟩ => tick (by simpa [agenda] using first)
    by_cases reset : ∃ b, i = .moduleReset b
    · obtain ⟨b, rfl⟩ := reset
      cases hstep
      exact rebooted_counts b _
    by_cases alarm : ∃ a, i = .securityAlarm a
    · obtain ⟨a, rfl⟩ := alarm
      obtain ⟨-, hclk⟩ | ⟨b, m, rfl⟩ := securityAlarm_next hstep
      · rw [hclk]
        exact counted
      · exact rebooted_counts b m
    · rw [(exec_keeps_clock hstep tick (not_exists.1 reset) (not_exists.1 alarm)).2]
      exact counted

/-! ### The charges of a tick (R93, R403, R405) -/

/-- What TICK_INCREMENT does for one listed task. -/
def chargeTask (m : Mach) (p : Nat × Task) : Mach :=
  if p.2.st = .free || p.2.energy = 0 then m
  else chargeLaunch (p.1 / 3072) p.2.launch p.2.energy (m.modTask p.1 fun t => { t with energy := 0 })

theorem chargeTick_eq_foldl (m : Mach) : chargeTick m = m.tasks.foldl chargeTask m := rfl

/-- The energies of the listed tasks that f selects and that are not free. -/
def energyOf (f : Nat × Task → Bool) (ts : SMap Task) : Nat :=
  ((ts.filter fun p => decide (p.2.st ≠ .free) && f p).map fun p => p.2.energy).sum

theorem energyOf_cons (f : Nat × Task → Bool) (p : Nat × Task) (ts : SMap Task) :
    energyOf f (p :: ts) = (if p.2.st ≠ .free ∧ f p = true then p.2.energy else 0) + energyOf f ts := by
  unfold energyOf
  by_cases h : p.2.st ≠ .free ∧ f p = true
  · simp [h]
  · have : (decide (p.2.st ≠ .free) && f p) = false := by simpa using h
    rw [List.filter_cons, this, if_neg h, Nat.zero_add]
    rfl

theorem chargeTask_cases (m : Mach) (p : Nat × Task) :
    ((p.2.st = .free ∨ p.2.energy = 0) ∧ chargeTask m p = m)
      ∨ (p.2.st ≠ .free ∧ p.2.energy ≠ 0 ∧ chargeTask m p
          = chargeLaunch (p.1 / 3072) p.2.launch p.2.energy (m.modTask p.1 fun t => { t with energy := 0 })) := by
  unfold chargeTask
  split
  next h => exact .inl ⟨by simpa using h, rfl⟩
  next h =>
    have h : p.2.st ≠ .free ∧ p.2.energy ≠ 0 := by simpa using h
    exact .inr ⟨h.1, h.2, rfl⟩

theorem chargeTask_mem_ctxs (m : Mach) (p : Nat × Task) :
    (chargeTask m p).mem = m.mem ∧ (chargeTask m p).ctxs = m.ctxs := by
  obtain ⟨-, h⟩ | ⟨-, -, h⟩ := chargeTask_cases m p <;> rw [h] <;> exact ⟨rfl, rfl⟩

theorem chargeTask_launch (m : Mach) (p : Nat × Task) (l : Nat) :
    ((chargeTask m p).launch l).charge
      = (m.launch l).charge + if p.2.st ≠ .free ∧ decide (p.2.launch = l) = true then p.2.energy else 0 := by
  obtain ⟨h0, h⟩ | ⟨hst, -, h⟩ := chargeTask_cases m p <;> rw [h]
  · obtain h0 | h0 := h0 <;> simp [h0]
  · by_cases hl : p.2.launch = l
    · subst hl
      simp [chargeLaunch, hst]
    · simp [chargeLaunch, Mach.launch_modLaunch_of_ne _ _ _ _ (Ne.symm hl), hl]

theorem chargeTask_die (m : Mach) (p : Nat × Task) (d : Nat) :
    ((chargeTask m p).die d).telCharge
      = (m.die d).telCharge + if p.2.st ≠ .free ∧ decide (p.1 / 3072 = d) = true then p.2.energy else 0 := by
  obtain ⟨h0, h⟩ | ⟨hst, -, h⟩ := chargeTask_cases m p <;> rw [h]
  · obtain h0 | h0 := h0 <;> simp [h0]
  · by_cases hd : p.1 / 3072 = d
    · subst hd
      simp [chargeLaunch, hst]
    · simp [chargeLaunch, Mach.die_modDie_of_ne _ _ _ _ (Ne.symm hd), hd]

theorem chargeTask_task (m : Mach) (p : Nat × Task) (k : Nat) :
    ((chargeTask m p).task k).energy
      = if p.1 = k ∧ p.2.st ≠ .free ∧ p.2.energy ≠ 0 then 0 else (m.task k).energy := by
  obtain ⟨h0, h⟩ | ⟨hst, he, h⟩ := chargeTask_cases m p <;> rw [h]
  · rw [if_neg fun ⟨_, hst, he⟩ => h0.elim hst he]
  · by_cases hk : p.1 = k
    · subst hk
      simp [chargeLaunch, hst, he]
    · simp [chargeLaunch, Mach.task_modTask_of_ne _ _ _ _ (Ne.symm hk), hk]

/-- The charges of the listed tasks, one after the other. -/
theorem foldl_chargeTask (ts : SMap Task) (m : Mach) :
    (ts.foldl chargeTask m).mem = m.mem ∧ (ts.foldl chargeTask m).ctxs = m.ctxs
      ∧ (∀ l, ((ts.foldl chargeTask m).launch l).charge
          = (m.launch l).charge + energyOf (fun p => decide (p.2.launch = l)) ts)
      ∧ (∀ d, ((ts.foldl chargeTask m).die d).telCharge
          = (m.die d).telCharge + energyOf (fun p => decide (p.1 / 3072 = d)) ts)
      ∧ ∀ k, ((ts.foldl chargeTask m).task k).energy
          = if ∃ p ∈ ts, p.1 = k ∧ p.2.st ≠ .free ∧ p.2.energy ≠ 0 then 0 else (m.task k).energy := by
  induction ts generalizing m with
  | nil => exact ⟨rfl, rfl, fun _ => rfl, fun _ => rfl, fun _ => by simp⟩
  | cons p ts ih =>
    obtain ⟨hmem, hctxs, hlaunch, hdie, htask⟩ := ih (chargeTask m p)
    obtain ⟨pmem, pctxs⟩ := chargeTask_mem_ctxs m p
    refine ⟨hmem.trans pmem, hctxs.trans pctxs, fun l => ?_, fun d => ?_, fun k => ?_⟩
    · rw [List.foldl_cons, hlaunch, chargeTask_launch, energyOf_cons, Nat.add_assoc]
    · rw [List.foldl_cons, hdie, chargeTask_die, energyOf_cons, Nat.add_assoc]
    · rw [List.foldl_cons, htask, chargeTask_task]
      simp only [List.exists_mem_cons_iff]
      split <;> split <;> simp_all

theorem tickIncrement_charges {s : State} (due : s.clk.tick ≠ s.clk.ticks) :
    ∃ t, exec .tickIncrement s = .next t ∧ t.clk.tick.toNat = (s.clk.tick.toNat + 1) % 2 ^ 48
      ∧ t.clk.cycle = s.clk.cycle ∧ t.boot = s.boot ∧ t.m = s.m.tasks.foldl chargeTask s.m := by
  have next := tickIncrement_next s
  rw [if_neg due] at next
  exact ⟨_, next, BitVec.toNat_add _ _, rfl, rfl, chargeTick_eq_foldl s.m⟩

/-- A task's energy after the tick's charges: where keys rise, the tasks listed are those that the machine holds. -/
theorem energy_after_charges {m : Mach} (rising : m.tasks.rising = true) (k : Nat) :
    ((m.tasks.foldl chargeTask m).task k).energy = if (m.task k).st = .free then (m.task k).energy else 0 := by
  obtain ⟨-, -, -, -, htask⟩ := foldl_chargeTask m.tasks m
  rw [htask]
  cases listed : m.tasks.find k with
  | none =>
    have absent := SMap.find_eq_none_iff.1 listed
    have free : m.task k = {} := by simp [Mach.task, SMap.get_eq_getD_find, listed]
    rw [if_neg fun ⟨p, hp, hk, _⟩ => absent p hp hk, free, if_pos rfl]
  | some x =>
    have held : m.task k = x := by simp [Mach.task, SMap.get_eq_getD_find, listed]
    have only : ∀ p ∈ m.tasks, p.1 = k → p.2 = x := fun p hp hk => by
      have := SMap.find_of_mem rising hp
      rw [hk, listed] at this
      exact (Option.some.inj this).symm
    rw [held]
    by_cases busy : x.st ≠ .free ∧ x.energy ≠ 0
    · rw [if_pos ⟨(k, x), SMap.mem_of_find listed, rfl, busy⟩, if_neg busy.1]
    · rw [if_neg fun ⟨p, hp, hk, hbusy⟩ => busy (only p hp hk ▸ hbusy)]
      split
      · rfl
      next hst => exact not_not.1 fun he => busy ⟨hst, he⟩

/-- Settles O9: the tick's charges task by task, and the frame of every other instruction. -/
theorem tickAndBoot : Obligations.TickAndBoot := by
  refine ⟨fun s due => ?_, fun i s t h reset alarm => ?_⟩
  · obtain ⟨t, hexec, htick, hcycle, hboot, hm⟩ := tickIncrement_charges due
    obtain ⟨hmem, hctxs, hlaunch, hdie, -⟩ := foldl_chargeTask s.m.tasks s.m
    refine ⟨t, hexec, htick, hcycle, hboot, hm ▸ hmem, hm ▸ hctxs, fun rising => ⟨fun l => ?_, fun d => ?_, fun k => ?_⟩⟩
    · rw [hm, hlaunch]
      simp only [energyOf, Bool.decide_and]
    · rw [hm, hdie]
      simp only [energyOf, Bool.decide_and]
    · rw [hm]
      exact energy_after_charges rising k
  · by_cases tick : i = .tickIncrement
    · subst tick
      rw [tickIncrement_next] at h
      split at h <;> cases h <;> exact ⟨rfl, rfl⟩
    · obtain ⟨hboot, hclk⟩ := exec_keeps_clock h tick reset alarm
      exact ⟨hboot, hclk ▸ rfl⟩

end Sys2Proof.Machine
end

section
/-! PROOFS. What the homes of memory lines leave alone: reads, writes, evictions and the records that they lead to change
the memories behind the L2, the L2, dies, tasks' charges and free choices, and nothing else. -/

namespace Sys2Proof.Machine

/-- The parts of the machine that no access of a home line touches. -/
def Mach.beyondHome (m : Mach) : Mach :=
  { m with seed := 0, touched := [], mem := [], memChk := [], l2 := [], tasks := [], dies := [] }

/-- A way to write event records that stays with the homes. -/
def Recorder.StaysHome (rec_ : Recorder) : Prop :=
  ∀ e d type body m, (rec_ e d type body m).beyondHome = m.beyondHome

section
variable {m n : Mach}

theorem ctxs_of_beyondHome (h : n.beyondHome = m.beyondHome) : n.ctxs = m.ctxs :=
  show n.beyondHome.ctxs = m.beyondHome.ctxs by rw [h]

theorem issue_of_beyondHome (h : n.beyondHome = m.beyondHome) : n.issue = m.issue :=
  show n.beyondHome.issue = m.beyondHome.issue by rw [h]

theorem spad_of_beyondHome (h : n.beyondHome = m.beyondHome) : n.spad = m.spad :=
  show n.beyondHome.spad = m.beyondHome.spad by rw [h]

theorem cores_of_beyondHome (h : n.beyondHome = m.beyondHome) : n.cores = m.cores :=
  show n.beyondHome.cores = m.beyondHome.cores by rw [h]

theorem hot_of_beyondHome (h : n.beyondHome = m.beyondHome) : n.hot = m.hot :=
  show n.beyondHome.hot = m.beyondHome.hot by rw [h]

end

/-- A fold keeps what each of its steps keeps. -/
theorem foldl_beyondHome {α : Type} {f : Mach → α → Mach} (hf : ∀ m a, (f m a).beyondHome = m.beyondHome) (l : List α)
    (m : Mach) : (l.foldl f m).beyondHome = m.beyondHome := by
  induction l generalizing m with
  | nil => rfl
  | cons a l ih => exact (ih _).trans (hf m a)

@[simp] theorem modDie_beyondHome (m : Mach) (d : Nat) (f : Die → Die) : (m.modDie d f).beyondHome = m.beyondHome := rfl

@[simp] theorem setMemLine_beyondHome (m : Mach) (la data chk : Nat) :
    (setMemLine la data chk m).beyondHome = m.beyondHome := rfl

@[simp] theorem touch_beyondHome (m : Mach) (k : Nat) : (m.touch k).beyondHome = m.beyondHome := rfl

theorem withSeed_beyondHome (m : Mach) (k : Nat) : ({ m with seed := k } : Mach).beyondHome = m.beyondHome := rfl

theorem withL2_beyondHome (m : Mach) (l : SMap L2Line) : ({ m with l2 := l } : Mach).beyondHome = m.beyondHome := rfl

@[simp] theorem charge_beyondHome (m : Mach) (tk units : Nat) : (m.charge tk units).beyondHome = m.beyondHome := by
  unfold Mach.charge
  split <;> rfl

@[simp] theorem chargeMem_beyondHome (e : Env) (ag : Agent) (la : Nat) (m : Mach) :
    (chargeMem e ag la m).beyondHome = m.beyondHome := by
  unfold chargeMem
  split
  · rfl
  · exact charge_beyondHome _ _ _

@[simp] theorem chargeHub_beyondHome (e : Env) (ag : Agent) (bytes : Nat) (m : Mach) :
    (chargeHub e ag bytes m).beyondHome = m.beyondHome := by
  unfold chargeHub
  split
  · rfl
  · exact charge_beyondHome _ _ _

@[simp] theorem flareOn_beyondHome (e : Env) (d bit : Nat) (m : Mach) : (flareOn e d bit m).beyondHome = m.beyondHome := by
  unfold flareOn
  split
  · unfold flare
    dsimp only
    split
    · exact foldl_beyondHome (f := fun m d => flareDie 0 bit d m) (fun _ _ => rfl) _ _
    · rfl
  · rfl

theorem noteEvent_staysHome : Recorder.StaysHome noteEvent := by
  intro e d type body m
  unfold noteEvent
  dsimp only [storeEvent]
  split <;> rfl

section recorder

variable {rec_ : Recorder} (hr : rec_.StaysHome) (e : Env)
include hr

theorem discovery_beyondHome (ag : Agent) (leg copy addr : Nat) (r : Reading) (m : Mach) :
    (discovery rec_ e ag leg copy addr r m).beyondHome = m.beyondHome := by
  unfold discovery
  split
  · rfl
  · dsimp only
    split <;> split <;> simp only [flareOn_beyondHome, hr _ _ _ _ _, modDie_beyondHome]

theorem l2EvictWith_beyondHome (la : Nat) (m : Mach) : (l2EvictWith rec_ e la m).beyondHome = m.beyondHome := by
  unfold l2EvictWith
  split
  · rfl
  · split
    · rfl
    · dsimp only
      split
      · rfl
      · rw [discovery_beyondHome hr, setMemLine_beyondHome]
        split
        · split
          · exact charge_beyondHome _ _ _
          · rfl
        · rfl

theorem l2Insert_beyondHome (la : Nat) (l : L2Line) (m : Mach) : (l2Insert rec_ e la l m).beyondHome = m.beyondHome := by
  unfold l2Insert
  dsimp only
  split
  · rfl
  · split
    · rw [l2EvictWith_beyondHome hr]
      rfl
    · rfl

theorem homeReadWith_beyondHome (ag : Agent) (leg la : Nat) (m : Mach) :
    (homeReadWith rec_ e ag leg la m).2.beyondHome = m.beyondHome := by
  unfold homeReadWith
  split <;> dsimp only <;> rw [discovery_beyondHome hr]
  · split <;> rfl
  · have filled (n : Mach) (l : L2Line) :
        (if l2AllPinned n la then n else l2Insert rec_ e la l n).beyondHome = n.beyondHome := by
      split
      · rfl
      · exact l2Insert_beyondHome hr e la l n
    rw [filled, chargeMem_beyondHome]
    split <;> rfl

theorem homePutWith_beyondHome (ag : Agent) (leg la data chk : Nat) (dirty : BitVec 8) (m : Mach) :
    (homePutWith rec_ e ag leg la data chk dirty m).beyondHome = m.beyondHome := by
  have reached : (if hostLine la then chargeMem e ag la (setMemLine la data chk (m.touch la)) else m.touch la).beyondHome
      = m.beyondHome := by
    split
    · exact chargeMem_beyondHome _ _ _ _
    · rfl
  unfold homePutWith
  dsimp only
  generalize (if hostLine la then chargeMem e ag la (setMemLine la data chk (m.touch la)) else m.touch la) = n at reached ⊢
  split
  · exact reached
  · split
    · exact (l2Insert_beyondHome hr e _ _ _).trans reached
    · split
      · exact reached
      · exact (chargeMem_beyondHome _ _ _ _).trans reached

theorem homeWriteWith_beyondHome (ag : Agent) (leg pa : Nat) (bs : List Byte) (m : Mach) :
    (homeWriteWith rec_ e ag leg pa bs m).2.beyondHome = m.beyondHome := by
  unfold homeWriteWith
  dsimp only
  split
  · exact homePutWith_beyondHome hr e _ _ _ _ _ _ _
  · split
    · split
      · rfl
      · exact homePutWith_beyondHome hr e _ _ _ _ _ _ _
    · split
      · exact homeReadWith_beyondHome hr e _ _ _ _
      · exact (homePutWith_beyondHome hr e _ _ _ _ _ _ _).trans (homeReadWith_beyondHome hr e _ _ _ _)

theorem walkWith_beyondHome (d va : Nat) (m : Mach) : (walkWith rec_ e d va m).2.beyondHome = m.beyondHome := by
  have entry (ag : Agent) (leg pa : Nat) (m : Mach) : (entryAt rec_ e ag leg pa m).2.2.beyondHome = m.beyondHome :=
    homeReadWith_beyondHome hr e _ _ _ _
  unfold walkWith
  dsimp only
  split
  · rfl
  · split
    · exact entry _ _ _ _
    · split
      · exact (entry _ _ _ _).trans (entry _ _ _ _)
      · exact (entry _ _ _ _).trans ((entry _ _ _ _).trans (entry _ _ _ _))

theorem ringWriteWith_beyondHome (d : Nat) (r : Ring) (bs : List Byte) (m : Mach) :
    (ringWriteWith rec_ e d r bs m).2.beyondHome = m.beyondHome := by
  unfold ringWriteWith
  dsimp only
  split
  · split
    · exact (homeWriteWith_beyondHome hr e _ _ _ _ _).trans (walkWith_beyondHome hr e _ _ _)
    · exact walkWith_beyondHome hr e _ _ _
  · exact walkWith_beyondHome hr e _ _ _

end recorder

theorem ringEvent_beyondHome (e : Env) (d : Nat) (data : W512) (m : Mach) :
    (ringEvent e d data m).beyondHome = m.beyondHome := by
  unfold ringEvent
  dsimp only
  split
  · rfl
  · split
    · rfl
    · exact ringWriteWith_beyondHome noteEvent_staysHome e _ _ _ _

theorem drainEvents_beyondHome (n : Nat) (e : Env) (d : Nat) (m : Mach) :
    (drainEvents n e d m).beyondHome = m.beyondHome := by
  fun_induction drainEvents n e d m with
  | case1 m n x xs waits ih => exact ih.trans ((ringEvent_beyondHome e d _ _).trans (modDie_beyondHome _ _ _))
  | case2 => rfl

theorem event_staysHome : Recorder.StaysHome event := by
  intro e d type body m
  unfold event
  dsimp only
  split
  · exact (drainEvents_beyondHome _ _ _ _).trans (noteEvent_staysHome _ _ _ _ _)
  · exact noteEvent_staysHome _ _ _ _ _

@[simp] theorem event_beyondHome (e : Env) (d type body : Nat) (m : Mach) :
    (event e d type body m).beyondHome = m.beyondHome := event_staysHome e d type body m

@[simp] theorem homeRead_beyondHome (e : Env) (ag : Agent) (leg la : Nat) (m : Mach) :
    (homeRead e ag leg la m).2.beyondHome = m.beyondHome := homeReadWith_beyondHome event_staysHome _ _ _ _ _

@[simp] theorem homePut_beyondHome (e : Env) (ag : Agent) (leg la data chk : Nat) (dirty : BitVec 8) (m : Mach) :
    (homePut e ag leg la data chk dirty m).beyondHome = m.beyondHome := homePutWith_beyondHome event_staysHome _ _ _ _ _ _ _ _

@[simp] theorem homePoison_beyondHome (e : Env) (ag : Agent) (leg la : Nat) (m : Mach) :
    (homePoison e ag leg la m).beyondHome = m.beyondHome := homePut_beyondHome _ _ _ _ _ _ _ _

@[simp] theorem homeWrite_beyondHome (e : Env) (ag : Agent) (leg pa : Nat) (bs : List Byte) (m : Mach) :
    (homeWrite e ag leg pa bs m).2.beyondHome = m.beyondHome := homeWriteWith_beyondHome event_staysHome _ _ _ _ _ _

@[simp] theorem routeOf_beyondHome (e : Env) (d pkg : Nat) (m : Mach) :
    (routeOf e d pkg m).2.beyondHome = m.beyondHome := by
  unfold routeOf
  split
  · rfl
  · exact homeRead_beyondHome _ _ _ _ _

@[simp] theorem writeFrame_beyondHome (e : Env) (d f off : Nat) (bs : List Byte) (bad : List Nat) (m : Mach) :
    (writeFrame e d f off bs bad m).beyondHome = m.beyondHome := by
  unfold writeFrame
  refine (foldl_beyondHome (fun m k => ?_) _ _).trans (chargeHub_beyondHome _ _ _ _)
  split
  · exact homePoison_beyondHome _ _ _ _ _
  · exact homeWrite_beyondHome _ _ _ _ _ _

end Sys2Proof.Machine
end

section
/-! PROOFS. What a stop leaves of a context's registers while it settles stores, fences and write-backs, and the trap that a
slot raises (R45, R112, R114, R320). -/

namespace Sys2Proof.Machine

/-! ### Registers -/

/-- A context but for its stores, fences and results on their way, and the ports and latches that a stop takes. -/
def Ctx.registers (c : Ctx) : Ctx :=
  { c with stq := [], refusals := [], fences := [], res := [], latches := [], bad := [], ports := [], lateSince := none }

/-- The bundle at issue and the registers of every context. -/
def Mach.regs (m : Mach) : Issue × (Nat → Ctx) := (m.issue, fun k => (m.ctx k).registers)

section
variable {m n : Mach}

theorem issue_of_regs (h : n.regs = m.regs) : n.issue = m.issue := congrArg Prod.fst h

theorem registers_of_regs (h : n.regs = m.regs) (k : Nat) : (n.ctx k).registers = (m.ctx k).registers :=
  congrFun (congrArg Prod.snd h) k

theorem regs_of_ctxs (hi : n.issue = m.issue) (hc : n.ctxs = m.ctxs) : n.regs = m.regs := by
  unfold Mach.regs Mach.ctx
  rw [hi, hc]

theorem regs_of_beyondHome (h : n.beyondHome = m.beyondHome) : n.regs = m.regs :=
  regs_of_ctxs (issue_of_beyondHome h) (ctxs_of_beyondHome h)

end

theorem modCtx_regs (m : Mach) (k : Nat) {f : Ctx → Ctx} (hf : ∀ c, (f c).registers = c.registers := by intro; rfl) :
    (m.modCtx k f).regs = m.regs := by
  unfold Mach.regs
  congr 1
  funext j
  by_cases hj : j = k
  · rw [hj, Mach.ctx_modCtx_same, hf]
  · rw [Mach.ctx_modCtx_of_ne _ _ _ _ hj]

theorem foldl_regs {α : Type} {f : Mach → α → Mach} (hf : ∀ m a, (f m a).regs = m.regs) (l : List α) (m : Mach) :
    (l.foldl f m).regs = m.regs := by
  induction l generalizing m with
  | nil => rfl
  | cons a l ih => exact (ih _).trans (hf m a)

theorem modCore_regs (m : Mach) (k : Nat) (f : Core → Core) : (m.modCore k f).regs = m.regs := rfl

/-! ### Write-backs and stores -/

theorem sendPacket_regs (e : Env) (l : Nat) (i : TxInfo) (bs : List Byte) (m : Mach) :
    (sendPacket e l i bs m).regs = m.regs := by
  unfold sendPacket
  split
  · rfl
  · exact regs_of_ctxs rfl rfl

theorem toPackage_regs (e : Env) (i : TxInfo) (bs : List Byte) (m : Mach) : (toPackage e i bs m).regs = m.regs := by
  unfold toPackage
  split
  · rfl
  next pkg _ =>
    have route := regs_of_beyondHome (routeOf_beyondHome e i.die pkg m)
    dsimp only
    split
    · refine Eq.trans ?_ route
      exact sendPacket_regs e _ i bs _
    · exact route

theorem addHot_regs (m : Mach) (d n bytes : Nat) : (m.addHot d n bytes).regs = m.regs := by
  unfold Mach.addHot
  split <;> rfl

theorem charge_regs (m : Mach) (tk units : Nat) : (m.charge tk units).regs = m.regs :=
  regs_of_beyondHome (charge_beyondHome m tk units)

theorem traffic_regs (e : Env) (ck : Nat) (l : Loc) (buf bytes : Nat) (m : Mach) :
    (traffic e ck l buf bytes m).regs = m.regs := (charge_regs _ _ _).trans (addHot_regs _ _ _ _)

theorem sectorTraffic_regs (e : Env) (core : Nat) (s : Sector) (m : Mach) : (sectorTraffic e core s m).regs = m.regs :=
  (charge_regs _ _ _).trans (addHot_regs _ _ _ _)

theorem homeWrite_regs (e : Env) (ag : Agent) (leg pa : Nat) (bs : List Byte) (m : Mach) :
    (homeWrite e ag leg pa bs m).2.regs = m.regs := regs_of_beyondHome (homeWrite_beyondHome e ag leg pa bs m)

theorem discovery_regs (e : Env) (ag : Agent) (leg copy addr : Nat) (r : Reading) (m : Mach) :
    (discovery event e ag leg copy addr r m).regs = m.regs :=
  regs_of_beyondHome (discovery_beyondHome event_staysHome e ag leg copy addr r m)

theorem writeBackLine_regs (e : Env) (core line key frame leg pa : Nat) (m : Mach) :
    (writeBackLine e core line key frame leg pa m).regs = m.regs := by
  unfold writeBackLine
  split
  · rfl
  · exact (homeWrite_regs _ _ _ _ _ _).trans
      (foldl_regs (f := fun m s => sectorTraffic e core s m) (fun m s => sectorTraffic_regs e core s m) _ _)

theorem writeBack_regs (e : Env) (core key : Nat) (m : Mach) : (writeBack e core key m).regs = m.regs := by
  unfold writeBack
  split
  · rfl
  next s _ =>
    split
    · rfl
    · dsimp only
      generalize before : (if s.bad || s.sound then _ else _ : Mach) = n
      have kept : n.regs = m.regs := by
        rw [← before]
        split
        · exact sectorTraffic_regs _ _ _ _
        · exact (discovery_regs _ _ _ _ _ _ _).trans (sectorTraffic_regs _ _ _ _)
      refine Eq.trans ?_ kept
      split
      · rfl
      · split
        · exact regs_of_beyondHome (homePoison_beyondHome _ _ _ _ _)
        · split
          · exact homeWrite_regs _ _ _ _ _ _
          · exact (writeBackLine_regs _ _ _ _ _ _ _ _).trans (homeWrite_regs _ _ _ _ _ _)
      · exact (foldl_regs (fun _ _ => by exact modCtx_regs _ _) _ _).trans (toPackage_regs _ _ _ _)

theorem writeBackAll_regs (e : Env) (core : Nat) (sel : Sector → Bool) (m : Mach) :
    (writeBackAll e core sel m).regs = m.regs :=
  foldl_regs (f := fun m (p : Nat × Sector) => writeBack e core p.1 m) (fun m p => writeBack_regs e core p.1 m) _ _

theorem spadRead_regs (e : Env) (ag : Agent) (core off : Nat) (m : Mach) : (spadRead e ag core off m).2.regs = m.regs := by
  unfold spadRead
  refine (discovery_regs _ _ _ _ _ _ _).trans ?_
  split <;> rfl

theorem spadWrite_regs (e : Env) (ag : Agent) (core off : Nat) (bs : List Byte) (m : Mach) :
    (spadWrite e ag core off bs m).2.regs = m.regs := by
  unfold spadWrite
  dsimp only
  split
  · rfl
  · split <;> exact spadRead_regs e ag core off _

theorem writeStore_regs (e : Env) (ck : Nat) (s : PStore) (m : Mach) : (writeStore e ck s m).regs = m.regs := by
  unfold writeStore
  dsimp only
  split
  · exact spadWrite_regs _ _ _ _ _ _
  · exact (traffic_regs _ _ _ _ _ _).trans (homeWrite_regs _ _ _ _ _ _)
  · split
    · rfl
    · exact traffic_regs _ _ _ _ _ _

theorem performStore_regs (e : Env) (ck : Nat) (s : PStore) (m : Mach) : (performStore e ck s m).regs = m.regs :=
  (foldl_regs (f := fun m p => writeStore e ck p m) (fun m p => writeStore_regs e ck p m) _ _).trans
    (modCtx_regs _ _)

theorem refuseStore_regs (ck : Nat) (s : PStore) (m : Mach) : (refuseStore ck s m).regs = m.regs :=
  modCtx_regs _ _

theorem settleStores_regs (e : Env) (ck : Nat) (sel : PStore → Bool) (m : Mach) :
    (settleStores e ck sel m).regs = m.regs := by
  refine foldl_regs (fun m s => ?_) _ _
  split
  · dsimp only
    split
    · exact refuseStore_regs ck s _
    · exact performStore_regs e ck s _
  · exact performStore_regs e ck s m

/-! ### Fences and the stop -/

theorem orderClasses_regs (ck upto : Nat) (m : Mach) : (orderClasses ck upto m).regs = m.regs :=
  modCtx_regs _ _

theorem acquireDie_regs (ck : Nat) (m : Mach) : (acquireDie ck m).regs = m.regs :=
  (modCore_regs _ _ _).trans (orderClasses_regs _ _ _)

theorem act_regs (e : Env) (ck : Nat) (f : Fence) (m : Mach) : (f.act e ck m).regs = m.regs := by
  have ordered : (if f.kind.orders then orderClasses ck f.upto m else m).regs = m.regs := by
    split
    · exact orderClasses_regs _ _ _
    · rfl
  unfold Fence.act
  dsimp only
  generalize (if f.kind.orders then orderClasses ck f.upto m else m) = n at ordered ⊢
  split
  next scope acq rel _ =>
    have released : (if rel && scope == 2 then writeBackAll e (ctxCore ck) (fun s => s.cls == .own) n else n).regs
        = m.regs := by
      split
      · exact (writeBackAll_regs _ _ _ _).trans ordered
      · exact ordered
    split
    · exact (acquireDie_regs _ _).trans released
    · exact released
  · exact (writeBackAll_regs _ _ _ _).trans ordered
  · exact (writeBackAll_regs _ _ _ _).trans ordered
  · exact ordered
  · exact ordered

theorem settleFencesWith_regs (all : Bool) (e : Env) (ck : Nat) (m : Mach) :
    (settleFencesWith all e ck m).regs = m.regs := by
  refine foldl_regs (fun m f => ?_) _ _
  split
  · exact (modCtx_regs _ _).trans (act_regs e ck f m)
  · rfl

theorem settleSent_regs (e : Env) (f : Fence) (m : Mach) : (settleSent e f m).regs = m.regs := by
  unfold settleSent
  split
  · exact foldl_regs (fun m p => settleStores_regs e _ _ m) _ _
  · rfl

theorem finishFences_regs (e : Env) (ck : Nat) (m : Mach) : (finishFences e ck m).regs = m.regs := by
  unfold finishFences
  split
  · rfl
  · exact (settleFencesWith_regs _ _ _ _).trans
      ((foldl_regs (fun m f => settleSent_regs e f m) _ _).trans (settleStores_regs e ck _ m))

theorem landLatch_registers (now q : Nat) (c : Ctx) : (landLatch now q c).registers = c.registers := by
  unfold landLatch
  dsimp only
  split <;> rfl

theorem landDue_registers (now : Nat) (c : Ctx) : (landDue now c).registers = c.registers := by
  unfold landDue
  split
  · rfl
  next pending =>
    clear pending
    generalize List.range 19 = l
    induction l generalizing c with
    | nil => rfl
    | cons q l ih => exact (ih _).trans (landLatch_registers now q c)

theorem settleForStop_regs (e : Env) (ck : Nat) (m : Mach) : (settleForStop e ck m).regs = m.regs :=
  (modCtx_regs _ _).trans (finishFences_regs e ck m)

theorem stopInto_regs (e : Env) (ck x cs : Nat) (snaps : List W512) (m : Mach) :
    (stopInto e ck x cs snaps m).regs = m.regs :=
  (modCtx_regs _ _).trans ((regs_of_beyondHome (writeFrame_beyondHome _ _ _ _ _ _ _)).trans
    ((modCore_regs _ _ _).trans ((settleForStop_regs e ck _).trans (modCtx_regs m ck (landDue_registers _)))))

/-- A stop leaves the context without ports, latches and results. -/
theorem stopInto_loses (e : Env) (ck x cs : Nat) (snaps : List W512) (m : Mach) :
    ((stopInto e ck x cs snaps m).ctx ck).ports = [] ∧ ((stopInto e ck x cs snaps m).ctx ck).latches = []
      ∧ ((stopInto e ck x cs snaps m).ctx ck).res = [] := by
  unfold stopInto
  simp only [Mach.ctx_modCtx_same, and_self]

/-! ### The settings that a stop makes take effect (R131, R154) -/

/-- A context but for the control and status registers that a CSR write of a bundle may change. -/
def Ctx.standing (c : Ctx) : Ctx := { c with csr := { intrap := c.csr.intrap, priv := c.csr.priv } }

theorem writeCtxCsr_keeps (n v : Nat) (x : Csrs) :
    (writeCtxCsr n v x).intrap = x.intrap ∧ (writeCtxCsr n v x).priv = x.priv := by
  unfold writeCtxCsr
  split
  case h_7 => split <;> exact ⟨rfl, rfl⟩
  all_goals exact ⟨rfl, rfl⟩

theorem modCur_standing (m : Mach) {f : Csrs → Csrs} (hf : ∀ x, (f x).intrap = x.intrap ∧ (f x).priv = x.priv) :
    (m.modCur fun c => { c with csr := f c.csr }).cur.standing = m.cur.standing := by
  rw [Mach.cur_modCur]
  simp only [Ctx.standing, hf]

theorem writeCsrNow_keeps (n v : Nat) (m : Mach) :
    (writeCsrNow n v m).issue = m.issue ∧ (writeCsrNow n v m).cur.standing = m.cur.standing := by
  have cleared : (if n = 0x000 ∧ tst v 15 then m.modCur fun c => { c with csr := { c.csr with uiovf := false } } else m).issue
        = m.issue
      ∧ (if n = 0x000 ∧ tst v 15 then m.modCur fun c => { c with csr := { c.csr with uiovf := false } } else m).cur.standing
        = m.cur.standing := by
    split
    · exact ⟨rfl, modCur_standing m (f := fun x => { x with uiovf := false }) fun _ => ⟨rfl, rfl⟩⟩
    · exact ⟨rfl, rfl⟩
  unfold writeCsrNow
  dsimp only
  generalize (if n = 0x000 ∧ tst v 15 then m.modCur fun c => { c with csr := { c.csr with uiovf := false } } else m) = n' at cleared ⊢
  obtain ⟨issue, standing⟩ := cleared
  split
  · exact ⟨issue, standing⟩
  · split
    · exact ⟨issue, standing⟩
    · exact ⟨issue, (modCur_standing _ (writeCtxCsr_keeps n v)).trans standing⟩

theorem applyWrite_keeps (w : CsrWrite) (m : Mach) :
    (applyWrite w m).issue = m.issue ∧ (applyWrite w m).cur.standing = m.cur.standing := by
  unfold applyWrite
  split
  · exact ⟨rfl, modCur_standing m (writeCtxCsr_keeps w.n w.v)⟩
  · exact writeCsrNow_keeps w.n w.v m

theorem foldl_applyWrite_keeps (ws : List CsrWrite) (m : Mach) :
    (ws.foldl (fun m w => applyWrite w m) m).issue = m.issue
      ∧ (ws.foldl (fun m w => applyWrite w m) m).cur.standing = m.cur.standing := by
  induction ws generalizing m with
  | nil => exact ⟨rfl, rfl⟩
  | cons w ws ih =>
    obtain ⟨issue, standing⟩ := applyWrite_keeps w m
    exact ⟨(ih _).1.trans issue, (ih _).2.trans standing⟩

/-- The machine with the settings of its bundle in force (R154), before its CSR writes. -/
def Mach.withSettings (m : Mach) : Mach :=
  m.modCur fun c =>
    { c with csr := { c.csr with fmt := m.issue.newFmt.getD c.csr.fmt, mode := m.issue.newMode.getD c.csr.mode,
                                 seed := m.issue.newSeed.getD c.csr.seed } }

theorem withSettings_standing (m : Mach) : m.withSettings.cur.standing = m.cur.standing :=
  modCur_standing m (f := fun x => { x with fmt := m.issue.newFmt.getD x.fmt, mode := m.issue.newMode.getD x.mode,
                                            seed := m.issue.newSeed.getD x.seed }) fun _ => ⟨rfl, rfl⟩

theorem applySettings_eq (m : Mach) :
    applySettings m = (m.issue.newCsr.foldl (fun m w => applyWrite w m) m.withSettings).modIssue fun i =>
      { i with newFmt := none, newMode := none, newSeed := none, newCsr := [],
               oldCsr := if i.newCsr.isEmpty then i.oldCsr else some i.start.csr } := rfl

/-- What the settings leave: the bundle's place, slots and record, and the context but for its CSRs. -/
theorem applySettings_keeps (m : Mach) :
    (applySettings m).issue.ck = m.issue.ck ∧ (applySettings m).issue.slot = m.issue.slot
      ∧ (applySettings m).issue.done = m.issue.done ∧ (applySettings m).issue.addr = m.issue.addr
      ∧ (applySettings m).cur.standing = m.cur.standing := by
  obtain ⟨issue, standing⟩ := foldl_applyWrite_keeps m.issue.newCsr m.withSettings
  rw [applySettings_eq]
  generalize m.issue.newCsr.foldl (fun m w => applyWrite w m) m.withSettings = n at issue standing ⊢
  show n.issue.ck = m.issue.ck ∧ n.issue.slot = m.issue.slot ∧ n.issue.done = m.issue.done ∧ n.issue.addr = m.issue.addr
    ∧ n.cur.standing = m.cur.standing
  exact ⟨congrArg Issue.ck issue, congrArg Issue.slot issue, congrArg Issue.done issue, congrArg Issue.addr issue,
    standing.trans (withSettings_standing m)⟩

/-! ### The trap (R114) -/

/-- A stopped context with its pipeline saved: it has lost ports, latches and results, and keeps its registers and
privilege. -/
theorem saveStruck_spec (e : Env) (ck : Nat) (b : Struck) (reason : Nat) (m : Mach) :
    (saveStruck e ck b reason m).issue = m.issue
      ∧ ∀ c, c = (saveStruck e ck b reason m).ctx ck → c.ports = [] ∧ c.latches = [] ∧ c.res = []
        ∧ c.csr.priv = (m.ctx ck).csr.priv ∧ c.g = (m.ctx ck).g ∧ c.v = (m.ctx ck).v ∧ c.p = (m.ctx ck).p
        ∧ c.i = (m.ctx ck).i := by
  have saved (n : Mach) (off : Nat) (f : Nat) (bs : List Byte) (bad : List Nat) :
      (writeFrame e (ctxDie ck) f off bs bad n).issue = n.issue ∧ (writeFrame e (ctxDie ck) f off bs bad n).ctx ck = n.ctx ck :=
    ⟨issue_of_beyondHome (writeFrame_beyondHome _ _ _ _ _ _ _),
      congrArg (fun cs => SMap.get ({} : Ctx) cs ck) (ctxs_of_beyondHome (writeFrame_beyondHome _ _ _ _ _ _ _))⟩
  unfold saveStruck
  dsimp only
  rw [(saved _ _ _ _ _).1, (saved _ _ _ _ _).2]
  have regs := stopInto_regs e ck 0x1000 b.cs b.snaps
    (standCounter ck (m.modCtx ck fun c => { c with haltPend := c.haltPend || m.issue.halt }))
  refine ⟨(issue_of_regs regs).trans rfl, ?_⟩
  rintro c rfl
  have kept := registers_of_regs regs ck
  simp only [standCounter, Mach.ctx_modCtx_same] at kept
  obtain ⟨ports, latches, res⟩ := stopInto_loses e ck 0x1000 b.cs b.snaps
    (standCounter ck (m.modCtx ck fun c => { c with haltPend := c.haltPend || m.issue.halt }))
  exact ⟨ports, latches, res, congrArg (·.csr.priv) kept, congrArg (·.g) kept, congrArg (·.v) kept, congrArg (·.p) kept,
    congrArg (·.i) kept⟩

/-- A trap taken outside a handler leaves the context at the handler's start (R114). -/
theorem takeTrap_spec (e : Env) {cause : Nat} (tval : W64) (b : Struck) {m : Mach} (hc : cause ≠ Cause.checkMismatch)
    (hi : m.cur.csr.intrap = false) :
    (takeTrap e m.issue.ck cause tval b m).issue = m.issue
      ∧ ∀ c, c = (takeTrap e m.issue.ck cause tval b m).cur →
        c.csr.tcause = BitVec.ofNat 8 cause ∧ c.csr.tval = tval ∧ c.csr.tslot = b.slot ∧ c.csr.tdone = b.done
        ∧ c.csr.tbundle = b.addr ∧ c.csr.ppriv = m.cur.csr.priv ∧ c.csr.priv = true ∧ c.csr.intrap = true
        ∧ c.pc = ((takeTrap e m.issue.ck cause tval b m).die (m.issue.ck / 768)).tvec.setWidth 64 ∧ c.pend = none
        ∧ c.ports = [] ∧ c.latches = [] ∧ c.res = []
        ∧ c.g = m.cur.g ∧ c.v = m.cur.v ∧ c.p = m.cur.p ∧ c.i = m.cur.i := by
  obtain ⟨issue, saved⟩ := saveStruck_spec e m.issue.ck b 1 m
  obtain ⟨ports, latches, res, priv, g, v, p, i⟩ := saved _ rfl
  have outside : (m.ctx m.issue.ck).csr.intrap = false := hi
  unfold takeTrap
  simp only [if_neg hc, outside, Bool.false_eq_true, if_false]
  generalize saveStruck e m.issue.ck b 1 m = n at issue ports latches res priv g v p i ⊢
  refine ⟨issue, ?_⟩
  rintro c rfl
  have here : n.issue.ck = m.issue.ck := congrArg Issue.ck issue
  simp only [Mach.cur, Mach.modCtx_issue, here, Mach.ctx_modCtx_same, Mach.die_modCtx]
  exact ⟨trivial, trivial, trivial, trivial, trivial, priv, trivial, trivial, rfl, trivial, ports, latches, res, g, v, p, i⟩

/-! ### A slot that stops (R45, R106, R126) -/

section slot

variable {s : State} {i : Instr} {u o : Nat} {t : Trig} {body : M Unit}

theorem began_issue_done (s : State) (i : Instr) : (s.m.began i).issue.done = s.m.issue.done := by
  unfold Mach.began
  split <;> rfl

theorem began_issue_addr (s : State) (i : Instr) : (s.m.began i).issue.addr = s.m.issue.addr := by
  unfold Mach.began
  split <;> rfl

/-- The machine after a slot has raised a trap: the slots below `done` count as done (R45, R114). -/
def trapOf (e : Env) (cause : Nat) (tval : W64) (done : Nat) (m : Mach) : Mach :=
  (takeTrap e m.issue.ck cause tval (struckNow e (applySettings m) done) (applySettings m)).modIssue fun x =>
    { x with out := .stopped }

theorem trapped_of_trapOf {cause : Nat} (tval : W64) (done : Nat) (hc : cause ≠ Cause.checkMismatch)
    (hi : s.m.cur.csr.intrap = false) :
    s.Trapped { s with m := trapOf ⟨s.boot, s.clk⟩ cause tval done (s.m.began i) } cause tval done := by
  obtain ⟨ck, slot, hdone, addr, standing⟩ := applySettings_keeps (s.m.began i)
  rw [began_cur] at standing
  have outside : (applySettings (s.m.began i)).cur.csr.intrap = false := (congrArg (·.csr.intrap) standing).trans hi
  obtain ⟨-, trapped⟩ := takeTrap_spec ⟨s.boot, s.clk⟩ tval
    (struckNow ⟨s.boot, s.clk⟩ (applySettings (s.m.began i)) done) hc outside
  rw [began_issue_slot] at slot
  rw [began_issue_done] at hdone
  rw [began_issue_addr] at addr
  rw [began_issue_ck] at ck
  unfold trapOf
  rw [began_issue_ck]
  simp only [ck] at trapped
  generalize takeTrap ⟨s.boot, s.clk⟩ s.m.issue.ck cause tval _ _ = n at trapped ⊢
  obtain ⟨htcause, htval, htslot, htdone, htbundle, hppriv, hpriv, hintrap, hpc, hpend, hports, hlatches, hres, hg, hv, hp,
    hi⟩ := trapped _ rfl
  exact ⟨rfl, htcause, htval, htslot.trans slot, htdone.trans (congrArg (· ||| _) hdone), htbundle.trans addr,
    hppriv.trans (congrArg (·.csr.priv) standing), hpriv, hintrap, hpc, hpend, hports, hlatches, hres,
    hg.trans (congrArg (·.g) standing), hv.trans (congrArg (·.v) standing), hp.trans (congrArg (·.p) standing),
    hi.trans (congrArg (·.i) standing)⟩

theorem stopSlot_trap (e : Env) (c : Nat) (v : W64) (m : Mach) :
    stopSlot e (.trap c v) m = trapOf e c v (applySettings m).issue.slot m := rfl

theorem stopSlot_userTrap (e : Env) (v : W64) (m : Mach) :
    stopSlot e (.userTrap v) m = trapOf e 18 v ((applySettings m).issue.slot + 1) m := rfl

theorem stopSlot_block (e : Env) (w : Wait) (x : W64) (b : Bool) (m : Mach) :
    stopSlot e (.block w x b) m = m.modIssue fun i => { i with out := .blocked ⟨w, i.slot, x, b⟩ } := rfl

theorem slot_of_settings (s : State) (i : Instr) : (applySettings (s.m.began i)).issue.slot = s.m.issue.slot := by
  obtain ⟨-, slot, -⟩ := applySettings_keeps (s.m.began i)
  rw [slot, began_issue_slot]

/-- A trigger whose meaning raises a trap faults at its slot. -/
theorem faults_of_trap {cause : Nat} {tval : W64} (hi : opCode i = some (u, o, t)) (hc : cause ≠ Cause.checkMismatch)
    (hexec : exec i s = slotStep i t.guard body s)
    (hb : body ⟨s.boot, s.clk⟩ (s.m.began i) = .error (.trap cause tval) (s.m.began i)) : s.Faults i cause tval := by
  intro acts outside
  refine ⟨_, hexec.trans (slotStep_of_error acts hi hb), ?_⟩
  rw [stopSlot_trap, slot_of_settings]
  exact trapped_of_trapOf tval _ hc outside

/-- A trigger whose meaning blocks changes the bundle's record only. -/
theorem blocks_of_block {w : Wait} {x : W64} {b : Bool} (hi : opCode i = some (u, o, t))
    (hexec : exec i s = slotStep i t.guard body s)
    (hb : body ⟨s.boot, s.clk⟩ (s.m.began i) = .error (.block w x b) (s.m.began i)) : s.Blocks i w x b := by
  intro acts
  rw [hexec, slotStep_of_error acts hi hb, stopSlot_block, ← began_issue_slot s i]
  rfl

/-- A trigger whose meaning sends one word delivers it. -/
theorem deliversWord_of_result {q lat : Nat} {v : W64} (hi : opCode i = some (u, o, t))
    (hexec : exec i s = slotStep i t.guard body s)
    (hb : body ⟨s.boot, s.clk⟩ (s.m.began i) = result64 q lat v ⟨s.boot, s.clk⟩ (s.m.began i)) :
    s.DeliversWord i q lat v := by
  intro acts
  rw [hexec, slotStep_of_ok acts hi (hb.trans (result_ok q lat _))]
  rfl

/-- A trigger whose meaning changes the bundle's record only. -/
theorem exec_eq_notes {f : Issue → Issue} (hi : opCode i = some (u, o, t)) (hexec : exec i s = slotStep i t.guard body s)
    (hb : body ⟨s.boot, s.clk⟩ (s.m.began i) = .ok () ((s.m.began i).modIssue f)) (acts : s.acts i = true) :
    exec i s = .next (s.notes i f) := hexec.trans (slotStep_of_ok acts hi hb)

end slot

end Sys2Proof.Machine
end

section
/-! PROOFS. The branch unit but for its transfers (R126 to R130). -/

namespace Sys2Proof.Machine

section

variable {s : State} {i : Instr} {e : Env} {m : Mach}

theorem require_true {cause : Nat} {v : W64} : require true cause v e m = .ok () m := rfl

theorem require_false {cause : Nat} {v : W64} : require false cause v e m = .error (.trap cause v) m := rfl

theorem notInDelay_ok (hp : s.m.issue.start.pend = none) (hr : s.m.issue.start.retPend = 0) :
    notInDelay e (s.m.began i) = .ok () (s.m.began i) := by
  unfold notInDelay
  rw [bind_ok get_ok]
  simp only [inDelay, began_start, hp, hr]
  rfl

end

/-- br.trap (R126). -/
theorem brTrap_traps (s : State) (t : Trig) (X : W512) (hX : s.Reads t.src X) (acts : s.acts (.brTrap t) = true)
    (outside : s.m.cur.csr.intrap = false) :
    ∃ s', exec (.brTrap t) s = .next s' ∧ s.Trapped s' 18 (X.setWidth 64) (s.m.issue.slot + 1) := by
  have body : slotBrTrap t ⟨s.boot, s.clk⟩ (s.m.began (.brTrap t))
      = .error (.userTrap (X.setWidth 64)) (s.m.began (.brTrap t)) := bind_ok (operand64_ok hX)
  refine ⟨_, slotStep_of_error acts rfl body, ?_⟩
  rw [stopSlot_userTrap, slot_of_settings]
  exact trapped_of_trapOf _ _ (by decide) outside

theorem brHalt_notes {s : State} {t : Trig} {X : W512} (hX : s.Reads t.src X) (acts : s.acts (.brHalt t) = true) :
    exec (.brHalt t) s = .next (s.notes (.brHalt t) fun i => { i with halt := true }) :=
  exec_eq_notes (body := slotBrHalt t) rfl rfl (bind_ok (operand64_ok hX)) acts

theorem brYield_notes {s : State} {t : Trig} {X : W512} (hX : s.Reads t.src X) (acts : s.acts (.brYield t) = true) :
    exec (.brYield t) s = .next (s.notes (.brYield t) fun i => { i with yield_ := true }) :=
  exec_eq_notes (body := slotBrYield t) rfl rfl (bind_ok (operand64_ok hX)) acts

section uiret

variable {s : State} {t : Trig} {X : W512} (hX : s.Reads t.src X) (hp : s.m.issue.start.pend = none)
  (hr : s.m.issue.start.retPend = 0)
include hX hp hr

/-- br.uiret once it has read its operand outside a delay bundle (R130). -/
theorem slotBrUiret_eq :
    slotBrUiret t ⟨s.boot, s.clk⟩ (s.m.began (.brUiret t))
      = (if X.setWidth 64 = 0 then do
            require s.m.cur.csr.inui Cause.illegalSlot (X.setWidth 64)
            modify fun m => m.modIssue fun i => { i with ret := 1, pend := some (s.m.cur.csr.uiepc.setWidth 64) }
          else if X.setWidth 64 = 1 then do
            require s.m.cur.csr.priv Cause.priv (X.setWidth 64)
            require s.m.cur.csr.intrap Cause.illegalSlot (X.setWidth 64)
            modify fun m => m.modIssue fun i => { i with ret := 2 }
          else trap Cause.illegalSlot (X.setWidth 64) : M Unit) ⟨s.boot, s.clk⟩ (s.m.began (.brUiret t)) := by
  unfold slotBrUiret
  rw [bind_ok (operand64_ok hX), bind_ok (notInDelay_ok hp hr), bind_ok get_ok, began_cur]

theorem brUiret_interrupt_notes (hx : X.setWidth 64 = (0 : W64)) (inside : s.m.cur.csr.inui = true)
    (acts : s.acts (.brUiret t) = true) :
    exec (.brUiret t) s = .next (s.notes (.brUiret t) fun i =>
      { i with ret := 1, pend := some (s.m.cur.csr.uiepc.setWidth 64) }) := by
  refine exec_eq_notes (body := slotBrUiret t) rfl rfl ?_ acts
  rw [slotBrUiret_eq hX hp hr, if_pos hx, inside]
  exact bind_ok require_true

theorem brUiret_trap_notes (hx : X.setWidth 64 = (1 : W64)) (priv : s.m.cur.csr.priv = true)
    (inside : s.m.cur.csr.intrap = true) (acts : s.acts (.brUiret t) = true) :
    exec (.brUiret t) s = .next (s.notes (.brUiret t) fun i => { i with ret := 2 }) := by
  refine exec_eq_notes (body := slotBrUiret t) rfl rfl ?_ acts
  rw [slotBrUiret_eq hX hp hr, if_neg (by simp [hx]), if_pos hx, priv, inside, bind_ok require_true]
  exact bind_ok require_true

theorem brUiret_faults_of_user (hx : X.setWidth 64 = (1 : W64)) (user : s.m.cur.csr.priv = false) :
    s.Faults (.brUiret t) 8 (X.setWidth 64) := by
  refine faults_of_trap (body := slotBrUiret t) rfl (by decide) rfl ?_
  rw [slotBrUiret_eq hX hp hr, if_neg (by simp [hx]), if_pos hx, user]
  exact bind_error require_false

theorem brUiret_faults_outside_trap (hx : X.setWidth 64 = (1 : W64)) (priv : s.m.cur.csr.priv = true)
    (outside : s.m.cur.csr.intrap = false) : s.Faults (.brUiret t) 1 (X.setWidth 64) := by
  refine faults_of_trap (body := slotBrUiret t) rfl (by decide) rfl ?_
  rw [slotBrUiret_eq hX hp hr, if_neg (by simp [hx]), if_pos hx, priv, outside, bind_ok require_true]
  exact bind_error require_false

theorem brUiret_faults_outside_interrupt (hx : X.setWidth 64 = (0 : W64)) (outside : s.m.cur.csr.inui = false) :
    s.Faults (.brUiret t) 1 (X.setWidth 64) := by
  refine faults_of_trap (body := slotBrUiret t) rfl (by decide) rfl ?_
  rw [slotBrUiret_eq hX hp hr, if_pos hx, outside]
  exact bind_error require_false

theorem brUiret_faults_of_large (hx : 1 < (X.setWidth 64 : W64).toNat) : s.Faults (.brUiret t) 1 (X.setWidth 64) := by
  refine faults_of_trap (body := slotBrUiret t) rfl (by decide) rfl ?_
  rw [slotBrUiret_eq hX hp hr, if_neg (fun h => by simp [h] at hx), if_neg (fun h => by simp [h] at hx)]
  exact trap_error _ _

end uiret

section wait

variable {s : State} {t : Trig} {X : W512} (hX : s.Reads t.src X)
include hX

/-- br.wait once it has read its operand (R129). -/
theorem slotBrWait_eq :
    slotBrWait t ⟨s.boot, s.clk⟩ (s.m.began (.brWait t))
      = (if s.m.issue.start.woken then brResult 1
          else if reached s.clk.tick ((X.setWidth 64 : W64).setWidth 48) then brResult 0
          else if !s.m.cur.uiq.isEmpty && s.m.issue.start.csr.uien then brResult 1
          else block (.tick ((X.setWidth 64 : W64).setWidth 48)) (X.setWidth 64) false : M Unit)
        ⟨s.boot, s.clk⟩ (s.m.began (.brWait t)) := by
  unfold slotBrWait
  rw [bind_ok (operand64_ok hX), bind_ok get_ok]
  simp only [began_start, began_cur]
  split
  · rfl
  · rw [bind_ok read_ok]

theorem brWait_woken (woken : s.m.issue.start.woken = true) : s.DeliversWord (.brWait t) 12 1 1 := by
  refine deliversWord_of_result (body := slotBrWait t) rfl rfl ?_
  rw [slotBrWait_eq hX, if_pos woken]
  rfl

theorem brWait_reached (woken : s.m.issue.start.woken = false)
    (past : (s.clk.tick - (X.setWidth 64 : W64).setWidth 48).toNat < 2 ^ 47) : s.DeliversWord (.brWait t) 12 1 0 := by
  refine deliversWord_of_result (body := slotBrWait t) rfl rfl ?_
  rw [slotBrWait_eq hX, if_neg (by simp [woken]), if_pos (by simpa [reached] using past)]
  rfl

variable (woken : s.m.issue.start.woken = false)
  (ahead : 2 ^ 47 ≤ (s.clk.tick - (X.setWidth 64 : W64).setWidth 48).toNat)
include woken ahead

theorem brWait_interrupted (queued : s.m.cur.uiq ≠ []) (enabled : s.m.issue.start.csr.uien = true) :
    s.DeliversWord (.brWait t) 12 1 1 := by
  refine deliversWord_of_result (body := slotBrWait t) rfl rfl ?_
  rw [slotBrWait_eq hX, if_neg (by simp [woken]), if_neg (by simpa [reached] using ahead), if_pos (by simp [queued, enabled])]
  rfl

theorem brWait_blocks (idle : s.m.cur.uiq = [] ∨ s.m.issue.start.csr.uien = false) :
    s.Blocks (.brWait t) (.tick ((X.setWidth 64 : W64).setWidth 48)) (X.setWidth 64) false := by
  refine blocks_of_block (body := slotBrWait t) rfl rfl ?_
  rw [slotBrWait_eq hX, if_neg (by simp [woken]), if_neg (by simpa [reached] using ahead),
    if_neg (by obtain h | h := idle <;> simp [h])]
  exact block_error _ _ _

end wait

/-- Settles O15: each operation, and each of its operands' cases, by its own lemma. -/
theorem branchUnitOthers : Obligations.BranchUnitOthers := by
  refine ⟨brTrap_traps, fun s t X hX => ⟨brHalt_notes hX, brYield_notes hX, fun hp hr x hx => ?_⟩,
    fun s t X hX x hx => ?_⟩
  · subst hx
    exact ⟨brUiret_interrupt_notes hX hp hr, brUiret_trap_notes hX hp hr, brUiret_faults_of_user hX hp hr,
      brUiret_faults_outside_trap hX hp hr, brUiret_faults_outside_interrupt hX hp hr, brUiret_faults_of_large hX hp hr⟩
  · subst hx
    exact ⟨brWait_woken hX, brWait_reached hX,
      fun woken ahead => ⟨brWait_interrupted hX woken ahead, brWait_blocks hX woken ahead⟩⟩

end Sys2Proof.Machine
end

section
/-! PROOFS. Bytes of numbers and of memories. -/

namespace Sys2Proof

/-- Byte i of a number. -/
def byteN (x i : Nat) : Byte := BitVec.ofNat 8 (x >>> (8 * i))

theorem byteN_getLsbD (x i j : Nat) : (byteN x i).getLsbD j = (decide (j < 8) && x.testBit (8 * i + j)) := by
  simp [byteN, BitVec.getLsbD_ofNat, Nat.testBit_shiftRight]

theorem byteN_ext {x y i : Nat} (h : ∀ j < 8, x.testBit (8 * i + j) = y.testBit (8 * i + j)) : byteN x i = byteN y i := by
  apply BitVec.eq_of_getLsbD_eq
  intro j hj
  rw [byteN_getLsbD, byteN_getLsbD, h j hj]

theorem ofBytes_lt (bs : List Byte) : ofBytes bs < 2 ^ (8 * bs.length) := by
  induction bs with
  | nil => exact Nat.one_pos
  | cons b r ih =>
    rw [List.length_cons, Nat.mul_add, Nat.pow_add]
    simp only [ofBytes]
    have := b.isLt
    omega

theorem byteN_ofBytes (bs : List Byte) (i : Nat) : byteN (ofBytes bs) i = bs.getD i 0 := by
  induction bs generalizing i with
  | nil => simp [byteN, ofBytes]
  | cons b r ih =>
    have hb := b.isLt
    cases i with
    | zero =>
      apply BitVec.eq_of_toNat_eq
      simp only [byteN, ofBytes, Nat.mul_zero, Nat.shiftRight_zero, BitVec.toNat_ofNat, List.getD_cons_zero]
      omega
    | succ i =>
      rw [List.getD_cons_succ, ← ih]
      unfold byteN
      rw [Nat.mul_succ, Nat.add_comm (8 * i), Nat.shiftRight_add]
      congr 2
      simp only [ofBytes, Nat.shiftRight_eq_div_pow]
      omega

@[simp] theorem bytesOf_length (x n : Nat) : (bytesOf x n).length = n := by
  induction n generalizing x with
  | zero => rfl
  | succ n ih => simp [bytesOf, ih]

theorem bytesOf_getD {x n i : Nat} (hi : i < n) : (bytesOf x n).getD i 0 = byteN x i := by
  induction n generalizing x i with
  | zero => omega
  | succ n ih =>
    cases i with
    | zero => simp [bytesOf, byteN]
    | succ i =>
      rw [bytesOf, List.getD_cons_succ, ih (by omega)]
      unfold byteN
      rw [Nat.mul_succ, Nat.add_comm (8 * i), Nat.shiftRight_add, Nat.shiftRight_eq_div_pow x 8]

theorem ofBytes_ext {x : Nat} {bs : List Byte} (hx : x < 2 ^ (8 * bs.length)) (h : ∀ i < bs.length, bs.getD i 0 = byteN x i) :
    ofBytes bs = x := by
  refine Nat.eq_of_testBit_eq fun j => ?_
  by_cases hj : j < 8 * bs.length
  · have same : byteN (ofBytes bs) (j / 8) = byteN x (j / 8) := by rw [byteN_ofBytes, h _ (by omega)]
    have bit := congrArg (fun b : Byte => b.getLsbD (j % 8)) same
    simp only [byteN_getLsbD, Nat.div_add_mod] at bit
    simpa [show j % 8 < 8 by omega] using bit
  · have high {y : Nat} (hy : y < 2 ^ (8 * bs.length)) : y.testBit j = false :=
      Nat.testBit_lt_two_pow (Nat.lt_of_lt_of_le hy (Nat.pow_le_pow_right (by omega) (by omega)))
    rw [high (ofBytes_lt bs), high hx]

/-- The n bytes from an address, one by one. -/
theorem Memory.bytes_eq (m : Memory) (a n : Nat) : m.bytes a n = (List.range n).map fun i => m.read (a + i) := by
  have near (i : Nat) (hi : i < n) :
      Memory.read (m.filter fun c => decide (a ≤ c.1) && decide (c.1 < a + n)) (a + i) = m.read (a + i) :=
    Memory.get_filter 0 m (fun k => decide (a ≤ k) && decide (k < a + n)) (a + i) (by simp; omega)
  unfold Memory.bytes
  dsimp only
  split
  next none =>
    refine List.ext_getElem (by simp) fun i h1 h2 => ?_
    have hi : i < n := by simpa using h1
    rw [List.getElem_replicate, List.getElem_map, List.getElem_range, ← near i hi, List.isEmpty_iff.1 none]
    rfl
  · exact List.map_congr_left fun i hi => near i (List.mem_range.1 hi)

theorem byteN_bytes (m : Memory) {a n i : Nat} (hi : i < n) : byteN (ofBytes (m.bytes a n)) i = m.read (a + i) := by
  rw [byteN_ofBytes, Memory.bytes_eq, List.getD_eq_getElem?_getD]
  simp [hi]

@[simp] theorem Memory.bytes_length (m : Memory) (a n : Nat) : (m.bytes a n).length = n := by simp [Memory.bytes_eq]

namespace Machine

theorem mergeBytes_testBit (line o : Nat) (bs : List Byte) (j : Nat) :
    (mergeBytes line o bs).testBit j
      = if j < 8 * o then line.testBit j
        else if j < 8 * (o + bs.length) then (ofBytes bs).testBit (j - 8 * o) else line.testBit j := by
  have size := ofBytes_lt bs
  have shape : mergeBytes line o bs
      = 2 ^ (8 * o) * (2 ^ (8 * bs.length) * (line / 2 ^ (8 * o + 8 * bs.length)) + ofBytes bs) + line % 2 ^ (8 * o) := by
    unfold mergeBytes
    dsimp only
    rw [Nat.pow_add]
    ring
  rw [shape, Nat.testBit_two_pow_mul_add _ (Nat.mod_lt _ (by positivity)), Nat.testBit_two_pow_mul_add _ size]
  split
  next low => rw [Nat.testBit_mod_two_pow, decide_eq_true low, Bool.true_and]
  · by_cases mid : j < 8 * (o + bs.length)
    · rw [if_pos mid, if_pos (by omega)]
    · rw [if_neg mid, if_neg (by omega), Nat.testBit_div_two_pow]
      congr 1
      omega

/-- The bytes of a line after a write of some of them. -/
theorem byteN_mergeBytes (line o : Nat) (bs : List Byte) (i : Nat) :
    byteN (mergeBytes line o bs) i
      = if o ≤ i ∧ i < o + bs.length then bs.getD (i - o) 0 else byteN line i := by
  split
  next inside =>
    rw [← byteN_ofBytes]
    apply BitVec.eq_of_getLsbD_eq
    intro j hj
    rw [byteN_getLsbD, byteN_getLsbD, mergeBytes_testBit, if_neg (by omega), if_pos (by omega)]
    congr 2
    omega
  next outside =>
    refine byteN_ext fun j hj => ?_
    rw [mergeBytes_testBit]
    split
    · rfl
    · rw [if_neg (by omega)]

theorem mergeBytes_lt {line o n : Nat} {bs : List Byte} (hl : line < 2 ^ (8 * n)) (ho : o + bs.length ≤ n) :
    mergeBytes line o bs < 2 ^ (8 * n) := by
  refine Nat.lt_pow_two_of_testBit _ fun j hj => ?_
  rw [mergeBytes_testBit, if_neg (by omega), if_neg (by omega)]
  exact Nat.testBit_lt_two_pow (Nat.lt_of_lt_of_le hl (Nat.pow_le_pow_right (by omega) hj))

end Machine

end Sys2Proof
end

section
/-! PROOFS. Lines at their homes that read CLEAN: what reading and writing them does to the data of every line. -/

namespace Sys2Proof

variable {α : Type} {l : SMap α} {k : Nat} {v : α}

/-- Listing a key that is not listed yet adds one entry. -/
theorem SMap.put_perm (h : l.find k = none) : (l.put k v).Perm ((k, v) :: l) := by
  induction l with
  | nil => exact List.Perm.refl _
  | cons p l ih =>
    obtain ⟨j, x⟩ := p
    simp only [SMap.find] at h
    split at h
    · cases h
    next hj =>
      simp only [SMap.put, if_neg hj]
      split
      · exact List.Perm.refl _
      · exact ((ih h).cons _).trans (List.Perm.swap _ _ _)

namespace Machine

/-- The reading of a copy in which nothing was found. -/
def Reading.clean (line chk : Nat) : Reading :=
  { sev := 0, known := false, data := line, newData := line, newChk := chk, elems := 0, eb := 0, ones := false, fixed := 0 }

/-- A copy that reads CLEAN is delivered as it stands, and is not the poison pattern. -/
theorem decodeCopy_of_clean {legend line chk : Nat} (h : (decodeCopy legend line chk).sev = 0) :
    decodeCopy legend line chk = Reading.clean line chk ∧ poisoned line chk = false := by
  unfold decodeCopy at h ⊢
  dsimp only at h ⊢
  split at h
  · cases h
  next hp =>
    rw [if_neg hp]
    refine ⟨?_, by simpa using hp⟩
    split at h
    next hc => rw [if_pos hc]; rfl
    next hc =>
      rw [if_neg hc]
      split at h
      · split at h <;> cases h
      next ht =>
        rw [if_neg ht]
        split at h
        · cases h
        · split at h
          · cases h
          next hf =>
            split at h
            · cases h
            next ho => rw [if_neg hf, if_neg ho]; rfl

variable {m n : Mach} {e : Env} {ag : Agent} {leg la pa : Nat}

/-! ### The data of every line at its home -/

/-- The data of a line as its home holds them: the L2's copy, else memory's (R217). -/
def Mach.lineAt (m : Mach) (la : Nat) : Nat :=
  match m.l2.find la with
  | some l => l.data.toNat
  | none => memData m la

theorem ofBytes_line_lt (m : Memory) (a : Nat) : ofBytes (m.bytes a 128) < 2 ^ 1024 := by
  simpa only [Memory.bytes_length, Nat.reduceMul] using ofBytes_lt (m.bytes a 128)

theorem memData_lt (m : Mach) (la : Nat) : memData m la < 2 ^ 1024 := ofBytes_line_lt _ _

theorem lineAt_lt (m : Mach) (la : Nat) : m.lineAt la < 2 ^ 1024 := by
  unfold Mach.lineAt
  split
  · exact BitVec.isLt _
  · exact memData_lt m la

theorem lineAt_of_find {l : L2Line} (h : m.l2.find la = some l) : m.lineAt la = l.data.toNat := by
  simp only [Mach.lineAt, h]

theorem lineAt_of_not_found (h : m.l2.find la = none) : m.lineAt la = memData m la := by
  simp only [Mach.lineAt, h]

theorem lineAt_congr (h2 : n.l2 = m.l2) (hm : n.mem = m.mem) (k : Nat) : n.lineAt k = m.lineAt k := by
  simp only [Mach.lineAt, memData, h2, hm]

theorem byteN_memData (m : Mach) (a : Nat) : byteN (memData m (a / 128)) (a % 128) = m.mem.read a := by
  rw [memData, byteN_bytes _ (by omega)]
  congr 1
  omega

theorem byteAt_eq (m : Mach) (a : Nat) : m.byteAt a = byteN (m.lineAt (a / 128)) (a % 128) := by
  unfold Mach.byteAt Mach.lineAt
  cases m.l2.find (a / 128) with
  | some l => rfl
  | none => exact (byteN_memData m a).symm

theorem read_setMemLine (m : Mach) (la data chk a : Nat) :
    (setMemLine la data chk m).mem.read a
      = if la * 128 ≤ a ∧ a < la * 128 + 128 then byteN data (a - la * 128) else m.mem.read a := by
  refine (Memory.read_store _ _ _ _).trans ?_
  rw [bytesOf_length]
  split
  · exact bytesOf_getD (by omega)
  · rfl

theorem memData_setMemLine {data : Nat} (hd : data < 2 ^ 1024) (m : Mach) (la chk k : Nat) :
    memData (setMemLine la data chk m) k = if k = la then data else memData m k := by
  have size : (if k = la then data else memData m k) < 2 ^ 1024 := by
    split
    · exact hd
    · exact memData_lt m k
  refine ofBytes_ext (by rwa [Memory.bytes_length]) fun i hi => ?_
  rw [Memory.bytes_length] at hi
  rw [← byteN_ofBytes, byteN_bytes _ hi, read_setMemLine]
  split
  next h => rw [if_pos (by omega)]; congr 1; omega
  next h => rw [if_neg (by omega), memData, byteN_bytes _ hi]

/-- Where the data of one line alone have become those with some bytes replaced, those bytes are written at their home. -/
theorem homeWritten_of_lineAt {bs : List Byte} (fits : pa % 128 + bs.length ≤ 128)
    (h : ∀ k, n.lineAt k = if k = pa / 128 then mergeBytes (m.lineAt (pa / 128)) (pa % 128) bs else m.lineAt k) :
    m.HomeWritten n pa bs := by
  intro a
  rw [byteAt_eq, byteAt_eq, h]
  by_cases ha : a / 128 = pa / 128
  · rw [if_pos ha, byteN_mergeBytes, ha]
    refine (if_congr (by omega) ?_ rfl)
    congr 1
    omega
  · rw [if_neg ha, if_neg (by omega)]

/-! ### Charges, and lines that the L2 takes in -/

@[simp] theorem charge_l2 (m : Mach) (tk units : Nat) : (m.charge tk units).l2 = m.l2 := by
  unfold Mach.charge
  split <;> rfl

@[simp] theorem charge_mem (m : Mach) (tk units : Nat) : (m.charge tk units).mem = m.mem := by
  unfold Mach.charge
  split <;> rfl

@[simp] theorem charge_memChk (m : Mach) (tk units : Nat) : (m.charge tk units).memChk = m.memChk := by
  unfold Mach.charge
  split <;> rfl

@[simp] theorem chargeMem_l2 (m : Mach) : (chargeMem e ag la m).l2 = m.l2 := by
  unfold chargeMem
  split
  · rfl
  · exact charge_l2 _ _ _

@[simp] theorem chargeMem_mem (m : Mach) : (chargeMem e ag la m).mem = m.mem := by
  unfold chargeMem
  split
  · rfl
  · exact charge_mem _ _ _

theorem l2Ways_congr (h : n.l2 = m.l2) (la : Nat) : l2Ways n la = l2Ways m la := by simp only [l2Ways, h]

theorem l2AllPinned_congr (h : n.l2 = m.l2) (la : Nat) : l2AllPinned n la = l2AllPinned m la := by
  simp only [l2AllPinned, l2Ways_congr h]

theorem l2Room_congr (h : n.l2 = m.l2) (la : Nat) : n.l2Room la = m.l2Room la := by
  simp only [Mach.l2Room, l2AllPinned_congr h, l2Ways_congr h, h]

theorem homeClean_congr (h2 : n.l2 = m.l2) (hm : n.mem = m.mem) (hc : n.memChk = m.memChk) (leg pa : Nat) :
    n.homeClean leg pa = m.homeClean leg pa := by
  simp only [Mach.homeClean, l2Room_congr h2, memData, memCheck, h2, hm, hc]

/-- A line that its set did not hold takes one more way. -/
theorem l2Ways_put_length (l : L2Line) (h : m.l2.find la = none) :
    (l2Ways { m with l2 := m.l2.put la l } la).length = (l2Ways m la).length + 1 := by
  have ways := ((SMap.put_perm (v := l) h).filter fun p =>
    decide (l2Slice p.1 = l2Slice la) && decide (l2Set p.1 = l2Set la)).length_eq
  rw [List.filter_cons_of_pos (by simp)] at ways
  exact ways

/-- Where the set of a missing line has room for it, no other line leaves. -/
theorem l2Insert_of_room {rec_ : Recorder} (l : L2Line) (h : m.l2.find la = none) (room : m.l2Room la = true)
    (free : l2AllPinned m la = false) : l2Insert rec_ e la l m = { m with l2 := m.l2.put la l } := by
  have ways : (l2Ways m la).length < 16 := by simpa [Mach.l2Room, h, free] using room
  unfold l2Insert
  dsimp only
  rw [if_pos (by rw [l2Ways_put_length l h]; omega)]

theorem lineAt_put (l : L2Line) (k : Nat) :
    ({ m with l2 := m.l2.put la l } : Mach).lineAt k = if k = la then l.data.toNat else m.lineAt k := by
  simp only [Mach.lineAt, SMap.find_put]
  by_cases hk : k = la
  · rw [if_pos hk, if_pos hk]
  · rw [if_neg hk, if_neg hk]
    rfl

/-! ### Reading a clean line -/

theorem discovery_clean (rec_ : Recorder) (copy addr line chk : Nat) (m : Mach) :
    discovery rec_ e ag leg copy addr (Reading.clean line chk) m = m := rfl

theorem room_of_homeClean (h : m.homeClean leg pa = true) : m.l2Room (pa / 128) = true :=
  (Bool.and_eq_true_iff.1 h).1

theorem copy_clean_of_find {l : L2Line} (h : m.homeClean leg pa = true) (hl : m.l2.find (pa / 128) = some l) :
    (decodeCopy l.legend l.data.toNat l.chk.toNat).sev = 0 := by
  simpa [Mach.homeClean, hl] using (Bool.and_eq_true_iff.1 h).2

theorem memory_clean_of_not_found (h : m.homeClean leg pa = true) (hl : m.l2.find (pa / 128) = none) :
    (decodeCopy leg (memData m (pa / 128)) (memCheck m (pa / 128))).sev = 0 := by
  simpa [Mach.homeClean, hl] using (Bool.and_eq_true_iff.1 h).2

/-- A clean line that the L2 holds is delivered, and nothing else happens. -/
theorem homeRead_of_find {l : L2Line} (hl : m.l2.find la = some l)
    (clean : (decodeCopy l.legend l.data.toNat l.chk.toNat).sev = 0) :
    homeRead e ag leg la m = (⟨l.data.toNat, 0⟩, m) := by
  simp only [homeRead, homeReadWith, hl, (decodeCopy_of_clean clean).1, discovery_clean]
  rfl

/-- The line that a read of memory brings to the L2. -/
def cleanLine (m : Mach) (ag : Agent) (leg la : Nat) : L2Line :=
  { data := BitVec.ofNat 1024 (memData m la), chk := BitVec.ofNat 128 (memCheck m la), legend := leg, dirty := 0,
    pins := 0, by_ := ag.task m }

/-- A clean line of memory is delivered, and enters the L2 unless every way of its set is pinned. -/
theorem homeRead_of_not_found (hl : m.l2.find la = none) (clean : (decodeCopy leg (memData m la) (memCheck m la)).sev = 0) :
    homeRead e ag leg la m = (⟨memData m la, 0⟩,
      if l2AllPinned m la then chargeMem e ag la m
      else l2Insert event e la (cleanLine m ag leg la) (chargeMem e ag la m)) := by
  have pinned : l2AllPinned (chargeMem e ag la m) la = l2AllPinned m la := l2AllPinned_congr (chargeMem_l2 m) la
  simp only [homeRead, homeReadWith, hl, (decodeCopy_of_clean clean).1, discovery_clean]
  simp only [Reading.clean, if_pos, pinned]
  rfl

@[simp] theorem cleanLine_data (m : Mach) (ag : Agent) (leg la : Nat) :
    (cleanLine m ag leg la).data.toNat = memData m la := by
  simp [cleanLine, Nat.mod_eq_of_lt (memData_lt m la)]

/-- Reading a clean line delivers its data, keeps those of every line, and leaves room for it. -/
theorem homeRead_clean (h : m.homeClean leg pa = true) :
    (homeRead e ag leg (pa / 128) m).1 = ⟨m.lineAt (pa / 128), 0⟩
      ∧ (∀ k, (homeRead e ag leg (pa / 128) m).2.lineAt k = m.lineAt k)
      ∧ (homeRead e ag leg (pa / 128) m).2.l2Room (pa / 128) = true := by
  cases hl : m.l2.find (pa / 128) with
  | some l =>
    rw [homeRead_of_find hl (copy_clean_of_find h hl), lineAt_of_find hl]
    exact ⟨rfl, fun _ => rfl, room_of_homeClean h⟩
  | none =>
    rw [homeRead_of_not_found hl (memory_clean_of_not_found h hl), lineAt_of_not_found hl]
    refine ⟨rfl, ?_⟩
    have charged (k : Nat) : (chargeMem e ag (pa / 128) m).lineAt k = m.lineAt k :=
      lineAt_congr (chargeMem_l2 m) (chargeMem_mem m) k
    have room : (chargeMem e ag (pa / 128) m).l2Room (pa / 128) = true :=
      (l2Room_congr (chargeMem_l2 m) _).trans (room_of_homeClean h)
    split
    · exact ⟨charged, room⟩
    next free =>
      rw [l2Insert_of_room _ (by rw [chargeMem_l2]; exact hl) room
        ((l2AllPinned_congr (chargeMem_l2 m) _).trans (by simpa using free))]
      refine ⟨fun k => ?_, by simp [Mach.l2Room]⟩
      rw [lineAt_put, charged, cleanLine_data]
      split
      next hk => rw [hk, lineAt_of_not_found hl]
      · rfl

/-! ### Writing a clean line -/

/-- What a home line's memory holds once a write that goes to the host's memory at once has reached it. -/
theorem put_reaches_host {data : Nat} (hd : data < 2 ^ 1024) (chk : Nat) :
    ∃ n, (if hostLine la = true then chargeMem e ag la (setMemLine la data chk (m.touch la)) else m.touch la) = n
      ∧ n.l2 = m.l2 ∧ (∀ k, k ≠ la → memData n k = memData m k) ∧ (hostLine la = true → memData n la = data) := by
  refine ⟨_, rfl, ?_⟩
  split
  next host =>
    refine ⟨chargeMem_l2 _, fun k hk => ?_, fun _ => ?_⟩ <;>
      rw [memData, chargeMem_mem, ← memData, memData_setMemLine hd]
    · exact if_neg hk
    · exact if_pos rfl
  next host => exact ⟨rfl, fun _ _ => rfl, fun h => absurd h host⟩

/-- Writing a line at its home, where that evicts no other, gives it the data and no other line. -/
theorem homePut_lineAt {data : Nat} (hd : data < 2 ^ 1024) (room : m.l2Room la = true) (chk : Nat) (dirty : BitVec 8)
    (k : Nat) :
    (homePut e ag leg la data chk dirty m).lineAt k = if k = la then data else m.lineAt k := by
  obtain ⟨n, hn, hl2, others, reached⟩ := put_reaches_host (m := m) (e := e) (ag := ag) (la := la) hd chk
  have kept : ∀ k, k ≠ la → n.lineAt k = m.lineAt k := fun k hk => by simp only [Mach.lineAt, hl2, others k hk]
  have put (l : L2Line) (hl : l.data = BitVec.ofNat 1024 data) :
      ({ n with l2 := n.l2.put la l } : Mach).lineAt k = if k = la then data else m.lineAt k := by
    rw [lineAt_put, hl, BitVec.toNat_ofNat, Nat.mod_eq_of_lt hd]
    split
    · rfl
    next hk => exact kept k hk
  unfold homePut homePutWith
  dsimp only
  rw [hn]
  cases hf : n.l2.find la with
  | some l => exact put _ rfl
  | none =>
    dsimp only
    split
    next free =>
      rw [l2Insert_of_room _ hf ((l2Room_congr hl2 la).trans room) (by simpa using free)]
      exact put _ rfl
    · split
      next host =>
        by_cases hk : k = la
        · rw [if_pos hk, hk, lineAt_of_not_found hf, reached host]
        · rw [if_neg hk, kept k hk]
      next host =>
        have stored : (chargeMem e ag la (setMemLine la data chk n)).lineAt k = (setMemLine la data chk n).lineAt k :=
          lineAt_congr (chargeMem_l2 _) (chargeMem_mem _) k
        rw [stored]
        by_cases hk : k = la
        · have missing : (setMemLine la data chk n).l2.find la = none := hf
          rw [if_pos hk, hk, lineAt_of_not_found missing, memData_setMemLine hd, if_pos rfl]
        · rw [if_neg hk, ← kept k hk]
          simp only [Mach.lineAt, memData_setMemLine hd, if_neg hk]
          rfl

/-- A line that the L2 holds and that is no host memory is written there, and no task is charged. -/
theorem homePut_tasks {l : L2Line} (hl : m.l2.find la = some l) (near : hostLine la = false) (data chk : Nat)
    (dirty : BitVec 8) : (homePut e ag leg la data chk dirty m).tasks = m.tasks := by
  have found : (m.touch la).l2.find la = some l := hl
  simp [homePut, homePutWith, near, found]
  rfl

theorem mergeBytes_whole {line : Nat} {bs : List Byte} (hl : line < 2 ^ 1024) (hb : bs.length = 128) :
    mergeBytes line 0 bs = ofBytes bs := by
  have high : line / 2 ^ 1024 = 0 := Nat.div_eq_of_lt hl
  simp [mergeBytes, hb, high, Nat.mod_one]

/-- Bytes written to a clean line go into its data, whether its copy is read first or not (R378). -/
theorem homeWrite_eq_homePut {bs : List Byte} (h : m.homeClean leg pa = true) (fits : pa % 128 + bs.length ≤ 128) :
    ∃ n chk dirty, homeWrite e ag leg pa bs m = (true, homePut e ag leg (pa / 128)
        (mergeBytes (m.lineAt (pa / 128)) (pa % 128) bs) chk dirty n)
      ∧ (n = m ∨ n = (homeRead e ag leg (pa / 128) m).2) := by
  unfold homeWrite homeWriteWith
  dsimp only
  split
  next whole =>
    refine ⟨m, checkBits leg (ofBytes bs), 0xFF, ?_, Or.inl rfl⟩
    rw [show pa % 128 = 0 by omega, mergeBytes_whole (lineAt_lt m _) whole]
    rfl
  · split
    next l hl =>
      obtain ⟨found, -⟩ := Option.filter_eq_some_iff.1 hl
      have poison : l.poisoned = false := by
        simpa [L2Line.poisoned, poisoned, ← BitVec.toNat_inj] using (decodeCopy_of_clean (copy_clean_of_find h found)).2
      rw [poison]
      refine ⟨m, checkBits leg (mergeBytes l.data.toNat (pa % 128) bs), dirtyMask (pa % 128) bs.length, ?_, Or.inl rfl⟩
      rw [lineAt_of_find found]
      rfl
    next hl =>
      refine ⟨(homeRead e ag leg (pa / 128) m).2, checkBits leg (mergeBytes (m.lineAt (pa / 128)) (pa % 128) bs),
        dirtyMask (pa % 128) bs.length, ?_, Or.inr rfl⟩
      have got : (homeReadWith event e ag leg (pa / 128) m).1 = ⟨m.lineAt (pa / 128), 0⟩ := (homeRead_clean h).1
      rw [got]
      rfl

/-- Bytes written within a clean line are written at their home, and no others. -/
theorem homeWrite_clean {bs : List Byte} (h : m.homeClean leg pa = true) (fits : pa % 128 + bs.length ≤ 128) :
    (homeWrite e ag leg pa bs m).1 = true ∧ m.HomeWritten (homeWrite e ag leg pa bs m).2 pa bs := by
  obtain ⟨n, chk, dirty, eq, from_⟩ := homeWrite_eq_homePut (e := e) (ag := ag) h fits
  have before : n.l2Room (pa / 128) = true ∧ ∀ k, n.lineAt k = m.lineAt k := by
    obtain ⟨-, lines, room⟩ := homeRead_clean (e := e) (ag := ag) h
    obtain rfl | rfl := from_
    · exact ⟨room_of_homeClean h, fun _ => rfl⟩
    · exact ⟨room, lines⟩
  rw [eq]
  refine ⟨rfl, homeWritten_of_lineAt fits fun k => ?_⟩
  rw [homePut_lineAt (mergeBytes_lt (n := 128) (lineAt_lt m _) fits) before.1, before.2]

/-- Bytes written within a clean line that the L2 holds, and that is no host memory, charge no task. -/
theorem homeWrite_tasks {bs : List Byte} {l : L2Line} (h : m.homeClean leg pa = true)
    (fits : pa % 128 + bs.length ≤ 128) (hl : m.l2.find (pa / 128) = some l) (near : hostLine (pa / 128) = false) :
    (homeWrite e ag leg pa bs m).2.tasks = m.tasks := by
  obtain ⟨n, chk, dirty, eq, from_⟩ := homeWrite_eq_homePut (e := e) (ag := ag) h fits
  have same : n = m := by
    rw [homeRead_of_find hl (copy_clean_of_find h hl)] at from_
    simpa using from_
  rw [eq, same]
  exact homePut_tasks hl near _ _ _

end Machine
end Sys2Proof
end

section
/-! PROOFS. Stores on their way: what acknowledging, withholding and refusing one does. -/

namespace Sys2Proof.Machine

variable {m n : Mach} {e : Env} {ag : Agent} {ck core off leg pa : Nat}

/-! ### Scratchpad lines that read CLEAN -/

/-- The data of the scratchpad line that holds a byte. -/
def Mach.spadLine (m : Mach) (core off : Nat) : Nat := ofBytes (m.spad.bytes (spadAddr core off / 128 * 128) 128)

theorem spadLine_lt (m : Mach) (core off : Nat) : m.spadLine core off < 2 ^ 1024 :=
  ofBytes_line_lt _ _

/-- Storing the line with some bytes replaced replaces those bytes of the scratchpad. -/
theorem read_setSpadLine_merge {bs : List Byte} (fits : off % 128 + bs.length ≤ 128) (chk a : Nat) :
    (setSpadLine (spadAddr core off / 128) (mergeBytes (m.spadLine core off) (off % 128) bs) chk m).spad.read a
      = if core * 2 ^ 22 + off ≤ a ∧ a < core * 2 ^ 22 + off + bs.length then bs.getD (a - (core * 2 ^ 22 + off)) 0
        else m.spad.read a := by
  have at_ : spadAddr core off = core * 2 ^ 22 + off := rfl
  refine (Memory.read_store _ _ _ _).trans ?_
  rw [bytesOf_length, at_]
  by_cases line : (core * 2 ^ 22 + off) / 128 * 128 ≤ a ∧ a < (core * 2 ^ 22 + off) / 128 * 128 + 128
  · rw [if_pos line, bytesOf_getD (by omega), byteN_mergeBytes]
    refine if_congr (by omega) (congrArg (bs.getD · 0) (by omega)) ?_
    rw [Mach.spadLine, byteN_bytes _ (by omega), at_]
    congr 1
    omega
  · rw [if_neg line, if_neg (by omega)]

/-- Bytes written within a clean scratchpad line change that line alone. -/
theorem spadWrite_clean {bs : List Byte} (clean : m.spadClean core off = true) (fits : off % 128 + bs.length ≤ 128) :
    ∃ chk, spadWrite e ag core off bs m = (true, setSpadLine (spadAddr core off / 128)
      (mergeBytes (m.spadLine core off) (off % 128) bs) chk (m.touch (2 ^ 44 + spadAddr core off / 128))) := by
  unfold spadWrite
  dsimp only
  split
  next whole =>
    refine ⟨checkBits (spadLegend m core off) (ofBytes bs), ?_⟩
    rw [show off % 128 = 0 by omega, mergeBytes_whole (spadLine_lt m core off) whole]
    rfl
  · have read : spadRead e ag core off (m.touch (2 ^ 44 + spadAddr core off / 128))
        = (⟨m.spadLine core off, 0⟩, m.touch (2 ^ 44 + spadAddr core off / 128)) := by
      have copy := (decodeCopy_of_clean (beq_iff_eq.1 clean)).1
      unfold spadRead
      dsimp only
      rw [show spadLegend (m.touch (2 ^ 44 + spadAddr core off / 128)) core off = spadLegend m core off from rfl,
        Mach.touch, copy]
      rfl
    exact ⟨checkBits (spadLegend m core off) (mergeBytes (m.spadLine core off) (off % 128) bs), by rw [read]; rfl⟩

/-! ### The traffic of a store -/

@[simp] theorem addHot_ctxs (m : Mach) (d n bytes : Nat) : (m.addHot d n bytes).ctxs = m.ctxs := by
  unfold Mach.addHot
  split <;> rfl

@[simp] theorem addHot_mem (m : Mach) (d n bytes : Nat) : (m.addHot d n bytes).mem = m.mem := by
  unfold Mach.addHot
  split <;> rfl

@[simp] theorem addHot_memChk (m : Mach) (d n bytes : Nat) : (m.addHot d n bytes).memChk = m.memChk := by
  unfold Mach.addHot
  split <;> rfl

@[simp] theorem addHot_l2 (m : Mach) (d n bytes : Nat) : (m.addHot d n bytes).l2 = m.l2 := by
  unfold Mach.addHot
  split <;> rfl

@[simp] theorem addHot_spad (m : Mach) (d n bytes : Nat) : (m.addHot d n bytes).spad = m.spad := by
  unfold Mach.addHot
  split <;> rfl

@[simp] theorem addHot_cores (m : Mach) (d n bytes : Nat) : (m.addHot d n bytes).cores = m.cores := by
  unfold Mach.addHot
  split <;> rfl

@[simp] theorem addHot_tasks (m : Mach) (d n bytes : Nat) : (m.addHot d n bytes).tasks = m.tasks := by
  unfold Mach.addHot
  split <;> rfl

/-! ### One store on its way -/

/-- A context that waits for no fence completes none. -/
theorem settleFences_of_no_fences (h : (m.ctx ck).fences = []) : settleFences e ck m = m := by
  simp only [settleFences, settleFencesWith, h, List.foldl_nil]

/-- The machine after a context's stores have set out. -/
def Mach.sentOut (m : Mach) (ck : Nat) : Mach := m.setCtx ck { m.ctx ck with stq := [] }

@[simp] theorem sentOut_ctx (m : Mach) (ck : Nat) : (m.sentOut ck).ctx ck = { m.ctx ck with stq := [] } := by
  simp [Mach.sentOut]

/-- The only store of a context may be performed, and leaves its queue. -/
theorem storeAcknowledgedAt_single {y : PStore} (hq : (m.ctx ck).stq = [y]) :
    storeAcknowledgedAt e ck 0 m = settleFences e ck (writeStore e ck y (m.sentOut ck)) := by
  simp [storeAcknowledgedAt, mayPerform, performStore, Ctx.partsOf, Mach.modCtx, Mach.sentOut, hq]

/-- A store that earlier ones overlap waits for them, unless it never races with them (R187). -/
theorem mayPerform_of_overlaps {c : Ctx} {y z : PStore} (hq : c.stq = [z, y]) (hid : z.id ≠ y.id)
    (overlaps : z.overlaps y.loc y.bytes.length = true) (cls : z.acls = 0 ∨ y.acls = 0 ∨ z.acls = y.acls) :
    mayPerform c y = false := by
  have ordered : racing z.acls y.acls = false := by
    unfold racing
    obtain h | h | h := cls <;> simp [h]
  simp [mayPerform, Ctx.partsOf, hq, hid, overlaps, ordered]

/-- The only store of a context, where writing it leaves every context as it is: it is written, and no fence completes. -/
theorem storeAcknowledgedAt_writes {y : PStore} (hq : (m.ctx ck).stq = [y]) (nofence : (m.ctx ck).fences = [])
    (hn : writeStore e ck y (m.sentOut ck) = n) (keeps : n.ctxs = (m.sentOut ck).ctxs) :
    storeAcknowledgedAt e ck 0 m = n ∧ n.ctx ck = { m.ctx ck with stq := [] } := by
  have ctx : n.ctx ck = { m.ctx ck with stq := [] } := by
    rw [← sentOut_ctx m ck]
    exact congrArg (fun c : SMap Ctx => c.get {} ck) keeps
  rw [storeAcknowledgedAt_single hq, hn]
  exact ⟨settleFences_of_no_fences (by rw [ctx]; exact nofence), ctx⟩

/-- Acknowledging the only store of a context, of bytes in a scratchpad. -/
theorem storeAcknowledged_spad {y : PStore} (hq : (m.ctx ck).stq = [y]) (nofence : (m.ctx ck).fences = [])
    (hloc : y.loc = .spad core off) (fits : off % 128 + y.bytes.length ≤ 128) (clean : m.spadClean core off = true) :
    ∃ n, storeAcknowledgedAt e ck 0 m = n ∧ n.ctx ck = { m.ctx ck with stq := [] } ∧ n.mem = m.mem
      ∧ m.SpadWritten n core off y.bytes := by
  have clean' : (m.sentOut ck).spadClean core off = true := clean
  obtain ⟨chk, wrote⟩ := spadWrite_clean (e := e) (ag := lsAgent (m.sentOut ck) ck) clean' fits
  have out : writeStore e ck y (m.sentOut ck)
      = (spadWrite e (lsAgent (m.sentOut ck) ck) core off y.bytes (m.sentOut ck)).2 := by simp only [writeStore, hloc]
  rw [wrote] at out
  obtain ⟨eq, ctx⟩ := storeAcknowledgedAt_writes hq nofence out rfl
  exact ⟨_, eq, ctx, rfl, fun a => read_setSpadLine_merge fits chk a⟩

/-- Acknowledging the only store of a context, of bytes in physical memory. -/
theorem storeAcknowledged_phys {y : PStore} (hq : (m.ctx ck).stq = [y]) (nofence : (m.ctx ck).fences = [])
    (hloc : y.loc = .phys pa) (fits : pa % 128 + y.bytes.length ≤ 128) (clean : m.homeClean y.legend pa = true) :
    ∃ n, storeAcknowledgedAt e ck 0 m = n ∧ n.ctx ck = { m.ctx ck with stq := [] } ∧ n.spad = m.spad
      ∧ m.HomeWritten n pa y.bytes := by
  have clean' : (m.sentOut ck).homeClean y.legend pa = true := clean
  have frame := homeWrite_beyondHome e (lsAgent (m.sentOut ck) ck) y.legend pa y.bytes (m.sentOut ck)
  obtain ⟨-, wrote⟩ := homeWrite_clean (e := e) (ag := lsAgent (m.sentOut ck) ck) clean' fits
  have out : writeStore e ck y (m.sentOut ck) = traffic e ck y.loc y.buf y.bytes.length
      (homeWrite e (lsAgent (m.sentOut ck) ck) y.legend pa y.bytes (m.sentOut ck)).2 := by
    simp only [writeStore, hloc]
  generalize (homeWrite e (lsAgent (m.sentOut ck) ck) y.legend pa y.bytes (m.sentOut ck)).2 = m2 at out frame wrote
  have ctxs : (traffic e ck y.loc y.buf y.bytes.length m2).ctxs = (m.sentOut ck).ctxs := by
    rw [traffic, trafficFor, ctxs_of_beyondHome (charge_beyondHome _ _ _), addHot_ctxs, ctxs_of_beyondHome frame]
  obtain ⟨eq, ctx⟩ := storeAcknowledgedAt_writes hq nofence out ctxs
  refine ⟨_, eq, ctx, ?_, fun a => ?_⟩
  · rw [traffic, trafficFor, spad_of_beyondHome (charge_beyondHome _ _ _), addHot_spad, spad_of_beyondHome frame]
    rfl
  · have after : (traffic e ck y.loc y.buf y.bytes.length m2).byteAt a = m2.byteAt a := by
      rw [byteAt_eq, byteAt_eq, lineAt_congr (m := m2) (by simp [traffic, trafficFor]) (by simp [traffic, trafficFor])]
    exact after.trans (wrote a)

/-- A refused store of a peer package leaves the queue and is noted. -/
theorem peerRefusal_single {y : PStore} {pkg rh o h : Nat} (hq : (m.ctx ck).stq = [y]) (nofence : (m.ctx ck).fences = [])
    (hloc : y.loc = .peer pkg rh o h) :
    peerRefusalAt e ck 0 m = m.setCtx ck
      { m.ctx ck with stq := [], refusals := (m.ctx ck).refusals ++ [(y.id, y.gaddr)] } := by
  have peer : y.isPeer = true := by simp [PStore.isPeer, Loc.isPeer, hloc]
  have refused : refuseStore ck y m = m.setCtx ck
      { m.ctx ck with stq := [], refusals := (m.ctx ck).refusals ++ [(y.id, y.gaddr)] } := by
    simp [refuseStore, Mach.modCtx, hq]
  have found : (m.ctx ck).stq[0]? = some y := by rw [hq]; rfl
  simp only [peerRefusalAt, found, peer, if_true]
  rw [refused]
  exact settleFences_of_no_fences (by simpa using nofence)

end Sys2Proof.Machine
end

section
/-! PROOFS. Sectors and lines that leave the L1 and the L2. -/

namespace Sys2Proof

variable {α : Type} {l : SMap α} {k : Nat} {v : α}

theorem byteN_toNat {w : Nat} (x : BitVec w) (i : Nat) : byteN x.toNat i = x.extractLsb' (8 * i) 8 := rfl

/-- Where keys rise, a listed key stands beside the entries that are left without it. -/
theorem SMap.perm_cons_del (hl : l.rising = true) (h : l.find k = some v) : l.Perm ((k, v) :: l.del k) := by
  have rising := (Memory.rising_iff l).1 hl
  clear hl
  induction l with
  | nil => cases h
  | cons p l ih =>
    obtain ⟨j, x⟩ := p
    obtain ⟨first, rising⟩ := List.pairwise_cons.1 rising
    simp only [SMap.find] at h
    unfold SMap.del at ih ⊢
    split at h
    next hj =>
      cases h
      subst hj
      rw [List.filter_cons_of_neg (by simp), List.filter_eq_self.2 fun q hq => by
        simpa using (Nat.ne_of_lt (first q hq)).symm]
    next hj =>
      rw [List.filter_cons_of_pos (by simpa using hj)]
      exact ((ih h rising).cons _).trans (List.Perm.swap _ _ _)

namespace Machine

variable {m n : Mach} {e : Env} {ag : Agent} {leg la pa core key : Nat}

/-! ### Sectors of an L1 -/

theorem sound_sector_not_poisons {y : Sector} (hb : y.bad = false) (hp : y.par = sectorParity y.data) :
    y.sound = true ∧ y.poisons = false := by
  have sound : y.sound = true := by simp [Sector.sound, hp]
  exact ⟨sound, by simp [Sector.poisons, sound, hb]⟩

/-- The machine after a sector has been marked clean. -/
def Mach.sectorMarked (m : Mach) (core key : Nat) (y : Sector) : Mach :=
  m.modCore core fun c => { c with sectors := c.sectors.put key { y with dirty := false, stores := [] } }

theorem sectorMarked_sector (y : Sector) : ((m.sectorMarked core key y).core core).sectors.find key
    = some { y with dirty := false, stores := [] } := by
  simp [Mach.sectorMarked]

/-- Counting a sector's bytes touches nothing but counters and tasks. -/
theorem sectorTraffic_keeps (e : Env) (core : Nat) (y : Sector) (m : Mach) :
    (sectorTraffic e core y m).l2 = m.l2 ∧ (sectorTraffic e core y m).mem = m.mem
      ∧ (sectorTraffic e core y m).memChk = m.memChk ∧ (sectorTraffic e core y m).ctxs = m.ctxs
      ∧ (sectorTraffic e core y m).spad = m.spad ∧ (sectorTraffic e core y m).cores = m.cores := by
  unfold sectorTraffic
  refine ⟨by simp, by simp, by simp, ?_, ?_, ?_⟩
  · rw [ctxs_of_beyondHome (charge_beyondHome _ _ _), addHot_ctxs]
  · rw [spad_of_beyondHome (charge_beyondHome _ _ _), addHot_spad]
  · rw [cores_of_beyondHome (charge_beyondHome _ _ _), addHot_cores]

/-- The sector's 16 bytes count for its buffer (R225). -/
theorem sectorTraffic_hot (y : Sector) : (sectorTraffic e core y m).hot.get 0 (hotKey (coreDie core) y.buf)
    = m.hot.get 0 (hotKey (coreDie core) y.buf) + 16 := by
  rw [sectorTraffic, hot_of_beyondHome (charge_beyondHome _ _ _)]
  simp [Mach.addHot, w64]

theorem charge_energy {tk : Nat} (units : Nat) (h : (m.task tk).st ≠ .free) :
    ((m.charge tk units).task tk).energy = (m.task tk).energy + units := by
  simp [Mach.charge, h]

/-- The sector's 16 bytes are charged to its task at one link, where its die's hub link works (R403). -/
theorem sectorTraffic_energy {y : Sector} (hloc : y.loc = .phys pa) (live : e.live (coreDie core) = true)
    (hub : m.hubFail.getLsbD (coreDie core) = false) (task : (m.task (taskKey (coreDie core) y.frame)).st ≠ .free) :
    ((sectorTraffic e core y m).task (taskKey (coreDie core) y.frame)).energy
      = (m.task (taskKey (coreDie core) y.frame)).energy + 16 * 12000 := by
  have same (k : Nat) : (m.addHot (coreDie core) y.buf 16).task k = m.task k := by simp [Mach.task]
  have links : linkEnergy e m (coreDie core) y.loc 16 = 16 * 12000 := by
    simp [linkEnergy, hloc, linkUnits, hubLinks, hubWorks, live, hub]
  rw [sectorTraffic, charge_energy _ (by rwa [same]), same, links]

/-- A dirty sector of a clean line is marked, counted, and written to its home. -/
theorem writeBack_clean {y : Sector} (hy : (m.core core).sectors.find key = some y) (dirty : y.dirty = true)
    (good : y.bad = false) (par : y.par = sectorParity y.data) (hloc : y.loc = .phys pa) (aligned : pa % 16 = 0)
    (clean : m.homeClean y.legend pa = true) :
    writeBack e core key m = (homeWrite e ⟨8, coreDie core, y.frame⟩ y.legend pa (bytesOf y.data.toNat 16)
      (sectorTraffic e core y (m.sectorMarked core key y))).2 := by
  obtain ⟨sound, harmless⟩ := sound_sector_not_poisons good par
  obtain ⟨l2, mem, memChk, -⟩ := sectorTraffic_keeps e core y (m.sectorMarked core key y)
  obtain ⟨ok, -⟩ := homeWrite_clean (e := e) (ag := ⟨8, coreDie core, y.frame⟩) (bs := bytesOf y.data.toNat 16)
    ((homeClean_congr l2 mem memChk y.legend pa).trans clean) (by rw [bytesOf_length]; omega)
  generalize hn : sectorTraffic e core y (m.sectorMarked core key y) = n at ok ⊢
  unfold Mach.sectorMarked at hn
  unfold writeBack
  rw [hy]
  dsimp only
  rw [hn, hloc]
  simp [dirty, sound, harmless, ok]

/-- What the write-back of a dirty sector to a clean line leaves (R189, R225, R403). -/
theorem writeBack_spec {y : Sector} (hy : (m.core core).sectors.find key = some y) (dirty : y.dirty = true)
    (good : y.bad = false) (par : y.par = sectorParity y.data) (hloc : y.loc = .phys pa) (aligned : pa % 16 = 0)
    (clean : m.homeClean y.legend pa = true) (hn : writeBack e core key m = n) :
    n.ctxs = m.ctxs ∧ n.spad = m.spad ∧ (n.core core).sectors.find key = some { y with dirty := false, stores := [] }
      ∧ m.HomeWritten n pa (bytesOf y.data.toNat 16)
      ∧ n.hot.get 0 (hotKey (coreDie core) y.buf) = m.hot.get 0 (hotKey (coreDie core) y.buf) + 16
      ∧ (e.live (coreDie core) = true → m.hubFail.getLsbD (coreDie core) = false → hostLine (pa / 128) = false →
          (m.l2.find (pa / 128)).isSome = true → (m.task (taskKey (coreDie core) y.frame)).st ≠ .free →
          (n.task (taskKey (coreDie core) y.frame)).energy
            = (m.task (taskKey (coreDie core) y.frame)).energy + 16 * 12000) := by
  have fits : pa % 128 + (bytesOf y.data.toNat 16).length ≤ 128 := by rw [bytesOf_length]; omega
  rw [writeBack_clean hy dirty good par hloc aligned clean] at hn
  obtain ⟨l2, mem, memChk, ctxs, spad, cores⟩ := sectorTraffic_keeps e core y (m.sectorMarked core key y)
  have hot := sectorTraffic_hot (e := e) (core := core) (m := m.sectorMarked core key y) y
  have energy (live : e.live (coreDie core) = true) (hub : m.hubFail.getLsbD (coreDie core) = false)
      (task : (m.task (taskKey (coreDie core) y.frame)).st ≠ .free) :=
    sectorTraffic_energy (m := m.sectorMarked core key y) hloc live hub task
  generalize sectorTraffic e core y (m.sectorMarked core key y) = m' at hn l2 mem memChk ctxs spad cores hot energy
  have clean' : m'.homeClean y.legend pa = true := (homeClean_congr l2 mem memChk y.legend pa).trans clean
  have frame := homeWrite_beyondHome e ⟨8, coreDie core, y.frame⟩ y.legend pa (bytesOf y.data.toNat 16) m'
  obtain ⟨-, wrote⟩ := homeWrite_clean (e := e) (ag := ⟨8, coreDie core, y.frame⟩) clean' fits
  have tasks {l : L2Line} (hl : m'.l2.find (pa / 128) = some l) (near : hostLine (pa / 128) = false) :=
    homeWrite_tasks (e := e) (ag := ⟨8, coreDie core, y.frame⟩) clean' fits hl near
  rw [hn] at frame wrote tasks
  refine ⟨(ctxs_of_beyondHome frame).trans ctxs, (spad_of_beyondHome frame).trans spad, ?_, fun a => ?_, ?_, ?_⟩
  · rw [← sectorMarked_sector (m := m) (core := core) (key := key) y]
    simp only [Mach.core, cores_of_beyondHome frame, cores]
  · have before : m'.byteAt a = m.byteAt a := by rw [byteAt_eq, byteAt_eq, lineAt_congr (m := m) l2 mem]
    rw [wrote a, before]
  · rw [hot_of_beyondHome frame]
    exact hot
  · intro live hub near held task
    obtain ⟨l, hl⟩ := Option.isSome_iff_exists.1 held
    have same : n.task (taskKey (coreDie core) y.frame) = m'.task (taskKey (coreDie core) y.frame) := by
      simp only [Mach.task, tasks (l := l) (by rw [l2]; exact hl) near]
    rw [same]
    exact energy live hub task

/-! ### Lines of the L2 -/

/-- The charge of a line's write-back to the task that brought it, while that task holds its entry (R403). -/
def Mach.chargeOwner (m : Mach) (e : Env) (la : Nat) (owner : Option (Nat × Nat)) : Mach :=
  match owner with
  | some (tk, no) => if (m.task tk).entry = no then m.charge tk (memEnergy e m (tk / 3072) la 128) else m
  | none => m

theorem chargeOwner_l2_mem (m : Mach) (e : Env) (la : Nat) (owner : Option (Nat × Nat)) :
    (m.chargeOwner e la owner).l2 = m.l2 ∧ (m.chargeOwner e la owner).mem = m.mem := by
  unfold Mach.chargeOwner
  split
  · split
    · exact ⟨charge_l2 _ _ _, charge_mem _ _ _⟩
    · exact ⟨rfl, rfl⟩
  · exact ⟨rfl, rfl⟩

theorem l2EvictWith_of_pinned {rec_ : Recorder} {y : L2Line} (hy : m.l2.find la = some y) (pinned : y.pins ≠ 0) :
    l2EvictWith rec_ e la m = m := by
  simp [l2EvictWith, hy, pinned]

theorem l2EvictWith_of_not_dirty {rec_ : Recorder} {y : L2Line} (hy : m.l2.find la = some y) (free : y.pins = 0)
    (same : y.dirty = 0) : l2EvictWith rec_ e la m = { m with l2 := m.l2.del la } := by
  simp [l2EvictWith, hy, free, same]

theorem l2EvictWith_of_dirty {rec_ : Recorder} {y : L2Line} (hy : m.l2.find la = some y) (free : y.pins = 0)
    (dirty : y.dirty ≠ 0) (clean : (decodeCopy y.legend y.data.toNat y.chk.toNat).sev = 0) :
    l2EvictWith rec_ e la m
      = setMemLine la y.data.toNat y.chk.toNat (({ m with l2 := m.l2.del la } : Mach).chargeOwner e la y.by_) := by
  simp only [l2EvictWith, hy, free, dirty, (decodeCopy_of_clean clean).1, discovery_clean, ne_eq, not_true_eq_false, if_false]
  rfl

/-- A line that no fetch pins leaves; one that is dirty is written to its memory as it stands, when it reads CLEAN. -/
theorem l2EvictWith_of_clean {rec_ : Recorder} {y : L2Line} (hy : m.l2.find la = some y) (free : y.pins = 0)
    (clean : (decodeCopy y.legend y.data.toNat y.chk.toNat).sev = 0) :
    (l2EvictWith rec_ e la m).l2 = m.l2.del la
      ∧ (∀ a, (l2EvictWith rec_ e la m).mem.read a = if y.dirty ≠ 0 ∧ la * 128 ≤ a ∧ a < la * 128 + 128 then
          y.data.extractLsb' (8 * (a - la * 128)) 8 else m.mem.read a) := by
  by_cases dirty : y.dirty = 0
  · rw [l2EvictWith_of_not_dirty hy free dirty]
    exact ⟨rfl, fun a => (if_neg fun h => h.1 dirty).symm⟩
  · obtain ⟨l2, mem⟩ := chargeOwner_l2_mem { m with l2 := m.l2.del la } e la y.by_
    rw [l2EvictWith_of_dirty hy free dirty clean]
    refine ⟨l2, fun a => ?_⟩
    rw [read_setMemLine, mem, byteN_toNat]
    exact if_congr (and_iff_right dirty).symm rfl rfl

/-- Where a line alone leaves the L2, and memory then holds its data, no byte changes at its home. -/
theorem byteAt_of_evicted {y : L2Line} (hy : m.l2.find la = some y) (l2 : n.l2 = m.l2.del la)
    (mem : ∀ a, n.mem.read a = if la * 128 ≤ a ∧ a < la * 128 + 128 then y.data.extractLsb' (8 * (a - la * 128)) 8
      else m.mem.read a) (a : Nat) : n.byteAt a = m.byteAt a := by
  by_cases ha : a / 128 = la
  · simp only [Mach.byteAt, l2, ha, SMap.find_del_same, hy]
    rw [mem, if_pos (by omega), ← byteN_toNat, show a - la * 128 = a % 128 by omega]
    rfl
  · simp only [Mach.byteAt, l2, SMap.find_del_of_ne _ ha, mem]
    rw [if_neg (by omega)]

/-! ### A line that comes to a full set -/

/-- The ways of a set after one line has come and another has gone. -/
theorem l2Ways_put_del {out : Nat} {y x : L2Line} (rising : m.l2.rising = true) (missing : m.l2.find la = none)
    (hy : m.l2.find out = some y) (slice : l2Slice out = l2Slice la) (set_ : l2Set out = l2Set la)
    (l2 : n.l2 = (m.l2.put la x).del out) : (l2Ways n la).length = (l2Ways m la).length := by
  have other : la ≠ out := by
    rintro rfl
    rw [hy] at missing
    cases missing
  have before := ((SMap.perm_cons_del rising hy).filter fun p =>
    decide (l2Slice p.1 = l2Slice la) && decide (l2Set p.1 = l2Set la)).length_eq
  have after := (((SMap.put_perm (v := x) missing).filter fun p => p.1 != out).filter fun p =>
    decide (l2Slice p.1 = l2Slice la) && decide (l2Set p.1 = l2Set la)).length_eq
  rw [List.filter_cons_of_pos (by simp [slice, set_])] at before
  rw [List.filter_cons_of_pos (by simpa using other), List.filter_cons_of_pos (by simp)] at after
  rw [l2Ways, l2, l2Ways, before]
  exact after

/-- A line that comes to a full set drives out one of its lines that no fetch pins (R14, R25, R217; log entry 12). -/
theorem l2Insert_of_full {x : L2Line} {rec_ : Recorder} (rising : m.l2.rising = true) (missing : m.l2.find la = none)
    (full : (l2Ways m la).length = 16) (some_free : ∃ p ∈ l2Ways m la, p.2.pins = 0) :
    ∃ out y, m.l2.find out = some y ∧ (out, y) ∈ l2Ways m la ∧ y.pins = 0 ∧ l2Insert rec_ e la x m
      = l2EvictWith rec_ e out { m with l2 := m.l2.put la x, seed := m.seed + 1 } := by
  have listed (p : Nat × L2Line) : p ∈ l2Ways { m with l2 := m.l2.put la x } la ∧ p.1 ≠ la ↔ p ∈ l2Ways m la := by
    have perm : p ∈ m.l2.put la x ↔ p = (la, x) ∨ p ∈ m.l2 := (SMap.put_perm missing).mem_iff.trans List.mem_cons
    have ne : p ∈ m.l2 → p.1 ≠ la := SMap.find_eq_none_iff.1 missing p
    simp only [l2Ways, List.mem_filter, perm]
    constructor
    · rintro ⟨⟨rfl | hp, hw⟩, hne⟩
      · exact absurd rfl hne
      · exact ⟨hp, hw⟩
    · rintro ⟨hp, hw⟩
      exact ⟨⟨Or.inr hp, hw⟩, ne hp⟩
  have candidates (p : Nat × L2Line) : p ∈ (l2Ways { m with l2 := m.l2.put la x } la).filter
      (fun p => p.1 != la && decide (p.2.pins = 0)) ↔ p ∈ l2Ways m la ∧ p.2.pins = 0 := by
    rw [List.mem_filter, ← listed]
    simp [and_assoc]
  unfold l2Insert
  dsimp only
  rw [if_neg (by rw [l2Ways_put_length x missing]; omega)]
  generalize (l2Ways { m with l2 := m.l2.put la x } la).filter (fun p => p.1 != la && decide (p.2.pins = 0)) = outs
    at candidates ⊢
  have nonempty : 0 < outs.length := by
    obtain ⟨p, hp, free⟩ := some_free
    exact List.length_pos_of_mem ((candidates p).2 ⟨hp, free⟩)
  obtain ⟨p, hp⟩ : ∃ p, outs[Config.freeChoice m.seed % outs.length]? = some p :=
    ⟨_, List.getElem?_eq_getElem (Nat.mod_lt _ nonempty)⟩
  obtain ⟨way, free⟩ := (candidates p).1 (List.mem_of_getElem? hp)
  refine ⟨p.1, p.2, SMap.find_of_mem rising (List.mem_filter.1 way).1, way, free, ?_⟩
  rw [hp]

theorem l2AllPinned_of_free (full : (l2Ways m la).length = 16) (some_free : ∃ p ∈ l2Ways m la, p.2.pins = 0) :
    l2AllPinned m la = false := by
  obtain ⟨p, hp, free⟩ := some_free
  have fewer : ((l2Ways m la).filter fun p => decide (0 < p.2.pins)).length < (l2Ways m la).length :=
    List.length_filter_lt_length_iff_exists.2 ⟨p, hp, by simp [free]⟩
  simp only [l2AllPinned, decide_eq_false_iff_not]
  omega

/-- What a read of a line missing from a full set does to the L2 and the memory behind it. -/
theorem homeRead_of_full (rising : m.l2.rising = true) (missing : m.l2.find la = none) (full : (l2Ways m la).length = 16)
    (some_free : ∃ p ∈ l2Ways m la, p.2.pins = 0)
    (ways_clean : ∀ p ∈ l2Ways m la, (decodeCopy p.2.legend p.2.data.toNat p.2.chk.toNat).sev = 0)
    (clean : (decodeCopy leg (memData m la) (memCheck m la)).sev = 0) :
    (homeRead e ag leg la m).1.data = memData m la ∧ ∃ out y x, m.l2.find out = some y ∧ (out, y) ∈ l2Ways m la
      ∧ y.pins = 0 ∧ (homeRead e ag leg la m).2.l2 = (m.l2.put la x).del out
      ∧ ∀ a, (homeRead e ag leg la m).2.mem.read a = if y.dirty ≠ 0 ∧ out * 128 ≤ a ∧ a < out * 128 + 128 then
          y.data.extractLsb' (8 * (a - out * 128)) 8 else m.mem.read a := by
  have l2 : (chargeMem e ag la m).l2 = m.l2 := chargeMem_l2 m
  have ways : l2Ways (chargeMem e ag la m) la = l2Ways m la := l2Ways_congr l2 la
  rw [homeRead_of_not_found missing clean, l2AllPinned_of_free full some_free]
  refine ⟨rfl, ?_⟩
  obtain ⟨out, y, hy, way, free, insert⟩ := l2Insert_of_full (m := chargeMem e ag la m) (x := cleanLine m ag leg la)
    (rec_ := event) (e := e) (by rwa [l2]) (by rwa [l2]) (by rwa [ways]) (by rwa [ways])
  rw [l2] at hy
  rw [ways] at way
  have other : out ≠ la := by
    rintro rfl
    rw [hy] at missing
    cases missing
  obtain ⟨gone, mem⟩ := l2EvictWith_of_clean (rec_ := event) (e := e) (la := out)
    (m := { chargeMem e ag la m with
      l2 := (chargeMem e ag la m).l2.put la (cleanLine m ag leg la), seed := (chargeMem e ag la m).seed + 1 })
    (by simpa [SMap.find_put, other, l2] using hy) free (ways_clean _ way)
  refine ⟨out, y, cleanLine m ag leg la, hy, way, free, ?_, fun a => ?_⟩
  · rw [if_neg (by simp), insert, gone]
    simp only [l2]
  · rw [if_neg (by simp), insert, mem]
    simp only [chargeMem_mem]

end Machine
end Sys2Proof
end

section
/-! PROOFS. Lanes and parities of numbers, and the readings of a copy case by case (R371 to R376). -/

namespace Sys2Proof

/-! ### Lanes under exclusive or -/

/-- A number put above another one's bits. -/
theorem add_mul_two_pow_eq_xor {a k : Nat} (h : a < 2 ^ k) (p : Nat) : a + 2 ^ k * p = a ^^^ p <<< k := by
  refine Nat.eq_of_testBit_eq fun j => ?_
  rw [Nat.add_comm, Nat.testBit_two_pow_mul_add _ h, Nat.testBit_xor, Nat.testBit_shiftLeft]
  split
  next low => simp [Nat.not_le.2 low]
  next high =>
    have : a.testBit j = false :=
      Nat.testBit_lt_two_pow (Nat.lt_of_lt_of_le h (Nat.pow_le_pow_right (by omega) (by omega)))
    simp [this, Nat.not_lt.1 high]

theorem xor_xor_xor_cancel (a b c : Nat) : (a ^^^ b) ^^^ (a ^^^ c) = b ^^^ c := by
  rw [Nat.xor_comm a b, Nat.xor_assoc, Nat.xor_xor_cancel_left]

theorem packLanes_cons (w x : Nat) (r : List Nat) : packLanes w (x :: r) = x % 2 ^ w ^^^ packLanes w r <<< w :=
  add_mul_two_pow_eq_xor (Nat.mod_lt _ (by positivity)) _

theorem packLanes_xor {α : Type} (w : Nat) (f g : α → Nat) (l : List α) :
    packLanes w (l.map fun a => f a ^^^ g a) = packLanes w (l.map f) ^^^ packLanes w (l.map g) := by
  induction l with
  | nil => simp [packLanes]
  | cons a l ih =>
    simp only [List.map_cons, packLanes_cons, ih, Nat.xor_mod_two_pow, Nat.shiftLeft_xor_distrib]
    ac_rfl

theorem packLanes_lt (w : Nat) (l : List Nat) : packLanes w l < 2 ^ (w * l.length) := by
  induction l with
  | nil => exact Nat.one_pos
  | cons x l ih =>
    have low : x % 2 ^ w < 2 ^ w := Nat.mod_lt _ (by positivity)
    have high : 2 ^ w * (packLanes w l + 1) ≤ 2 ^ w * 2 ^ (w * l.length) := Nat.mul_le_mul_left _ ih
    rw [List.length_cons, Nat.mul_succ, Nat.pow_add, packLanes, Nat.mul_comm (2 ^ (w * l.length))]
    rw [Nat.mul_succ] at high
    omega

theorem laneN_lt (x w j : Nat) : laneN x w j < 2 ^ w := Nat.mod_lt _ (by positivity)

theorem laneN_testBit (x w j i : Nat) : (laneN x w j).testBit i = (decide (i < w) && x.testBit (w * j + i)) := by
  rw [laneN, Nat.testBit_mod_two_pow, Nat.testBit_shiftRight]

theorem laneN_xor (x y w j : Nat) : laneN (x ^^^ y) w j = laneN x w j ^^^ laneN y w j := by
  simp only [laneN, Nat.shiftRight_xor_distrib, Nat.xor_mod_two_pow]

@[simp] theorem laneN_zero (w j : Nat) : laneN 0 w j = 0 := by simp [laneN]

theorem packLanes_testBit {w i : Nat} (hi : i < w) (l : List Nat) (j : Nat) :
    (packLanes w l).testBit (w * j + i) = (l.getD j 0).testBit i := by
  induction l generalizing j with
  | nil => simp [packLanes]
  | cons x l ih =>
    rw [packLanes, Nat.add_comm (x % 2 ^ w), Nat.testBit_two_pow_mul_add _ (Nat.mod_lt _ (by positivity))]
    cases j with
    | zero => simp [hi]
    | succ j =>
      rw [if_neg (by rw [Nat.mul_succ]; omega), show w * (j + 1) + i - w = w * j + i by rw [Nat.mul_succ]; omega, ih]
      rfl

theorem laneN_packLanes (w : Nat) (l : List Nat) (j : Nat) : laneN (packLanes w l) w j = l.getD j 0 % 2 ^ w := by
  refine Nat.eq_of_testBit_eq fun i => ?_
  rw [laneN_testBit, Nat.testBit_mod_two_pow]
  by_cases hi : i < w
  · rw [packLanes_testBit hi]
  · simp [hi]

theorem getD_map_range (f : Nat → Nat) (n j : Nat) : ((List.range n).map f).getD j 0 = if j < n then f j else 0 := by
  rw [List.getD_eq_getElem?_getD, List.getElem?_map]
  split
  next h => rw [List.getElem?_range h]; rfl
  next h => rw [List.getElem?_eq_none (by simpa using h)]; rfl

/-- A number from its lanes. -/
theorem packLanes_lanesOf {x w n : Nat} (hw : 0 < w) (hx : x < 2 ^ (w * n)) : packLanes w (lanesOf x w n) = x := by
  refine Nat.eq_of_testBit_eq fun k => ?_
  have low : k % w < w := Nat.mod_lt _ hw
  rw [← Nat.div_add_mod k w, packLanes_testBit low, lanesOf, getD_map_range]
  split
  · rw [laneN_testBit, decide_eq_true low, Bool.true_and]
  next h =>
    rw [Nat.zero_testBit]
    have beyond : w * n ≤ w * (k / w) + k % w := (Nat.mul_le_mul_left w (Nat.not_lt.1 h)).trans (Nat.le_add_right _ _)
    exact (Nat.testBit_lt_two_pow (Nat.lt_of_lt_of_le hx (Nat.pow_le_pow_right (by omega) beyond))).symm

/-- The lanes of a number of one lane that is shifted to its place. -/
theorem laneN_shiftLeft {x w : Nat} (hx : x < 2 ^ w) (u v : Nat) : laneN (x <<< (w * u)) w v = if v = u then x else 0 := by
  refine Nat.eq_of_testBit_eq fun i => ?_
  rw [laneN_testBit, Nat.testBit_shiftLeft]
  have high (k : Nat) (hk : w ≤ k) : x.testBit k = false :=
    Nat.testBit_lt_two_pow (Nat.lt_of_lt_of_le hx (Nat.pow_le_pow_right (by omega) hk))
  obtain hv | rfl | hv := Nat.lt_trichotomy v u
  · have := Nat.mul_le_mul_left w (Nat.succ_le_of_lt hv)
    rw [Nat.mul_succ] at this
    rw [if_neg (Nat.ne_of_lt hv)]
    by_cases hi : i < w
    · simp [Nat.not_le.2 (show w * v + i < w * u by omega)]
    · simp [hi]
  · rw [if_pos rfl]
    by_cases hi : i < w
    · simp [hi]
    · simp [hi, high i (by omega)]
  · have := Nat.mul_le_mul_left w (Nat.succ_le_of_lt hv)
    rw [Nat.mul_succ] at this
    rw [if_neg (Nat.ne_of_gt hv), high _ (by omega)]
    simp

namespace Machine

/-! ### Parity -/

theorem parityN_xor (x y k : Nat) : parityN (x ^^^ y) k = parityN x k ^^^ parityN y k := by
  induction k generalizing x y with
  | zero => exact Nat.xor_mod_two_pow (n := 1)
  | succ k ih =>
    simp only [parityN]
    rw [← ih, ← Nat.xor_mod_two_pow, Nat.shiftRight_xor_distrib]
    congr 2
    ac_rfl

theorem parityN_lt (x k : Nat) : parityN x k < 2 := by
  induction k generalizing x with
  | zero => exact Nat.mod_lt _ (by omega)
  | succ k ih => exact ih _

/-! ### Words under RAW (R373) -/

theorem par64_xor (x y : Nat) : par64 (x ^^^ y) = par64 x ^^^ par64 y := parityN_xor x y 6

theorem ham7_xor (x y : Nat) : ham7 (x ^^^ y) = ham7 x ^^^ ham7 y := by
  simp only [ham7, Nat.and_xor_distrib_right, par64_xor, packLanes_xor]

theorem ham7_lt (x : Nat) : ham7 x < 2 ^ 7 := by
  have := packLanes_lt 1 (hamMasks.map fun k => par64 (x &&& k))
  rwa [List.length_map, Nat.one_mul] at this

theorem rawCheck_eq (x : Nat) : rawCheck x = ham7 x ^^^ (par64 (ham7 x) ^^^ par64 x) <<< 7 := by
  unfold rawCheck
  split
  next h => subst h; decide
  · rw [← add_mul_two_pow_eq_xor (ham7_lt x), Nat.mul_comm]
    rfl

theorem rawCheck_xor (x y : Nat) : rawCheck (x ^^^ y) = rawCheck x ^^^ rawCheck y := by
  simp only [rawCheck_eq, ham7_xor, par64_xor, Nat.shiftLeft_xor_distrib]
  ac_rfl

theorem rawCheck_lt (x : Nat) : rawCheck x < 2 ^ 8 := by
  have parity : par64 (ham7 x) ^^^ par64 x < 2 := Nat.xor_lt_two_pow (n := 1) (parityN_lt _ _) (parityN_lt _ _)
  have := ham7_lt x
  rw [rawCheck_eq, ← add_mul_two_pow_eq_xor (ham7_lt x)]
  omega

theorem rawCheck_mod (x : Nat) : rawCheck x % 128 = ham7 x := by
  have := ham7_lt x
  rw [rawCheck_eq, ← add_mul_two_pow_eq_xor (ham7_lt x)]
  omega

/-- The overall bit makes the parity of a word's check bits that of the word. -/
theorem par64_rawCheck (x : Nat) : par64 (rawCheck x) = par64 x := by
  have top : ∀ p < 2, par64 (p <<< 7) = p := by decide
  have bit : par64 (ham7 x) ^^^ par64 x < 2 := Nat.xor_lt_two_pow (n := 1) (parityN_lt _ _) (parityN_lt _ _)
  rw [rawCheck_eq, par64_xor, top _ bit, Nat.xor_xor_cancel_left]

/-- Decoding a word tells its errors alone: what it corrects in the errors of a word, it corrects in the word. -/
theorem rawDecode_xor (x e f : Nat) :
    rawDecode (x ^^^ e) (rawCheck x ^^^ f) = (x ^^^ (rawDecode e f).1, (rawDecode e f).2) := by
  have same : rawCheck x ^^^ f = rawCheck (x ^^^ e) ↔ f = rawCheck e := by
    rw [rawCheck_xor, Nat.xor_right_inj]
  have syndrome : ham7 (x ^^^ e) ^^^ (rawCheck x ^^^ f) % 128 = ham7 e ^^^ f % 128 := by
    have m := @Nat.xor_mod_two_pow (rawCheck x) f 7
    rw [show (2 : Nat) ^ 7 = 128 from rfl, rawCheck_mod] at m
    rw [ham7_xor, m, xor_xor_xor_cancel]
  have parity : par64 (x ^^^ e) ^^^ par64 (rawCheck x ^^^ f) = par64 e ^^^ par64 f := by
    rw [par64_xor, par64_xor, par64_rawCheck, xor_xor_xor_cancel]
  unfold rawDecode
  simp only [same, syndrome, parity]
  split
  · rfl
  · split
    · rfl
    · split
      · rfl
      · split
        · rfl
        · split <;> simp [Nat.xor_assoc]

/-! ### Flipped bits of a word -/

/-- The errors of a word and its check bits when bit k of the 72 is flipped. -/
def flipOf (k : Nat) : Nat × Nat := if k < 64 then (2 ^ k, 0) else (0, 2 ^ (k - 64))

theorem flipOf_lt {k : Nat} (hk : k < 72) : (flipOf k).1 < 2 ^ 64 ∧ (flipOf k).2 < 2 ^ 8 := by
  unfold flipOf
  split
  next h => exact ⟨Nat.pow_lt_pow_right (by omega) h, by omega⟩
  · exact ⟨by omega, Nat.pow_lt_pow_right (by omega) (by omega)⟩

/-- The syndrome of a word's errors. -/
def syndromeOf (p : Nat × Nat) : Nat := ham7 p.1 ^^^ p.2 % 128

theorem rawDecode_flip : ∀ k < 72, rawDecode (flipOf k).1 (flipOf k).2 = (0, 1) := by decide +kernel

theorem syndromeOf_flip_ne : ∀ k < 72, ∀ j < 72, j ≠ k → syndromeOf (flipOf k) ≠ syndromeOf (flipOf j) := by
  decide +kernel

theorem parity_flip : ∀ k < 72, par64 (flipOf k).1 ^^^ par64 (flipOf k).2 = 1 := by decide +kernel

/-- Two flipped bits of a word have an even parity, and no word's check bits between them: HIGH. -/
theorem rawDecode_two_flips {k j : Nat} (hk : k < 72) (hj : j < 72) (hne : j ≠ k) :
    (rawDecode ((flipOf k).1 ^^^ (flipOf j).1) ((flipOf k).2 ^^^ (flipOf j).2)).2 = 3 := by
  have wrong : (flipOf k).2 ^^^ (flipOf j).2 ≠ rawCheck ((flipOf k).1 ^^^ (flipOf j).1) := by
    intro h
    refine syndromeOf_flip_ne k hk j hj hne (Nat.xor_eq_zero_iff.1 ?_)
    have m := congrArg (· % 2 ^ 7) h
    simp only [Nat.xor_mod_two_pow (n := 7)] at m
    rw [show (2 : Nat) ^ 7 = 128 from rfl, rawCheck_mod, ham7_xor] at m
    have swap : syndromeOf (flipOf k) ^^^ syndromeOf (flipOf j)
        = ham7 (flipOf k).1 ^^^ ham7 (flipOf j).1 ^^^ ((flipOf k).2 % 128 ^^^ (flipOf j).2 % 128) := by
      unfold syndromeOf
      ac_rfl
    rw [swap, m, Nat.xor_self]
  have even : par64 ((flipOf k).1 ^^^ (flipOf j).1) ^^^ par64 ((flipOf k).2 ^^^ (flipOf j).2) = 0 := by
    have swap : par64 ((flipOf k).1 ^^^ (flipOf j).1) ^^^ par64 ((flipOf k).2 ^^^ (flipOf j).2)
        = par64 (flipOf k).1 ^^^ par64 (flipOf k).2 ^^^ (par64 (flipOf j).1 ^^^ par64 (flipOf j).2) := by
      rw [par64_xor, par64_xor]
      ac_rfl
    rw [swap, parity_flip k hk, parity_flip j hj, Nat.xor_self]
  unfold rawDecode
  rw [if_neg wrong]
  dsimp only
  rw [if_pos even]

/-! ### Copies under any legend -/

variable {legend line chk : Nat}

/-- The reading of a copy that is HIGH. -/
def Reading.high (line : Nat) : Reading :=
  { sev := 3, known := false, data := line, newData := 0, newChk := poisonChk, elems := 0, eb := 0, ones := false,
    fixed := 0 }

/-- The reading of a copy whose bits have been corrected, so that the given data and check bits stand. -/
def Reading.corrected (data chk fixed : Nat) : Reading :=
  { sev := 1, known := false, data := data, newData := data, newChk := chk, elems := 0, eb := 0, ones := false,
    fixed := fixed }

theorem checkBits_ne_poisonChk (legend : Nat) : poisoned line (checkBits legend line) = false := by
  by_cases h : line = 0
  · subst h
    simp [poisoned, checkBits, poisonChk, mask]
  · simp [poisoned, h]

theorem decodeCopy_matched (legend line : Nat) :
    decodeCopy legend line (checkBits legend line) = Reading.clean line (checkBits legend line) := by
  unfold decodeCopy
  simp only [checkBits_ne_poisonChk, Bool.false_eq_true, if_false, if_true]
  rfl

theorem decodeCopy_poison (legend : Nat) :
    (decodeCopy legend 0 (2 ^ 128 - 1)).sev = 3 ∧ (decodeCopy legend 0 (2 ^ 128 - 1)).known = true := by
  have poison : poisoned 0 (2 ^ 128 - 1) = true := by decide
  unfold decodeCopy
  simp only [poison, if_true, and_self]

/-! ### Lines under RAW (R373) -/

/-- The decoded words of a copy under RAW. -/
def rawWords (line chk : Nat) : List (Nat × Nat) :=
  (List.range 16).map fun u => rawDecode (laneN line 64 u) (laneN chk 8 u)

theorem decodeCopy_raw (fine : poisoned line chk = false) (differs : chk ≠ checkBits 0 line) :
    decodeCopy 0 line chk = if (rawWords line chk).any fun w => w.2 == 3 then Reading.high line
      else Reading.corrected (packLanes 64 ((rawWords line chk).map (·.1)))
        (checkBits 0 (packLanes 64 ((rawWords line chk).map (·.1)))) 0 := by
  unfold decodeCopy
  simp only [fine, differs, Bool.false_eq_true, if_false]
  rfl

theorem checkBits_raw (line : Nat) : checkBits 0 line = packLanes 8 ((lanesOf line 64 16).map rawCheck) := by
  unfold checkBits
  split
  next h => subst h; decide
  · rfl

/-- The check bits of a line under RAW are those of its words. -/
theorem laneN_checkBits_raw (line : Nat) {v : Nat} (hv : v < 16) :
    laneN (checkBits 0 line) 8 v = rawCheck (laneN line 64 v) := by
  rw [checkBits_raw, lanesOf, List.map_map, laneN_packLanes, getD_map_range, if_pos hv]
  exact Nat.mod_eq_of_lt (rawCheck_lt _)

/-- The words of a copy that has errors e and f in the data and check bits of word u. -/
theorem rawWords_of_errors {e f u : Nat} (he : e < 2 ^ 64) (hf : f < 2 ^ 8) :
    rawWords (line ^^^ e <<< (64 * u)) (checkBits 0 line ^^^ f <<< (8 * u))
      = (List.range 16).map fun v => if v = u then (laneN line 64 v ^^^ (rawDecode e f).1, (rawDecode e f).2)
          else (laneN line 64 v, 0) := by
  have none_ : rawDecode 0 0 = (0, 0) := by decide
  refine List.map_congr_left fun v hv => ?_
  rw [laneN_xor, laneN_xor, laneN_checkBits_raw line (List.mem_range.1 hv), laneN_shiftLeft he, laneN_shiftLeft hf]
  split
  · exact rawDecode_xor _ _ _
  · rw [rawDecode_xor, none_, Nat.xor_zero]

/-- Errors in one word that the decoding notes make no copy that is poisoned or matches. -/
theorem errors_noted {e f u : Nat} (he : e < 2 ^ 64) (hf : f < 2 ^ 8) (hu : u < 16) (noted : (rawDecode e f).2 ≠ 0) :
    poisoned (line ^^^ e <<< (64 * u)) (checkBits 0 line ^^^ f <<< (8 * u)) = false
      ∧ checkBits 0 line ^^^ f <<< (8 * u) ≠ checkBits 0 (line ^^^ e <<< (64 * u)) := by
  constructor
  · rw [Bool.eq_false_iff]
    intro h
    obtain ⟨hl, hc⟩ : line ^^^ e <<< (64 * u) = 0 ∧ checkBits 0 line ^^^ f <<< (8 * u) = poisonChk := by
      simpa [poisoned] using h
    obtain ⟨v, hv, hvu⟩ : ∃ v < 16, v ≠ u := by
      by_cases h0 : u = 0
      · exact ⟨1, by omega, by omega⟩
      · exact ⟨0, by omega, by omega⟩
    have word : laneN line 64 v = 0 := by
      have := congrArg (laneN · 64 v) hl
      simpa [laneN_xor, laneN_shiftLeft he, hvu] using this
    have ones : ∀ v < 16, laneN poisonChk 8 v = 255 := by decide
    have check : laneN (checkBits 0 line) 8 v = 255 := by
      have := congrArg (laneN · 8 v) hc
      simpa [laneN_xor, laneN_shiftLeft hf, hvu, ones v hv] using this
    rw [laneN_checkBits_raw line hv, word] at check
    exact absurd check (by decide)
  · intro h
    have word := congrArg (laneN · 8 u) h
    simp only [laneN_xor, laneN_checkBits_raw _ hu, laneN_shiftLeft he, laneN_shiftLeft hf, if_true, rawCheck_xor,
      Nat.xor_right_inj] at word
    exact noted (by simp [rawDecode, word])

/-- Errors that a word's code corrects are corrected in the line. -/
theorem decodeCopy_raw_corrected {e f u : Nat} (hl : line < 2 ^ 1024) (he : e < 2 ^ 64) (hf : f < 2 ^ 8) (hu : u < 16)
    (corrects : rawDecode e f = (0, 1)) :
    decodeCopy 0 (line ^^^ e <<< (64 * u)) (checkBits 0 line ^^^ f <<< (8 * u))
      = Reading.corrected line (checkBits 0 line) 0 := by
  obtain ⟨fine, differs⟩ := errors_noted (line := line) he hf hu (by rw [corrects]; decide)
  have size : line < 2 ^ (64 * 16) := by rwa [show 64 * 16 = 1024 from rfl]
  have data : ((List.range 16).map fun v => if v = u then (laneN line 64 v ^^^ 0, 1) else (laneN line 64 v, 0)).map
      (fun w : Nat × Nat => w.1) = lanesOf line 64 16 := by
    rw [List.map_map, lanesOf]
    refine List.map_congr_left fun v _ => ?_
    simp only [Function.comp_apply]
    split <;> simp
  rw [decodeCopy_raw fine differs, rawWords_of_errors he hf, corrects, if_neg, data, packLanes_lanesOf (by omega) size]
  simp only [List.any_map, List.any_eq_true, not_exists, not_and]
  intro v _
  simp only [Function.comp_apply]
  split <;> simp

/-- Errors that a word's code only detects make the line HIGH. -/
theorem decodeCopy_raw_high {e f u : Nat} (he : e < 2 ^ 64) (hf : f < 2 ^ 8) (hu : u < 16)
    (high : (rawDecode e f).2 = 3) :
    decodeCopy 0 (line ^^^ e <<< (64 * u)) (checkBits 0 line ^^^ f <<< (8 * u))
      = Reading.high (line ^^^ e <<< (64 * u)) := by
  obtain ⟨fine, differs⟩ := errors_noted (line := line) he hf hu (by rw [high]; decide)
  rw [decodeCopy_raw fine differs, rawWords_of_errors he hf, if_pos]
  simp only [List.any_map, List.any_eq_true]
  exact ⟨u, List.mem_range.2 hu, by simp [high]⟩

/-! ### Bits of a line and its check field under RAW -/

/-- The copy that bit k of the 1,152 is flipped of: data bits first, then check bits. -/
def withFlip (k : Nat) (p : Nat × Nat) : Nat × Nat :=
  if k < 1024 then (p.1 ^^^ 2 ^ k, p.2) else (p.1, p.2 ^^^ 2 ^ (k - 1024))

/-- The word that a bit of a copy belongs to. -/
def wordOf (k : Nat) : Nat := if k < 1024 then k / 64 else (k - 1024) / 8

/-- The place of a bit among the 72 of its word. -/
def placeOf (k : Nat) : Nat := if k < 1024 then k % 64 else 64 + (k - 1024) % 8

theorem wordOf_placeOf {k : Nat} (hk : k < 1152) : wordOf k < 16 ∧ placeOf k < 72 := by
  unfold wordOf placeOf
  split <;> omega

theorem eq_of_wordOf_placeOf {j k : Nat} (hw : wordOf j = wordOf k) (hp : placeOf j = placeOf k) : j = k := by
  unfold wordOf at hw
  unfold placeOf at hp
  split at hw <;> split at hw <;> simp_all <;> omega

theorem withFlip_eq (k : Nat) (p : Nat × Nat) : withFlip k p
    = (p.1 ^^^ (flipOf (placeOf k)).1 <<< (64 * wordOf k), p.2 ^^^ (flipOf (placeOf k)).2 <<< (8 * wordOf k)) := by
  unfold withFlip flipOf placeOf wordOf
  split
  · rw [if_pos (Nat.mod_lt _ (by omega)), Nat.zero_shiftLeft, Nat.xor_zero, Nat.shiftLeft_eq, ← Nat.pow_add,
      Nat.mod_add_div]
  · rw [if_neg (by omega), Nat.zero_shiftLeft, Nat.xor_zero, Nat.shiftLeft_eq, ← Nat.pow_add, Nat.add_sub_cancel_left,
      Nat.mod_add_div]

/-- One flipped bit of a line under RAW is corrected. -/
theorem decodeCopy_withFlip {k : Nat} (hl : line < 2 ^ 1024) (hk : k < 1152) :
    decodeCopy 0 (withFlip k (line, checkBits 0 line)).1 (withFlip k (line, checkBits 0 line)).2
      = Reading.corrected line (checkBits 0 line) 0 := by
  obtain ⟨word, place⟩ := wordOf_placeOf hk
  obtain ⟨he, hf⟩ := flipOf_lt place
  rw [withFlip_eq]
  exact decodeCopy_raw_corrected hl he hf word (rawDecode_flip _ place)

/-- Two flipped bits of a word under RAW are HIGH. -/
theorem decodeCopy_withFlip_withFlip {j k : Nat} (hk : k < 1152) (hj : j < 1152) (hne : j ≠ k) (hw : wordOf j = wordOf k) :
    decodeCopy 0 (withFlip j (withFlip k (line, checkBits 0 line))).1 (withFlip j (withFlip k (line, checkBits 0 line))).2
      = Reading.high (withFlip j (withFlip k (line, checkBits 0 line))).1 := by
  obtain ⟨word, place⟩ := wordOf_placeOf hk
  obtain ⟨-, place'⟩ := wordOf_placeOf hj
  obtain ⟨he, hf⟩ := flipOf_lt place
  obtain ⟨he', hf'⟩ := flipOf_lt place'
  have other : placeOf j ≠ placeOf k := fun h => hne (eq_of_wordOf_placeOf hw h)
  rw [withFlip_eq j, withFlip_eq k, hw]
  simp only [Nat.xor_assoc, ← Nat.shiftLeft_xor_distrib]
  exact decodeCopy_raw_high (Nat.xor_lt_two_pow he he') (Nat.xor_lt_two_pow hf hf') word
    (rawDecode_two_flips place place' other)

end Machine
end Sys2Proof
end

section
/-! PROOFS. Planes and their check bits under the numeric legends (R371, R372, R375, R376). -/

namespace Sys2Proof.Machine

/-- What the planes of a numeric legend satisfy: its elements fill the line, its planes an element and whole groups of
eight middle bits, and its code's generator has the degree of its check bits. -/
structure Planes.Fits (p : Planes) : Prop where
  numeric : p.t ≠ 0
  width : 0 < p.w
  line : p.w * p.n = 1024
  planes : p.h + p.m ≤ p.w
  groups : 8 * (p.m * p.n / 8) = p.m * p.n
  degree : 2 ^ (11 * p.t) ≤ bchGen p.t ∧ bchGen p.t < 2 ^ (11 * p.t + 1)

/-- The planes of the legends 1 to 9. -/
def numericPlanes : List Planes := (List.range 9).map fun k => planesOf (k + 1)

theorem fits_of_numeric {p : Planes} (h : p ∈ numericPlanes) : p.Fits where
  numeric := (by decide : ∀ p ∈ numericPlanes, p.t ≠ 0) p h
  width := (by decide : ∀ p ∈ numericPlanes, 0 < p.w) p h
  line := (by decide : ∀ p ∈ numericPlanes, p.w * p.n = 1024) p h
  planes := (by decide : ∀ p ∈ numericPlanes, p.h + p.m ≤ p.w) p h
  groups := (by decide : ∀ p ∈ numericPlanes, 8 * (p.m * p.n / 8) = p.m * p.n) p h
  degree := (by decide +kernel : ∀ p ∈ numericPlanes, 2 ^ (11 * p.t) ≤ bchGen p.t ∧ bchGen p.t < 2 ^ (11 * p.t + 1)) p h

variable {p : Planes} {legend line chk : Nat}

theorem xor_two_pow_ne (x k : Nat) : x ^^^ 2 ^ k ≠ x := by
  intro h
  have zero : 2 ^ k = 0 := Nat.xor_right_inj.1 (h.trans (Nat.xor_zero x).symm)
  exact absurd zero (by positivity)

/-! ### Planes -/

theorem planeBits_xor (p : Planes) (x y lo k : Nat) :
    planeBits p (x ^^^ y) lo k = planeBits p x lo k ^^^ planeBits p y lo k := by
  simp only [planeBits, lanesOf, List.map_map, ← packLanes_xor]
  refine congrArg (packLanes k) (List.map_congr_left fun e _ => ?_)
  simp only [Function.comp_apply, laneN_xor, Nat.shiftRight_xor_distrib, Nat.xor_mod_two_pow]

/-- The lanes of a plane. -/
theorem laneN_planeBits (p : Planes) (line lo k : Nat) {e : Nat} (he : e < p.n) :
    laneN (planeBits p line lo k) k e = (laneN line p.w e >>> lo) % 2 ^ k := by
  rw [planeBits, lanesOf, List.map_map, laneN_packLanes, getD_map_range, if_pos he]
  exact Nat.mod_mod _ _

theorem packLanes_eq_zero {w : Nat} {l : List Nat} (h : ∀ x ∈ l, x = 0) : packLanes w l = 0 := by
  induction l with
  | nil => rfl
  | cons x l ih =>
    obtain ⟨rfl, rest⟩ := List.forall_mem_cons.1 h
    simp [packLanes, ih rest]

theorem planeBits_zero (p : Planes) (lo k : Nat) : planeBits p 0 lo k = 0 :=
  packLanes_eq_zero (by simp [lanesOf])

/-- One lane among lanes of zero. -/
theorem packLanes_single {w n u x : Nat} (hu : u < n) (hx : x < 2 ^ w) :
    packLanes w ((List.range n).map fun v => if v = u then x else 0) = x <<< (w * u) := by
  by_cases hw : w = 0
  · subst hw
    obtain rfl : x = 0 := by omega
    simpa using packLanes_eq_zero (w := 0) (l := (List.range n).map fun v => if v = u then 0 else 0) (by simp)
  · refine Nat.eq_of_testBit_eq fun k => ?_
    have low : k % w < w := Nat.mod_lt _ (by omega)
    have lane := laneN_shiftLeft hx u (k / w)
    have bit := congrArg (Nat.testBit · (k % w)) lane
    simp only [laneN_testBit, decide_eq_true low, Bool.true_and] at bit
    rw [← Nat.div_add_mod k w, bit, packLanes_testBit low, getD_map_range]
    split
    · rfl
    next h => rw [if_neg (by omega)]

/-- The plane of a single bit of a line. -/
theorem planeBits_two_pow {el b lo k : Nat} (hel : el < p.n) (hb : b < p.w) (hk : b < lo + k) :
    planeBits p (2 ^ (p.w * el + b)) lo k = if lo ≤ b then 2 ^ (k * el + (b - lo)) else 0 := by
  have lane (e : Nat) : laneN (2 ^ (p.w * el + b)) p.w e = if e = el then 2 ^ b else 0 := by
    rw [Nat.pow_add, Nat.mul_comm, ← Nat.shiftLeft_eq]
    exact laneN_shiftLeft (Nat.pow_lt_pow_right (by omega) hb) el e
  have lanes : ((lanesOf (2 ^ (p.w * el + b)) p.w p.n).map fun e => (e >>> lo) % 2 ^ k)
      = (List.range p.n).map fun e => if e = el then (2 ^ b >>> lo) % 2 ^ k else 0 := by
    rw [lanesOf, List.map_map]
    refine List.map_congr_left fun e _ => ?_
    simp only [Function.comp_apply, lane]
    split <;> simp
  rw [planeBits, lanes, packLanes_single hel (Nat.mod_lt _ (by positivity))]
  split
  next h =>
    have small : 2 ^ (b - lo) < 2 ^ k := Nat.pow_lt_pow_right (by omega) (by omega)
    rw [Nat.shiftRight_eq_div_pow, Nat.pow_div h (by omega), Nat.mod_eq_of_lt small, Nat.shiftLeft_eq, ← Nat.pow_add,
      Nat.add_comm]
  next h =>
    have small : 2 ^ b < 2 ^ lo := Nat.pow_lt_pow_right (by omega) (by omega)
    rw [Nat.shiftRight_eq_div_pow, Nat.div_eq_of_lt small, Nat.zero_mod, Nat.zero_shiftLeft]

/-- A line with its own high plane put back. -/
theorem withHigh_highPlane (fits : p.Fits) (hl : line < 2 ^ 1024) : withHigh p line (highPlane p line) = line := by
  have same (e : Nat) (he : e < p.n) : laneN line p.w e % 2 ^ (p.w - p.h)
      + laneN (highPlane p line) p.h e * 2 ^ (p.w - p.h) = laneN line p.w e := by
    have narrow : p.h ≤ p.w := Nat.le_trans (Nat.le_add_right _ _) fits.planes
    have top : laneN line p.w e >>> (p.w - p.h) < 2 ^ p.h := by
      have := laneN_lt line p.w e
      rw [Nat.shiftRight_eq_div_pow]
      refine Nat.div_lt_of_lt_mul ?_
      rwa [← Nat.pow_add, Nat.sub_add_cancel narrow]
    rw [highPlane, laneN_planeBits p line _ _ he, Nat.mod_eq_of_lt top, Nat.shiftRight_eq_div_pow, Nat.mul_comm]
    exact Nat.mod_add_div _ _
  have lanes : ((List.range p.n).map fun e =>
      laneN line p.w e % 2 ^ (p.w - p.h) + laneN (highPlane p line) p.h e * 2 ^ (p.w - p.h)) = lanesOf line p.w p.n :=
    List.map_congr_left fun e he => same e (List.mem_range.1 he)
  rw [withHigh, lanes, packLanes_lanesOf fits.width (by rwa [fits.line])]

/-! ### The middle parity bits (R372) -/

/-- The parity of each eight bits of a middle plane. -/
def groupParity (p : Planes) (plane : Nat) : Nat :=
  packLanes 1 ((lanesOf plane 8 (p.m * p.n / 8)).map fun g => parityN g 3)

theorem midParity_eq (p : Planes) (line : Nat) : midParity p line = groupParity p (midPlane p line) := by
  unfold midParity groupParity
  split
  next h => simp [h, lanesOf, packLanes]
  · rfl

theorem groupParity_xor (p : Planes) (x y : Nat) : groupParity p (x ^^^ y) = groupParity p x ^^^ groupParity p y := by
  simp only [groupParity, lanesOf, List.map_map, ← packLanes_xor]
  refine congrArg (packLanes 1) (List.map_congr_left fun e _ => ?_)
  simp only [Function.comp_apply, laneN_xor, parityN_xor]

theorem groupParity_lt (p : Planes) (plane : Nat) : groupParity p plane < 2 ^ (p.m * p.n / 8) := by
  have := packLanes_lt 1 ((lanesOf plane 8 (p.m * p.n / 8)).map fun g => parityN g 3)
  rwa [List.length_map, lanesOf, List.length_map, List.length_range, Nat.one_mul] at this

/-- A single bit of a middle plane toggles the parity of its group alone. -/
theorem groupParity_two_pow (fits : p.Fits) {q : Nat} (hq : q < p.m * p.n) : groupParity p (2 ^ q) = 2 ^ (q / 8) := by
  have bit : ∀ b < 8, parityN (2 ^ b) 3 = 1 := by decide
  have group : q / 8 < p.m * p.n / 8 := by
    have := fits.groups
    omega
  have lane (j : Nat) : parityN (laneN (2 ^ q) 8 j) 3 = if j = q / 8 then 1 else 0 := by
    have split_ : 2 ^ q = 2 ^ (q % 8) <<< (8 * (q / 8)) := by rw [Nat.shiftLeft_eq, ← Nat.pow_add, Nat.mod_add_div]
    have low : q % 8 < 8 := Nat.mod_lt _ (by omega)
    rw [split_, laneN_shiftLeft (Nat.pow_lt_pow_right (by omega) low)]
    split
    · exact bit _ low
    · rfl
  have lanes : ((lanesOf (2 ^ q) 8 (p.m * p.n / 8)).map fun g => parityN g 3)
      = (List.range (p.m * p.n / 8)).map fun j => if j = q / 8 then 1 else 0 := by
    rw [lanesOf, List.map_map]
    exact List.map_congr_left fun j _ => lane j
  rw [groupParity, lanes, packLanes_single group (by omega), Nat.one_mul, Nat.shiftLeft_eq, Nat.one_mul]

/-! ### The BCH part of the check bits -/

theorem clMod_lt {g d : Nat} (hg : 2 ^ d ≤ g ∧ g < 2 ^ (d + 1)) (x n : Nat) : clMod g d x n < 2 ^ d := by
  have top : g.testBit d = true := by
    have one : g / 2 ^ d = 1 := Nat.div_eq_of_lt_le (by omega) (by rw [Nat.pow_succ] at hg; omega)
    rw [Nat.testBit_eq_decide_div_mod_eq, one]
    rfl
  unfold clMod
  generalize List.range (n + d) = l
  have step (r b : Nat) (hr : r < 2 ^ d) (hb : b < 2) :
      (if tst (2 * r + b) d then (2 * r + b) ^^^ g else 2 * r + b) < 2 ^ d := by
    have bound : 2 * r + b < 2 ^ (d + 1) := by rw [Nat.pow_succ]; omega
    have bit : tst (2 * r + b) d = (2 * r + b).testBit d := by
      rw [Nat.testBit_eq_decide_div_mod_eq, tst, bitN, Nat.shiftRight_eq_div_pow]
      rfl
    have above {y : Nat} (hy : y < 2 ^ (d + 1)) {j : Nat} (hj : d < j) : y.testBit j = false :=
      Nat.testBit_lt_two_pow (Nat.lt_of_lt_of_le hy (Nat.pow_le_pow_right (by omega) hj))
    rw [bit]
    refine Nat.lt_pow_two_of_testBit _ fun j hj => ?_
    obtain rfl | hj := Nat.eq_or_lt_of_le hj
    · split
      next h => rw [Nat.testBit_xor, h, top]; rfl
      next h => simpa using h
    · split
      · rw [Nat.testBit_xor, above bound hj, above hg.2 hj]; rfl
      · exact above bound hj
  have fold (r : Nat) (hr : r < 2 ^ d) : l.foldl (fun r i =>
      let r := 2 * r + (if i < n then bitN x (n - 1 - i) else 0)
      if tst r d then r ^^^ g else r) r < 2 ^ d := by
    induction l generalizing r with
    | nil => exact hr
    | cons i l ih =>
      refine ih _ (step r _ hr ?_)
      split
      · exact Nat.mod_lt _ (by omega)
      · omega
  exact fold 0 (by positivity)

theorem bchOf_lt (fits : p.Fits) (high : Nat) : bchOf p high < 2 ^ (11 * p.t + 1) := by
  unfold bchOf
  split
  · positivity
  · have c := clMod_lt fits.degree high p.high
    have parity : parity high ^^^ parity (clMod (bchGen p.t) (11 * p.t) high p.high) < 2 :=
      Nat.xor_lt_two_pow (n := 1) (parityN_lt _ _) (parityN_lt _ _)
    dsimp only
    rw [Nat.pow_succ]
    nlinarith

/-- The check bits of a line: those of its high plane below those of its middle plane. -/
theorem checkBits_planes (fits : (planesOf legend).Fits) (line : Nat) : checkBits legend line
    = bchOf (planesOf legend) (highPlane (planesOf legend) line)
      + 2 ^ (11 * (planesOf legend).t + 1) * groupParity (planesOf legend) (midPlane (planesOf legend) line) := by
  unfold checkBits
  split
  next h =>
    have zero : groupParity (planesOf legend) 0 = 0 := packLanes_eq_zero (by
      simp only [lanesOf, List.map_map, List.mem_map]
      rintro _ ⟨j, -, rfl⟩
      simp only [Function.comp_apply, laneN_zero]
      rfl)
    rw [h, highPlane, midPlane, planeBits_zero, planeBits_zero, zero]
    rfl
  · dsimp only
    rw [if_neg fits.numeric, midParity_eq, Nat.mul_comm (groupParity _ _)]

/-! ### Reading a copy under a numeric legend -/

/-- Where the received bits of the BCH part are those of the high plane, nothing is corrected. -/
theorem bchDecode_of_match {high : Nat} (h : chk % 2 ^ (11 * p.t + 1) = bchOf p high) :
    bchDecode p high chk = some (high, 0, 0) := by
  unfold bchDecode
  dsimp only
  rw [if_pos h]

/-- Where only the overall parity bit differs, it alone is corrected. -/
theorem bchDecode_of_parity {high : Nat} (h : chk % 2 ^ (11 * p.t + 1) = bchOf p high ^^^ 2 ^ (11 * p.t)) :
    bchDecode p high chk = some (high, 0, 1) := by
  have differs : chk % 2 ^ (11 * p.t + 1) ≠ bchOf p high := by
    rw [h]
    exact xor_two_pow_ne _ _
  have below : (bchOf p high ^^^ chk) % 2 ^ (11 * p.t) = 0 := by
    have low := congrArg (· % 2 ^ (11 * p.t)) h
    simp only [Nat.mod_mod_of_dvd _ (Nat.pow_dvd_pow 2 (Nat.le_succ (11 * p.t))), Nat.xor_mod_two_pow, Nat.mod_self,
      Nat.xor_zero] at low
    rw [Nat.xor_mod_two_pow, low, Nat.xor_self]
  unfold bchDecode
  dsimp only
  rw [if_neg differs, if_pos below]

/-- The middle parity groups of a copy that have failed. -/
def failedGroups (p : Planes) (line chk : Nat) : Nat :=
  groupParity p (midPlane p line) ^^^ (chk >>> (11 * p.t + 1)) % 2 ^ (p.m * p.n / 8)

/-- A copy whose high plane stands: LOW when a middle parity group has failed, else corrected when a check bit was. -/
theorem decodeCopy_of_high {total : Nat} (fits : (planesOf legend).Fits) (hl : line < 2 ^ 1024)
    (fine : poisoned line chk = false) (differs : chk ≠ checkBits legend line)
    (bch : bchDecode (planesOf legend) (highPlane (planesOf legend) line) chk
      = some (highPlane (planesOf legend) line, 0, total)) :
    (failedGroups (planesOf legend) line chk ≠ 0 → (decodeCopy legend line chk).sev = 2
        ∧ (decodeCopy legend line chk).data = line ∧ (decodeCopy legend line chk).newData = line
        ∧ (decodeCopy legend line chk).newChk = checkBits legend line)
      ∧ (failedGroups (planesOf legend) line chk = 0 → 0 < total →
          decodeCopy legend line chk = Reading.corrected line (checkBits legend line) 0) := by
  have failed : midParity (planesOf legend) line
      ^^^ (chk >>> (11 * (planesOf legend).t + 1)) % 2 ^ ((planesOf legend).m * (planesOf legend).n / 8)
      = failedGroups (planesOf legend) line chk := by rw [midParity_eq, failedGroups]
  unfold decodeCopy
  simp only [fine, differs, fits.numeric, bch, withHigh_highPlane fits hl, failed, Bool.false_eq_true, if_false]
  constructor
  · intro h
    rw [if_pos h]
    exact ⟨rfl, rfl, rfl, rfl⟩
  · intro h htotal
    rw [if_neg (not_not.2 h), if_pos htotal]
    rfl

/-! ### Flipped bits under a numeric legend -/

/-- The two parts of a line's check field. -/
theorem checkBits_parts (fits : (planesOf legend).Fits) (line : Nat) :
    checkBits legend line % 2 ^ (11 * (planesOf legend).t + 1) = bchOf (planesOf legend) (highPlane (planesOf legend) line)
      ∧ (checkBits legend line >>> (11 * (planesOf legend).t + 1))
          % 2 ^ ((planesOf legend).m * (planesOf legend).n / 8)
        = groupParity (planesOf legend) (midPlane (planesOf legend) line) := by
  have low := bchOf_lt fits (highPlane (planesOf legend) line)
  rw [checkBits_planes fits]
  constructor
  · rw [Nat.add_mul_mod_self_left, Nat.mod_eq_of_lt low]
  · rw [Nat.shiftRight_eq_div_pow, Nat.add_mul_div_left _ _ (by positivity), Nat.div_eq_of_lt low, Nat.zero_add,
      Nat.mod_eq_of_lt (groupParity_lt _ _)]

/-- A copy is poisoned only if all bits of its BCH part are 1 over a high plane of 0. -/
theorem not_poisoned_of_bch (fits : (planesOf legend).Fits)
    (h : chk % 2 ^ (11 * (planesOf legend).t)
      = bchOf (planesOf legend) (highPlane (planesOf legend) line) % 2 ^ (11 * (planesOf legend).t)) :
    poisoned line chk = false := by
  rw [Bool.eq_false_iff]
  intro poison
  obtain ⟨rfl, rfl⟩ : line = 0 ∧ chk = poisonChk := by simpa [poisoned] using poison
  have zero : bchOf (planesOf legend) (highPlane (planesOf legend) 0) = 0 := by
    rw [highPlane, planeBits_zero]
    rfl
  have bit := congrArg (Nat.testBit · 0) h
  have positive : 0 < 11 * (planesOf legend).t := Nat.mul_pos (by omega) (Nat.pos_of_ne_zero fits.numeric)
  simp [zero, positive, poisonChk, mask] at bit

/-- A copy whose BCH part is that of its high plane, and whose middle parity bits are not its middle plane's, is LOW. -/
theorem decodeCopy_low (fits : (planesOf legend).Fits) (hl : line < 2 ^ 1024)
    (bch : chk % 2 ^ (11 * (planesOf legend).t + 1) = bchOf (planesOf legend) (highPlane (planesOf legend) line))
    (fails : (chk >>> (11 * (planesOf legend).t + 1)) % 2 ^ ((planesOf legend).m * (planesOf legend).n / 8)
      ≠ groupParity (planesOf legend) (midPlane (planesOf legend) line)) :
    (decodeCopy legend line chk).sev = 2 ∧ (decodeCopy legend line chk).data = line
      ∧ (decodeCopy legend line chk).newData = line ∧ (decodeCopy legend line chk).newChk = checkBits legend line := by
  have fine : poisoned line chk = false := not_poisoned_of_bch fits (by
    rw [← bch, Nat.mod_mod_of_dvd _ (Nat.pow_dvd_pow 2 (Nat.le_succ _))])
  have differs : chk ≠ checkBits legend line := by
    rintro rfl
    exact fails (checkBits_parts fits line).2
  refine (decodeCopy_of_high fits hl fine differs (bchDecode_of_match bch)).1 fun h => fails ?_
  exact (Nat.xor_eq_zero_iff.1 h).symm

/-- The overall parity bit flipped (R372, R375): it is corrected. -/
theorem decodeCopy_flip_overall (fits : (planesOf legend).Fits) (hl : line < 2 ^ 1024) :
    decodeCopy legend line (checkBits legend line ^^^ 2 ^ (11 * (planesOf legend).t))
      = Reading.corrected line (checkBits legend line) 0 := by
  obtain ⟨low, high⟩ := checkBits_parts fits line
  have one : (2 : Nat) ^ (11 * (planesOf legend).t) < 2 ^ (11 * (planesOf legend).t + 1) :=
    Nat.pow_lt_pow_right (by omega) (Nat.lt_succ_self _)
  have bch : (checkBits legend line ^^^ 2 ^ (11 * (planesOf legend).t)) % 2 ^ (11 * (planesOf legend).t + 1)
      = bchOf (planesOf legend) (highPlane (planesOf legend) line) ^^^ 2 ^ (11 * (planesOf legend).t) := by
    rw [Nat.xor_mod_two_pow, low, Nat.mod_eq_of_lt one]
  have fine : poisoned line (checkBits legend line ^^^ 2 ^ (11 * (planesOf legend).t)) = false :=
    not_poisoned_of_bch fits (by
      rw [← low, Nat.mod_mod_of_dvd _ (Nat.pow_dvd_pow 2 (Nat.le_succ _)), Nat.xor_mod_two_pow, Nat.mod_self, Nat.xor_zero])
  refine (decodeCopy_of_high fits hl fine (xor_two_pow_ne _ _) (bchDecode_of_parity bch)).2 ?_ Nat.one_pos
  rw [failedGroups, Nat.shiftRight_xor_distrib, Nat.shiftRight_eq_div_pow (2 ^ _), Nat.div_eq_of_lt one, Nat.xor_zero, high,
    Nat.xor_self]

/-- A middle parity bit flipped (R372, R376): its group has failed, and the line stands. -/
theorem decodeCopy_flip_group {j : Nat} (fits : (planesOf legend).Fits) (hl : line < 2 ^ 1024)
    (hj : j < (planesOf legend).m * (planesOf legend).n / 8) :
    (decodeCopy legend line (checkBits legend line ^^^ 2 ^ (11 * (planesOf legend).t + 1 + j))).sev = 2
      ∧ (decodeCopy legend line (checkBits legend line ^^^ 2 ^ (11 * (planesOf legend).t + 1 + j))).data = line
      ∧ (decodeCopy legend line (checkBits legend line ^^^ 2 ^ (11 * (planesOf legend).t + 1 + j))).newData = line
      ∧ (decodeCopy legend line (checkBits legend line ^^^ 2 ^ (11 * (planesOf legend).t + 1 + j))).newChk
        = checkBits legend line := by
  obtain ⟨low, high⟩ := checkBits_parts fits line
  refine decodeCopy_low fits hl ?_ ?_
  · rw [Nat.xor_mod_two_pow, low, Nat.pow_add, Nat.mul_mod_right, Nat.xor_zero]
  · rw [Nat.shiftRight_xor_distrib, Nat.xor_mod_two_pow, high, Nat.shiftRight_eq_div_pow, Nat.pow_add,
      Nat.mul_div_cancel_left _ (by positivity), Nat.mod_eq_of_lt (Nat.pow_lt_pow_right (by omega) hj)]
    exact xor_two_pow_ne _ _

section flip

variable {el b : Nat}

theorem two_pow_lt_line (fits : p.Fits) (hel : el < p.n) (hb : b < p.w) : 2 ^ (p.w * el + b) < 2 ^ 1024 := by
  refine Nat.pow_lt_pow_right (by omega) ?_
  have := Nat.mul_le_mul_left p.w (Nat.succ_le_of_lt hel)
  rw [fits.line, Nat.mul_succ] at this
  omega

/-- A bit below the high plane leaves the high plane. -/
theorem highPlane_flip (hel : el < p.n) (hb : b < p.w - p.h) :
    highPlane p (line ^^^ 2 ^ (p.w * el + b)) = highPlane p line := by
  rw [highPlane, planeBits_xor, planeBits_two_pow hel (by omega) (by omega), if_neg (by omega), Nat.xor_zero]
  rfl

/-- A bit below the high plane toggles the middle parity of its group, if it is one of the middle plane. -/
theorem groupParity_flip (fits : p.Fits) (hel : el < p.n) (hb : b < p.w - p.h) :
    groupParity p (midPlane p (line ^^^ 2 ^ (p.w * el + b)))
      = groupParity p (midPlane p line) ^^^
        if p.w - p.h - p.m ≤ b then 2 ^ ((p.m * el + (b - (p.w - p.h - p.m))) / 8) else 0 := by
  have zero : groupParity p 0 = 0 := by simpa using groupParity_xor p 0 0
  rw [midPlane, planeBits_xor, groupParity_xor, planeBits_two_pow hel (by omega) (by omega)]
  congr 1
  split
  · refine groupParity_two_pow fits ?_
    have := Nat.mul_le_mul_left p.m (Nat.succ_le_of_lt hel)
    rw [Nat.mul_succ] at this
    omega
  · exact zero

/-- A flipped bit of the low plane is not seen (R371). -/
theorem decodeCopy_flip_low (fits : (planesOf legend).Fits) (hel : el < (planesOf legend).n)
    (hb : b < (planesOf legend).w - (planesOf legend).h - (planesOf legend).m) :
    decodeCopy legend (line ^^^ 2 ^ ((planesOf legend).w * el + b)) (checkBits legend line)
      = Reading.clean (line ^^^ 2 ^ ((planesOf legend).w * el + b)) (checkBits legend line) := by
  have same : checkBits legend (line ^^^ 2 ^ ((planesOf legend).w * el + b)) = checkBits legend line := by
    rw [checkBits_planes fits, checkBits_planes fits, highPlane_flip hel (by omega), groupParity_flip fits hel (by omega),
      if_neg (by omega), Nat.xor_zero]
  rw [← same]
  exact decodeCopy_matched legend _

/-- A flipped bit of the middle plane is LOW, and the line stands as it is (R376). -/
theorem decodeCopy_flip_middle {x : Reading} (fits : (planesOf legend).Fits) (hl : line < 2 ^ 1024)
    (hel : el < (planesOf legend).n) (hb : b < (planesOf legend).w - (planesOf legend).h)
    (middle : (planesOf legend).w - (planesOf legend).h - (planesOf legend).m ≤ b)
    (hx : x = decodeCopy legend (line ^^^ 2 ^ ((planesOf legend).w * el + b)) (checkBits legend line)) :
    x.sev = 2 ∧ x.data = line ^^^ 2 ^ ((planesOf legend).w * el + b) ∧ x.newData = x.data
      ∧ x.newChk = checkBits legend x.data := by
  obtain ⟨low, high⟩ := checkBits_parts fits line
  have bound := two_pow_lt_line fits hel (show b < (planesOf legend).w by omega)
  obtain ⟨sev, data, newData, newChk⟩ := decodeCopy_low (chk := checkBits legend line) fits (Nat.xor_lt_two_pow hl bound)
    (by rw [low, highPlane_flip hel hb])
    (by
      rw [high, groupParity_flip fits hel hb, if_pos middle]
      exact (xor_two_pow_ne _ _).symm)
  rw [← hx] at sev data newData newChk
  exact ⟨sev, data, newData.trans data.symm, newChk.trans (by rw [data])⟩

end flip

end Sys2Proof.Machine
end

section
/-! PROOFS. Stores, sectors, lines and check bits, as the statement about their homes asks for them. -/

namespace Sys2Proof.Machine

/-! ### The check bits of a line -/

theorem raw_flips {line : Nat} (hl : line < 2 ^ 1024) (k l c : Nat) (x : Reading) (hk : k < 1152)
    (copy : (l, c) = if k < 1024 then (line ^^^ 2 ^ k, checkBits 0 line) else (line, checkBits 0 line ^^^ 2 ^ (k - 1024)))
    (hx : x = decodeCopy 0 l c) :
    x.sev = 1 ∧ x.data = line ∧ x.newData = line ∧ x.newChk = checkBits 0 line
      ∧ ∀ (j : Nat) (y : Reading), j < 1152 → j ≠ k →
          (if j < 1024 then j / 64 else (j - 1024) / 8) = (if k < 1024 then k / 64 else (k - 1024) / 8) →
          y = (if j < 1024 then decodeCopy 0 (l ^^^ 2 ^ j) c else decodeCopy 0 l (c ^^^ 2 ^ (j - 1024))) →
          y.sev = 3 ∧ y.known = false ∧ y.newData = 0 ∧ y.newChk = 2 ^ 128 - 1 := by
  have flipped : (l, c) = withFlip k (line, checkBits 0 line) := copy
  have one := decodeCopy_withFlip hl hk
  rw [← flipped, ← hx] at one
  refine ⟨by rw [one]; rfl, by rw [one]; rfl, by rw [one]; rfl, by rw [one]; rfl, fun j y hj hne word hy => ?_⟩
  have two := decodeCopy_withFlip_withFlip (line := line) hk hj hne word
  rw [← flipped] at two
  have high : y = Reading.high (withFlip j (l, c)).1 := by
    rw [hy, ← two]
    unfold withFlip
    split <;> rfl
  rw [high]
  exact ⟨rfl, rfl, rfl, rfl⟩

theorem planesOf_of_listed {legend w h m t : Nat}
    (listed : (legend, w, h, m, t) ∈ [(1, 32, 9, 7, 9), (2, 16, 9, 3, 9), (3, 16, 6, 5, 7), (4, 8, 5, 1, 10),
      (5, 8, 3, 2, 8), (6, 4, 2, 1, 8), (7, 4, 3, 1, 8), (8, 1024, 1024, 0, 11), (9, 1024, 1024, 0, 11)]) :
    planesOf legend = ⟨w, h, m, t⟩ ∧ planesOf legend ∈ numericPlanes :=
  (by decide : ∀ q ∈ [(1, 32, 9, 7, 9), (2, 16, 9, 3, 9), (3, 16, 6, 5, 7), (4, 8, 5, 1, 10), (5, 8, 3, 2, 8),
      (6, 4, 2, 1, 8), (7, 4, 3, 1, 8), (8, 1024, 1024, 0, 11), (9, 1024, 1024, 0, 11)],
    planesOf q.1 = ⟨q.2.1, q.2.2.1, q.2.2.2.1, q.2.2.2.2⟩ ∧ planesOf q.1 ∈ numericPlanes) _ listed

theorem numeric_flips {line legend w h m t : Nat} (hl : line < 2 ^ 1024) (hp : planesOf legend = ⟨w, h, m, t⟩)
    (fits : (planesOf legend).Fits) :
    (∀ (el b : Nat) (x : Reading), el < 1024 / w → b < w - h →
        x = decodeCopy legend (line ^^^ 2 ^ (w * el + b)) (checkBits legend line) →
        x.data = line ^^^ 2 ^ (w * el + b)
        ∧ (b < w - h - m → x.sev = 0)
        ∧ (w - h - m ≤ b → x.sev = 2 ∧ x.newData = x.data ∧ x.newChk = checkBits legend x.data))
      ∧ (∀ x : Reading, x = decodeCopy legend line (checkBits legend line ^^^ 2 ^ (11 * t)) →
        x.sev = 1 ∧ x.data = line ∧ x.newData = line ∧ x.newChk = checkBits legend line)
      ∧ ∀ (j : Nat) (x : Reading), j < m * (1024 / w) / 8 →
        x = decodeCopy legend line (checkBits legend line ^^^ 2 ^ (11 * t + 1 + j)) →
        x.sev = 2 ∧ x.data = line ∧ x.newData = line ∧ x.newChk = checkBits legend line := by
  have low (el b : Nat) := decodeCopy_flip_low (line := line) (el := el) (b := b) fits
  have middle (el b : Nat) (x : Reading) := decodeCopy_flip_middle (line := line) (el := el) (b := b) (x := x) fits hl
  have overall := decodeCopy_flip_overall fits hl
  have group (j : Nat) := decodeCopy_flip_group (j := j) fits hl
  simp only [hp, Planes.n] at low middle overall group
  refine ⟨fun el b x hel hb hx => ?_, fun x hx => ?_, fun j x hj hx => ?_⟩
  · by_cases plane : b < w - h - m
    · rw [low el b hel plane] at hx
      exact ⟨by rw [hx]; rfl, fun _ => by rw [hx]; rfl, fun h => absurd plane (Nat.not_lt.2 h)⟩
    · obtain ⟨sev, data, newData, newChk⟩ := middle el b x hel hb (Nat.not_lt.1 plane) hx
      exact ⟨data, fun h => absurd h plane, fun _ => ⟨sev, newData, newChk⟩⟩
  · rw [hx, overall]
    exact ⟨rfl, rfl, rfl, rfl⟩
  · rw [hx]
    exact group j hj

/-! ### Events -/

variable {s : State} {d : Fin 16} {r : Fin 192}

theorem next_of_eq {f : Env → Mach → Mach} (h : f ⟨s.boot, s.clk⟩ s.m = s.m) : eventStep f s = .next s := by
  unfold eventStep
  rw [h]

/-- What a write-back of a sector's bytes leaves at their home, byte by byte of the sector. -/
theorem byte_of_sector {m n : Mach} {data : BitVec 128} {pa : Nat} (h : m.HomeWritten n pa (bytesOf data.toNat 16)) (a : Nat) :
    n.byteAt a = if pa ≤ a ∧ a < pa + 16 then data.extractLsb' (8 * (a - pa)) 8 else m.byteAt a := by
  rw [h a, bytesOf_length]
  split
  next inside => rw [bytesOf_getD (by omega), byteN_toNat]
  · rfl

theorem sector_steps {tag : Nat} {y : Sector} (hy : (s.m.core (d.val * 192 + r.val)).sectors.find tag = some y) :
    (y.dirty = false → exec (.l1SectorWriteback d r tag) s = .next s)
      ∧ (∀ pa, y.dirty = true → y.bad = false → y.par = sectorParity y.data → y.loc = .phys pa → pa % 16 = 0 →
          s.m.homeClean y.legend pa = true →
          ∃ t, exec (.l1SectorWriteback d r tag) s = .next t ∧ t.m.ctxs = s.m.ctxs ∧ t.m.spad = s.m.spad
            ∧ (t.m.core (d.val * 192 + r.val)).sectors.find tag = some { y with dirty := false, stores := [] }
            ∧ (∀ a, t.m.byteAt a = if pa ≤ a ∧ a < pa + 16 then y.data.extractLsb' (8 * (a - pa)) 8 else s.m.byteAt a)
            ∧ t.m.hot.get 0 (d.val * 512 + y.buf) = s.m.hot.get 0 (d.val * 512 + y.buf) + 16
            ∧ (Env.live ⟨s.boot, s.clk⟩ d.val = true → s.m.hubFail.getLsbD d.val = false → pa < 2 ^ 44 →
                (s.m.l2.find (pa / 128)).isSome = true → (s.m.task (d.val * 3072 + y.frame)).st ≠ .free →
                (t.m.task (d.val * 3072 + y.frame)).energy = (s.m.task (d.val * 3072 + y.frame)).energy + 16 * 12000))
      ∧ (y.dirty = true → exec (.l1CleanExpiry d r tag) s = .next s)
      ∧ (y.dirty = false → ∃ t, exec (.l1CleanExpiry d r tag) s = .next t
          ∧ (t.m.core (d.val * 192 + r.val)).sectors.find tag = none ∧ t.m = { s.m with cores := t.m.cores }
          ∧ ∀ j, j ≠ tag → (t.m.core (d.val * 192 + r.val)).sectors.find j
              = (s.m.core (d.val * 192 + r.val)).sectors.find j) := by
  have key : (s.m.core (coreKey d.val r.val)).sectors.find tag = some y := hy
  refine ⟨fun same => ?_, fun pa dirty good par hloc aligned clean => ?_, fun dirty => ?_, fun same => ?_⟩
  · exact next_of_eq (f := fun e => writeBack e (coreKey d.val r.val) tag) (by simp only [writeBack, key, same]; rfl)
  · have die : coreDie (coreKey d.val r.val) = d.val := by
      have := r.isLt
      simp only [coreDie, coreKey]
      omega
    have near (small : pa < 2 ^ 44) : hostLine (pa / 128) = false := by
      simp only [hostLine, decide_eq_false_iff_not]
      omega
    obtain ⟨ctxs, spad, sector, bytes, hot, energy⟩ :=
      writeBack_spec (e := ⟨s.boot, s.clk⟩) key dirty good par hloc aligned clean rfl
    rw [die] at hot energy
    exact ⟨_, rfl, ctxs, spad, sector, byte_of_sector bytes, hot, fun live hub small => energy live hub (near small)⟩
  · exact next_of_eq (f := fun _ => cleanExpiryAt (coreKey d.val r.val) tag) (by simp only [cleanExpiryAt, key, dirty]; rfl)
  · have gone : cleanExpiryAt (coreKey d.val r.val) tag s.m
        = s.m.modCore (coreKey d.val r.val) fun c => { c with sectors := c.sectors.del tag } := by
      simp only [cleanExpiryAt, key, same]
      rfl
    refine ⟨{ s with m := cleanExpiryAt (coreKey d.val r.val) tag s.m }, rfl, ?_⟩
    rw [gone]
    refine ⟨?_, rfl, fun j hj => ?_⟩
    · exact (congrArg (fun c : Core => c.sectors.find tag) (Mach.core_modCore_same _ _ _)).trans (SMap.find_del_same _ _)
    · exact (congrArg (fun c : Core => c.sectors.find j) (Mach.core_modCore_same _ _ _)).trans (SMap.find_del_of_ne _ hj)

theorem eviction_steps {line : Nat} {y : L2Line} (hy : s.m.l2.find line = some y) :
    (y.pins ≠ 0 → exec (.l2Eviction line) s = .next s)
      ∧ (y.pins = 0 → y.dirty = 0 → ∃ t, exec (.l2Eviction line) s = .next t ∧ t.m.l2.find line = none
          ∧ t.m = { s.m with l2 := t.m.l2 } ∧ ∀ j, j ≠ line → t.m.l2.find j = s.m.l2.find j)
      ∧ (y.pins = 0 → y.dirty ≠ 0 → (decodeCopy y.legend y.data.toNat y.chk.toNat).sev = 0 →
          ∃ t, exec (.l2Eviction line) s = .next t ∧ t.m.l2.find line = none ∧ t.m.ctxs = s.m.ctxs
            ∧ (∀ a, t.m.mem.read a = if line * 128 ≤ a ∧ a < line * 128 + 128 then
                y.data.extractLsb' (8 * (a - line * 128)) 8 else s.m.mem.read a)
            ∧ ∀ a, t.m.byteAt a = s.m.byteAt a) := by
  refine ⟨fun pinned => ?_, fun free same => ?_, fun free dirty clean => ?_⟩
  · exact next_of_eq (f := fun e => l2EvictionAt e line) (l2EvictWith_of_pinned hy pinned)
  · refine ⟨{ s with m := { s.m with l2 := s.m.l2.del line } }, ?_, SMap.find_del_same _ _, rfl,
      fun j hj => SMap.find_del_of_ne _ hj⟩
    exact congrArg (fun m => (.next { s with m := m } : Out)) (l2EvictWith_of_not_dirty hy free same)
  · obtain ⟨l2, mem⟩ := l2EvictWith_of_clean (rec_ := event) (e := ⟨s.boot, s.clk⟩) hy free clean
    have stored (a : Nat) := (mem a).trans (if_congr (and_iff_right dirty) rfl rfl)
    exact ⟨_, rfl, (congrArg (SMap.find · line) l2).trans (SMap.find_del_same _ _),
      ctxs_of_beyondHome (l2EvictWith_beyondHome event_staysHome _ _ _), stored, byteAt_of_evicted hy l2 stored⟩

theorem fill_of_full {m n : Mach} {e : Env} {ag : Agent} {leg la : Nat} {g : Got} (rising : m.l2.rising = true)
    (missing : m.l2.find la = none) (full : (l2Ways m la).length = 16) (some_free : ∃ p ∈ l2Ways m la, p.2.pins = 0)
    (ways_clean : ∀ p ∈ l2Ways m la, (decodeCopy p.2.legend p.2.data.toNat p.2.chk.toNat).sev = 0)
    (clean : (decodeCopy leg (memData m la) (memCheck m la)).sev = 0) (read : homeRead e ag leg la m = (g, n)) :
    g.data = memData m la ∧ (n.l2.find la).isSome = true ∧ (l2Ways n la).length = 16
      ∧ ∃ (out : Nat) (y : L2Line), m.l2.find out = some y ∧ y.pins = 0 ∧ l2Slice out = l2Slice la
        ∧ l2Set out = l2Set la ∧ n.l2.find out = none ∧ (∀ j, j ≠ la → j ≠ out → n.l2.find j = m.l2.find j)
        ∧ ∀ a, n.mem.read a = if y.dirty ≠ 0 ∧ out * 128 ≤ a ∧ a < out * 128 + 128 then
            y.data.extractLsb' (8 * (a - out * 128)) 8 else m.mem.read a := by
  obtain ⟨data, out, y, x, hy, way, free, l2, mem⟩ :=
    homeRead_of_full (e := e) (ag := ag) rising missing full some_free ways_clean clean
  rw [read] at data l2 mem
  dsimp only at data l2 mem
  obtain ⟨slice, set_⟩ : l2Slice out = l2Slice la ∧ l2Set out = l2Set la := by
    simpa using (List.mem_filter.1 way).2
  have other : la ≠ out := by
    rintro rfl
    rw [hy] at missing
    cases missing
  refine ⟨data, ?_, (l2Ways_put_del rising missing hy slice set_ l2).trans full, out, y, hy, free, slice, set_, ?_, ?_, mem⟩
  · simp [l2, SMap.find_del, other]
  · simp [l2]
  · intro j hla hout
    rw [l2, SMap.find_del_of_ne _ hout, SMap.find_put, if_neg hla]

/-! ### Stores on their way -/

variable {x : Fin 4} {ck : Nat}

theorem store_steps (hck : ck = d.val * 768 + r.val * 4 + x.val) (nofence : (s.m.ctx ck).fences = []) :
    (∀ (y : PStore) (core off : Nat), (s.m.ctx ck).stq = [y] → y.loc = .spad core off →
        off % 128 + y.bytes.length ≤ 128 → s.m.spadClean core off = true →
        ∃ t, exec (.storeAcknowledgement d r x 0) s = .next t ∧ t.m.ctx ck = { s.m.ctx ck with stq := [] }
          ∧ t.m.mem = s.m.mem ∧ s.m.SpadWritten t.m core off y.bytes)
      ∧ (∀ (y : PStore) (pa : Nat), (s.m.ctx ck).stq = [y] → y.loc = .phys pa → pa % 128 + y.bytes.length ≤ 128 →
          s.m.homeClean y.legend pa = true →
          ∃ t, exec (.storeAcknowledgement d r x 0) s = .next t ∧ t.m.ctx ck = { s.m.ctx ck with stq := [] }
            ∧ t.m.spad = s.m.spad ∧ s.m.HomeWritten t.m pa y.bytes)
      ∧ (∀ y z : PStore, (s.m.ctx ck).stq = [z, y] → z.id ≠ y.id → z.overlaps y.loc y.bytes.length = true →
          (z.acls = 0 ∨ y.acls = 0 ∨ z.acls = y.acls) → exec (.storeAcknowledgement d r x 1) s = .next s)
      ∧ ∀ (y : PStore) (pkg rh off h : Nat), (s.m.ctx ck).stq = [y] → y.loc = .peer pkg rh off h →
          ∃ t, exec (.peerRefusal d r x 0) s = .next t ∧ s.CtxBecomes t ck
            { s.m.ctx ck with stq := [], refusals := (s.m.ctx ck).refusals ++ [(y.id, y.gaddr)] } := by
  have key : ctxKey d.val r.val x.val = ck := by
    simp only [ctxKey, coreKey]
    omega
  have acknowledges (k : Nat) : exec (.storeAcknowledgement d r x k) s
      = eventStep (fun e => storeAcknowledgedAt e ck k) s := by
    rw [← key]
    rfl
  refine ⟨fun y core off hq hloc fits clean => ?_, fun y pa hq hloc fits clean => ?_,
    fun y z hq hid overlaps cls => ?_, fun y pkg rh off h hq hloc => ?_⟩
  · obtain ⟨n, hn, spec⟩ := storeAcknowledged_spad (e := ⟨s.boot, s.clk⟩) hq nofence hloc fits clean
    exact ⟨{ s with m := n }, by rw [acknowledges, eventStep, hn], spec⟩
  · obtain ⟨n, hn, spec⟩ := storeAcknowledged_phys (e := ⟨s.boot, s.clk⟩) hq nofence hloc fits clean
    exact ⟨{ s with m := n }, by rw [acknowledges, eventStep, hn], spec⟩
  · have second : (s.m.ctx ck).stq[1]? = some y := by rw [hq]; rfl
    rw [acknowledges]
    exact next_of_eq (by simp only [storeAcknowledgedAt, second, mayPerform_of_overlaps hq hid overlaps cls]; rfl)
  · refine ⟨{ s with m := peerRefusalAt ⟨s.boot, s.clk⟩ ck 0 s.m }, by rw [← key]; rfl, ?_⟩
    rw [peerRefusal_single hq nofence hloc]
    refine ⟨fun k => ?_, rfl, rfl, rfl⟩
    split
    next hk => rw [hk]; exact Mach.ctx_setCtx_same _ _ _
    next hk => exact Mach.ctx_setCtx_of_ne _ _ _ _ hk

/-- Settles O53: stores, sectors and lines by what each event does to the data at their homes, and the check bits by
what decoding makes of flipped bits. -/
theorem storesAtTheirHomes : Obligations.StoresAtTheirHomes := by
  refine ⟨fun s d r x ck c hck hc nofence => ?_,
    fun line hl => ⟨fun legend => ?_, raw_flips hl, fun legend w h m t listed => ?_⟩⟩
  · subst hc
    obtain ⟨bank, home, waits, refused⟩ := store_steps hck nofence
    exact ⟨fun y core off hq hloc _ _ => bank y core off hq hloc, fun y pa hq hloc _ => home y pa hq hloc, waits, refused,
      fun tag y => sector_steps, fun line y => eviction_steps, fun e ag leg la g n => fill_of_full⟩
  · rw [decodeCopy_matched]
    exact ⟨rfl, rfl, decodeCopy_poison legend⟩
  · obtain ⟨planes, numeric⟩ := planesOf_of_listed listed
    exact numeric_flips hl planes (fits_of_numeric numeric)

end Sys2Proof.Machine
end

section
/-! PROOFS. The encoding of move slots: each field's code and its meaning determine each other (R32 to R37, R52). -/

namespace Sys2Proof

/-! ### Sources, destinations and guards -/

theorem below_eq_some {b n : Nat} (h : n < b) : below b n = some ⟨n, h⟩ := dif_pos h

theorem val_of_below {b n : Nat} {k : Fin b} (h : below b n = some k) : k.val = n := by
  unfold below at h
  split at h <;> cases h
  rfl

/-- The code of an item of a numbered range. -/
theorem code_of_listed {α : Type} {b k off c : Nat} {f : Fin b → α} {code : α → Nat} {s : α}
    (hf : ∀ x, code (f x) = off + x.val) (hk : off + k = c) (h : (below b k).map f = some s) : code s = c := by
  obtain ⟨x, hx, rfl⟩ := Option.map_eq_some_iff.1 h
  rw [hf, val_of_below hx, hk]

theorem decodeSpecial_encodeSpecial (s : Special) : decodeSpecial (encodeSpecial s) = some s := by cases s <;> rfl

theorem encodeSpecial_lt (s : Special) : encodeSpecial s < 8 := by cases s <;> decide

theorem encodeSpecial_of_decodeSpecial {k : Nat} {s : Special} (h : decodeSpecial k = some s) : encodeSpecial s = k := by
  unfold decodeSpecial at h
  split at h <;> cases h <;> rfl

theorem encodeSrc_lt (s : Src) : encodeSrc s < 2 ^ 10 := by
  cases s with
  | special s => have := encodeSpecial_lt s; simp only [encodeSrc]; omega
  | _ => simp only [encodeSrc]; omega

theorem decodeSrc_encodeSrc (s : Src) : decodeSrc (encodeSrc s) = some s := by
  cases s with
  | special s =>
    have := encodeSpecial_lt s
    simp (disch := omega) only [encodeSrc, decodeSrc, if_neg, if_pos, Nat.add_sub_cancel_left, decodeSpecial_encodeSpecial,
      Option.map_some]
  | imm v =>
    have code : BitVec.ofNat 9 (0x200 + v.toNat) = v := by bv_omega
    simp (disch := omega) only [encodeSrc, decodeSrc, if_neg, if_pos, code]
  | _ n =>
    have := n.isLt
    simp (disch := omega) only [encodeSrc, decodeSrc, if_neg, if_pos, Nat.add_sub_cancel_left, below_eq_some, Option.map_some]

theorem encodeSrc_of_decodeSrc {c : Nat} {s : Src} (h : decodeSrc c = some s) : encodeSrc s = c := by
  unfold decodeSrc at h
  obtain ⟨low, h⟩ | ⟨high, h⟩ := ite_eq_iff.1 h
  · exact code_of_listed (f := Src.g) (off := 0) (fun x => (Nat.zero_add x.val).symm) (by omega) h
  obtain ⟨low, h⟩ | ⟨high, h⟩ := ite_eq_iff.1 h
  · exact code_of_listed (fun _ => rfl) (by omega) h
  obtain ⟨low, h⟩ | ⟨high, h⟩ := ite_eq_iff.1 h
  · exact code_of_listed (fun _ => rfl) (by omega) h
  obtain ⟨low, h⟩ | ⟨high, h⟩ := ite_eq_iff.1 h
  · cases h
  obtain ⟨low, h⟩ | ⟨high, h⟩ := ite_eq_iff.1 h
  · exact code_of_listed (fun _ => rfl) (by omega) h
  obtain ⟨low, h⟩ | ⟨high, h⟩ := ite_eq_iff.1 h
  · cases h
  obtain ⟨low, h⟩ | ⟨high, h⟩ := ite_eq_iff.1 h
  · exact code_of_listed (fun _ => rfl) (by omega) h
  obtain ⟨low, h⟩ | ⟨high, h⟩ := ite_eq_iff.1 h
  · cases h
  obtain ⟨low, h⟩ | ⟨high, h⟩ := ite_eq_iff.1 h
  · exact code_of_listed (fun _ => rfl) (by omega) h
  obtain ⟨low, h⟩ | ⟨high, h⟩ := ite_eq_iff.1 h
  · cases h
  obtain ⟨low, h⟩ | ⟨high, h⟩ := ite_eq_iff.1 h
  · exact code_of_listed (fun _ => rfl) (by omega) h
  obtain ⟨low, h⟩ | ⟨high, h⟩ := ite_eq_iff.1 h
  · obtain ⟨x, hx, rfl⟩ := Option.map_eq_some_iff.1 h
    have := encodeSpecial_of_decodeSpecial hx
    simp only [encodeSrc]
    omega
  obtain ⟨low, h⟩ | ⟨high, h⟩ := ite_eq_iff.1 h
  · cases h
  obtain ⟨low, h⟩ | ⟨high, h⟩ := ite_eq_iff.1 h
  · cases h
    simp only [encodeSrc, BitVec.toNat_ofNat]
    omega
  · cases h

theorem encodeDst_lt (d : Dst) : encodeDst d < 2 ^ 9 := by
  cases d <;> simp only [encodeDst] <;> omega

theorem decodeDst_encodeDst {d : Dst} (h : d ≠ .p 0) : decodeDst (encodeDst d) = some d := by
  cases d with
  | p n =>
    have : n.val ≠ 0 := fun hn => h (congrArg Dst.p (Fin.ext hn))
    simp (disch := omega) only [encodeDst, decodeDst, if_neg, if_pos, Nat.add_sub_cancel_left, below_eq_some,
      Option.map_some]
  | port f k =>
    have quotient : (0x100 + 4 * f.val + k.val - 0x100) / 4 = f.val := by omega
    have rest : (0x100 + 4 * f.val + k.val) % 4 = k.val := by omega
    simp (disch := omega) only [encodeDst, decodeDst, if_neg, if_pos, quotient, rest, below_eq_some]
  | _ n =>
    have := n.isLt
    simp (disch := omega) only [encodeDst, decodeDst, if_neg, if_pos, Nat.add_sub_cancel_left, below_eq_some,
      Option.map_some]

theorem encodeDst_of_decodeDst {c : Nat} {d : Dst} (h : decodeDst c = some d) : encodeDst d = c := by
  unfold decodeDst at h
  obtain ⟨low, h⟩ | ⟨high, h⟩ := ite_eq_iff.1 h
  · exact code_of_listed (f := Dst.g) (off := 0) (fun x => (Nat.zero_add x.val).symm) (by omega) h
  obtain ⟨low, h⟩ | ⟨high, h⟩ := ite_eq_iff.1 h
  · exact code_of_listed (fun _ => rfl) (by omega) h
  obtain ⟨low, h⟩ | ⟨high, h⟩ := ite_eq_iff.1 h
  · cases h
  obtain ⟨low, h⟩ | ⟨high, h⟩ := ite_eq_iff.1 h
  · exact code_of_listed (fun _ => rfl) (by omega) h
  obtain ⟨low, h⟩ | ⟨high, h⟩ := ite_eq_iff.1 h
  · cases h
  obtain ⟨low, h⟩ | ⟨high, h⟩ := ite_eq_iff.1 h
  · split at h
    next f k hf hk =>
      have := val_of_below hf
      have := val_of_below hk
      cases h
      simp only [encodeDst]
      omega
    · cases h
  · cases h

theorem tst_three_eq {x : Nat} (h : x < 16) : tst x 3 = decide (8 ≤ x) := by
  interval_cases x <;> rfl

theorem encodeGuard_lt (g : Guard) : encodeGuard g < 2 ^ 4 := by
  have := g.p.isLt
  unfold encodeGuard b2n
  split <;> omega

theorem decodeGuard_encodeGuard (g : Guard) : decodeGuard (encodeGuard g) = g := by
  obtain ⟨inv, p⟩ := g
  unfold decodeGuard
  rw [tst_three_eq (encodeGuard_lt _)]
  cases inv <;> simp [encodeGuard, b2n, Nat.mod_eq_of_lt p.isLt]

theorem encodeGuard_decodeGuard {x : Nat} (h : x < 2 ^ 4) : encodeGuard (decodeGuard x) = x := by
  simp only [encodeGuard, decodeGuard, tst_three_eq h, b2n, decide_eq_true_eq]
  split <;> omega

/-! ### The number of a slot -/

section slotNat

variable {f mid src : Nat} {g : Guard} (hm : mid < 2 ^ 9) (hs : src < 2 ^ 10)
include hm hs

omit hm in
theorem fld_slotNat_src : fld (slotNat f g mid src) 9 0 = src := by
  simp only [fld, slotNat, Nat.shiftRight_eq_div_pow]
  omega

theorem fld_slotNat_mid : fld (slotNat f g mid src) 18 10 = mid := by
  simp only [fld, slotNat, Nat.shiftRight_eq_div_pow]
  omega

theorem fld_slotNat_guard : fld (slotNat f g mid src) 22 19 = encodeGuard g := by
  have := encodeGuard_lt g
  simp only [fld, slotNat, Nat.shiftRight_eq_div_pow]
  omega

theorem slotNat_lt (hf : f < 2) : slotNat f g mid src < 2 ^ 24 := by
  have := encodeGuard_lt g
  unfold slotNat
  omega

theorem tst_slotNat (hf : f < 2) : tst (slotNat f g mid src) 23 = decide (f = 1) := by
  have := encodeGuard_lt g
  have : slotNat f g mid src / 2 ^ 23 % 2 = f := by unfold slotNat; omega
  rw [tst, bitN, Nat.shiftRight_eq_div_pow, this]
  exact beq_eq_decide _ _

end slotNat

/-- The unit is the upper four of the middle nine bits. -/
theorem fld_unit (x : Nat) : fld x 18 15 = fld x 18 10 / 2 ^ 5 := by
  simp only [fld, Nat.shiftRight_eq_div_pow]
  omega

/-- The opcode is the lower five of the middle nine bits. -/
theorem fld_opcode (x : Nat) : fld x 14 10 = fld x 18 10 % 2 ^ 5 := by
  simp only [fld, Nat.shiftRight_eq_div_pow]
  omega

/-- A word of 24 bits is the number of its fields. -/
theorem slotNat_of_fields (w : BitVec 24) :
    slotNat (b2n (tst w.toNat 23)) (slotGuard w) (fld w.toNat 18 10) (fld w.toNat 9 0) = w.toNat := by
  have lt := w.isLt
  have guard : encodeGuard (slotGuard w) = fld w.toNat 22 19 := encodeGuard_decodeGuard (by
    simp only [fld, Nat.shiftRight_eq_div_pow]; omega)
  have top : b2n (tst w.toNat 23) = w.toNat / 2 ^ 23 := by
    simp only [tst, bitN, b2n, Nat.shiftRight_eq_div_pow, beq_iff_eq]
    split <;> omega
  rw [slotNat, guard, top]
  simp only [fld, Nat.shiftRight_eq_div_pow]
  omega

/-! ### Operations -/

theorem opOf_ix (u : Fin 3) (o : Nat) (t : Trig) : opOf u.val o t = ixOp u o t := by fin_cases u <;> rfl

theorem opOf_ls (u : Fin 2) (o : Nat) (t : Trig) : opOf (4 + u.val) o t = lsOp u o t := by fin_cases u <;> rfl

theorem opOf_vx (u : Fin 2) (o : Nat) (t : Trig) : opOf (6 + u.val) o t = vxOp u o t := by fin_cases u <;> rfl

/-- The unit and opcode of an operation name it (R52). -/
theorem opOf_opCode {i : Instr} {u o : Nat} {t : Trig} (h : opCode i = some (u, o, t)) : opOf u o t = some i := by
  cases i <;> cases h <;> simp only [↓opOf_ix, ↓opOf_ls, ↓opOf_vx, opOf, ixOp, agOp, lsOp, vxOp, vsOp, brOp, sqOp, ntOp, eqOp,
    syOp, ckOp, gsOp]


/-- How many opcodes of a unit are operations (R52). -/
def operationCount (unit : Nat) : Nat :=
  match unit with
  | 3 => 8 | 6 => 30 | 7 => 30 | 8 => 12 | 9 => 10 | 10 => 18 | 11 => 11 | 12 => 13 | 13 => 11 | 14 => 6 | 15 => 11
  | _ => 32

theorem operationCount_ix (u : Fin 3) : operationCount u.val = 32 := by fin_cases u <;> rfl

theorem operationCount_ls (u : Fin 2) : operationCount (4 + u.val) = 32 := by fin_cases u <;> rfl

theorem operationCount_vx (u : Fin 2) : operationCount (6 + u.val) = 30 := by fin_cases u <;> rfl

theorem unit_lt_of_opCode {i : Instr} {u o : Nat} {t : Trig} (h : opCode i = some (u, o, t)) : u < 16 := by
  cases i <;> cases h <;> omega

theorem opcode_lt_of_opCode {i : Instr} {u o : Nat} {t : Trig} (h : opCode i = some (u, o, t)) :
    o < operationCount u := by
  cases i <;> cases h <;>
    simp only [↓operationCount_ix, ↓operationCount_ls, ↓operationCount_vx, operationCount, Nat.reduceLT]

theorem operationCount_le (u : Nat) : operationCount u ≤ 32 := by
  unfold operationCount
  split <;> decide

/-- The operation that a unit and an opcode name has them (R52). -/
theorem opCode_opOf {u o : Nat} {t : Trig} {i : Instr} (h : opOf u o t = some i) : opCode i = some (u, o, t) := by
  unfold opOf ixOp agOp lsOp vxOp vsOp brOp sqOp ntOp eqOp syOp ckOp gsOp at h
  split at h
  case h_17 => cases h
  all_goals split at h <;> cases h <;> rfl

theorem opOf_isSome {u o : Nat} (hu : u < 16) (ho : o < operationCount u) (t : Trig) : (opOf u o t).isSome = true := by
  interval_cases u <;> simp only [operationCount] at ho <;> interval_cases o <;> rfl

/-- Every opcode from the count of a unit on is a reserved cell (R52). -/
theorem opOf_of_reserved {u o : Nat} (h : operationCount u ≤ o) (t : Trig) : opOf u o t = none := by
  rw [Option.eq_none_iff_forall_ne_some]
  intro i hi
  exact absurd (opcode_lt_of_opCode (opCode_opOf hi)) (by omega)

/-! ### Slots -/

/-- The word of a trigger move (R32). -/
theorem encode_of_opCode {i : Instr} {u o : Nat} {t : Trig} (h : opCode i = some (u, o, t)) :
    encode i = some (BitVec.ofNat 24 (slotNat 1 t.guard (u * 2 ^ 5 + o) (encodeSrc t.src))) := by
  unfold encode
  split
  · cases h
  · simp only [h]

theorem encode_dataMove (g : Guard) (d : Dst) (s : Src) :
    encode (.dataMove g d s) = some (BitVec.ofNat 24 (slotNat 0 g (encodeDst d) (encodeSrc s))) := rfl

/-- A word of a data move (R32). -/
theorem decodeSlot_of_move {w : BitVec 24} {s : Src} (hf : tst w.toNat 23 = false)
    (hs : decodeSrc (fld w.toNat 9 0) = some s) :
    decodeSlot w = (decodeDst (fld w.toNat 18 10)).map fun d => .dataMove (slotGuard w) d s := by
  simp only [decodeSlot, hs, hf, slotGuard]
  rfl

/-- A word of a trigger move (R32). -/
theorem decodeSlot_of_trigger {w : BitVec 24} {s : Src} (hf : tst w.toNat 23 = true)
    (hs : decodeSrc (fld w.toNat 9 0) = some s) :
    decodeSlot w = opOf (fld w.toNat 18 15) (fld w.toNat 14 10) ⟨slotGuard w, s⟩ := by
  simp only [decodeSlot, hs, hf, slotGuard]
  rfl

theorem decodeSlot_of_reserved_src {w : BitVec 24} (hs : decodeSrc (fld w.toNat 9 0) = none) : decodeSlot w = none := by
  simp only [decodeSlot, hs]

/-- What has an encoding (R32). -/
theorem encode_cases {i : Instr} {w : BitVec 24} (h : encode i = some w) :
    (∃ g d s, i = .dataMove g d s ∧ w = BitVec.ofNat 24 (slotNat 0 g (encodeDst d) (encodeSrc s)))
      ∨ ∃ u o t, opCode i = some (u, o, t)
        ∧ w = BitVec.ofNat 24 (slotNat 1 t.guard (u * 2 ^ 5 + o) (encodeSrc t.src)) := by
  unfold encode at h
  split at h
  · cases h
    exact .inl ⟨_, _, _, rfl, rfl⟩
  · split at h <;> cases h
    next u o t code => exact .inr ⟨u, o, t, code, rfl⟩

section word

variable {f mid : Nat} (hm : mid < 2 ^ 9) (hf : f < 2) (g : Guard) (s : Src)
include hm hf

theorem toNat_slotWord : (BitVec.ofNat 24 (slotNat f g mid (encodeSrc s))).toNat = slotNat f g mid (encodeSrc s) := by
  rw [BitVec.toNat_ofNat, Nat.mod_eq_of_lt (slotNat_lt hm (encodeSrc_lt s) hf)]

theorem slotGuard_slotWord : slotGuard (BitVec.ofNat 24 (slotNat f g mid (encodeSrc s))) = g := by
  rw [slotGuard, toNat_slotWord hm hf, fld_slotNat_guard hm (encodeSrc_lt s), decodeGuard_encodeGuard]

theorem decodeSrc_slotWord :
    decodeSrc (fld (BitVec.ofNat 24 (slotNat f g mid (encodeSrc s))).toNat 9 0) = some s := by
  rw [toNat_slotWord hm hf, fld_slotNat_src (encodeSrc_lt s), decodeSrc_encodeSrc]

end word

theorem decodeSlot_encode {i : Instr} {w : BitVec 24} (wf : i.wf = true) (h : encode i = some w) :
    decodeSlot w = some i := by
  obtain ⟨g, d, s, rfl, rfl⟩ | ⟨u, o, ⟨g, s⟩, code, rfl⟩ := encode_cases h
  · have hd : d ≠ .p 0 := by
      rintro rfl
      cases wf
    have mid := encodeDst_lt d
    have format : tst (BitVec.ofNat 24 (slotNat 0 g (encodeDst d) (encodeSrc s))).toNat 23 = false := by
      rw [toNat_slotWord mid (by omega), tst_slotNat mid (encodeSrc_lt s) (by omega)]
      rfl
    rw [decodeSlot_of_move format (decodeSrc_slotWord mid (by omega) g s), slotGuard_slotWord mid (by omega),
      toNat_slotWord mid (by omega), fld_slotNat_mid mid (encodeSrc_lt s), decodeDst_encodeDst hd]
    rfl
  · have unit := unit_lt_of_opCode code
    have opcode := (opcode_lt_of_opCode code).trans_le (operationCount_le u)
    have mid : u * 2 ^ 5 + o < 2 ^ 9 := by omega
    have format : tst (BitVec.ofNat 24 (slotNat 1 g (u * 2 ^ 5 + o) (encodeSrc s))).toNat 23 = true := by
      rw [toNat_slotWord mid (by omega), tst_slotNat mid (encodeSrc_lt s) (by omega)]
      rfl
    have fields := fld_slotNat_mid (f := 1) (g := g) mid (encodeSrc_lt s)
    rw [decodeSlot_of_trigger format (decodeSrc_slotWord mid (by omega) g s), slotGuard_slotWord mid (by omega),
      toNat_slotWord mid (by omega), fld_unit, fld_opcode, fields, ← opOf_opCode code]
    congr 1 <;> omega

theorem encode_decodeSlot {i : Instr} {w : BitVec 24} (h : decodeSlot w = some i) : encode i = some w := by
  have whole := slotNat_of_fields w
  cases hs : decodeSrc (fld w.toNat 9 0) with
  | none => rw [decodeSlot_of_reserved_src hs] at h; cases h
  | some s =>
    have src := encodeSrc_of_decodeSrc hs
    cases hf : tst w.toNat 23 with
    | false =>
      rw [decodeSlot_of_move hf hs] at h
      obtain ⟨d, hd, rfl⟩ := Option.map_eq_some_iff.1 h
      rw [encode_dataMove, src, encodeDst_of_decodeDst hd]
      rw [hf] at whole
      rw [show slotNat 0 _ _ _ = w.toNat from whole, BitVec.ofNat_toNat, BitVec.setWidth_eq]
    | true =>
      rw [decodeSlot_of_trigger hf hs] at h
      rw [encode_of_opCode (opCode_opOf h), src, fld_unit, fld_opcode, Nat.div_add_mod']
      rw [hf] at whole
      rw [show slotNat 1 _ _ _ = w.toNat from whole, BitVec.ofNat_toNat, BitVec.setWidth_eq]

/-- Settles O4: each direction field by field, the operations by their cells. -/
theorem encodingRoundTrip : Obligations.EncodingRoundTrip :=
  ⟨fun _ _ => decodeSlot_encode, fun _ _ => encode_decodeSlot⟩

end Sys2Proof
end

section
/-! PROOFS. A slot as a step: which instruction a word runs, under which guard (R32, R33, R45). -/

namespace Sys2Proof

/-- What a word stands for: a data move or a trigger move under the word's guard (R32, R33). -/
theorem decodeSlot_cases {w : BitVec 24} {i : Instr} (h : decodeSlot w = some i) :
    (∃ d s, i = .dataMove (slotGuard w) d s) ∨ ∃ u o t, opCode i = some (u, o, t) ∧ t.guard = slotGuard w := by
  cases hs : decodeSrc (fld w.toNat 9 0) with
  | none => rw [decodeSlot_of_reserved_src hs] at h; cases h
  | some s =>
    cases hf : tst w.toNat 23 with
    | false =>
      rw [decodeSlot_of_move hf hs] at h
      obtain ⟨d, -, rfl⟩ := Option.map_eq_some_iff.1 h
      exact .inl ⟨d, s, rfl⟩
    | true =>
      rw [decodeSlot_of_trigger hf hs] at h
      exact .inr ⟨_, _, _, opCode_opOf h, rfl⟩

namespace Machine

/-- A trigger move is a slot under its guard, with the meaning of its operation. -/
theorem exec_of_opCode {i : Instr} {u o : Nat} {t : Trig} (h : opCode i = some (u, o, t)) (s : State) :
    exec i s = slotStep i t.guard (bodyOf i) s := by
  cases i <;> cases h <;> rfl

theorem exec_of_decodeSlot {w : BitVec 24} {i : Instr} (h : decodeSlot w = some i) (s : State) :
    exec i s = slotStep i (slotGuard w) (bodyOf i) s := by
  obtain ⟨d, src, rfl⟩ | ⟨u, o, t, code, guard⟩ := decodeSlot_cases h
  · rfl
  · rw [← guard]
    exact exec_of_opCode code s

section actSlot

variable {e : Env} {m : Mach} {p : SlotRec × Nat} (going : m.issue.out = .going) (fresh : m.issue.done.getLsbD p.2 = false)
include going fresh

/-- A slot of a decoded instruction, whose wait is not over, carries it out. -/
theorem actSlot_of_instr {i : Instr} (intime : m.issue.start.timedOut = none) (hi : p.1.instr = some i) :
    actSlot e p m = runSlot e i (slotGuard p.1.raw) (bodyOf i) (m.modIssue fun x => { x with slot := p.2, raw := p.1.raw }) := by
  unfold actSlot
  rw [if_neg (by simp [going, fresh])]
  simp only [Issue.expired, Mach.modIssue_issue, intime, Option.filter_none, hi]

/-- An enabled slot of a reserved code is illegal (R35, R37, R52). -/
theorem actSlot_of_reserved (intime : m.issue.start.timedOut = none) (hi : p.1.instr = none) :
    actSlot e p m = if enabled m (slotGuard p.1.raw) then
        stopSlot e (.trap Cause.illegalSlot (p.1.raw.setWidth 64)) (m.modIssue fun x => { x with slot := p.2, raw := p.1.raw })
      else m.modIssue fun x => { x with slot := p.2, raw := p.1.raw } := by
  unfold actSlot
  rw [if_neg (by simp [going, fresh])]
  simp only [Issue.expired, Mach.modIssue_issue, intime, Option.filter_none, hi]
  rfl

end actSlot

theorem step_of_agenda {s : State} {i : Instr} {rest : List Instr} (h : s.m.agenda = i :: rest) (wf : i.wf = true) :
    step s = exec i { s with m := { s.m with agenda := rest } } := by
  simp only [step, h, wf, if_true]

theorem step_of_no_agenda {s : State} (h : s.m.agenda = []) : step s = .next (passCycle s) := by
  simp only [step, h]

/-- Settles O1: the agenda's head, the empty agenda, and the slot's own instruction. -/
theorem stepsRunInstructions : Obligations.StepsRunInstructions := by
  refine ⟨⟨fun _ _ _ => step_of_agenda, fun _ => step_of_no_agenda⟩, fun s w k i hw going fresh intime => ?_⟩
  rw [exec_of_decodeSlot hw, slotStep_next, actSlot_of_instr (p := (⟨w, decodeSlot w⟩, k)) going fresh intime hw]

/-- Settles O3: each word decodes as it is read. -/
theorem wordsOfTheSpec : Obligations.WordsOfTheSpec := ⟨rfl, rfl, rfl, rfl, rfl, rfl, rfl⟩

end Machine
end Sys2Proof
end

section
/-! PROOFS. Reserved codes, and the trap of a slot whose code is reserved (R34, R35, R37, R52). -/

namespace Sys2Proof

/-! ### Reserved codes decode to nothing -/

theorem decodeSrc_of_reserved {c : Nat} (h : (0xA8 ≤ c ∧ c < 0xC0) ∨ (0xD3 ≤ c ∧ c < 0xE0) ∨ c = 0xEF
    ∨ (0xF7 ≤ c ∧ c < 0x100) ∨ (0x110 ≤ c ∧ c < 0x200)) : decodeSrc c = none := by
  obtain h | h | rfl | h | h := h
  case inr.inr.inl => rfl
  all_goals simp (disch := omega) only [decodeSrc, if_neg, if_pos]

theorem decodeDst_of_reserved {c : Nat} (h : c = 0xA0 ∨ (0xA8 ≤ c ∧ c < 0x100) ∨ (0x100 ≤ c ∧ c % 4 = 3) ∨ 0x140 ≤ c) :
    decodeDst c = none := by
  obtain rfl | h | ⟨h, h3⟩ | h := h
  · rfl
  · simp (disch := omega) only [decodeDst, if_neg, if_pos]
  · have noPort : below 3 (c % 4) = none := dif_neg (by omega)
    simp (disch := omega) only [decodeDst, if_neg, noPort]
    simp
  · simp (disch := omega) only [decodeDst, if_neg]

/-- The units with reserved cells, and the first of each (R52). -/
def reservedCells : List (Nat × Nat) :=
  [(3, 8), (6, 30), (7, 30), (8, 12), (9, 10), (10, 18), (11, 11), (12, 13), (13, 11), (14, 6), (15, 11)]

theorem reserved_iff {unit opcode : Nat} (hu : unit < 16) (ho : opcode < 32) :
    (∃ first, (unit, first) ∈ reservedCells ∧ first ≤ opcode) ↔ operationCount unit ≤ opcode := by
  have listed (first : Nat) : (unit, first) ∈ reservedCells ↔ first = operationCount unit ∧ first ≠ 32 := by
    interval_cases unit <;> simp [reservedCells, operationCount] <;> omega
  constructor
  · rintro ⟨first, hfirst, le⟩
    obtain ⟨rfl, -⟩ := (listed first).1 hfirst
    exact le
  · exact fun le => ⟨_, (listed _).2 ⟨rfl, by omega⟩, le⟩

theorem fld_eq (x hi lo : Nat) : fld x hi lo = x / 2 ^ lo % 2 ^ (hi + 1 - lo) := by
  rw [fld, Nat.shiftRight_eq_div_pow]

theorem tst_of_getLsbD {w : BitVec 24} : tst w.toNat 23 = w.getLsbD 23 := by
  rw [Machine.tst_eq_testBit, BitVec.getLsbD]

theorem decodeSlot_of_reserved_dst {w : BitVec 24} (hf : w.getLsbD 23 = false)
    (hd : decodeDst (w.toNat / 2 ^ 10 % 2 ^ 9) = none) : decodeSlot w = none := by
  cases hs : decodeSrc (fld w.toNat 9 0) with
  | none => exact decodeSlot_of_reserved_src hs
  | some s => rw [decodeSlot_of_move (tst_of_getLsbD.trans hf) hs, fld_eq, hd]; rfl

theorem decodeSlot_of_reserved_cell {w : BitVec 24} (hf : w.getLsbD 23 = true)
    (h : operationCount (w.toNat / 2 ^ 15 % 2 ^ 4) ≤ w.toNat / 2 ^ 10 % 2 ^ 5) : decodeSlot w = none := by
  cases hs : decodeSrc (fld w.toNat 9 0) with
  | none => exact decodeSlot_of_reserved_src hs
  | some s => rw [decodeSlot_of_trigger (tst_of_getLsbD.trans hf) hs, fld_eq, fld_eq, opOf_of_reserved h]

theorem decodeSlot_of_operation {w : BitVec 24} (hf : w.getLsbD 23 = true)
    (h : w.toNat / 2 ^ 10 % 2 ^ 5 < operationCount (w.toNat / 2 ^ 15 % 2 ^ 4))
    (hs : (decodeSrc (w.toNat % 2 ^ 10)).isSome = true) : (decodeSlot w).isSome = true := by
  obtain ⟨s, hs⟩ := Option.isSome_iff_exists.1 hs
  rw [decodeSlot_of_trigger (s := s) (tst_of_getLsbD.trans hf) (by rw [fld_eq, Nat.pow_zero, Nat.div_one]; exact hs), fld_eq,
    fld_eq]
  exact opOf_isSome (Nat.mod_lt _ (by decide)) h _

/-! ### The trap of a slot -/

namespace Machine

/-- A trap leaves the same context at issue. -/
theorem trapOf_ck (e : Env) {cause : Nat} (tval : W64) (done : Nat) {m : Mach} (hc : cause ≠ Cause.checkMismatch)
    (outside : m.cur.csr.intrap = false) : (trapOf e cause tval done m).issue.ck = m.issue.ck := by
  obtain ⟨ck, -, -, -, standing⟩ := applySettings_keeps m
  obtain ⟨issue, -⟩ := takeTrap_spec e tval (struckNow e (applySettings m) done) hc
    ((congrArg (·.csr.intrap) standing).trans outside)
  rw [ck] at issue
  exact (congrArg Issue.ck issue).trans ck

/-- A trap taken at the slot at hand, outside a handler (R45, R114). -/
theorem trapped_at_slot {s : State} {cause : Nat} (tval : W64) (done : Nat) (hc : cause ≠ Cause.checkMismatch)
    (outside : s.m.cur.csr.intrap = false) :
    s.Trapped { s with m := trapOf ⟨s.boot, s.clk⟩ cause tval done s.m } cause tval done := by
  obtain ⟨ck, slot, hdone, addr, standing⟩ := applySettings_keeps s.m
  obtain ⟨-, trapped⟩ := takeTrap_spec ⟨s.boot, s.clk⟩ tval (struckNow ⟨s.boot, s.clk⟩ (applySettings s.m) done) hc
    ((congrArg (·.csr.intrap) standing).trans outside)
  unfold trapOf
  simp only [ck] at trapped
  generalize takeTrap ⟨s.boot, s.clk⟩ s.m.issue.ck cause tval _ _ = n at trapped ⊢
  obtain ⟨htcause, htval, htslot, htdone, htbundle, hppriv, hpriv, hintrap, hpc, hpend, hports, hlatches, hres, hg, hv, hp,
    hi⟩ := trapped _ rfl
  exact ⟨rfl, htcause, htval, htslot.trans slot, htdone.trans (congrArg (· ||| _) hdone), htbundle.trans addr,
    hppriv.trans (congrArg (·.csr.priv) standing), hpriv, hintrap, hpc, hpend, hports, hlatches, hres,
    hg.trans (congrArg (·.g) standing), hv.trans (congrArg (·.v) standing), hp.trans (congrArg (·.p) standing),
    hi.trans (congrArg (·.i) standing)⟩

/-- Taking up a slot leaves the context as it is. -/
theorem cur_of_slot (m : Mach) (k : Nat) (w : BitVec 24) :
    (m.modIssue fun x => { x with slot := k, raw := w }).cur = m.cur := Mach.cur_modIssue m _ rfl

/-- Settles O5: the codes by their ranges, the cells by the number of operations of each unit, and the slot by its trap. -/
theorem reservedCodes : Obligations.ReservedCodes := by
  refine ⟨fun w => ⟨fun h => ?_, fun hf h => ?_, ?_⟩, ?_⟩
  · exact decodeSlot_of_reserved_src (by rw [fld_eq, Nat.pow_zero, Nat.div_one]; exact decodeSrc_of_reserved h)
  · exact decodeSlot_of_reserved_dst hf (decodeDst_of_reserved (by omega))
  · rintro hf unit opcode rfl rfl reserved hr
    have cells := hr.trans (reserved_iff (Nat.mod_lt _ (by decide)) (Nat.mod_lt _ (by decide)))
    refine ⟨fun h => decodeSlot_of_reserved_cell hf (cells.1 h), fun h => decodeSlot_of_operation hf ?_⟩
    rw [h] at cells
    simpa using cells
  · intro e m w k _ going fresh intime
    have acts := actSlot_of_reserved (e := e) (p := (⟨w, none⟩, k)) going fresh intime rfl
    refine ⟨fun off => by rw [acts, off]; rfl, fun on outside => ?_⟩
    rw [acts, on, if_pos rfl, stopSlot_trap]
    have here := (cur_of_slot m k w).symm ▸ outside
    have slot : (applySettings (m.modIssue fun x => { x with slot := k, raw := w })).issue.slot = k :=
      (applySettings_keeps _).2.1
    have ck := trapOf_ck e (w.setWidth 64) k (cause := Cause.illegalSlot) (by decide) here
    obtain ⟨-, tcause, tval, tslot, -, tbundle, ppriv, priv, intrap, pc, -⟩ :=
      trapped_at_slot (s := { boot := e.boot, clk := e.clk, m := m.modIssue fun x => { x with slot := k, raw := w } })
        (w.setWidth 64) k (cause := Cause.illegalSlot) (by decide) here
    rw [slot]
    simp only [Mach.cur, ck] at tcause tval tslot tbundle ppriv priv intrap pc
    exact ⟨tcause, tval, tslot, tbundle, priv, intrap, ppriv, pc⟩

end Machine
end Sys2Proof
end

section
/-! PROOFS. Operands kept from a block, which come before the source that a slot names (R50). -/

namespace Sys2Proof.Machine

/-- Context 0 of core 0 of die 0 issues a bundle of one literal, 1, at slot 0; the context has kept an operand of 0 for that
slot, as one that had blocked there has. -/
def keptSlot : State :=
  { State.reset with m := { State.reset.m with issue := { lits := [1], start := { kept := [⟨0, 0, false⟩] } } } }

/-- Has an outcome's bundle been stopped? -/
def stoppedIn (o : Out) : Bool :=
  match o with
  | .next t => decide (t.m.issue.out = .stopped)
  | _ => false

/-- A data move of l1, which the pool lacks, takes the kept operand and goes on. -/
theorem keptSlot_goes_on : stoppedIn (exec (.dataMove ⟨false, 0⟩ (.g 1) (.lit 1)) keptSlot) = false := by decide +kernel

/-- Refutes O6: the operand kept for a slot is read before the literal that the slot names is looked up (log entry 14), and
the last clause allows a context that has kept one for a slot that names a literal beyond the pool. -/
theorem not_slotsThatDoNotAct : ¬ Obligations.SlotsThatDoNotAct := by
  unfold Obligations.SlotsThatDoNotAct
  rintro ⟨-, -, -, h⟩
  obtain ⟨moves, -⟩ := h keptSlot (.lit 1) 0 rfl (.inl ⟨1, rfl, by decide⟩)
  obtain ⟨t, hexec, stopped, -⟩ := moves ⟨false, 0⟩ (.g 1) rfl rfl rfl
  have goes := keptSlot_goes_on
  rw [hexec] at goes
  exact of_decide_eq_false goes stopped

/-- Slot 0 reads the kept operand, 0. -/
theorem keptSlot_reads : slotSource ⟨keptSlot.boot, keptSlot.clk⟩ keptSlot.m 0 (.lit 0) = some 0 := by decide +kernel

/-- Refutes O10: the operand kept for a slot is read before the literal that the slot names (log entry 14), and the clause
about literals allows a context that has kept one. -/
theorem not_dataMoves : ¬ Obligations.DataMoves := by
  unfold Obligations.DataMoves
  rintro ⟨-, -, h⟩
  obtain ⟨literal, -⟩ := h keptSlot 0 1 0 rfl rfl rfl
  have read := keptSlot_reads.symm.trans (literal 0 rfl).1
  exact absurd read (by decide +kernel)

end Sys2Proof.Machine
end

section
/-! PROOFS. A clean home line read and then written, with the context's own stores elsewhere (R187, R217, R377). -/

namespace Sys2Proof.Machine

variable {m n : Mach} {e : Env} {ag : Agent} {leg pa w : Nat}

@[simp] theorem chargeMem_memChk (la : Nat) (m : Mach) : (chargeMem e ag la m).memChk = m.memChk := by
  unfold chargeMem
  split
  · rfl
  · exact charge_memChk _ _ _

/-- A line that has been read clean still reads clean. -/
theorem homeClean_homeRead (h : m.homeClean leg pa = true) : (homeRead e ag leg (pa / 128) m).2.homeClean leg pa = true := by
  cases hl : m.l2.find (pa / 128) with
  | some l => rw [homeRead_of_find hl (copy_clean_of_find h hl)]; exact h
  | none =>
    have clean := memory_clean_of_not_found h hl
    have charged := homeClean_congr (m := m) (chargeMem_l2 (e := e) (ag := ag) (la := pa / 128) m) (chargeMem_mem m)
      (chargeMem_memChk _ m) leg pa
    rw [homeRead_of_not_found hl clean]
    dsimp only
    split
    · rw [charged, h]
    next free =>
      have room : (chargeMem e ag (pa / 128) m).l2Room (pa / 128) = true :=
        (l2Room_congr (chargeMem_l2 m) _).trans (room_of_homeClean h)
      have chk : (cleanLine m ag leg (pa / 128)).chk.toNat = memCheck m (pa / 128) := by
        have := ofBytes_lt (m.memChk.bytes (pa / 128 * 16) 16)
        rw [Memory.bytes_length] at this
        exact Nat.mod_eq_of_lt this
      rw [l2Insert_of_room _ (by rw [chargeMem_l2]; exact hl) room
        ((l2AllPinned_congr (chargeMem_l2 m) _).trans (by simpa using free))]
      simp only [Mach.homeClean, Mach.l2Room, SMap.find_put_same, Option.isSome_some, Bool.true_or, Bool.true_and, chk,
        cleanLine_data]
      exact beq_iff_eq.2 clean

/-- Bytes of a line's data are the bytes at its home. -/
theorem bytes_of_line (fits : pa % 128 + w ≤ 128) :
    ((bytesOf (m.lineAt (pa / 128)) 128).drop (pa % 128)).take w = (List.range w).map fun k => m.byteAt (pa + k) := by
  refine List.ext_getElem (by simp [bytesOf_length]; omega) fun k hk hk' => ?_
  have hw : k < w := by simpa using hk'
  simp only [List.getElem_take, List.getElem_drop, List.getElem_map, List.getElem_range]
  rw [← List.getD_eq_getElem _ 0, bytesOf_getD (by omega), byteAt_eq, show (pa + k) / 128 = pa / 128 by omega,
    show (pa + k) % 128 = pa % 128 + k by omega]

/-- A store that does not reach n bytes of memory gives none of them. -/
theorem byteAt_of_not_overlaps {y : PStore} {k : Nat} (h : y.overlaps (.phys pa) w = false) (hk : k < w) :
    y.byteAt ((Loc.phys pa).at_ k) = none := by
  unfold PStore.overlaps at h
  unfold PStore.byteAt Loc.at_
  cases hl : y.loc with
  | phys p =>
    simp only [hl, Loc.dist, Bool.and_eq_false_iff, decide_eq_false_iff_not] at h ⊢
    split
    next ge => exact List.getElem?_eq_none (by omega)
    · rfl
  | _ => simp only [Loc.dist]

/-- Stores that do not reach the bytes of a load do not show in it. -/
theorem overlay_of_not_overlaps {sts : List PStore} (cls : Nat) {bs : List Byte}
    (h : ∀ y ∈ sts, y.overlaps (.phys pa) bs.length = false) : overlay sts cls (.phys pa) bs = bs := by
  unfold overlay
  refine List.ext_getElem (by simp) fun k hk hk' => ?_
  rw [List.getElem_mapIdx]
  have untouched (b : Byte) : ∀ l : List PStore, (∀ y ∈ l, y.overlaps (.phys pa) bs.length = false) →
      l.foldl (fun b y =>
        match y.byteAt ((Loc.phys pa).at_ k) with
        | some v => if y.seenBy cls ((Loc.phys pa).at_ k) then v else b
        | none => b) b = b := by
    intro l
    induction l with
    | nil => exact fun _ => rfl
    | cons y l ih =>
      intro hl
      rw [List.foldl_cons, byteAt_of_not_overlaps (hl y (by simp)) hk']
      exact ih fun z hz => hl z (by simp [hz])
  exact untouched _ sts h

theorem seenByContext_ok {a : Acc} {sts : List PStore} {bs : List Byte} (hloc : a.loc = .phys pa)
    (h : ∀ y ∈ sts, y.overlaps (.phys pa) bs.length = false) : seenByContext a sts bs e m = .ok bs m := by
  have none_met : (sts.any fun s => s.acls != 0 && s.overlaps a.loc bs.length) = false := by
    rw [List.any_eq_false]
    intro y hy
    simp [hloc, h y hy]
  unfold seenByContext
  simp only [none_met, Bool.and_false, Bool.false_eq_true, if_false]
  rw [hloc, overlay_of_not_overlaps _ h]
  rfl

/-! ### What the traffic of an access leaves -/

@[simp] theorem traffic_ctxs (ck : Nat) (l : Loc) (buf bytes : Nat) (m : Mach) :
    (traffic e ck l buf bytes m).ctxs = m.ctxs := by
  rw [traffic, trafficFor, ctxs_of_beyondHome (charge_beyondHome _ _ _), addHot_ctxs]

@[simp] theorem traffic_issue (ck : Nat) (l : Loc) (buf bytes : Nat) (m : Mach) :
    (traffic e ck l buf bytes m).issue = m.issue := issue_of_regs (traffic_regs e ck l buf bytes m)

@[simp] theorem traffic_spad (ck : Nat) (l : Loc) (buf bytes : Nat) (m : Mach) :
    (traffic e ck l buf bytes m).spad = m.spad := by
  rw [traffic, trafficFor, spad_of_beyondHome (charge_beyondHome _ _ _), addHot_spad]

@[simp] theorem traffic_l2 (ck : Nat) (l : Loc) (buf bytes : Nat) (m : Mach) :
    (traffic e ck l buf bytes m).l2 = m.l2 := by simp [traffic, trafficFor]

@[simp] theorem traffic_mem (ck : Nat) (l : Loc) (buf bytes : Nat) (m : Mach) :
    (traffic e ck l buf bytes m).mem = m.mem := by simp [traffic, trafficFor]

@[simp] theorem traffic_memChk (ck : Nat) (l : Loc) (buf bytes : Nat) (m : Mach) :
    (traffic e ck l buf bytes m).memChk = m.memChk := by simp [traffic, trafficFor]

theorem lineAt_traffic (ck : Nat) (l : Loc) (buf bytes k : Nat) : (traffic e ck l buf bytes m).lineAt k = m.lineAt k :=
  lineAt_congr (traffic_l2 _ _ _ _ _) (traffic_mem _ _ _ _ _) k

/-! ### Reading and writing at the home -/

/-- The machine after a core has read w bytes of memory at their home. -/
def Mach.readHome (m : Mach) (e : Env) (a : Acc) (pa w : Nat) : Mach :=
  traffic e m.issue.ck a.loc a.buf w (homeRead e (lsAgent m m.issue.ck) a.legend (pa / 128) m).2

/-- Reading clean bytes at their home delivers them. -/
theorem readAtHome_clean {a : Acc} (hloc : a.loc = .phys pa) (clean : m.homeClean a.legend pa = true)
    (fits : pa % 128 + w ≤ 128) :
    readAtHome a w e m = .ok ((List.range w).map fun k => m.byteAt (pa + k)) (m.readHome e a pa w) := by
  have got := (homeRead_clean (e := e) (ag := lsAgent m m.issue.ck) clean).1
  unfold readAtHome Mach.readHome
  rw [bind_ok read_ok, bind_ok get_ok, hloc]
  dsimp only
  rw [← bytes_of_line fits]
  have issue := issue_of_beyondHome (homeRead_beyondHome e (lsAgent m m.issue.ck) a.legend (pa / 128) m)
  generalize homeRead e (lsAgent m m.issue.ck) a.legend (pa / 128) m = r at got issue ⊢
  obtain ⟨g, m'⟩ := r
  cases got
  rw [← issue]
  rfl

theorem readHome_keeps (a : Acc) : (m.readHome e a pa w).ctxs = m.ctxs ∧ (m.readHome e a pa w).issue = m.issue
    ∧ (m.readHome e a pa w).spad = m.spad := by
  have home := homeRead_beyondHome e (lsAgent m m.issue.ck) a.legend (pa / 128) m
  simp only [Mach.readHome, traffic_ctxs, traffic_issue, traffic_spad]
  exact ⟨ctxs_of_beyondHome home, issue_of_beyondHome home, spad_of_beyondHome home⟩

/-- A clean line that has been read at its home still reads clean there, and every line has its data. -/
theorem readHome_clean {a : Acc} (clean : m.homeClean a.legend pa = true) :
    (m.readHome e a pa w).homeClean a.legend pa = true ∧ ∀ k, (m.readHome e a pa w).lineAt k = m.lineAt k := by
  obtain ⟨-, lines, -⟩ := homeRead_clean (e := e) (ag := lsAgent m m.issue.ck) clean
  refine ⟨?_, fun k => (lineAt_traffic _ _ _ _ k).trans (lines k)⟩
  rw [Mach.readHome, homeClean_congr (traffic_l2 _ _ _ _ _) (traffic_mem _ _ _ _ _) (traffic_memChk _ _ _ _ _)]
  exact homeClean_homeRead clean

/-- The machine after a core has written bytes of memory at their home. -/
def Mach.writeHome (m : Mach) (e : Env) (a : Acc) (pa : Nat) (bs : List Byte) : Mach :=
  traffic e m.issue.ck a.loc a.buf bs.length (homeWrite e (lsAgent m m.issue.ck) a.legend pa bs m).2

theorem writeHome_keeps (a : Acc) (bs : List Byte) : (m.writeHome e a pa bs).ctxs = m.ctxs
    ∧ (m.writeHome e a pa bs).issue = m.issue ∧ (m.writeHome e a pa bs).spad = m.spad := by
  have home := homeWrite_beyondHome e (lsAgent m m.issue.ck) a.legend pa bs m
  simp only [Mach.writeHome, traffic_ctxs, traffic_issue, traffic_spad]
  exact ⟨ctxs_of_beyondHome home, issue_of_beyondHome home, spad_of_beyondHome home⟩

/-- Bytes written to a clean line at its home are there, and no other byte has changed. -/
theorem writeHome_written {a : Acc} {bs : List Byte} (clean : m.homeClean a.legend pa = true)
    (fits : pa % 128 + bs.length ≤ 128) : m.HomeWritten (m.writeHome e a pa bs) pa bs := by
  intro k
  rw [← (homeWrite_clean (e := e) (ag := lsAgent m m.issue.ck) clean fits).2 k, byteAt_eq, byteAt_eq, Mach.writeHome,
    lineAt_traffic]

end Sys2Proof.Machine
end

section
/-! PROOFS. The atomics: their control word, the reads and checks before the change, and the change itself at the home
(R218, R219). -/

namespace Sys2Proof.Machine

variable {m n : Mach} {e : Env}

/-! ### The control word and the operands -/

/-- Is it a control word of an atomic (R218, R219)? -/
def goodControl (x : Nat) (mayUns needs4 : Bool) : Bool :=
  fld x 63 4 == 0 && (mayUns || !(tst x 3)) && (!needs4 || tst x 0)

theorem atomicControl_eq {s : State} {i : Instr} {u : Fin 2} {C : W512} (hC : s.Port (4 + u.val) 2 C) (mayUns needs4 : Bool) :
    atomicControl u mayUns needs4 ⟨s.boot, s.clk⟩ (s.m.began i)
      = if goodControl (C.setWidth 64).toNat mayUns needs4 then
          .ok (tst (C.setWidth 64).toNat 3, fld (C.setWidth 64).toNat 2 1, if tst (C.setWidth 64).toNat 0 then 4 else 8)
            (s.m.began i)
        else .error (.trap Cause.illegalSlot (C.setWidth 64)) (s.m.began i) := by
  have control : atomicControl u mayUns needs4 = (do
      let c ← port64 (4 + u.val) 2
      require (goodControl c.toNat mayUns needs4) Cause.illegalSlot c
      pure (tst c.toNat 3, fld c.toNat 2 1, if tst c.toNat 0 then 4 else 8)) := rfl
  rw [control, bind_ok (port64_ok hC)]
  cases goodControl (C.setWidth 64).toNat mayUns needs4
  · exact bind_error require_false
  · exact bind_ok require_true

theorem tst_iff (x i : Nat) : tst x i = true ↔ x / 2 ^ i % 2 = 1 := by
  rw [tst, bitN, Nat.shiftRight_eq_div_pow, beq_iff_eq]

/-- A check that allows an access leaves the state to the access. -/
theorem check_ok {k : Right} {w al : Nat} {x : W64} {a : Acc} (h : checkAcc e m.who k w al x m = (.ok a, m)) :
    check k w al x e m = .ok a m := by
  unfold check
  rw [bind_ok read_ok, bind_ok get_ok]
  simp only [h]
  rfl

theorem who_began (s : State) (i : Instr) : (s.m.began i).who = s.m.who := by
  unfold Mach.began
  split <;> rfl

/-! ### The change at the home -/

/-- An atomic at the home: the own copy and the own stores of its bytes home, the read, the write, the result and the
ordering after. -/
def atomicHome (e : Env) (u : Fin 2) (a : Acc) (ord w : Nat) (new : Nat → Nat) : M Unit := do
  modify fun m => performAll e m.issue.ck (fun s => !s.isPeer && s.overlaps a.loc w) (flushOwn e m.issue.ck a.loc m)
  let old := ofBytes (← seenByContext a (← get).cur.stq (← readAtHome a w))
  modify fun m =>
    let m := supersede a w m
    match a.loc with
    | .phys pa =>
      traffic e m.issue.ck a.loc a.buf w (homeWrite e (lsAgent m m.issue.ck) a.legend pa (bytesOf (new old) w) m).2
    | l => traffic e m.issue.ck l a.buf w m
  resultWith (lsQ u) 40 (w512 old) .data (loadBuf a)
  if tst ord 0 then modify fun m => acquireDie m.issue.ck m else pure ()

/-- What an atomic does with a checked access once its operands are read: the ordering before it, and its change. -/
def atomicAt (u : Fin 2) (a : Acc) (ord w : Nat) (new : Nat → Nat) : M Unit := do
  awaitFences
  let e ← read
  if tst ord 1 then modify fun m => releaseDie e m.issue.ck m else pure ()
  atomicHome e u a ord w new

/-- Port b, where the operation reads it. -/
def expected (u : Fin 2) (op : AtomOp) : M W512 :=
  match op with
  | .cas => port (lsUnit u) 1
  | _ => pure 0

/-- What an atomic does once its access has been checked. -/
def atomicChecked (u : Fin 2) (a : Acc) (ord w : Nat) (op : AtomOp) : M Unit := do
  let va ← port (lsUnit u) 0
  let vb ← expected u op
  atomicAt u a ord w fun old => atomicNew op (8 * w) old (va.toNat % 2 ^ (8 * w)) (vb.toNat % 2 ^ (8 * w))

theorem atomic_eq (u : Fin 2) (t : Trig) (mayUns needs4 : Bool) (op : Bool → AtomOp) :
    atomic u t mayUns needs4 op = (do
      let x ← operand64 t.src
      let c ← atomicControl u mayUns needs4
      if apOf x = 1 || apOf x = 2 then trap Cause.aperture x else pure ()
      let a ← check .both c.2.2 c.2.2 x
      atomicChecked u a c.2.1 c.2.2 (op c.1)) := by
  unfold atomic
  refine congrArg (operand64 t.src >>= ·) (funext fun x => ?_)
  refine congrArg (atomicControl u mayUns needs4 >>= ·) (funext fun c => ?_)
  obtain ⟨uns, ord, w⟩ := c
  dsimp only
  cases op uns <;> rfl

/-! ### The ordering before an atomic -/

/-- From m to n the context at issue, the bundle's record and what the homes hold are the same. -/
structure Mach.SameHomes (m n : Mach) : Prop where
  issue : n.issue = m.issue
  cur : n.cur = m.cur
  l2 : n.l2 = m.l2
  mem : n.mem = m.mem
  memChk : n.memChk = m.memChk
  spad : n.spad = m.spad

theorem Mach.SameHomes.trans {a b c : Mach} (h : a.SameHomes b) (h' : b.SameHomes c) : a.SameHomes c :=
  ⟨h'.issue.trans h.issue, h'.cur.trans h.cur, h'.l2.trans h.l2, h'.mem.trans h.mem, h'.memChk.trans h.memChk,
    h'.spad.trans h.spad⟩

theorem performAll_of_none {ck : Nat} {sel : PStore → Bool} (h : ∀ y ∈ (m.ctx ck).stq, sel y = false) :
    performAll e ck sel m = m := by
  rw [performAll, List.filter_eq_nil_iff.2 fun y hy => by simp [h y hy]]
  rfl

theorem writeBackAll_of_no_sectors {core : Nat} {sel : Sector → Bool} (h : (m.core core).sectors = []) :
    writeBackAll e core sel m = m := by
  rw [writeBackAll, h]
  rfl

theorem writeBack_of_absent {core key : Nat} (h : (m.core core).sectors.find key = none) :
    writeBack e core key m = m := by
  simp only [writeBack, h]

theorem orderClasses_cur {upto : Nat} : (orderClasses m.issue.ck upto m).cur
    = { m.cur with stq := m.cur.stq.map fun s => if s.id < upto then { s with acls := 0 } else s } := Mach.cur_modCur m _

/-- A release with no stores before it and no sector in the core's L1 changes nothing. -/
theorem releaseDie_sameHomes (stores : m.cur.stq = []) (sectors : (m.core (ctxCore m.issue.ck)).sectors = []) :
    m.SameHomes (releaseDie e m.issue.ck m) ∧ (releaseDie e m.issue.ck m).cores = m.cores := by
  have none_open : performAll e m.issue.ck (fun s => s.cls != .far) m = m :=
    performAll_of_none fun y hy => by rw [Mach.cur] at stores; simp [stores] at hy
  rw [releaseDie, none_open, writeBackAll_of_no_sectors sectors]
  refine ⟨⟨rfl, ?_, rfl, rfl, rfl, rfl⟩, rfl⟩
  rw [orderClasses_cur, stores]
  exact congrArg (fun q => { m.cur with stq := q }) stores.symm

/-- Dropping a sector that the L1 does not hold writes nothing back. -/
theorem flushOwn_sameHomes {ck pa : Nat} (h : (m.core (ctxCore ck)).sectors.find (pa / 16) = none) :
    m.SameHomes (flushOwn e ck (.phys pa) m) := by
  simp only [flushOwn, sectorKey, writeBack_of_absent h]
  exact ⟨rfl, rfl, rfl, rfl, rfl, rfl⟩

theorem acquireDie_cur : ∃ stq, (acquireDie m.issue.ck m).cur = { m.cur with stq := stq } :=
  ⟨_, orderClasses_cur⟩

theorem awaitFences_ok (h : m.cur.fences = []) : awaitFences e m = .ok () m := by
  unfold awaitFences
  rw [bind_ok read_ok, modify_ok]
  simp only [h, List.any_nil, Bool.false_eq_true, if_false]

/-- The machine as an atomic's read finds it: a release before it, the own copy and the own stores of its bytes home. -/
def Mach.ready (m : Mach) (e : Env) (a : Acc) (ord w : Nat) : Mach :=
  let m := if tst ord 1 then releaseDie e m.issue.ck m else m
  performAll e m.issue.ck (fun s => !s.isPeer && s.overlaps a.loc w) (flushOwn e m.issue.ck a.loc m)

theorem ready_sameHomes {a : Acc} {ord w pa : Nat} (hloc : a.loc = .phys pa)
    (alone : (m.core (ctxCore m.issue.ck)).sectors.find (pa / 16) = none
        ∧ (∀ q ∈ m.cur.stq, q.overlaps a.loc w = false) ∧ tst ord 1 = false
      ∨ m.cur.stq = [] ∧ (m.core (ctxCore m.issue.ck)).sectors = []) : m.SameHomes (m.ready e a ord w) := by
  have flushed {n : Mach} (hn : (n.core (ctxCore n.issue.ck)).sectors.find (pa / 16) = none)
      (elsewhere : ∀ q ∈ n.cur.stq, q.overlaps a.loc w = false) :
      n.SameHomes (performAll e n.issue.ck (fun s => !s.isPeer && s.overlaps a.loc w) (flushOwn e n.issue.ck a.loc n)) := by
    rw [hloc] at elsewhere ⊢
    have same := flushOwn_sameHomes (e := e) hn
    rw [performAll_of_none fun y hy => ?_]
    · exact same
    · have stq : ((flushOwn e n.issue.ck (.phys pa) n).ctx n.issue.ck).stq = n.cur.stq := by
        rw [← same.cur, Mach.cur, same.issue]
      rw [elsewhere y (stq ▸ hy), Bool.and_false]
  rw [Mach.ready]
  obtain ⟨absent, elsewhere, unordered⟩ | ⟨stores, sectors⟩ := alone
  · simp only [unordered, Bool.false_eq_true, if_false]
    exact flushed absent elsewhere
  · split
    · obtain ⟨same, cores⟩ := releaseDie_sameHomes (e := e) stores sectors
      have empty : ((releaseDie e m.issue.ck m).core (ctxCore m.issue.ck)).sectors = [] := by
        rw [Mach.core, cores]
        exact sectors
      exact same.trans (flushed (by rw [same.issue, empty]; rfl) (by simp [same.cur, stores]))
    · exact flushed (by rw [sectors]; rfl) (by simp [stores])

/-! ### The change at the home -/

theorem homeClean_of_sameHomes (h : m.SameHomes n) (leg pa : Nat) : n.homeClean leg pa = m.homeClean leg pa :=
  homeClean_congr h.l2 h.mem h.memChk leg pa

theorem byteAt_of_sameHomes (h : m.SameHomes n) (k : Nat) : n.byteAt k = m.byteAt k := by
  rw [byteAt_eq, byteAt_eq, lineAt_congr h.l2 h.mem]

/-- What the store of a segment takes out of the older ones leaves everything but the segment. -/
theorem supersede_keeps (a : Acc) (w : Nat) (m : Mach) :
    (supersede a w m).issue = m.issue ∧ (supersede a w m).l2 = m.l2 ∧ (supersede a w m).mem = m.mem
      ∧ (supersede a w m).memChk = m.memChk ∧ (supersede a w m).spad = m.spad
      ∧ ∃ seg, (supersede a w m).cur = { m.cur with seg := seg } := by
  unfold supersede
  split
  · exact ⟨rfl, rfl, rfl, rfl, rfl, m.cur.seg, rfl⟩
  · exact ⟨rfl, rfl, rfl, rfl, rfl, _, Mach.cur_modCur m _⟩

/-- The machine after an atomic has changed its bytes at their home, from old to new. -/
def Mach.changed (m : Mach) (e : Env) (a : Acc) (ord pa w new : Nat) : Mach :=
  (supersede a w ((m.ready e a ord w).readHome e a pa w)).writeHome e a pa (bytesOf new w)

theorem changed_eq {a : Acc} {ord pa w new : Nat} (hloc : a.loc = .phys pa) :
    m.changed e a ord pa w new =
      traffic e (supersede a w ((m.ready e a ord w).readHome e a pa w)).issue.ck (.phys pa) a.buf w
        (homeWrite e (lsAgent (supersede a w ((m.ready e a ord w).readHome e a pa w))
          (supersede a w ((m.ready e a ord w).readHome e a pa w)).issue.ck) a.legend pa (bytesOf new w)
          (supersede a w ((m.ready e a ord w).readHome e a pa w))).2 := by
  rw [Mach.changed, Mach.writeHome, bytesOf_length, hloc]

/-- The machine once an atomic has delivered its result, and acquired if its order says so. -/
def Mach.delivered (m : Mach) (e : Env) (u : Fin 2) (a : Acc) (ord old : Nat) : Mach :=
  let m := m.modCur fun c =>
    { c with res := c.res ++ [{ latch := lsQ u, value := w512 old, due := e.clk.cycle + 40, wait := .data, buf := loadBuf a }] }
  if tst ord 0 then acquireDie m.issue.ck m else m

section change

variable {a : Acc} {ord w pa : Nat} (hloc : a.loc = .phys pa) (fits : pa % 128 + w ≤ 128)
  (same : m.SameHomes (m.ready e a ord w)) (clean : m.homeClean a.legend pa = true)
include hloc fits same clean

theorem atomicAt_ok {u : Fin 2} {new : Nat → Nat} (fences : m.cur.fences = [])
    (elsewhere : ∀ q ∈ m.cur.stq, q.overlaps a.loc w = false) :
    atomicAt u a ord w new e m = .ok () ((m.changed e a ord pa w
        (new (ofBytes ((List.range w).map fun k => m.byteAt (pa + k))))).delivered e u a ord
      (ofBytes ((List.range w).map fun k => m.byteAt (pa + k)))) := by
  unfold atomicAt
  rw [bind_ok (awaitFences_ok fences), bind_ok read_ok]
  have home {n : Mach} (hn : performAll e n.issue.ck (fun s => !s.isPeer && s.overlaps a.loc w)
      (flushOwn e n.issue.ck a.loc n) = m.ready e a ord w) : atomicHome e u a ord w new e n = .ok () ((m.changed e a ord pa w
        (new (ofBytes ((List.range w).map fun k => m.byteAt (pa + k))))).delivered e u a ord
      (ofBytes ((List.range w).map fun k => m.byteAt (pa + k)))) := by
    unfold atomicHome
    rw [bind_ok (modify_ok _), hn, bind_ok get_ok,
      bind_ok (readAtHome_clean hloc ((homeClean_of_sameHomes same _ _).trans clean) fits),
      bind_ok (seenByContext_ok hloc (by simpa [same.cur, hloc] using elsewhere)), bind_ok (modify_ok _)]
    simp only [hloc, byteAt_of_sameHomes same]
    generalize ofBytes ((List.range w).map fun k => m.byteAt (pa + k)) = old
    have result : resultWith (lsQ u) 40 (w512 old) .data (loadBuf a) e (m.changed e a ord pa w (new old)) = .ok ()
        ((m.changed e a ord pa w (new old)).modCur fun c => { c with res := c.res ++
          [{ latch := lsQ u, value := w512 old, due := e.clk.cycle + 40, wait := .data, buf := loadBuf a }] }) := rfl
    rw [← changed_eq hloc, bind_ok result, Mach.delivered]
    split <;> rfl
  cases release : tst ord 1
  · exact home (by simp only [Mach.ready, release, Bool.false_eq_true, if_false])
  · simp only [if_true]
    rw [bind_ok (modify_ok _)]
    exact home (by simp only [Mach.ready, release, if_true])

omit hloc in
theorem changed_written (new : Nat) : m.HomeWritten (m.changed e a ord pa w new) pa (bytesOf new w) := by
  obtain ⟨readClean, lines⟩ := readHome_clean (e := e) (w := w) ((homeClean_of_sameHomes same _ _).trans clean)
  obtain ⟨-, l2, mem, memChk, -⟩ := supersede_keeps a w ((m.ready e a ord w).readHome e a pa w)
  intro k
  rw [Mach.changed, writeHome_written ((homeClean_congr l2 mem memChk _ _).trans readClean) (by rwa [bytesOf_length]) k]
  rw [byteAt_eq _ k, lineAt_congr l2 mem, lines, ← byteAt_eq, byteAt_of_sameHomes same]

omit hloc fits clean in
/-- The change at the home leaves the context, but for the stores that its segment holds. -/
theorem changed_keeps (new : Nat) : (m.changed e a ord pa w new).issue = m.issue
    ∧ (m.changed e a ord pa w new).spad = m.spad ∧ ∃ seg, (m.changed e a ord pa w new).cur = { m.cur with seg := seg } := by
  obtain ⟨rctx, rissue, rspad⟩ := readHome_keeps (m := m.ready e a ord w) (e := e) (pa := pa) (w := w) a
  obtain ⟨sissue, -, -, -, sspad, seg, scur⟩ := supersede_keeps a w ((m.ready e a ord w).readHome e a pa w)
  obtain ⟨wctx, wissue, wspad⟩ := writeHome_keeps (m := supersede a w ((m.ready e a ord w).readHome e a pa w)) (e := e)
    (pa := pa) a (bytesOf new w)
  have rcur : ((m.ready e a ord w).readHome e a pa w).cur = m.cur := by
    rw [Mach.cur, Mach.ctx, rctx, rissue]
    exact same.cur
  refine ⟨wissue.trans (sissue.trans (rissue.trans same.issue)), wspad.trans (sspad.trans (rspad.trans same.spad)), seg, ?_⟩
  rw [← rcur, ← scur, Mach.cur, Mach.ctx, Mach.changed, wctx, wissue]
  rfl

end change

/-- Delivering and acquiring leave the homes and the registers. -/
theorem delivered_keeps (u : Fin 2) (a : Acc) (ord old : Nat) :
    (∀ k, (m.delivered e u a ord old).byteAt k = m.byteAt k) ∧ (m.delivered e u a ord old).spad = m.spad
      ∧ ∃ stq, (m.delivered e u a ord old).cur = { m.cur with
          res := m.cur.res ++ [⟨lsQ u, w512 old, e.clk.cycle + 40, .data, loadBuf a⟩], stq := stq } := by
  unfold Mach.delivered
  split
  · obtain ⟨stq, h⟩ := acquireDie_cur (m := m.modCur fun c =>
      { c with res := c.res ++ [⟨lsQ u, w512 old, e.clk.cycle + 40, .data, loadBuf a⟩] })
    exact ⟨fun _ => rfl, rfl, stq, by rw [h, Mach.cur_modCur]⟩
  · exact ⟨fun _ => rfl, rfl, m.cur.stq, Mach.cur_modCur m _⟩

/-! ### The slot of an atomic -/

section slot

variable {s : State} {i : Instr} {u : Fin 2} {o : Nat} {t : Trig} {mayUns needs4 : Bool} {op : Bool → AtomOp} {A B C X : W512}
  {x c : W64} {w : Nat}

theorem atomic_control_faults (code : opCode i = some (4 + u.val, o, t))
    (meaning : exec i s = slotStep i t.guard (atomic u t mayUns needs4 op) s) (hX : s.Reads t.src X)
    (hC : s.Port (4 + u.val) 2 C) (bad : goodControl (C.setWidth 64).toNat mayUns needs4 = false) :
    s.Faults i Cause.illegalSlot (C.setWidth 64) := by
  refine faults_of_trap code (by decide) meaning ?_
  rw [atomic_eq, bind_ok (operand64_ok hX)]
  exact bind_error (by rw [atomicControl_eq hC, bad]; rfl)

theorem atomic_aperture_faults (code : opCode i = some (4 + u.val, o, t))
    (meaning : exec i s = slotStep i t.guard (atomic u t mayUns needs4 op) s) (hX : s.Reads t.src X)
    (hC : s.Port (4 + u.val) 2 C) (good : goodControl (C.setWidth 64).toNat mayUns needs4 = true)
    (near : apOf (X.setWidth 64) = 1 ∨ apOf (X.setWidth 64) = 2) : s.Faults i Cause.aperture (X.setWidth 64) := by
  refine faults_of_trap code (by decide) meaning ?_
  rw [atomic_eq, bind_ok (operand64_ok hX), bind_ok (by rw [atomicControl_eq hC, good]; rfl)]
  simp only [Bool.or_eq_true, decide_eq_true_eq, near, if_true]
  exact bind_error (trap_error _ _)

theorem expected_ok {op : AtomOp} (hB : op = .cas → s.Port (4 + u.val) 1 B) :
    ∃ b, (op = .cas → b = B) ∧ expected u op ⟨s.boot, s.clk⟩ (s.m.began i) = .ok b (s.m.began i) := by
  unfold expected
  split
  · exact ⟨B, fun _ => rfl, port_ok (hB rfl)⟩
  next other => exact ⟨0, fun h => absurd h other, rfl⟩

/-- An atomic with a good control word and an access that the checks allow does its change. -/
theorem atomic_acts {a : Acc} (hX : s.Reads t.src X) (hC : s.Port (4 + u.val) 2 C)
    (good : goodControl (C.setWidth 64).toNat mayUns needs4 = true)
    (far : apOf (X.setWidth 64) ≠ 1 ∧ apOf (X.setWidth 64) ≠ 2)
    (width : w = if tst (C.setWidth 64).toNat 0 then 4 else 8)
    (allowed : checkAcc ⟨s.boot, s.clk⟩ s.m.who .both w w (X.setWidth 64) (s.m.began i) = (.ok a, s.m.began i)) :
    atomic u t mayUns needs4 op ⟨s.boot, s.clk⟩ (s.m.began i)
      = atomicChecked u a (fld (C.setWidth 64).toNat 2 1) w (op (tst (C.setWidth 64).toNat 3)) ⟨s.boot, s.clk⟩
        (s.m.began i) := by
  rw [atomic_eq, bind_ok (operand64_ok hX), bind_ok (by rw [atomicControl_eq hC, good]; rfl)]
  simp only [far, decide_false, Bool.or_false, Bool.false_eq_true, if_false, ← width]
  exact bind_ok (check_ok (by rw [who_began]; exact allowed))

end slot

end Sys2Proof.Machine
end

section
/-! PROOFS. The eight atomics: each one's new value, its faults and its change of memory (R218, R219). -/

namespace Sys2Proof.Machine

/-! ### The new values -/

theorem sgn_eq_toInt {x n : Nat} (hn : n ≠ 0) : sgn x n = (BitVec.ofNat n x).toInt := by
  have : 2 ^ n = 2 * 2 ^ (n - 1) := by rw [← Nat.pow_succ']; congr 1; omega
  rw [BitVec.toInt_eq_toNat_cond, BitVec.toNat_ofNat]
  simp only [sgn, hn, if_false]
  split <;> split <;> omega

theorem pick_eq (uns larger : Bool) (n x y : Nat) : pick uns larger n x y =
    if (if uns then decide (x < y) else decide (sgn x n < sgn y n)) = larger then y else x := by
  simp only [pick, bne_iff_ne, ne_eq, ite_not]

theorem pick_smaller_unsigned (n x y : Nat) : pick true false n x y = min x y := by
  simp only [pick_eq, if_true, decide_eq_false_iff_not]
  split <;> omega

theorem pick_larger_unsigned (n x y : Nat) : pick true true n x y = max x y := by
  simp only [pick_eq, if_true, decide_eq_true_eq]
  split <;> omega

/-- Of two equal values either is the smaller. -/
theorem pick_smaller_signed {n x y : Nat} (hn : n ≠ 0) (hx : x < 2 ^ n) (hy : y < 2 ^ n) : pick false false n x y =
    if (BitVec.ofNat n x).toInt ≤ (BitVec.ofNat n y).toInt then x else y := by
  have tie (h : (BitVec.ofNat n x).toInt = (BitVec.ofNat n y).toInt) : x = y := by
    have := congrArg BitVec.toNat (BitVec.eq_of_toInt_eq h)
    rwa [BitVec.toNat_ofNat, BitVec.toNat_ofNat, Nat.mod_eq_of_lt hx, Nat.mod_eq_of_lt hy] at this
  simp only [pick_eq, Bool.false_eq_true, if_false, decide_eq_false_iff_not, sgn_eq_toInt hn]
  split
  · split
    · exact (tie (by omega)).symm
    · rfl
  · exact (if_pos (by omega)).symm

theorem pick_larger_signed {n x y : Nat} (hn : n ≠ 0) : pick false true n x y =
    if (BitVec.ofNat n y).toInt ≤ (BitVec.ofNat n x).toInt then x else y := by
  simp only [pick_eq, Bool.false_eq_true, if_false, decide_eq_true_eq, sgn_eq_toInt hn]
  split
  · exact (if_neg (by omega)).symm
  · exact (if_pos (by omega)).symm

theorem atomicNew_min {uns : Bool} {n old a b : Nat} (hn : n ≠ 0) (ho : old < 2 ^ n) (ha : a < 2 ^ n) :
    atomicNew (.min uns) n old a b = if uns = true then min old a
      else if (BitVec.ofNat n old).toInt ≤ (BitVec.ofNat n a).toInt then old else a := by
  cases uns
  · exact pick_smaller_signed hn ho ha
  · exact pick_smaller_unsigned n old a

theorem atomicNew_max {uns : Bool} {n old a b : Nat} (hn : n ≠ 0) :
    atomicNew (.max uns) n old a b = if uns = true then max old a
      else if (BitVec.ofNat n a).toInt ≤ (BitVec.ofNat n old).toInt then old else a := by
  cases uns
  · exact pick_larger_signed hn
  · exact pick_larger_unsigned n old a

/-! ### What is said of each atomic -/

section atomic

variable (s : State) (u : Fin 2) (i : Instr) (A B : W512) (x c : W64) (w : Nat) (new : Nat → Nat → Nat → Nat) (good : Bool)

/-- The faults of an atomic and its change of memory, as its obligation says them. -/
def State.Atomic : Prop :=
  (good = false → s.Faults i 1 c)
  ∧ (good = true → x.toNat / 2 ^ 58 % 8 = 1 ∨ x.toNat / 2 ^ 58 % 8 = 2 → s.Faults i 5 x)
  ∧ ∀ (a : Acc) (pa old : Nat), good = true → x.toNat / 2 ^ 58 % 8 ≠ 1 → x.toNat / 2 ^ 58 % 8 ≠ 2 →
      checkAcc ⟨s.boot, s.clk⟩ s.m.who .both w w x (s.m.began i) = (.ok a, s.m.began i) → a.loc = .phys pa → pa % w = 0 →
      s.m.cur.fences = [] → s.m.issue.x < 4 →
      ((∀ k < 8, (s.m.core s.m.issue.core).sectors.find (pa / 128 * 8 + k) = none)
          ∧ (∀ q ∈ s.m.cur.stq, q.overlaps a.loc w = false) ∧ c.toNat / 4 % 2 = 0
        ∨ s.m.cur.stq = [] ∧ (s.m.core s.m.issue.core).sectors = []) →
      s.m.homeClean a.legend pa = true → old = ofBytes ((List.range w).map fun k => s.m.byteAt (pa + k)) → s.acts i = true →
      ∃ s', exec i s = .next s'
        ∧ s'.m.cur.res = s.m.cur.res ++ [⟨4 + 2 * u.val, BitVec.ofNat 512 old, s.clk.cycle + 40, .data, [a.buf]⟩]
        ∧ (∀ n, s'.m.byteAt n = if pa ≤ n ∧ n < pa + w then
              BitVec.ofNat 8 (new old (A.toNat % 2 ^ (8 * w)) (B.toNat % 2 ^ (8 * w)) >>> (8 * (n - pa)))
            else s.m.byteAt n)
        ∧ s'.m.spad = s.m.spad ∧ s'.m.cur.g = s.m.cur.g ∧ s'.m.cur.v = s.m.cur.v ∧ s'.m.cur.p = s.m.cur.p
        ∧ s'.m.cur.csr = s.m.cur.csr

variable {s u i A B x c w new good}

theorem began_keeps (s : State) (i : Instr) : (s.m.began i).ctxs = s.m.ctxs ∧ (s.m.began i).l2 = s.m.l2
    ∧ (s.m.began i).mem = s.m.mem ∧ (s.m.began i).memChk = s.m.memChk ∧ (s.m.began i).spad = s.m.spad
    ∧ (s.m.began i).cores = s.m.cores := by
  unfold Mach.began
  split <;> exact ⟨rfl, rfl, rfl, rfl, rfl, rfl⟩

theorem byteAt_began (k : Nat) : (s.m.began i).byteAt k = s.m.byteAt k := by
  obtain ⟨-, l2, mem, -⟩ := began_keeps s i
  rw [byteAt_eq, byteAt_eq, lineAt_congr l2 mem]

theorem core_of_ck {d : Issue} (hx : d.x < 4) : ctxCore d.ck = d.core := by
  unfold ctxCore Issue.ck ctxKey Issue.core
  omega

/-- An atomic whose operands are read changes its bytes at their home. -/
theorem atomicChecked_ok {op : AtomOp} {a : Acc} {ord pa : Nat} (hA : s.Port (4 + u.val) 0 A)
    (hB : op = .cas → s.Port (4 + u.val) 1 B) (hloc : a.loc = .phys pa) (fits : pa % 128 + w ≤ 128)
    (same : (s.m.began i).SameHomes ((s.m.began i).ready ⟨s.boot, s.clk⟩ a ord w))
    (clean : (s.m.began i).homeClean a.legend pa = true) (fences : (s.m.began i).cur.fences = [])
    (elsewhere : ∀ q ∈ (s.m.began i).cur.stq, q.overlaps a.loc w = false) :
    ∃ b, (op = .cas → b = B) ∧ atomicChecked u a ord w op ⟨s.boot, s.clk⟩ (s.m.began i) = .ok ()
      (((s.m.began i).changed ⟨s.boot, s.clk⟩ a ord pa w (atomicNew op (8 * w)
          (ofBytes ((List.range w).map fun k => (s.m.began i).byteAt (pa + k))) (A.toNat % 2 ^ (8 * w))
          (b.toNat % 2 ^ (8 * w)))).delivered ⟨s.boot, s.clk⟩ u a ord
        (ofBytes ((List.range w).map fun k => (s.m.began i).byteAt (pa + k)))) := by
  obtain ⟨b, isB, gotB⟩ := expected_ok (i := i) hB
  refine ⟨b, isB, ?_⟩
  unfold atomicChecked lsUnit
  rw [bind_ok (port_ok hA), bind_ok gotB, atomicAt_ok hloc fits same clean fences elsewhere]

/-- The bytes of an atomic are at their home, and of the context its result has been added and its stores have changed. -/
theorem delivered_changed {m : Mach} {e : Env} {a : Acc} {ord pa old new : Nat} (hloc : a.loc = .phys pa)
    (fits : pa % 128 + w ≤ 128) (same : m.SameHomes (m.ready e a ord w)) (clean : m.homeClean a.legend pa = true) :
    (∀ k, ((m.changed e a ord pa w new).delivered e u a ord old).byteAt k =
        if pa ≤ k ∧ k < pa + w then byteN new (k - pa) else m.byteAt k)
      ∧ ((m.changed e a ord pa w new).delivered e u a ord old).spad = m.spad
      ∧ ∃ seg stq, ((m.changed e a ord pa w new).delivered e u a ord old).cur = { m.cur with
          res := m.cur.res ++ [⟨lsQ u, w512 old, e.clk.cycle + 40, .data, [a.buf]⟩], seg := seg, stq := stq } := by
  have written := changed_written (e := e) (ord := ord) fits same clean new
  obtain ⟨-, cspad, seg, ccur⟩ := changed_keeps (pa := pa) same new
  obtain ⟨dbytes, dspad, stq, dcur⟩ := delivered_keeps (m := m.changed e a ord pa w new) (e := e) u a ord old
  refine ⟨fun k => ?_, dspad.trans cspad, seg, stq, ?_⟩
  · rw [dbytes, written k, bytesOf_length]
    split
    · exact bytesOf_getD (by omega)
    · rfl
  · rw [dcur, ccur, loadBuf, hloc]

/-- An atomic is settled by its control word, its meaning and its new value. -/
theorem atomic_settled {t : Trig} {C X : W512} {o : Nat} {mayUns needs4 : Bool} {op : Bool → AtomOp}
    (hX : s.Reads t.src X) (hA : s.Port (4 + u.val) 0 A) (hC : s.Port (4 + u.val) 2 C) (hx : x = X.setWidth 64)
    (hc : c = C.setWidth 64) (width : w = if c.toNat % 2 = 1 then 4 else 8)
    (code : opCode i = some (4 + u.val, o, t))
    (meaning : exec i s = slotStep i t.guard (atomic u t mayUns needs4 op) s)
    (control : good = goodControl c.toNat mayUns needs4)
    (hB : op (tst c.toNat 3) = .cas → s.Port (4 + u.val) 1 B)
    (value : good = true → ∀ old a b, old < 2 ^ (8 * w) → a < 2 ^ (8 * w) →
      (op (tst c.toNat 3) = .cas → b = B.toNat % 2 ^ (8 * w)) →
      atomicNew (op (tst c.toNat 3)) (8 * w) old a b = new old a (B.toNat % 2 ^ (8 * w))) :
    s.Atomic u i A B x c w new good := by
  have aperture : apOf x = x.toNat / 2 ^ 58 % 8 := fld_eq _ _ _
  have width' : w = if tst c.toNat 0 then 4 else 8 := by simp only [tst_iff, Nat.pow_zero, Nat.div_one, width]
  subst hx hc
  refine ⟨fun h => ?_, fun h near => ?_, ?_⟩
  · exact atomic_control_faults code meaning hX hC (control ▸ h)
  · exact atomic_aperture_faults code meaning hX hC (control ▸ h) (by rwa [aperture])
  · intro a pa old h no1 no2 allowed hloc aligned fences hctx alone clean hold acts
    obtain ⟨bctx, bl2, bmem, bchk, bspad, bcores⟩ := began_keeps s i
    have fits : pa % 128 + w ≤ 128 := by split at width <;> subst width <;> omega
    have core : (s.m.began i).core (ctxCore (s.m.began i).issue.ck) = s.m.core s.m.issue.core := by
      rw [began_issue_ck, core_of_ck hctx, Mach.core, bcores]; rfl
    have order : tst (fld (C.setWidth 64).toNat 2 1) 1 = true ↔ (C.setWidth 64).toNat / 4 % 2 = 1 := by
      rw [tst_iff, fld_eq]; omega
    have same := ready_sameHomes (m := s.m.began i) (e := ⟨s.boot, s.clk⟩) (a := a) (w := w)
      (ord := fld (C.setWidth 64).toNat 2 1) hloc (by
        rw [core, began_cur]
        refine alone.imp (fun ⟨absent, elsewhere, unordered⟩ => ⟨?_, elsewhere, ?_⟩) id
        · simpa [show pa / 128 * 8 + pa / 16 % 8 = pa / 16 by omega] using absent (pa / 16 % 8) (by omega)
        · rw [Bool.eq_false_iff, ne_eq, order]; omega)
    have elsewhere : ∀ q ∈ (s.m.began i).cur.stq, q.overlaps a.loc w = false := by
      rw [began_cur]
      obtain ⟨-, elsewhere, -⟩ | ⟨none_open, -⟩ := alone
      · exact elsewhere
      · simp [none_open]
    have clean' : (s.m.began i).homeClean a.legend pa = true := (homeClean_congr bl2 bmem bchk _ _).trans clean
    have bounded : old < 2 ^ (8 * w) := by simpa [hold] using ofBytes_lt ((List.range w).map fun k => s.m.byteAt (pa + k))
    obtain ⟨b, isB, body⟩ := atomicChecked_ok (op := op (tst (C.setWidth 64).toNat 3)) hA hB hloc fits same clean'
      (by rw [began_cur]; exact fences) elsewhere
    simp only [byteAt_began, ← hold] at body
    refine ⟨_, meaning.trans (slotStep_of_ok acts code ((atomic_acts hX hC (control ▸ h) ⟨aperture ▸ no1, aperture ▸ no2⟩
      width' allowed).trans body)), ?_⟩
    obtain ⟨bytes, spad, seg, stq, cur⟩ := delivered_changed (e := ⟨s.boot, s.clk⟩) (u := u) (old := old)
      (new := atomicNew (op (tst (C.setWidth 64).toNat 3)) (8 * w) old (A.toNat % 2 ^ (8 * w)) (b.toNat % 2 ^ (8 * w)))
      hloc fits same clean'
    rw [began_cur] at cur
    simp only [cur, spad, bspad, and_true]
    refine ⟨rfl, fun k => ?_⟩
    rw [bytes k, byteAt_began, value h old _ _ bounded (Nat.mod_lt _ (Nat.two_pow_pos _)) fun cas => by rw [isB cas]]
    rfl

end atomic

/-! ### The eight operations -/

theorem goodControl_iff {c : Nat} (hc : c < 2 ^ 64) (mayUns needs4 : Bool) : goodControl c mayUns needs4 = true ↔
    c < 16 ∧ (needs4 = true → c % 2 = 1) ∧ (8 ≤ c → mayUns = true) := by
  have small : fld c 63 4 = 0 ↔ c < 16 := by rw [fld_eq]; omega
  have wide : tst c 0 = true ↔ c % 2 = 1 := by rw [tst_iff, Nat.pow_zero, Nat.div_one]
  have unsigned (h : c < 16) : tst c 3 = true ↔ 8 ≤ c := by rw [tst_iff]; omega
  simp only [goodControl, Bool.and_eq_true, Bool.or_eq_true, Bool.not_eq_true', beq_iff_eq, small, Bool.eq_false_iff, ne_eq,
    wide]
  constructor
  · rintro ⟨⟨lt, uns⟩, four⟩
    exact ⟨lt, fun h => four.resolve_left (absurd h), fun h => uns.resolve_right (not_not.2 ((unsigned lt).2 h))⟩
  · rintro ⟨lt, four, uns⟩
    refine ⟨⟨lt, ?_⟩, ?_⟩
    · exact (Classical.em (8 ≤ c)).imp uns (mt (unsigned lt).1)
    · exact (Classical.em (needs4 = true)).symm.imp id four

theorem good_eq_goodControl {good : Bool} {c : W64} {mayUns needs4 : Bool} {p q : Prop} (hp : p ↔ needs4 = true)
    (hq : q ↔ mayUns = true) (h : good = true ↔ c.toNat < 16 ∧ (p → c.toNat % 2 = 1) ∧ (8 ≤ c.toNat → q)) :
    good = goodControl c.toNat mayUns needs4 := by
  rw [Bool.eq_iff_iff, goodControl_iff c.isLt, h, hp, hq]

/-- Settles O22: each operation by its row of units and its new value. -/
theorem atomics : Obligations.Atomics := by
  intro s u t A B C X x c hX hA hC hx hc i w new width hB listed good control
  have settled {i : Instr} {new : Nat → Nat → Nat → Nat} {o : Nat} {mayUns needs4 : Bool} {op : Bool → AtomOp} {good : Bool}
      (code : opCode i = some (4 + u.val, o, t)) (meaning : exec i s = slotStep i t.guard (atomic u t mayUns needs4 op) s) :=
    atomic_settled (new := new) (good := good) (B := B) hX hA hC hx hc width code meaning
  have w0 : 8 * w ≠ 0 := by split at width <;> omega
  have unsigned : tst c.toNat 3 = true ↔ c.toNat / 8 % 2 = 1 := tst_iff _ _
  change s.Atomic u i A B x c w new good
  simp only [List.mem_cons, List.not_mem_nil, or_false, Prod.mk.injEq] at listed
  rcases listed with ⟨rfl, rfl⟩ | ⟨rfl, rfl⟩ | ⟨rfl, rfl⟩ | ⟨rfl, rfl⟩ | ⟨rfl, rfl⟩ | ⟨rfl, rfl⟩ | ⟨rfl, rfl⟩ | ⟨rfl, rfl⟩
  · exact settled rfl rfl (good_eq_goodControl (by simp) (by simp) control) nofun fun _ _ _ _ _ _ _ => rfl
  · exact settled rfl rfl (good_eq_goodControl (by simp) (by simp) control) nofun fun _ _ _ _ _ _ _ => rfl
  · exact settled rfl rfl (good_eq_goodControl (by simp) (by simp) control) nofun fun _ _ _ _ _ _ _ => rfl
  · exact settled rfl rfl (good_eq_goodControl (by simp) (by simp) control) nofun fun _ _ _ _ _ _ _ => rfl
  · refine settled rfl rfl (good_eq_goodControl (by simp) (by simp) control) (fun _ => hB rfl) fun _ old a b _ _ isB => ?_
    rw [isB rfl]
    rfl
  · exact settled rfl rfl (good_eq_goodControl (by simp) (by simp) control) nofun fun _ _ _ _ _ _ _ => rfl
  · refine settled rfl rfl (good_eq_goodControl (by simp) (by simp) control) nofun fun _ old a b hold ha _ => ?_
    rw [atomicNew_min w0 hold ha]
    simp only [unsigned]
  · refine settled rfl rfl (good_eq_goodControl (by simp) (by simp) control) nofun fun _ old a b _ _ _ => ?_
    rw [atomicNew_max w0]
    simp only [unsigned]

end Sys2Proof.Machine
end

section
/-! PROOFS. What the homes of memory lines leave of tasks and dies: a task but for the energy charged to it, and a die's
trap vector. -/

namespace Sys2Proof.Machine

/-- The tasks but for their charges, and the trap vectors of the dies. -/
def Mach.steady (m : Mach) : (Nat → Task) × (Nat → BitVec 48) :=
  (fun k => { m.task k with energy := 0 }, fun d => (m.die d).tvec)

section
variable {m n : Mach}

theorem task_of_steady (h : n.steady = m.steady) (k : Nat) : { n.task k with energy := 0 } = { m.task k with energy := 0 } :=
  congrFun (congrArg Prod.fst h) k

theorem tvec_of_steady (h : n.steady = m.steady) (d : Nat) : (n.die d).tvec = (m.die d).tvec :=
  congrFun (congrArg Prod.snd h) d

theorem steady_of_eq (ht : n.tasks = m.tasks) (hd : n.dies = m.dies) : n.steady = m.steady := by
  unfold Mach.steady Mach.task Mach.die
  rw [ht, hd]

end

theorem foldl_steady {α : Type} {f : Mach → α → Mach} (hf : ∀ m a, (f m a).steady = m.steady) (l : List α) (m : Mach) :
    (l.foldl f m).steady = m.steady := by
  induction l generalizing m with
  | nil => rfl
  | cons a l ih => exact (ih _).trans (hf m a)

theorem modDie_steady (m : Mach) (d : Nat) {f : Die → Die} (hf : ∀ x, (f x).tvec = x.tvec := by intro; rfl) :
    (m.modDie d f).steady = m.steady := by
  unfold Mach.steady
  congr 1
  funext j
  by_cases hj : j = d
  · rw [hj, Mach.die_modDie_same, hf]
  · rw [Mach.die_modDie_of_ne _ _ _ _ hj]

theorem charge_steady (m : Mach) (tk units : Nat) : (m.charge tk units).steady = m.steady := by
  unfold Mach.charge
  split
  · rfl
  · unfold Mach.steady
    congr 1
    funext j
    by_cases hj : j = tk
    · rw [hj, Mach.task_modTask_same]
    · rw [Mach.task_modTask_of_ne _ _ _ _ hj]

theorem chargeMem_steady (e : Env) (ag : Agent) (la : Nat) (m : Mach) : (chargeMem e ag la m).steady = m.steady := by
  unfold chargeMem
  split
  · rfl
  · exact charge_steady _ _ _

theorem chargeHub_steady (e : Env) (ag : Agent) (bytes : Nat) (m : Mach) : (chargeHub e ag bytes m).steady = m.steady := by
  unfold chargeHub
  split
  · rfl
  · exact charge_steady _ _ _

theorem flareOn_steady (e : Env) (d bit : Nat) (m : Mach) : (flareOn e d bit m).steady = m.steady := by
  unfold flareOn flare
  dsimp only
  split
  · split
    · exact foldl_steady (f := fun m d => flareDie 0 bit d m) (fun m d => modDie_steady _ d) _ _
    · rfl
  · rfl

/-- A way to write event records that leaves tasks and trap vectors. -/
def Recorder.Steady (rec_ : Recorder) : Prop := ∀ e d type body m, (rec_ e d type body m).steady = m.steady

theorem noteEvent_steady : Recorder.Steady noteEvent := by
  intro e d type body m
  unfold noteEvent
  dsimp only [storeEvent]
  split
  · exact (modDie_steady _ d).trans (modDie_steady m d)
  · exact modDie_steady m d

section recorder

variable {rec_ : Recorder} (hr : rec_.Steady) (e : Env)
include hr

theorem discovery_steady (ag : Agent) (leg copy addr : Nat) (r : Reading) (m : Mach) :
    (discovery rec_ e ag leg copy addr r m).steady = m.steady := by
  have counted (m : Mach) : (m.modDie ag.die fun x =>
      if r.sev = 1 then { x with lgCorr := satN (x.lgCorr + 1) 32 }
      else if r.sev = 2 then { x with lgLow := satN (x.lgLow + 1) 16 }
      else { x with lgHigh := satN (x.lgHigh + 1) 16 }).steady = m.steady :=
    modDie_steady m ag.die fun x => by split <;> [rfl; split <;> rfl]
  unfold discovery
  split
  · rfl
  · dsimp only
    split <;> split <;> simp only [flareOn_steady, hr _ _ _ _ _, counted]

theorem l2EvictWith_steady (la : Nat) (m : Mach) : (l2EvictWith rec_ e la m).steady = m.steady := by
  unfold l2EvictWith
  split
  · rfl
  · split
    · rfl
    · dsimp only
      split
      · rfl
      · refine (discovery_steady hr e _ _ _ _ _ _).trans (Eq.trans (b := Mach.steady _) rfl ?_)
        split
        · split
          · exact charge_steady _ _ _
          · rfl
        · rfl

theorem l2Insert_steady (la : Nat) (l : L2Line) (m : Mach) : (l2Insert rec_ e la l m).steady = m.steady := by
  unfold l2Insert
  dsimp only
  split
  · rfl
  · split
    · exact l2EvictWith_steady hr e _ _
    · rfl

theorem homeReadWith_steady (ag : Agent) (leg la : Nat) (m : Mach) :
    (homeReadWith rec_ e ag leg la m).2.steady = m.steady := by
  unfold homeReadWith
  split <;> dsimp only <;> rw [discovery_steady hr]
  · split <;> rfl
  · have filled (n : Mach) (l : L2Line) :
        (if l2AllPinned n la then n else l2Insert rec_ e la l n).steady = n.steady := by
      split
      · rfl
      · exact l2Insert_steady hr e la l n
    rw [filled, chargeMem_steady]
    split <;> rfl

theorem homePutWith_steady (ag : Agent) (leg la data chk : Nat) (dirty : BitVec 8) (m : Mach) :
    (homePutWith rec_ e ag leg la data chk dirty m).steady = m.steady := by
  have reached : (if hostLine la then chargeMem e ag la (setMemLine la data chk (m.touch la)) else m.touch la).steady
      = m.steady := by
    split
    · exact chargeMem_steady _ _ _ _
    · rfl
  unfold homePutWith
  dsimp only
  generalize (if hostLine la then chargeMem e ag la (setMemLine la data chk (m.touch la)) else m.touch la) = n at reached ⊢
  split
  · exact reached
  · split
    · exact (l2Insert_steady hr e _ _ _).trans reached
    · split
      · exact reached
      · exact (chargeMem_steady _ _ _ _).trans reached

theorem homeWriteWith_steady (ag : Agent) (leg pa : Nat) (bs : List Byte) (m : Mach) :
    (homeWriteWith rec_ e ag leg pa bs m).2.steady = m.steady := by
  unfold homeWriteWith
  dsimp only
  split
  · exact homePutWith_steady hr e _ _ _ _ _ _ _
  · split
    · split
      · rfl
      · exact homePutWith_steady hr e _ _ _ _ _ _ _
    · split
      · exact homeReadWith_steady hr e _ _ _ _
      · exact (homePutWith_steady hr e _ _ _ _ _ _ _).trans (homeReadWith_steady hr e _ _ _ _)

theorem walkWith_steady (d va : Nat) (m : Mach) : (walkWith rec_ e d va m).2.steady = m.steady := by
  have entry (ag : Agent) (leg pa : Nat) (m : Mach) : (entryAt rec_ e ag leg pa m).2.2.steady = m.steady :=
    homeReadWith_steady hr e _ _ _ _
  unfold walkWith
  dsimp only
  split
  · rfl
  · split
    · exact entry _ _ _ _
    · split
      · exact (entry _ _ _ _).trans (entry _ _ _ _)
      · exact (entry _ _ _ _).trans ((entry _ _ _ _).trans (entry _ _ _ _))

theorem ringWriteWith_steady (d : Nat) (r : Ring) (bs : List Byte) (m : Mach) :
    (ringWriteWith rec_ e d r bs m).2.steady = m.steady := by
  unfold ringWriteWith
  dsimp only
  split
  · split
    · exact (homeWriteWith_steady hr e _ _ _ _ _).trans (walkWith_steady hr e _ _ _)
    · exact walkWith_steady hr e _ _ _
  · exact walkWith_steady hr e _ _ _

end recorder

theorem ringEvent_steady (e : Env) (d : Nat) (data : W512) (m : Mach) : (ringEvent e d data m).steady = m.steady := by
  unfold ringEvent
  dsimp only
  split
  · rfl
  · split
    · exact modDie_steady m d
    · exact (modDie_steady _ d).trans (ringWriteWith_steady noteEvent_steady e _ _ _ _)

theorem drainEvents_steady (n : Nat) (e : Env) (d : Nat) (m : Mach) : (drainEvents n e d m).steady = m.steady := by
  fun_induction drainEvents n e d m with
  | case1 m n x xs waits ih => exact ih.trans ((ringEvent_steady e d _ _).trans (modDie_steady m d))
  | case2 => rfl

theorem event_steady : Recorder.Steady event := by
  intro e d type body m
  unfold event
  dsimp only
  split
  · exact (drainEvents_steady _ _ _ _).trans (noteEvent_steady _ _ _ _ _)
  · exact noteEvent_steady _ _ _ _ _

theorem homeRead_steady (e : Env) (ag : Agent) (leg la : Nat) (m : Mach) :
    (homeRead e ag leg la m).2.steady = m.steady := homeReadWith_steady event_steady _ _ _ _ _

theorem homePut_steady (e : Env) (ag : Agent) (leg la data chk : Nat) (dirty : BitVec 8) (m : Mach) :
    (homePut e ag leg la data chk dirty m).steady = m.steady := homePutWith_steady event_steady _ _ _ _ _ _ _ _

theorem homePoison_steady (e : Env) (ag : Agent) (leg la : Nat) (m : Mach) :
    (homePoison e ag leg la m).steady = m.steady := homePut_steady _ _ _ _ _ _ _ _

theorem homeWrite_steady (e : Env) (ag : Agent) (leg pa : Nat) (bs : List Byte) (m : Mach) :
    (homeWrite e ag leg pa bs m).2.steady = m.steady := homeWriteWith_steady event_steady _ _ _ _ _ _

theorem routeOf_steady (e : Env) (d pkg : Nat) (m : Mach) : (routeOf e d pkg m).2.steady = m.steady := by
  unfold routeOf
  split
  · rfl
  · exact homeRead_steady _ _ _ _ _

theorem writeFrame_steady (e : Env) (d f off : Nat) (bs : List Byte) (bad : List Nat) (m : Mach) :
    (writeFrame e d f off bs bad m).steady = m.steady := by
  unfold writeFrame
  refine (foldl_steady (fun m k => ?_) _ _).trans (chargeHub_steady _ _ _ _)
  split
  · exact homePoison_steady _ _ _ _ _
  · exact homeWrite_steady _ _ _ _ _ _

end Sys2Proof.Machine
end

section
/-! PROOFS. What write-backs, stores performed at their homes, releases and acquires leave: the bundle at issue, every
context but for its stores on their way and the refusals of them, every task but for its charges, and the trap vectors. -/

namespace Sys2Proof.Machine

/-- A context but for its stores on their way and their refusals. -/
def Ctx.beyondStores (c : Ctx) : Ctx := { c with stq := [], refusals := [] }

/-- The bundle at issue, the contexts but for their stores, the tasks but for their charges, and the trap vectors. -/
def Mach.calm (m : Mach) : Issue × (Nat → Ctx) × (Nat → Task) × (Nat → BitVec 48) :=
  (m.issue, fun k => (m.ctx k).beyondStores, m.steady)

section
variable {m n : Mach}

theorem issue_of_calm (h : n.calm = m.calm) : n.issue = m.issue := congrArg Prod.fst h

theorem ctx_of_calm (h : n.calm = m.calm) (k : Nat) : (n.ctx k).beyondStores = (m.ctx k).beyondStores :=
  congrFun (congrArg (·.2.1) h) k

theorem steady_of_calm (h : n.calm = m.calm) : n.steady = m.steady := congrArg (·.2.2) h

theorem calm_of_ctxs (hi : n.issue = m.issue) (hc : n.ctxs = m.ctxs) (hs : n.steady = m.steady) : n.calm = m.calm := by
  unfold Mach.calm Mach.ctx
  rw [hi, hc, hs]

theorem calm_of_home (h : n.beyondHome = m.beyondHome) (hs : n.steady = m.steady) : n.calm = m.calm :=
  calm_of_ctxs (issue_of_beyondHome h) (ctxs_of_beyondHome h) hs

end

theorem modCtx_calm (m : Mach) (k : Nat) {f : Ctx → Ctx} (hf : ∀ c, (f c).beyondStores = c.beyondStores := by intro; rfl) :
    (m.modCtx k f).calm = m.calm := by
  have ctxs (j : Nat) : ((m.modCtx k f).ctx j).beyondStores = (m.ctx j).beyondStores := by
    by_cases hj : j = k
    · rw [hj, Mach.ctx_modCtx_same, hf]
    · rw [Mach.ctx_modCtx_of_ne _ _ _ _ hj]
  exact congrArg (fun c => (m.issue, c, m.steady)) (funext ctxs)

theorem foldl_calm {α : Type} {f : Mach → α → Mach} (hf : ∀ m a, (f m a).calm = m.calm) (l : List α) (m : Mach) :
    (l.foldl f m).calm = m.calm := by
  induction l generalizing m with
  | nil => rfl
  | cons a l ih => exact (ih _).trans (hf m a)

theorem modCore_calm (m : Mach) (k : Nat) (f : Core → Core) : (m.modCore k f).calm = m.calm := rfl

theorem charge_calm (m : Mach) (tk units : Nat) : (m.charge tk units).calm = m.calm :=
  calm_of_home (charge_beyondHome m tk units) (charge_steady m tk units)

theorem homeWrite_calm (e : Env) (ag : Agent) (leg pa : Nat) (bs : List Byte) (m : Mach) :
    (homeWrite e ag leg pa bs m).2.calm = m.calm :=
  calm_of_home (homeWrite_beyondHome e ag leg pa bs m) (homeWrite_steady e ag leg pa bs m)

theorem discovery_calm (e : Env) (ag : Agent) (leg copy addr : Nat) (r : Reading) (m : Mach) :
    (discovery event e ag leg copy addr r m).calm = m.calm :=
  calm_of_home (discovery_beyondHome event_staysHome e ag leg copy addr r m) (discovery_steady event_steady e ag leg copy addr r m)

theorem addHot_calm (m : Mach) (d n bytes : Nat) : (m.addHot d n bytes).calm = m.calm := by
  unfold Mach.addHot
  split <;> rfl

theorem traffic_calm (e : Env) (ck : Nat) (l : Loc) (buf bytes : Nat) (m : Mach) :
    (traffic e ck l buf bytes m).calm = m.calm := (charge_calm _ _ _).trans (addHot_calm _ _ _ _)

theorem sectorTraffic_calm (e : Env) (core : Nat) (s : Sector) (m : Mach) : (sectorTraffic e core s m).calm = m.calm :=
  (charge_calm _ _ _).trans (addHot_calm _ _ _ _)

theorem sendPacket_calm (e : Env) (l : Nat) (i : TxInfo) (bs : List Byte) (m : Mach) :
    (sendPacket e l i bs m).calm = m.calm := by
  unfold sendPacket
  split
  · rfl
  · exact calm_of_ctxs rfl rfl (steady_of_eq rfl rfl)

theorem toPackage_calm (e : Env) (i : TxInfo) (bs : List Byte) (m : Mach) : (toPackage e i bs m).calm = m.calm := by
  unfold toPackage
  split
  · rfl
  next pkg _ =>
    have route := calm_of_home (routeOf_beyondHome e i.die pkg m) (routeOf_steady e i.die pkg m)
    dsimp only
    split
    · exact (sendPacket_calm e _ i bs _).trans route
    · exact route

/-! ### Write-backs and stores -/

theorem writeBackLine_calm (e : Env) (core line key frame leg pa : Nat) (m : Mach) :
    (writeBackLine e core line key frame leg pa m).calm = m.calm := by
  unfold writeBackLine
  split
  · rfl
  · exact (homeWrite_calm _ _ _ _ _ _).trans
      (foldl_calm (f := fun m s => sectorTraffic e core s m) (fun m s => sectorTraffic_calm e core s m) _ _)

theorem writeBack_calm (e : Env) (core key : Nat) (m : Mach) : (writeBack e core key m).calm = m.calm := by
  unfold writeBack
  split
  · rfl
  next s _ =>
    split
    · rfl
    · dsimp only
      generalize before : (if s.bad || s.sound then _ else _ : Mach) = n
      have kept : n.calm = m.calm := by
        rw [← before]
        split
        · exact sectorTraffic_calm _ _ _ _
        · exact (discovery_calm _ _ _ _ _ _ _).trans (sectorTraffic_calm _ _ _ _)
      refine Eq.trans ?_ kept
      split
      · rfl
      · split
        · exact calm_of_home (homePoison_beyondHome _ _ _ _ _) (homePoison_steady _ _ _ _ _)
        · split
          · exact homeWrite_calm _ _ _ _ _ _
          · exact (writeBackLine_calm _ _ _ _ _ _ _ _).trans (homeWrite_calm _ _ _ _ _ _)
      · exact (foldl_calm (fun _ _ => by exact modCtx_calm _ _) _ _).trans (toPackage_calm _ _ _ _)

theorem writeBackAll_calm (e : Env) (core : Nat) (sel : Sector → Bool) (m : Mach) :
    (writeBackAll e core sel m).calm = m.calm :=
  foldl_calm (f := fun m (p : Nat × Sector) => writeBack e core p.1 m) (fun m p => writeBack_calm e core p.1 m) _ _

theorem spadRead_calm (e : Env) (ag : Agent) (core off : Nat) (m : Mach) : (spadRead e ag core off m).2.calm = m.calm := by
  unfold spadRead
  refine (discovery_calm _ _ _ _ _ _ _).trans ?_
  split <;> rfl

theorem spadWrite_calm (e : Env) (ag : Agent) (core off : Nat) (bs : List Byte) (m : Mach) :
    (spadWrite e ag core off bs m).2.calm = m.calm := by
  unfold spadWrite
  dsimp only
  split
  · rfl
  · split <;> exact spadRead_calm e ag core off _

theorem writeStore_calm (e : Env) (ck : Nat) (s : PStore) (m : Mach) : (writeStore e ck s m).calm = m.calm := by
  unfold writeStore
  dsimp only
  split
  · exact spadWrite_calm _ _ _ _ _ _
  · exact (traffic_calm _ _ _ _ _ _).trans (homeWrite_calm _ _ _ _ _ _)
  · split
    · rfl
    · exact traffic_calm _ _ _ _ _ _

theorem performStore_calm (e : Env) (ck : Nat) (s : PStore) (m : Mach) : (performStore e ck s m).calm = m.calm :=
  (foldl_calm (f := fun m p => writeStore e ck p m) (fun m p => writeStore_calm e ck p m) _ _).trans (modCtx_calm _ _)

theorem performAll_calm (e : Env) (ck : Nat) (sel : PStore → Bool) (m : Mach) : (performAll e ck sel m).calm = m.calm :=
  foldl_calm (f := fun m s => performStore e ck s m) (fun m s => performStore_calm e ck s m) _ _

theorem settleStores_calm (e : Env) (ck : Nat) (sel : PStore → Bool) (m : Mach) :
    (settleStores e ck sel m).calm = m.calm := by
  have refused (s : PStore) (m : Mach) : (refuseStore ck s m).calm = m.calm := modCtx_calm _ _
  refine foldl_calm (fun m s => ?_) _ _
  split
  · dsimp only
    split
    · exact refused s _
    · exact performStore_calm e ck s _
  · exact performStore_calm e ck s m

/-! ### Orders -/

theorem orderClasses_calm (ck upto : Nat) (m : Mach) : (orderClasses ck upto m).calm = m.calm := modCtx_calm _ _

theorem releaseDie_calm (e : Env) (ck : Nat) (m : Mach) : (releaseDie e ck m).calm = m.calm :=
  (orderClasses_calm _ _ _).trans ((writeBackAll_calm _ _ _ _).trans (performAll_calm _ _ _ _))

theorem acquireDie_calm (ck : Nat) (m : Mach) : (acquireDie ck m).calm = m.calm :=
  (modCore_calm _ _ _).trans (orderClasses_calm _ _ _)

theorem act_calm (e : Env) (ck : Nat) (f : Fence) (m : Mach) : (f.act e ck m).calm = m.calm := by
  have ordered : (if f.kind.orders then orderClasses ck f.upto m else m).calm = m.calm := by
    split
    · exact orderClasses_calm _ _ _
    · rfl
  unfold Fence.act
  dsimp only
  generalize (if f.kind.orders then orderClasses ck f.upto m else m) = n at ordered ⊢
  split
  next scope acq rel _ =>
    have released : (if rel && scope == 2 then writeBackAll e (ctxCore ck) (fun s => s.cls == .own) n else n).calm
        = m.calm := by
      split
      · exact (writeBackAll_calm _ _ _ _).trans ordered
      · exact ordered
    split
    · exact (acquireDie_calm _ _).trans released
    · exact released
  · exact (writeBackAll_calm _ _ _ _).trans ordered
  · exact (writeBackAll_calm _ _ _ _).trans ordered
  · exact ordered
  · exact ordered

end Sys2Proof.Machine
end

section
/-! PROOFS. Results that land, waits that end and bounded waits that time out, each a change of one context (R48, R49, R106,
R129, R334). -/

namespace Sys2Proof.Machine

variable {s : State} {e : Env} {m : Mach}

/-! ### A step that changes one context -/

theorem ctxBecomes_modCtx (s : State) (ck : Nat) (f : Ctx → Ctx) :
    s.CtxBecomes { s with m := s.m.modCtx ck f } ck (f (s.m.ctx ck)) := by
  refine ⟨fun k => ?_, rfl, rfl, rfl⟩
  split
  next h => rw [h]; exact Mach.ctx_modCtx_same _ _ _
  next h => exact Mach.ctx_modCtx_of_ne _ _ _ _ h

theorem exec_becomes {i : Instr} {f : Env → Mach → Mach} {ck : Nat} {g : Ctx → Ctx} {c : Ctx}
    (hexec : exec i s = eventStep f s) (h : f ⟨s.boot, s.clk⟩ s.m = s.m.modCtx ck g) (hc : g (s.m.ctx ck) = c) :
    ∃ t, exec i s = .next t ∧ s.CtxBecomes t ck c :=
  ⟨_, by rw [hexec, eventStep, h], hc ▸ ctxBecomes_modCtx s ck g⟩

theorem exec_same {i : Instr} {f : Env → Mach → Mach} (hexec : exec i s = eventStep f s)
    (h : f ⟨s.boot, s.clk⟩ s.m = s.m) : exec i s = .next s := by rw [hexec, eventStep, h]

theorem ctxKey_eq (d r x : Nat) : ctxKey d r x = d * 768 + r * 4 + x := by
  unfold ctxKey coreKey
  omega

/-! ### A result that lands -/

theorem landing_one (now q : Nat) (y : Res) : landing now q [y] = if y.due? now then [y] else [] := by
  cases h : y.due? now <;> simp [landing, h]

theorem landValue_one (q : Nat) (y : Res) (old : W512) : landValue q [y] old = y.value := by
  unfold landValue
  split <;> rfl

theorem stillDue_one {now q : Nat} {y : Res} (hq : y.latch = q) (due : y.due? now = true) : stillDue now q [y] = [] := by
  have mine : ([y].filter fun r => r.latch == q) = [y] := by simp [hq]
  unfold stillDue
  rw [mine, landing_one, if_pos due]
  split
  · simp [dropOldest, hq]
  · simp [hq, due]

theorem arrive_one {y : Res} {q : Nat} (hq : y.latch = q) (hw : y.wait = .data ∨ y.wait = .none) :
    arrive q [y] = [{ y with wait := .none }] := by
  obtain ⟨latch, value, due, wait, buf⟩ := y
  obtain rfl | rfl := hw
  · exact if_pos ⟨hq, rfl⟩
  · exact if_neg (by simp)

/-- The only result of a latch, its data come, lands when it is due. -/
theorem landLatch_one {c : Ctx} {now q : Nat} {y : Res} (hres : c.res = [y]) (hq : y.latch = q) (hw : y.wait = .none) :
    landLatch now q c = if y.due ≤ now then
        { c with latches := c.latches.put q y.value, bad := c.bad.filter fun b => b != 0xC0 + q, res := [] }
      else c := by
  have due : y.due? now = true ↔ y.due ≤ now := by simp [Res.due?, hw]
  have mine : ([y].filter fun r => r.latch == q) = [y] := by simp [hq]
  unfold landLatch
  simp only [hres, mine, landing_one]
  by_cases h : y.due ≤ now
  · simp only [if_pos (due.2 h), if_pos h, landValue_one, stillDue_one hq (due.2 h)]
    rfl
  · simp only [if_neg (mt due.1 h), if_neg h]
    rfl

theorem exec_latchResultLand (d : Fin 16) (r : Fin 192) (x : Fin 4) (q : Fin 19) : exec (.latchResultLand d r x q) s
    = eventStep (fun e => latchResultLandAt e (ctxKey d.val r.val x.val) q.val) s := rfl

theorem latchResultLand_one {d : Fin 16} {r : Fin 192} {x : Fin 4} {q : Fin 19} {y : Res} {ck : Nat} {c : Ctx}
    (hck : ck = d.val * 768 + r.val * 4 + x.val) (hc : c = s.m.ctx ck) (hres : c.res = [y]) (hq : y.latch = q.val)
    (hw : y.wait = .data ∨ y.wait = .none) :
    ∃ t, exec (.latchResultLand d r x q) s = .next t
      ∧ s.CtxBecomes t ck (if y.due ≤ s.clk.cycle then
          { c with latches := c.latches.put q.val y.value, bad := c.bad.filter fun b => b != 0xC0 + q, res := [] }
        else { c with res := [{ y with wait := .none }] }) := by
  have key : ctxKey d.val r.val x.val = ck := (ctxKey_eq _ _ _).trans hck.symm
  refine exec_becomes (g := fun c => landLatch s.clk.cycle q.val { c with res := arrive q.val c.res })
    (exec_latchResultLand d r x q) (by rw [key]; rfl) ?_
  · rw [← hc, hres, arrive_one hq hw, landLatch_one (y := { y with wait := .none }) rfl hq rfl]

/-! ### What a blocked context waits for -/

/-- What a listed wait of a context waits for, as the spec says it. -/
def WaitMeans (s : State) (d : Nat) (c : Ctx) (k : Task) (w : Wait) (met : Prop) : Prop :=
  (∃ h, w = .token h ∧ (met ↔ ∀ y, k.token d c.frame h = some y → y.done.isSome = true))
  ∨ (w = .lease ∧ (met ↔ k.lease = .held ∧ (s.m.arr (groupArr (d * 3072 + c.frame))).spill = false))
  ∨ (w = .arrFull ∧ (met ↔ k.lease ≠ .held ∨ (s.m.arr (groupArr (d * 3072 + c.frame))).queue.length < 16))
  ∨ (∃ q, w = .pop q ∧ (met ↔ (s.m.hwq (d * 256 + q)).st ≠ .opened ∨ (s.m.hwq (d * 256 + q)).items ≠ []))
  ∨ (∃ q, w = .push q ∧ (met ↔ (s.m.hwq (d * 256 + q)).st ≠ .opened ∨ (s.m.hwq (d * 256 + q)).items.length < 256))
  ∨ (∃ q, w = .ring q ∧ (met ↔ ((s.m.lq (d * 1024 + q)).tail - (s.m.lq (d * 1024 + q)).head).toNat
        < 2 ^ min (s.m.lq (d * 1024 + q)).lsize 12))
  ∨ (w = .mig ∧ (met ↔ (s.m.die d).migQ.length < 64))
  ∨ (∃ g, w = .closing g ∧ (met ↔ (s.m.grp (d * 256 + g)).st ≠ .closing))
  ∨ (∃ u, w = .tick u ∧ (met ↔ (s.clk.tick - u).toNat < 2 ^ 47 ∨ (c.uiq ≠ [] ∧ c.csr.uien = true)))

theorem waitOver_iff {d core x : Nat} {c : Ctx} {k : Task} {w : Wait} {met : Prop} (hd : coreDie core = d)
    (hk : k = s.m.task (d * 3072 + c.frame)) (h : WaitMeans s d c k w met) :
    waitOver ⟨s.boot, s.clk⟩ core x c w s.m = true ↔ met := by
  subst hd hk
  obtain ⟨h, rfl, hm⟩ | ⟨rfl, hm⟩ | ⟨rfl, hm⟩ | ⟨q, rfl, hm⟩ | ⟨q, rfl, hm⟩ | ⟨q, rfl, hm⟩ | ⟨rfl, hm⟩ | ⟨g, rfl, hm⟩ | ⟨u, rfl, hm⟩ := h
  all_goals rw [hm]
  · simp only [waitOver, taskKey]
    cases (s.m.task (coreDie core * 3072 + c.frame)).token (coreDie core) c.frame h <;> simp
  · simp [waitOver, taskKey]
  · simp only [waitOver, taskKey, Bool.or_eq_true, bne_iff_ne]
    exact or_congr Iff.rfl decide_eq_true_iff
  · simp [waitOver, hwqKey]
  · simp only [waitOver, hwqKey, Bool.or_eq_true, bne_iff_ne]
    exact or_congr Iff.rfl decide_eq_true_iff
  · simp only [waitOver, lqKey, Lq.full, Lq.log, Bool.not_eq_true']
    exact decide_eq_false_iff_not.trans Nat.not_le
  · simp [waitOver]
  · simp [waitOver, grpKey]
  · simp [waitOver, reached]

/-! ### Ready again, or out of time -/

theorem Mach.modCtx_modCtx (m : Mach) (k : Nat) (f g : Ctx → Ctx) :
    (m.modCtx k f).modCtx k g = m.modCtx k fun c => g (f c) := by
  simp only [Mach.modCtx, Mach.setCtx, Mach.ctx, SMap.get_put_same, SMap.put_put_same]

theorem exec_contextReady (d : Fin 16) (r : Fin 192) (x : Fin 4) : exec (.contextReady d r x) s
    = eventStep (fun e => contextReadyAt e (d.val * 768 + r.val * 4 + x.val)) s := by
  rw [← ctxKey_eq]
  rfl

theorem exec_waitTimeout (d : Fin 16) (r : Fin 192) (x : Fin 4) : exec (.waitTimeout d r x) s
    = eventStep (fun e => waitTimeoutAt e (d.val * 768 + r.val * 4 + x.val)) s := by
  rw [← ctxKey_eq]
  rfl

theorem contextReadyAt_blocked {ck : Nat} {b : Block} (blocked : (m.ctx ck).st = .blocked b) : contextReadyAt e ck m =
    if waitOver e (ctxCore ck) (ck % 4) (m.ctx ck) b.wait m then
      m.modCtx ck fun c => { c with st := .ready, woken := b.wait.byInterrupt e }
    else m := by
  unfold contextReadyAt
  rw [blocked]
  dsimp only
  rw [makeReady, Mach.modCtx_modCtx]

theorem pastDeadline_some (e : Env) (u : BitVec 48) :
    pastDeadline e (some u) = true ↔ u ≠ e.clk.tick ∧ (e.clk.tick - u).toNat < 2 ^ 47 := by
  simp only [pastDeadline, Option.any_some, reached, Bool.and_eq_true, decide_eq_true_eq, bne_iff_ne]
  exact And.comm

/-- The time-out of a blocked context, no pre-empted task of its core having one. -/
theorem waitTimeoutAt_blocked {ck : Nat} {b : Block} {u : BitVec 48} (blocked : (m.ctx ck).st = .blocked b)
    (bounded : b.bounded = true) (deadline : (m.ctx ck).deadline = some u)
    (alone : ((coreTasks m (ctxCore ck)).map (·.1)).foldl (fun m tk => timeOutSuspended e (ctxCore ck) tk m) m = m) :
    waitTimeoutAt e ck m = if (u ≠ e.clk.tick ∧ (e.clk.tick - u).toNat < 2 ^ 47)
        ∧ waitOver e (ctxCore ck) (ck % 4) (m.ctx ck) b.wait m = false then
      m.modCtx ck fun c => { c with st := .ready, timedOut := some b } else m := by
  unfold waitTimeoutAt
  rw [alone]
  have overdue : (m.ctx ck).overdue e = if u ≠ e.clk.tick ∧ (e.clk.tick - u).toNat < 2 ^ 47 then some b else none := by
    simp only [Ctx.overdue, blocked, bounded, deadline, Bool.true_and, pastDeadline_some]
  dsimp only
  rw [overdue]
  by_cases past : u ≠ e.clk.tick ∧ (e.clk.tick - u).toNat < 2 ^ 47
  · rw [if_pos past]
    simp only [and_iff_right past]
    cases waitOver e (ctxCore ck) (ck % 4) (m.ctx ck) b.wait m <;> rfl
  · rw [if_neg past, if_neg fun h => past h.1]

/-! ### Pre-empted tasks -/

theorem foldl_same {α β : Type} {f : β → α → β} {x : β} {l : List α} (h : ∀ a ∈ l, f x a = x) : l.foldl f x = x := by
  induction l with
  | nil => rfl
  | cons a l ih => rw [List.foldl_cons, h a (by simp), ih fun b hb => h b (by simp [hb])]

/-- A fold in which one element makes the only change. -/
theorem foldl_once {α β : Type} [DecidableEq α] {f : β → α → β} {x y : β} {a : α} {l : List α} (ha : a ∈ l)
    (hit : f x a = y) (other : ∀ b ∈ l, b ≠ a → f x b = x) (stay : ∀ b ∈ l, f y b = y) : l.foldl f x = y := by
  induction l with
  | nil => simp at ha
  | cons b l ih =>
    rw [List.foldl_cons]
    by_cases hb : b = a
    · rw [hb, hit]
      exact foldl_same fun c hc => stay c (by simp [hc])
    · rw [other b (by simp) hb]
      exact ih ((List.mem_cons.1 ha).resolve_left (Ne.symm hb)) (fun c hc => other c (by simp [hc]))
        fun c hc => stay c (by simp [hc])

/-- A task that is pre-empted is listed. -/
theorem listed_of_suspended {tk : Nat} (h : (m.task tk).st = .suspended) : (tk, m.task tk) ∈ m.tasks := by
  cases hf : m.tasks.find tk with
  | none =>
    rw [Mach.task, SMap.get_eq_getD_find, hf] at h
    cases h
  | some t =>
    have : m.task tk = t := by rw [Mach.task, SMap.get_eq_getD_find, hf]; rfl
    exact this ▸ SMap.mem_of_find hf

theorem timeOutSuspended_of_not {core tk : Nat} (h : (m.task tk).st ≠ .suspended) : timeOutSuspended e core tk m = m := by
  simp only [timeOutSuspended, h, if_false]

theorem mem_coreTasks {core : Nat} {p : Nat × Task} (h : p ∈ coreTasks m core) :
    p ∈ m.tasks ∧ p.1 / 3072 = core / 192 ∧ p.1 % 3072 / 16 = core % 192 := by
  simp only [coreTasks, List.mem_filter, Bool.and_eq_true, beq_iff_eq] at h
  obtain ⟨listed, ⟨die, rank⟩, -⟩ := h
  exact ⟨listed, die, rank⟩

/-- With no pre-empted task on the core none times out. -/
theorem timeOuts_none {core : Nat} (h : ∀ p ∈ m.tasks, p.1 / 3072 = core / 192 → p.1 % 3072 / 16 = core % 192 →
    p.2.st ≠ .suspended) : ((coreTasks m core).map (·.1)).foldl (fun m tk => timeOutSuspended e core tk m) m = m := by
  refine foldl_same fun tk htk => timeOutSuspended_of_not fun suspended => ?_
  obtain ⟨p, hp, rfl⟩ := List.mem_map.1 htk
  obtain ⟨-, die, rank⟩ := mem_coreTasks hp
  exact h _ (listed_of_suspended suspended) die rank suspended

/-- A pre-empted task whose wait for a token is overdue and has not been met times out. -/
theorem timeOutSuspended_token {core tk : Nat} {b : Block} {h : W64} {y : Tok} {u : BitVec 48}
    (suspended : (m.task tk).st = .suspended) (blocked : (m.task tk).saved.st = .blocked b) (wait : b.wait = .token h)
    (bounded : b.bounded = true) (deadline : (m.task tk).saved.deadline = some u)
    (key : tk = coreDie core * 3072 + (m.task tk).saved.frame)
    (token : (m.task tk).token (coreDie core) (m.task tk).saved.frame h = some y) :
    timeOutSuspended e core tk m = if (u ≠ e.clk.tick ∧ (e.clk.tick - u).toNat < 2 ^ 47) ∧ y.done = none then
      m.modTask tk fun t => { t with saved := { t.saved with st := .ready, timedOut := some b } } else m := by
  have own : m.task (taskKey (coreDie core) (m.task tk).saved.frame) = m.task tk := congrArg m.task key.symm
  have told : waitOver e core 4 (m.task tk).saved (.token h) m = y.done.isSome := by
    simp only [waitOver, own, token]
  have overdue : (m.task tk).saved.overdue e
      = if u ≠ e.clk.tick ∧ (e.clk.tick - u).toNat < 2 ^ 47 then some b else none := by
    simp only [Ctx.overdue, blocked, bounded, deadline, Bool.true_and, pastDeadline_some]
  unfold timeOutSuspended
  simp only [suspended, if_true]
  rw [overdue]
  by_cases past : u ≠ e.clk.tick ∧ (e.clk.tick - u).toNat < 2 ^ 47
  · rw [if_pos past]
    simp only [and_iff_right past, wait, told]
    cases y.done <;> simp
  · rw [if_neg past, if_neg fun h => past h.1]

section suspended

variable {core ck tk : Nat} (core_eq : ctxCore ck = core) (running : ∀ b, (m.ctx ck).st ≠ .blocked b)
  (only : ∀ p ∈ m.tasks, p.1 / 3072 = core / 192 → p.1 % 3072 / 16 = core % 192 → p.2.st = .suspended → p.1 = tk)
include core_eq running only

/-- Of a core with one pre-empted task only that one's wait is judged. -/
theorem waitTimeoutAt_suspended {n : Mach} (suspended : (m.task tk).st = .suspended) (die : tk / 3072 = core / 192)
    (rank : tk % 3072 / 16 = core % 192) (hit : timeOutSuspended e core tk m = n) (stay : timeOutSuspended e core tk n = n)
    (ctxs : n.ctxs = m.ctxs) (tasks : ∀ j ≠ tk, n.task j = m.task j) : waitTimeoutAt e ck m = n := by
  have judged : ((coreTasks m core).map (·.1)).foldl (fun m tk => timeOutSuspended e core tk m) m = n := by
    have not_suspended {j : Nat} (hj : j ∈ (coreTasks m core).map (·.1)) (ne : j ≠ tk) : (m.task j).st ≠ .suspended := by
      intro h
      obtain ⟨p, hp, rfl⟩ := List.mem_map.1 hj
      obtain ⟨-, die, rank⟩ := mem_coreTasks hp
      exact ne (only (p.1, m.task p.1) (listed_of_suspended h) die rank h)
    refine foldl_once (a := tk) ?_ hit (fun j hj ne => timeOutSuspended_of_not (not_suspended hj ne)) fun j hj => ?_
    · refine List.mem_map.2 ⟨(tk, m.task tk), ?_, rfl⟩
      simp only [coreTasks, List.mem_filter, Bool.and_eq_true, beq_iff_eq, suspended]
      exact ⟨listed_of_suspended suspended, ⟨die, rank⟩, rfl⟩
    · by_cases ne : j = tk
      · exact ne ▸ stay
      · exact timeOutSuspended_of_not (by rw [tasks j ne]; exact not_suspended hj ne)
  have none_due : (n.ctx ck).overdue e = none := by
    rw [Mach.ctx, ctxs]
    unfold Ctx.overdue
    split
    next b h => exact absurd h (running b)
    · rfl
  unfold waitTimeoutAt
  rw [core_eq, judged]
  dsimp only
  rw [none_due]

end suspended

/-! ### The steps of a context -/

theorem byInterrupt_eq (w : Wait) : w.byInterrupt e = (match w with
    | .tick u => decide (2 ^ 47 ≤ (e.clk.tick - u).toNat)
    | _ => false) := by
  cases w with
  | tick u => simp only [Wait.byInterrupt, reached, ← decide_not, Nat.not_lt]
  | _ => rfl

section context

variable {d : Fin 16} {r : Fin 192} {x : Fin 4} {ck : Nat} {c : Ctx} (hck : ck = d.val * 768 + r.val * 4 + x.val)
  (hc : c = s.m.ctx ck)
include hck hc

omit hc in
theorem die_of_context : coreDie (ctxCore ck) = d.val := by
  unfold coreDie ctxCore
  omega

omit hc in
theorem rank_of_context : ctxCore ck % 192 = r.val := by
  unfold ctxCore
  omega

variable {k : Task} {b : Block} {met : Prop} (hk : k = s.m.task (d.val * 3072 + c.frame)) (blocked : c.st = .blocked b)
  (means : WaitMeans s d.val c k b.wait met)
include hk blocked means

omit blocked in
theorem waitOver_context : waitOver ⟨s.boot, s.clk⟩ (ctxCore ck) (ck % 4) (s.m.ctx ck) b.wait s.m = true ↔ met :=
  hc ▸ waitOver_iff (die_of_context hck) hk means

theorem contextReady_met (hm : met) : ∃ t, exec (.contextReady d r x) s = .next t
    ∧ s.CtxBecomes t ck { c with st := .ready, woken := (match b.wait with
        | .tick u => decide (2 ^ 47 ≤ (s.clk.tick - u).toNat)
        | _ => false) } := by
  refine exec_becomes (exec_contextReady d r x)
    (by rw [← hck, contextReadyAt_blocked (hc ▸ blocked), if_pos ((waitOver_context hck hc hk means).2 hm)]) ?_
  rw [hc, byInterrupt_eq]

theorem contextReady_unmet (hm : ¬met) : exec (.contextReady d r x) s = .next s :=
  exec_same (exec_contextReady d r x)
    (by rw [← hck, contextReadyAt_blocked (hc ▸ blocked), if_neg (mt (waitOver_context hck hc hk means).1 hm)])

omit hk means in
theorem waitTimeoutAt_context {u : BitVec 48} (bounded : b.bounded = true) (deadline : c.deadline = some u)
    (alone : ∀ p ∈ s.m.tasks, p.1 / 3072 = d.val → p.1 % 3072 / 16 = r.val → p.2.st ≠ .suspended) :
    waitTimeoutAt ⟨s.boot, s.clk⟩ ck s.m = if (u ≠ s.clk.tick ∧ (s.clk.tick - u).toNat < 2 ^ 47)
        ∧ waitOver ⟨s.boot, s.clk⟩ (ctxCore ck) (ck % 4) (s.m.ctx ck) b.wait s.m = false then
      s.m.modCtx ck fun c => { c with st := .ready, timedOut := some b } else s.m := by
  have die : ctxCore ck / 192 = d.val := die_of_context hck
  refine waitTimeoutAt_blocked (hc ▸ blocked) bounded (hc ▸ deadline) (timeOuts_none ?_)
  rw [die, rank_of_context hck]
  exact alone

theorem waitTimeout_unmet {u : BitVec 48} (bounded : b.bounded = true) (deadline : c.deadline = some u)
    (alone : ∀ p ∈ s.m.tasks, p.1 / 3072 = d.val → p.1 % 3072 / 16 = r.val → p.2.st ≠ .suspended) (hm : ¬met)
    (past : u ≠ s.clk.tick ∧ (s.clk.tick - u).toNat < 2 ^ 47) : ∃ t, exec (.waitTimeout d r x) s = .next t
      ∧ s.CtxBecomes t ck { c with st := .ready, timedOut := some b } := by
  refine exec_becomes (exec_waitTimeout d r x) (ck := ck) (g := fun c => { c with st := .ready, timedOut := some b }) ?_ (by rw [hc])
  have unmet := Bool.eq_false_iff.2 (mt (waitOver_context hck hc hk means).1 hm)
  rw [← hck, waitTimeoutAt_context hck hc blocked bounded deadline alone, if_pos ⟨past, unmet⟩]

theorem waitTimeout_met {u : BitVec 48} (bounded : b.bounded = true) (deadline : c.deadline = some u)
    (alone : ∀ p ∈ s.m.tasks, p.1 / 3072 = d.val → p.1 % 3072 / 16 = r.val → p.2.st ≠ .suspended)
    (h : met ∨ ¬(u ≠ s.clk.tick ∧ (s.clk.tick - u).toNat < 2 ^ 47)) : exec (.waitTimeout d r x) s = .next s := by
  refine exec_same (exec_waitTimeout d r x) ?_
  rw [← hck, waitTimeoutAt_context hck hc blocked bounded deadline alone, if_neg ?_]
  rintro ⟨past, unmet⟩
  exact h.elim (fun hm => by simp [(waitOver_context hck hc hk means).2 hm] at unmet) fun h => h past

end context

section preempted

variable {d : Fin 16} {r : Fin 192} {x : Fin 4} {ck tk : Nat} {c : Ctx} {z : Task} {b : Block} {h : W64} {y : Tok}
  {u : BitVec 48} (hck : ck = d.val * 768 + r.val * 4 + x.val) (hc : c = s.m.ctx ck) (hz : z = s.m.task tk)
  (die : tk / 3072 = d.val) (rank : tk % 3072 / 16 = r.val) (own : tk = d.val * 3072 + z.saved.frame)
  (suspended : z.st = .suspended) (blocked : z.saved.st = .blocked b) (wait : b.wait = .token h)
  (bounded : b.bounded = true) (deadline : z.saved.deadline = some u) (token : z.token d.val z.saved.frame h = some y)
  (running : ∀ b', c.st ≠ .blocked b')
  (only : ∀ p ∈ s.m.tasks, p.1 / 3072 = d.val → p.1 % 3072 / 16 = r.val → p.2.st = .suspended → p.1 = tk)
include hck hc hz die rank own suspended blocked wait bounded deadline token running only

theorem waitTimeout_preempted : exec (.waitTimeout d r x) s = .next (if (u ≠ s.clk.tick ∧ (s.clk.tick - u).toNat < 2 ^ 47)
      ∧ y.done = none then
    { s with m := s.m.setTask tk { z with saved := { z.saved with st := .ready, timedOut := some b } } } else s) := by
  subst hz hc
  have coreDie_eq := die_of_context hck
  have judged := timeOutSuspended_token (e := ⟨s.boot, s.clk⟩) (core := ctxCore ck) suspended blocked wait bounded deadline
    (by rw [coreDie_eq]; exact own) (by rw [coreDie_eq]; exact token)
  have only' : ∀ p ∈ s.m.tasks, p.1 / 3072 = ctxCore ck / 192 → p.1 % 3072 / 16 = ctxCore ck % 192 →
      p.2.st = .suspended → p.1 = tk := by
    rw [rank_of_context hck, show ctxCore ck / 192 = d.val from coreDie_eq]
    exact only
  have times {n : Mach} (hit stay ctxs tasks) := waitTimeoutAt_suspended (m := s.m) (e := ⟨s.boot, s.clk⟩) (n := n) rfl running
    only' suspended (die.trans coreDie_eq.symm) (rank.trans (rank_of_context hck).symm) hit stay ctxs tasks
  rw [exec_waitTimeout, eventStep, ← hck]
  split at judged
  next h =>
    have stay : timeOutSuspended ⟨s.boot, s.clk⟩ (ctxCore ck) tk (s.m.modTask tk fun t =>
        { t with saved := { t.saved with st := .ready, timedOut := some b } }) = s.m.modTask tk fun t =>
        { t with saved := { t.saved with st := .ready, timedOut := some b } } := by
      simp only [timeOutSuspended, Mach.task_modTask_same, Ctx.overdue, ite_self]
    rw [if_pos h, times judged stay rfl fun j hj => Mach.task_modTask_of_ne _ _ _ _ hj]
    rfl
  next h => rw [if_neg h, times judged judged rfl fun _ _ => rfl]

end preempted

end Sys2Proof.Machine
end

section
/-! PROOFS. The reread of the word that a gs.flgw waits on, in the context's own run (R335, R349). -/

namespace Sys2Proof.Machine

variable {s : State} {e : Env} {m : Mach} {core off w : Nat}

/-- A clean scratchpad line is read as it stands, and changes nothing. -/
theorem spadRead_clean (ag : Agent) (clean : m.spadClean core off = true) :
    spadRead e ag core off m = (⟨m.spadLine core off, 0⟩, m) := by
  have copy := (decodeCopy_of_clean (beq_iff_eq.1 clean)).1
  unfold spadRead
  dsimp only
  rw [copy]
  rfl

/-- Bytes of a scratchpad line's data are the bytes of the scratchpad. -/
theorem bytes_of_spadLine (fits : off % 128 + w ≤ 128) :
    ((bytesOf (m.spadLine core off) 128).drop (off % 128)).take w = m.spadBytesAt core off w := by
  refine List.ext_getElem (by simp [Mach.spadBytesAt]; omega) fun k hk hk' => ?_
  have hw : k < w := by simpa [Mach.spadBytesAt] using hk'
  have at_ : spadAddr core off = core * 2 ^ 22 + off := rfl
  simp only [Mach.spadBytesAt, List.getElem_take, List.getElem_drop, List.getElem_map, List.getElem_range]
  rw [← List.getD_eq_getElem _ 0, bytesOf_getD (by omega), Mach.spadLine, byteN_bytes _ (by omega), at_]
  congr 1
  omega

theorem overlay_nil (cls : Nat) (l : Loc) (bs : List Byte) : overlay [] cls l bs = bs := by
  refine List.ext_getElem (by simp [overlay]) fun k _ _ => ?_
  simp [overlay]

/-- The relation of a gs.flgw that holds between two words, as the spec names it (R335). -/
structure RelationMeans (code N F : Nat) (sx : Nat → Int) (holds : Prop) : Prop where
  eq : code = 0 → (holds ↔ N = F)
  ne : code = 1 → (holds ↔ N ≠ F)
  lt : code = 2 → (holds ↔ N < F)
  le : code = 3 → (holds ↔ F ≤ N)
  slt : code = 4 → (holds ↔ sx N < sx F)
  sle : code = 5 → (holds ↔ sx F ≤ sx N)

theorem sgn_of_lt {n x : Nat} (hn : n ≠ 0) (hx : x < 2 ^ n) :
    sgn x n = if 2 ^ (n - 1) ≤ x then (x : Int) - 2 ^ n else (x : Int) := by
  simp only [sgn, hn, if_false, Nat.mod_eq_of_lt hx]
  split <;> split <;> [omega; rfl; (push_cast; rfl); omega]

theorem relation_iff {code n N F : Nat} {sx : Nat → Int} {holds : Prop} (hc : code < 6) (means : RelationMeans code N F sx holds)
    (signedN : sgn N n = sx N) (signedF : sgn F n = sx F) : relation code n N F = some true ↔ holds := by
  obtain ⟨eq, ne, lt, le, slt, sle⟩ := means
  interval_cases code
  · simp [relation, eq rfl]
  · simp [relation, ne rfl]
  · simp [relation, lt rfl]
  · simp [relation, le rfl]
  · simp [relation, slt rfl, signedN, signedF]
  · simp [relation, sle rfl, signedN, signedF]

/-- An access of the own run within bounds is allowed, at its place in the run (R184, R186). -/
theorem checkAcc_run {who : Who} {k : Right} {a : W64} (near : a.toNat / 2 ^ 58 % 8 = 1)
    (zero : a.toNat / 2 ^ 22 % 2 ^ 36 = 0) (aligned : a.toNat % w = 0) (fits : a.toNat % 2 ^ 22 + w ≤ who.spadSize) :
    checkAcc e who k w w a m = (.ok ⟨.spad (coreKey who.die who.rank) (who.spadBase + a.toNat % 2 ^ 22), .bank, 0, 0, a,
      aliasOf a⟩, m) := by
  have aperture : apOf a = 1 := (fld_eq _ _ _).trans near
  have field : fld a.toNat 57 22 = 0 := (fld_eq _ _ _).trans zero
  have offset : fld a.toNat 21 0 = a.toNat % 2 ^ 22 := by rw [fld_eq, Nat.pow_zero, Nat.div_one]
  have formed : wellFormedAddr a = true := by simp only [wellFormedAddr, aperture, field, beq_self_eq_true]
  simp only [checkAcc, formed, aligned, aperture, offset, fits, Bool.not_true, Bool.false_eq_true, if_false, if_true, ne_eq,
    not_true]

/-- The word of a gs.flgw in the own run is reread from a clean line, no store of the context being on its way. -/
theorem flagHolds_run {c : Ctx} {a f mask z : W64} (near : a.toNat / 2 ^ 58 % 8 = 1) (zero : a.toNat / 2 ^ 22 % 2 ^ 36 = 0)
    (width : w = if tst z.toNat 3 then 4 else 8) (aligned : a.toNat % w = 0) (fits : a.toNat % 2 ^ 22 + w ≤ c.csr.spadSize)
    (base : c.csr.spadBase % 64 = 0) (none_open : c.stq = []) (place : off = c.csr.spadBase + a.toNat % 2 ^ 22)
    (clean : m.spadClean core off = true) (own : coreKey (coreDie core) (core % 192) = core) :
    flagHolds e core c a f mask z m = (relation (fld z.toNat 2 0) (8 * w)
      ((ofBytes (m.spadBytesAt core off w) &&& mask.toNat) % 2 ^ (8 * w)) (f.toNat % 2 ^ (8 * w)) == some true, m) := by
  have inLine : off % 128 + w ≤ 128 := by
    split at width <;> subst width <;> omega
  have allowed := checkAcc_run (e := e) (m := m) (who := contextWho m core c) (k := .read) near zero aligned fits
  simp only [contextWho, own, ← place] at allowed
  unfold flagHolds
  dsimp only
  rw [← width]
  simp only [contextWho, allowed, spadRead_clean _ clean, none_open, overlay_nil, bytes_of_spadLine inLine]
  rfl

theorem exec_flagWaitReread (d : Fin 16) (r : Fin 192) (x : Fin 4) : exec (.flagWaitReread d r x) s
    = eventStep (fun e => flagRereadAt e (d.val * 768 + r.val * 4 + x.val)) s := by
  rw [← ctxKey_eq]
  rfl

theorem flagRereadAt_blocked {ck : Nat} {b : Block} {a f mask z : W64} {ok : Bool} (blocked : (m.ctx ck).st = .blocked b)
    (wait : b.wait = .flag a f mask z) (holds : flagHolds e (ctxCore ck) (m.ctx ck) a f mask z m = (ok, m)) :
    flagRereadAt e ck m = if ok then m.modCtx ck fun c => { c with st := .ready } else m := by
  unfold flagRereadAt
  simp only [blocked, wait, holds]
  rfl

/-- A context blocked on a gs.flgw whose word lies in its own run, on a clean line, with no store of its own on its way. -/
structure FlagWait (s : State) (core ck w off N F : Nat) (c : Ctx) (b : Block) (a f mask z : W64) : Prop where
  ctx : c = s.m.ctx ck
  blocked : c.st = .blocked b
  wait : b.wait = .flag a f mask z
  small : z.toNat < 16
  code : z.toNat % 8 < 6
  width : w = if z.toNat < 8 then 8 else 4
  near : a.toNat / 2 ^ 58 % 8 = 1
  zero : a.toNat / 2 ^ 22 % 2 ^ 36 = 0
  aligned : a.toNat % w = 0
  fits : a.toNat % 2 ^ 22 + w ≤ c.csr.spadSize
  base : c.csr.spadBase % 64 = 0
  none_open : c.stq = []
  place : off = c.csr.spadBase + a.toNat % 2 ^ 22
  clean : s.m.spadClean core off = true
  word : N = (ofBytes (s.m.spadBytesAt core off w) &&& mask.toNat) % 2 ^ (8 * w)
  value : F = f.toNat % 2 ^ (8 * w)

section reread

variable {d : Fin 16} {r : Fin 192} {x : Fin 4} {ck : Nat} {c : Ctx} {b : Block} {a f mask z : W64} {N F : Nat}
  {sx : Nat → Int} {holds : Prop} (hck : ck = d.val * 768 + r.val * 4 + x.val)
  (waits : FlagWait s (d.val * 192 + r.val) ck w off N F c b a f mask z)
  (signed : ∀ n, sx n = if 2 ^ (8 * w - 1) ≤ n then (n : Int) - 2 ^ (8 * w) else (n : Int))
  (means : RelationMeans (z.toNat % 8) N F sx holds)
include hck waits signed means

/-- A reread of the word of a gs.flgw ends the wait just when the relation holds. -/
theorem flagRereadAt_iff : ∃ ok : Bool, (ok = true ↔ holds) ∧ flagRereadAt ⟨s.boot, s.clk⟩ ck s.m
    = if ok then s.m.modCtx ck fun c => { c with st := .ready } else s.m := by
  obtain ⟨hc, blocked, wait, small, code, width, near, zero, aligned, fits, base, none_open, place, clean, hN, hF⟩ := waits
  have core_eq : ctxCore ck = d.val * 192 + r.val := by unfold ctxCore; omega
  have own : coreKey (coreDie (d.val * 192 + r.val)) ((d.val * 192 + r.val) % 192) = d.val * 192 + r.val := by
    unfold coreKey coreDie; omega
  have width' : w = if tst z.toNat 3 then 4 else 8 := by
    rw [width]
    simp only [tst_iff]
    split <;> split <;> omega
  have w0 : 8 * w ≠ 0 := by split at width <;> omega
  have N_lt : N < 2 ^ (8 * w) := hN ▸ Nat.mod_lt _ (Nat.two_pow_pos _)
  have F_lt : F < 2 ^ (8 * w) := hF ▸ Nat.mod_lt _ (Nat.two_pow_pos _)
  have relates := relation_iff code means ((sgn_of_lt w0 N_lt).trans (signed N).symm)
    ((sgn_of_lt w0 F_lt).trans (signed F).symm)
  have field : fld z.toNat 2 0 = z.toNat % 8 := by rw [fld_eq]; omega
  refine ⟨_, beq_iff_eq.trans relates, flagRereadAt_blocked (hc ▸ blocked) wait ?_⟩
  rw [core_eq, ← hc, flagHolds_run near zero width' aligned fits base none_open place clean own, field, hN, hF]

theorem flagWaitReread_holds (h : holds) : ∃ t, exec (.flagWaitReread d r x) s = .next t
    ∧ s.CtxBecomes t ck { c with st := .ready } := by
  obtain ⟨ok, iff, rereads⟩ := flagRereadAt_iff hck waits signed means
  refine exec_becomes (exec_flagWaitReread d r x) (ck := ck) (g := fun c => { c with st := .ready }) ?_ (by rw [waits.ctx])
  rw [← hck, rereads, if_pos (iff.2 h)]

theorem flagWaitReread_fails (h : ¬holds) : exec (.flagWaitReread d r x) s = .next s := by
  obtain ⟨ok, iff, rereads⟩ := flagRereadAt_iff hck waits signed means
  refine exec_same (exec_flagWaitReread d r x) ?_
  rw [← hck, rereads, if_neg (mt iff.1 h)]

end reread

end Sys2Proof.Machine
end

section
/-! PROOFS. The verdict on a core's next bundle, and the waits on late latches that it may give (R49, R50, R106, R225). -/

namespace Sys2Proof.Machine

variable {s : State} {e : Env} {m n : Mach}

/-! ### The verdict -/

theorem pickCur_keeps (core : Nat) (m : Mach) : (pickCur core m).ctxs = m.ctxs ∧ (pickCur core m).mem = m.mem
    ∧ (pickCur core m).hot = m.hot ∧ (pickCur core m).issue = m.issue ∧ (pickCur core m).tasks = m.tasks
    ∧ (pickCur core m).dies = m.dies ∧ (pickCur core m).l2 = m.l2 := by
  unfold pickCur
  dsimp only
  cases (m.core core).cur with
  | none => exact ⟨rfl, rfl, rfl, rfl, rfl, rfl, rfl⟩
  | some x =>
    dsimp only
    split <;> exact ⟨rfl, rfl, rfl, rfl, rfl, rfl, rfl⟩

theorem ctx_pickCur (core k : Nat) (m : Mach) : (pickCur core m).ctx k = m.ctx k := by
  rw [Mach.ctx, (pickCur_keeps core m).1]
  rfl

/-- The next state, with that machine. -/
def State.nextWith (s : State) (m : Mach) : Out := .next { s with m := m }

/-- What is done with the verdict on a core's next bundle. -/
theorem onVerdict_judged {d r j : Nat} {v : IssueVerdict} (f : Nat → IssueVerdict → Mach → Mach) (h : s.Judged d r j v n) :
    onVerdict ⟨s.boot, s.clk⟩ d r f s.m = pickCur (coreKey d r) (f j v n) := by
  obtain ⟨live, running, chosen, verdict⟩ := h
  unfold onVerdict
  simp only [live, running, Bool.not_true, Bool.or_self, Bool.false_eq_true, if_false, chosen, verdict]

section verdict

variable {d : Fin 16} {r : Fin 192} {j : Nat} {late : List Nat}

theorem bundleIssue_go {b : Bundle} (h : s.Judged d.val r.val j (.go b) n) : exec (.bundleIssue d r) s
    = .next { s with m := pickCur (coreKey d.val r.val) (issueBundle ⟨s.boot, s.clk⟩ j b n) } :=
  congrArg s.nextWith (onVerdict_judged _ h)

theorem bundleIssue_waits (h : s.Judged d.val r.val j (.waits late) n) : exec (.bundleIssue d r) s
    = .next { s with m := pickCur (coreKey d.val r.val) (waitLate ⟨s.boot, s.clk⟩ j late n) } :=
  congrArg s.nextWith (onVerdict_judged _ h)

/-- A bundle that has waited on late latches gives up the core, which leaves it what is due on those latches alone. -/
def giveUp (late : List Nat) (ck : Nat) (m : Mach) : Mach :=
  leaveCore ck (m.modCtx ck fun c => { c.lose (fun q => late.contains q) with st := .late late.isEmpty, lateSince := none })

theorem lateLatchSwitch_waits {u : Nat} (h : s.Judged d.val r.val j (.waits late) n) (since : (n.ctx j).lateSince = some u) :
    exec (.lateLatchSwitch d r) s =
      .next { s with m := pickCur (coreKey d.val r.val) (if 64 < s.clk.cycle - u then giveUp late j n else n) } := by
  refine congrArg s.nextWith ((onVerdict_judged _ h).trans ?_)
  simp only [since]
  rfl

end verdict

/-! ### Giving up the core -/

theorem leaveCore_ctx (ck : Nat) (m : Mach) : (leaveCore ck m).ctx ck = { m.ctx ck with wdCount := 0 } := by
  unfold leaveCore
  rw [Mach.ctx_modCtx_same]
  rfl

theorem giveUp_ctx (late : List Nat) (ck : Nat) (m : Mach) : (giveUp late ck m).ctx ck =
    { (m.ctx ck).lose (fun q => late.contains q) with st := .late late.isEmpty, lateSince := none, wdCount := 0 } := by
  rw [giveUp, leaveCore_ctx, Mach.ctx_modCtx_same]

/-! ### A cycle's wait -/

theorem nodup_eraseDups (l : List Nat) : l.eraseDups.Nodup := by
  induction h : l.length using Nat.strong_induction_on generalizing l with
  | _ n ih =>
    cases l with
    | nil => simp
    | cons a l =>
      rw [List.eraseDups_cons, List.nodup_cons]
      refine ⟨by simp [List.mem_eraseDups], ih _ ?_ _ rfl⟩
      have := List.length_filter_le (fun b => !(b == a)) l
      simp only [List.length_cons] at h
      omega

/-- The buffers of the loads that a bundle waits for in cycle now. -/
def waitedFor (now : Nat) (late : List Nat) (c : Ctx) : List Nat :=
  ((c.res.filter fun r => late.contains r.latch && decide (r.due ≤ now) && r.wait == .data).flatMap (·.buf)).eraseDups

theorem mem_waitedFor {now b : Nat} {late : List Nat} {c : Ctx} : b ∈ waitedFor now late c
    ↔ ∃ y ∈ c.res, y.latch ∈ late ∧ y.due ≤ now ∧ y.wait = .data ∧ b ∈ y.buf := by
  simp [waitedFor, and_assoc]

/-- The count of each buffer waited for, once. -/
def countWaits (d : Nat) (bufs : List Nat) (m : Mach) : Mach := bufs.foldl (fun m b => m.addHot d (256 + b) 1) m

theorem waitLate_eq (ck : Nat) (late : List Nat) (m : Mach) : waitLate e ck late m =
    (countWaits (ctxDie ck) (waitedFor e.clk.cycle late (m.ctx ck)) m).modCtx ck fun c =>
      { c with lateSince := some (c.lateSince.getD e.clk.cycle) } := rfl

theorem addHot_one (d b b' : Nat) (m : Mach) : (m.addHot d (256 + b) 1).hot.get 0 (d * 512 + 256 + b')
    = m.hot.get 0 (d * 512 + 256 + b') + if b' = b then 1 else 0 := by
  have key : hotKey d (256 + b) = d * 512 + 256 + b := by unfold hotKey; omega
  rw [Mach.addHot, if_neg (by decide), key]
  dsimp only
  split
  next h => rw [h, SMap.get_put_same]; rfl
  next h => rw [SMap.get_put_of_ne _ _ _ _ _ (by omega)]; simp

theorem countWaits_hot (d b : Nat) {bufs : List Nat} (once : bufs.Nodup) (m : Mach) :
    (countWaits d bufs m).hot.get 0 (d * 512 + 256 + b)
      = m.hot.get 0 (d * 512 + 256 + b) + if b ∈ bufs then 1 else 0 := by
  unfold countWaits
  induction bufs generalizing m with
  | nil => simp
  | cons a l ih =>
    obtain ⟨fresh, once⟩ := List.nodup_cons.1 once
    rw [List.foldl_cons, ih once, addHot_one]
    by_cases hb : b = a
    · rw [if_pos hb, if_neg (hb ▸ fresh), if_pos (List.mem_cons.2 (.inl hb))]
      exact BitVec.add_zero _
    · simp only [List.mem_cons, hb, if_false, false_or]
      exact congrArg (· + _) (BitVec.add_zero _)

theorem countWaits_keeps (d : Nat) (bufs : List Nat) (m : Mach) :
    (countWaits d bufs m).ctxs = m.ctxs ∧ (countWaits d bufs m).mem = m.mem := by
  unfold countWaits
  induction bufs generalizing m with
  | nil => exact ⟨rfl, rfl⟩
  | cons b l ih =>
    obtain ⟨ctxs, mem⟩ := ih (m.addHot d (256 + b) 1)
    exact ⟨ctxs.trans (addHot_ctxs _ _ _ _), mem.trans (addHot_mem _ _ _ _)⟩

theorem waitLate_keeps (ck : Nat) (late : List Nat) (m : Mach) : (waitLate e ck late m).mem = m.mem
    ∧ ((waitLate e ck late m).ctx ck).lateSince.isSome = true := by
  obtain ⟨ctxs, mem⟩ := countWaits_keeps (ctxDie ck) (waitedFor e.clk.cycle late (m.ctx ck)) m
  rw [waitLate_eq]
  refine ⟨mem, ?_⟩
  rw [Mach.ctx_modCtx_same]
  rfl

theorem waitLate_hot (ck b : Nat) (late : List Nat) (m : Mach) :
    (waitLate e ck late m).hot.get 0 (ck / 768 * 512 + 256 + b) = m.hot.get 0 (ck / 768 * 512 + 256 + b)
      + if ∃ y ∈ (m.ctx ck).res, y.latch ∈ late ∧ y.due ≤ e.clk.cycle ∧ y.wait = .data ∧ b ∈ y.buf then 1 else 0 := by
  simp only [← mem_waitedFor]
  rw [waitLate_eq]
  exact countWaits_hot _ _ (nodup_eraseDups _) m

end Sys2Proof.Machine
end

section
/-! PROOFS. Traces and arrivals: what a bundle that blocks writes and makes known leaves (R230, R339, R346, R347, R410). -/

namespace Sys2Proof.Machine

variable {e : Env} {m n : Mach}

/-! ### Traces -/

theorem tracePut_beyondHome (d : Nat) (bs : List Byte) (m : Mach) : (tracePut e d bs m).beyondHome = m.beyondHome := by
  unfold tracePut
  dsimp only
  split
  · rfl
  · split
    · rfl
    · exact ringWriteWith_beyondHome event_staysHome e d _ bs m

theorem tracePut_steady (d : Nat) (bs : List Byte) (m : Mach) : (tracePut e d bs m).steady = m.steady := by
  unfold tracePut
  dsimp only
  split
  · rfl
  · split
    · exact modDie_steady m d
    · exact (modDie_steady _ d).trans (ringWriteWith_steady event_steady e d _ bs m)

theorem traceRecord_calm (d : Nat) (addr : W64) (slot : Nat) (en : Bool) (ev : Nat) (m : Mach) :
    (traceRecord e d addr slot en ev m).calm = m.calm :=
  calm_of_home ((tracePut_beyondHome d _ _).trans (modDie_beyondHome _ _ _))
    ((tracePut_steady d _ _).trans (modDie_steady m d))

theorem traceIssue_calm (d f : Nat) (addr : W64) (slots : List SlotRec) (preds : BitVec 8) (fault : Option Nat) (m : Mach) :
    (traceIssue e d f addr slots preds fault m).calm = m.calm := by
  unfold traceIssue
  dsimp only
  split
  · rfl
  · split
    · exact traceRecord_calm _ _ _ _ _ _
    · exact foldl_calm (fun m p => traceRecord_calm _ _ _ _ _ m) _ _
    · have counted : (m.modDie d fun x => { x with trcBundles := (m.die d).trcBundles + 1 }).calm = m.calm :=
        calm_of_home (modDie_beyondHome _ _ _) (modDie_steady m d)
      split
      · exact (traceRecord_calm _ _ _ _ _ _).trans counted
      · exact counted
    · rfl

theorem traceBlock_calm (ck : Nat) (addr : W64) (slot : Nat) (m : Mach) : (traceBlock e ck addr slot m).calm = m.calm := by
  unfold traceBlock
  dsimp only
  split
  · rfl
  · split
    · exact traceRecord_calm _ _ _ _ _ _
    · split
      · exact traceRecord_calm _ _ _ _ _ _
      · rfl
    · rfl

/-! ### Arrivals and requests -/

/-- The bundle at issue, and the contexts but for their stores and the arrival that they have pending. -/
def Mach.settled (m : Mach) : Issue × (Nat → Ctx) := (m.issue, fun k => { (m.ctx k).beyondStores with pendArr := none })

theorem settled_of_calm (h : n.calm = m.calm) : n.settled = m.settled := by
  unfold Mach.settled
  rw [issue_of_calm h]
  simp only [ctx_of_calm h]

theorem issue_of_settled (h : n.settled = m.settled) : n.issue = m.issue := congrArg Prod.fst h

theorem ctx_of_settled (h : n.settled = m.settled) (k : Nat) :
    { (n.ctx k).beyondStores with pendArr := none } = { (m.ctx k).beyondStores with pendArr := none } :=
  congrFun (congrArg Prod.snd h) k

theorem pendArr_settled (m : Mach) (k : Nat) {f : Ctx → Ctx}
    (hf : ∀ c, { (f c).beyondStores with pendArr := none } = { c.beyondStores with pendArr := none }) :
    (m.modCtx k f).settled = m.settled := by
  have ctxs (j : Nat) : ({ ((m.modCtx k f).ctx j).beyondStores with pendArr := none } : Ctx)
      = { (m.ctx j).beyondStores with pendArr := none } := by
    by_cases hj : j = k
    · rw [hj, Mach.ctx_modCtx_same, hf]
    · rw [Mach.ctx_modCtx_of_ne _ _ _ _ hj]
  exact congrArg (fun c => (m.issue, c)) (funext ctxs)

theorem setMset_settled (m : Mach) (k : Nat) (x : MSet) : (m.setMset k x).settled = m.settled := rfl

theorem askLease_settled (tk : Nat) (m : Mach) : (askLease tk m).settled = m.settled := by
  unfold askLease
  dsimp only
  split <;> rfl

theorem recordArrival_settled (ck h : Nat) (next : Bool) (m : Mach) :
    (recordArrival e ck h next m).settled = m.settled := by
  unfold recordArrival
  dsimp only
  split
  · rfl
  · split
    · rfl
    · refine (pendArr_settled _ _ ?_).trans ((setMset_settled _ _ _).trans (settled_of_calm (releaseDie_calm e ck m)))
      exact fun _ => rfl

theorem recordRound_settled (ck h slot : Nat) (m : Mach) : (recordRound e ck h slot m).settled = m.settled := by
  unfold recordRound
  split
  · rfl
  · split
    · rfl
    · refine (pendArr_settled _ _ ?_).trans ((setMset_settled _ _ _).trans (settled_of_calm (releaseDie_calm e ck m)))
      exact fun _ => rfl

theorem announceBlock_settled (ck : Nat) (w : Wait) (m : Mach) : (announceBlock e ck w m).settled = m.settled := by
  unfold announceBlock
  split
  · exact askLease_settled _ m
  · rfl
  · exact recordArrival_settled ck _ _ m
  · exact recordArrival_settled ck _ _ m
  · exact recordRound_settled ck _ _ m
  · rfl

theorem keepArrival_settled (ck : Nat) (w : Wait) (m : Mach) : (keepArrival e ck w m).settled = m.settled := by
  unfold keepArrival
  split
  · refine pendArr_settled _ _ fun c => ?_
    split <;> rfl
  · exact announceBlock_settled ck _ m

end Sys2Proof.Machine
end

section
/-! PROOFS. A bundle that blocks: what it loses and keeps, and the time-out of its wait (R50, R106, R334). -/

namespace Sys2Proof.Machine

variable {s : State} {e : Env} {m n : Mach}

/-! ### The bundle's slots -/

theorem movePorts_slots (m : Mach) : (movePorts e m).issue.slots = m.issue.slots := by
  unfold movePorts
  generalize m.issue.slots.zipIdx = l
  induction l generalizing m with
  | nil => rfl
  | cons p l ih =>
    rw [List.foldl_cons, ih]
    split
    · split
      · rfl
      · split <;> rfl
    · rfl

/-- The machine as the slots of a bundle have left it. -/
def slotsDone (e : Env) (ck : Nat) (b : Bundle) (m : Mach) : Mach :=
  b.slots.zipIdx.foldl (fun m p => actSlot e p m) (movePorts e ((beginIssue e ck b m).modCtx ck Ctx.unblock))

theorem actSlots_issued (ck : Nat) (b : Bundle) (m : Mach) :
    actSlots e (movePorts e ((beginIssue e ck b m).modCtx ck Ctx.unblock)) = slotsDone e ck b m := by
  rw [actSlots, movePorts_slots]
  rfl

/-- The trace of a bundle that has issued. -/
def traceAs (e : Env) (ck : Nat) (c : Ctx) (b : Bundle) (fault : Option Nat) (m : Mach) : Mach :=
  traceIssue e (ctxDie ck) c.frame c.pc b.slots (startPreds c) fault m

theorem issueBundle_blocked {ck : Nat} {b : Bundle} {bl : Block} (out : (slotsDone e ck b m).issue.out = .blocked bl) :
    issueBundle e ck b m = if bl.bounded && ((m.ctx ck).timedOut.isSome || pastDeadline e (m.ctx ck).deadline) then
        traceAs e ck (m.ctx ck) b (some bl.slot) (timeOut e ck bl
          ((slotsDone e ck b m).charge (taskKey (ctxDie ck) (m.ctx ck).frame) bundleEnergy))
      else blockBundle e ck bl b m := by
  unfold issueBundle
  dsimp only
  rw [actSlots_issued, out]
  rfl

/-! ### The time-out -/

/-- A time-out is a trap of its slot; the registers are as the slots have left them. -/
theorem timeOut_traps {ck : Nat} {bl : Block} (here : m.issue.ck = ck) (outside : (m.ctx ck).csr.intrap = false) :
    ∃ c, c = (timeOut e ck bl m).ctx ck ∧ c.csr.tcause = 13 ∧ c.csr.tval = bl.operand ∧ c.csr.intrap = true
      ∧ c.csr.priv = true ∧ c.g = (m.ctx ck).g ∧ c.v = (m.ctx ck).v := by
  subst here
  have kept := keepArrival_settled (e := e) m.issue.ck bl.wait m
  have issue := issue_of_settled kept
  have ctx := ctx_of_settled kept m.issue.ck
  unfold timeOut
  dsimp only
  generalize keepArrival e m.issue.ck bl.wait m = k at issue ctx ⊢
  obtain ⟨ck, -, -, -, standing⟩ := applySettings_keeps k
  have cur : k.cur = k.ctx m.issue.ck := by rw [Mach.cur, issue]
  have outside' : (applySettings k).cur.csr.intrap = false :=
    (congrArg (·.csr.intrap) standing).trans ((congrArg (·.csr.intrap) cur).trans ((congrArg (·.csr.intrap) ctx).trans outside))
  obtain ⟨tissue, trapped⟩ := takeTrap_spec e bl.operand (struckNow e (applySettings k) bl.slot)
    (cause := Cause.waitTimeout) (by decide) outside'
  have here : (applySettings k).issue.ck = m.issue.ck := ck.trans (congrArg Issue.ck issue)
  rw [here] at tissue trapped
  simp only [Mach.cur, tissue, here] at trapped
  obtain ⟨tcause, tval, -, -, -, -, priv, intrap, -, -, -, -, -, g, v, -, -⟩ := trapped _ rfl
  have same := standing.trans (congrArg Ctx.standing cur)
  rw [Mach.cur, here] at same
  exact ⟨_, rfl, tcause, tval, intrap, priv, g.trans ((congrArg (·.g) same).trans (congrArg (·.g) ctx)),
    v.trans ((congrArg (·.v) same).trans (congrArg (·.v) ctx))⟩

/-! ### The block -/

theorem landDue_of_no_results {c : Ctx} {now : Nat} (h : c.res = []) : landDue now c = c := by
  simp [landDue, h]

/-- A context whose bundle has blocked (R50, R106, R334). -/
def Ctx.blockedBy (e : Env) (bl : Block) (b : Bundle) (c : Ctx) : Ctx :=
  { (landDue e.clk.cycle c).lose (fun _ => false) with
    st := .blocked bl, lateSince := none, wdCount := 0
    kept := (landDue e.clk.cycle c).kept ++ operandLatch (landDue e.clk.cycle c) b bl.slot
    deadline := if bl.bounded && (landDue e.clk.cycle c).deadline.isNone then
        some (e.clk.tick + (landDue e.clk.cycle c).csr.waitTo.setWidth 48)
      else (landDue e.clk.cycle c).deadline }

/-- A bundle that blocks leaves its context blocked, but for the stores that an arrival releases and its record. -/
theorem blockBundle_ctx (ck : Nat) (bl : Block) (b : Bundle) (m : Mach) :
    { ((blockBundle e ck bl b m).ctx ck).beyondStores with pendArr := none }
      = { ((m.ctx ck).blockedBy e bl b).beyondStores with pendArr := none } := by
  have announced (k : Mach) (addr : W64) :
      (traceBlock e ck addr bl.slot (announceBlock e ck bl.wait k)).settled = k.settled :=
    (settled_of_calm (traceBlock_calm ck _ _ _)).trans (announceBlock_settled ck _ k)
  unfold blockBundle
  dsimp only
  rw [leaveCore_ctx]
  refine (congrArg (fun c : Ctx => { c with wdCount := 0 }) (ctx_of_settled (announced _ _) ck)).trans ?_
  rw [Mach.ctx_modCtx_same]
  rfl

theorem mem_operandLatch {c : Ctx} {b : Bundle} {slot : Nat} {y : Kept} (h : y ∈ operandLatch c b slot) : y.slot = slot := by
  unfold operandLatch at h
  split at h
  · simp at h
  · split at h
    · rw [List.mem_singleton.1 h]
    · simp at h

/-- The operand that a slot keeps: the latch that its source names, none when it reads none. -/
theorem operandLatch_of_slot {c : Ctx} {b : Bundle} {slot : Nat} {z : SlotRec} (snaps : startSnaps c = none)
    (fresh : ∀ y ∈ c.kept, y.slot ≠ slot) (hz : b.slots[slot]? = some z) : operandLatch c b slot =
      match decodeSrc (z.raw.toNat % 2 ^ 10) with
      | some (.q l) => [⟨slot, c.latches.get 0 l.val, decide (0xC0 + l.val ∈ c.bad)⟩]
      | _ => [] := by
  have noKept : c.keptFor slot = none := List.find?_eq_none.2 fun y hy => by simpa using fresh y hy
  have field : fld z.raw.toNat 9 0 = z.raw.toNat % 2 ^ 10 := by rw [fld_eq, Nat.pow_zero, Nat.div_one]
  unfold operandLatch
  simp only [snaps, noKept, Option.isSome_none, Bool.or_self, Bool.false_eq_true, if_false, hz, Option.bind_some, field]
  generalize decodeSrc (z.raw.toNat % 2 ^ 10) = o
  rcases o with _ | src
  · rfl
  · cases src with
    | q l => simp [Ctx.latch, Ctx.badSrc, srcCode]
    | _ => rfl

section blocked

variable {ck : Nat} {bl : Block} {b : Bundle}

theorem landDue_keeps (now : Nat) (c : Ctx) : (landDue now c).pc = c.pc ∧ (landDue now c).g = c.g ∧ (landDue now c).v = c.v
    ∧ (landDue now c).p = c.p ∧ (landDue now c).kept = c.kept ∧ (landDue now c).deadline = c.deadline
    ∧ (landDue now c).csr = c.csr := by
  have same := landDue_registers now c
  exact ⟨congrArg (·.pc) same, congrArg (·.g) same, congrArg (·.v) same, congrArg (·.p) same, congrArg (·.kept) same,
    congrArg (·.deadline) same, congrArg (·.csr) same⟩

theorem blockBundle_keeps (c : Ctx) (hc : c = (blockBundle e ck bl b m).ctx ck) : c.st = .blocked bl
    ∧ c.deadline = (match (m.ctx ck).deadline with
      | some u => some u
      | none => if bl.bounded = true then some (e.clk.tick + (m.ctx ck).csr.waitTo.setWidth 48) else none)
    ∧ c.pc = (m.ctx ck).pc ∧ c.g = (m.ctx ck).g ∧ c.v = (m.ctx ck).v ∧ c.p = (m.ctx ck).p ∧ c.ports = [] ∧ c.res = []
    ∧ c.latches = []
    ∧ c.kept = (m.ctx ck).kept ++ operandLatch (landDue e.clk.cycle (m.ctx ck)) b bl.slot := by
  have same := blockBundle_ctx (e := e) ck bl b m
  rw [← hc] at same
  obtain ⟨pc, g, v, p, kept, deadline, csr⟩ := landDue_keeps e.clk.cycle (m.ctx ck)
  have due : c.deadline = ((m.ctx ck).blockedBy e bl b).deadline := congrArg (·.deadline) same
  refine ⟨congrArg (·.st) same, due.trans ?_, (congrArg (·.pc) same).trans pc, (congrArg (·.g) same).trans g,
    (congrArg (·.v) same).trans v, (congrArg (·.p) same).trans p, congrArg (·.ports) same,
    (congrArg (·.res) same).trans ?_, congrArg (·.latches) same,
    (congrArg (·.kept) same).trans (congrArg (· ++ _) kept)⟩
  · simp only [Ctx.blockedBy, deadline, csr]
    cases (m.ctx ck).deadline <;> simp
  · exact List.filter_eq_nil_iff.2 fun _ _ => by simp

end blocked

section bundle

variable {d : Fin 16} {r : Fin 192} {j : Nat} {b : Bundle} {bl : Block} {late : Prop} (judged : s.Judged d.val r.val j (.go b) n)
  (out : (slotsDone ⟨s.boot, s.clk⟩ j b n).issue.out = .blocked bl)
  (isLate : late ↔ (n.ctx j).timedOut.isSome = true
    ∨ ∃ u, (n.ctx j).deadline = some u ∧ u ≠ s.clk.tick ∧ (s.clk.tick - u).toNat < 2 ^ 47)
include judged out isLate

omit judged out in
theorem late_iff : late ↔ ((n.ctx j).timedOut.isSome || pastDeadline ⟨s.boot, s.clk⟩ (n.ctx j).deadline) = true := by
  rw [isLate, Bool.or_eq_true]
  refine or_congr Iff.rfl ?_
  cases (n.ctx j).deadline with
  | none => simp [pastDeadline]
  | some u => simp [pastDeadline_some]

theorem bundleIssue_timesOut (here : (slotsDone ⟨s.boot, s.clk⟩ j b n).issue.ck = j) (bounded : bl.bounded = true) (over_ : late)
    (outside : ((slotsDone ⟨s.boot, s.clk⟩ j b n).ctx j).csr.intrap = false) :
    ∃ t, exec (.bundleIssue d r) s = .next t ∧ (t.m.ctx j).csr.tcause = 13 ∧ (t.m.ctx j).csr.tval = bl.operand
      ∧ (t.m.ctx j).csr.intrap = true ∧ (t.m.ctx j).csr.priv = true
      ∧ (t.m.ctx j).g = ((slotsDone ⟨s.boot, s.clk⟩ j b n).ctx j).g
      ∧ (t.m.ctx j).v = ((slotsDone ⟨s.boot, s.clk⟩ j b n).ctx j).v := by
  refine ⟨_, bundleIssue_go judged, ?_⟩
  rw [issueBundle_blocked out, if_pos (by rw [bounded, (late_iff isLate).1 over_]; rfl)]
  have charged := charge_calm (slotsDone ⟨s.boot, s.clk⟩ j b n) (taskKey (ctxDie j) (n.ctx j).frame) bundleEnergy
  generalize (slotsDone ⟨s.boot, s.clk⟩ j b n).charge (taskKey (ctxDie j) (n.ctx j).frame) bundleEnergy = k at charged ⊢
  have same := ctx_of_calm charged j
  obtain ⟨c, hc, trapped⟩ := timeOut_traps (e := ⟨s.boot, s.clk⟩) (bl := bl) ((congrArg Issue.ck (issue_of_calm charged)).trans here)
    ((congrArg (·.csr.intrap) same).trans outside)
  have traced := ctx_of_calm (traceIssue_calm (e := ⟨s.boot, s.clk⟩) (ctxDie j) (n.ctx j).frame (n.ctx j).pc b.slots
    (startPreds (n.ctx j)) (some bl.slot) (timeOut ⟨s.boot, s.clk⟩ j bl k)) j
  rw [← hc] at traced
  obtain ⟨tcause, tval, intrap, priv, g, v⟩ := trapped
  simp only [ctx_pickCur, traceAs]
  exact ⟨(congrArg (·.csr.tcause) traced).trans tcause, (congrArg (·.csr.tval) traced).trans tval,
    (congrArg (·.csr.intrap) traced).trans intrap, (congrArg (·.csr.priv) traced).trans priv,
    (congrArg (·.g) traced).trans (g.trans (congrArg (·.g) same)),
    (congrArg (·.v) traced).trans (v.trans (congrArg (·.v) same))⟩

theorem bundleIssue_blocks (inTime : ¬(bl.bounded = true ∧ late)) : ∃ t c, c = t.m.ctx j ∧ exec (.bundleIssue d r) s = .next t
    ∧ c.st = .blocked bl
    ∧ c.deadline = (match (n.ctx j).deadline with
      | some u => some u
      | none => if bl.bounded = true then some (s.clk.tick + (n.ctx j).csr.waitTo.setWidth 48) else none)
    ∧ c.pc = (n.ctx j).pc ∧ c.g = (n.ctx j).g ∧ c.v = (n.ctx j).v ∧ c.p = (n.ctx j).p ∧ c.ports = [] ∧ c.res = []
    ∧ c.latches = []
    ∧ c.kept = (n.ctx j).kept ++ operandLatch (landDue s.clk.cycle (n.ctx j)) b bl.slot := by
  refine ⟨_, _, rfl, bundleIssue_go judged, blockBundle_keeps (e := ⟨s.boot, s.clk⟩) (m := n) _ ?_⟩
  rw [issueBundle_blocked out, if_neg (by rwa [Bool.and_eq_true, ← late_iff isLate]), ctx_pickCur]

end bundle

/-- Settles O50: each clause by the step that it speaks of. -/
theorem resultsAndWaits : Obligations.ResultsAndWaits := by
  intro s d r x ck c k hck hc hk
  refine ⟨fun q y hres hq hw => latchResultLand_one hck hc hres hq hw, ?_, ?_, ?_, ?_, ?_, ?_, ?_⟩
  · intro late u j n judged since
    refine ⟨_, lateLatchSwitch_waits judged since, ?_, fun over_ => ?_, fun inTime => ?_⟩
    · rw [(pickCur_keeps _ _).2.1]
      split <;> rfl
    · simp only [ctx_pickCur, if_pos over_, giveUp_ctx]
      refine ⟨trivial, rfl, rfl, rfl, fun z hz => ?_, rfl, rfl, rfl, rfl⟩
      simpa using List.of_mem_filter hz
    · simp only [ctx_pickCur, if_neg (by omega : ¬64 < s.clk.cycle - u)]
  · intro late j n judged
    obtain ⟨mem, since⟩ := waitLate_keeps (e := ⟨s.boot, s.clk⟩) j late n
    obtain ⟨-, pmem, phot, -⟩ := pickCur_keeps (coreKey d.val r.val) (waitLate ⟨s.boot, s.clk⟩ j late n)
    refine ⟨_, bundleIssue_waits judged, pmem.trans mem, by rw [ctx_pickCur]; exact since, fun b waits hwaits => ?_⟩
    dsimp only
    rw [phot, waitLate_hot]
    refine ⟨fun h => by rw [if_pos (hwaits.1 h)], fun h => ?_⟩
    rw [if_neg (mt hwaits.2 h)]
    exact BitVec.add_zero _
  · intro b met blocked means
    have means : WaitMeans s d.val c k b.wait met := means
    refine ⟨contextReady_met hck hc hk blocked means, contextReady_unmet hck hc hk blocked means,
      fun u bounded deadline alone => ⟨fun unmet ne past => ?_, fun h => ?_⟩⟩
    · exact waitTimeout_unmet hck hc hk blocked means bounded deadline alone unmet ⟨ne, past⟩
    · refine waitTimeout_met hck hc hk blocked means bounded deadline alone (h.imp id ?_)
      rintro (rfl | far) ⟨ne, past⟩
      · exact ne rfl
      · omega
  · intro b a m f z w off N F sx holds blocked wait small code width near zero aligned fits base none_open place clean hN hF
      signed eq ne lt le slt sle
    have waits : FlagWait s (d.val * 192 + r.val) ck w off N F c b a f m z :=
      ⟨hc, blocked, wait, small, code, width, near, zero, aligned, fits, base, none_open, place, clean, hN, hF⟩
    have means : RelationMeans (z.toNat % 8) N F sx holds := ⟨eq, ne, lt, le, slt, sle⟩
    exact ⟨flagWaitReread_holds hck waits signed means, flagWaitReread_fails hck waits signed means⟩
  · intro tk z b h y u hz die rank own suspended blocked wait bounded deadline token running only
    have judged := waitTimeout_preempted hck hc hz die rank own suspended blocked wait bounded deadline token running only
    refine ⟨fun undone ne past => ?_, fun h => ?_⟩
    · rw [judged, if_pos ⟨⟨ne, past⟩, undone⟩]
    · rw [judged, if_neg]
      rintro ⟨⟨ne, past⟩, undone⟩
      obtain done | rfl | far := h
      · exact done undone
      · exact ne rfl
      · omega
  · intro b bl j n n1 late judged hn1 out here isLate
    subst hn1
    refine ⟨fun bounded over_ outside => bundleIssue_timesOut judged out isLate here bounded over_ outside, fun inTime => ?_⟩
    obtain ⟨t, c, rfl, issued, st, deadline, pc, g, v, p, ports, res, latches, kept⟩ :=
      bundleIssue_blocks judged out isLate inTime
    refine ⟨t, issued, st, deadline, pc, g, v, p, ports, res, latches, fun y hy => ?_, fun none_due snaps fresh z hz => ?_⟩
    · rw [kept, List.mem_append] at hy
      exact hy.imp id mem_operandLatch
    · rw [kept, landDue_of_no_results none_due]
      exact congrArg ((n.ctx j).kept ++ ·) (operandLatch_of_slot snaps fresh hz)
  · intro p n b going small fresh timedOut slot on outside
    have expired : (n.modIssue fun i => { i with slot := p.2, raw := p.1.raw }).issue.expired p.2 = some b := by
      simp [Issue.expired, timedOut, slot]
    have acts : actSlot ⟨s.boot, s.clk⟩ p n = trapOf ⟨s.boot, s.clk⟩ Cause.waitTimeout b.operand p.2
        (n.modIssue fun i => { i with slot := p.2, raw := p.1.raw }) := by
      have at_ : (applySettings (n.modIssue fun i => { i with slot := p.2, raw := p.1.raw })).issue.slot = p.2 :=
        (applySettings_keeps _).2.1
      unfold actSlot
      rw [if_neg (by simp [going, fresh])]
      simp only [expired, on, if_true]
      rw [stopSlot_trap, at_]
    rw [acts]
    exact trapped_at_slot (s := ⟨s.boot, s.clk, n.modIssue fun i => { i with slot := p.2, raw := p.1.raw }⟩) b.operand p.2
      (by decide) (by rw [cur_of_slot]; exact outside)

end Sys2Proof.Machine
end

section
/-! PROOFS. A bundle that ends whole: its settings, its charge and trace, and where the context goes on (R30, R51, R131, R154,
R403, R410). -/

namespace Sys2Proof.Machine

variable {s : State} {e : Env} {m n : Mach}

/-! ### The settings -/

/-- The control and status registers of a context once a CSR write has acted on them (R131). -/
def Csrs.written (x : Csrs) (w : CsrWrite) : Csrs :=
  if w.own then writeCtxCsr w.n w.v x
  else
    let x := if w.n = 0x000 ∧ tst w.v 15 then { x with uiovf := false } else x
    if x.priv = false ∨ 0x600 ≤ w.n then x else writeCtxCsr w.n w.v x

/-- The control and status registers of a context once its bundle's settings have acted (R131, R154). -/
def Issue.settle (i : Issue) (x : Csrs) : Csrs :=
  i.newCsr.foldl Csrs.written { x with
    fmt := i.newFmt.getD x.fmt, mode := i.newMode.getD x.mode, seed := i.newSeed.getD x.seed }

theorem writeCtxCsr_rctr (n v : Nat) (x : Csrs) : (writeCtxCsr n v x).rctr = x.rctr := by
  unfold writeCtxCsr
  split
  case h_7 => split <;> rfl
  all_goals rfl

theorem written_rctr (x : Csrs) (w : CsrWrite) : (x.written w).rctr = x.rctr := by
  have cleared : (if w.n = 0x000 ∧ tst w.v 15 then { x with uiovf := false } else x).rctr = x.rctr := by split <;> rfl
  unfold Csrs.written
  dsimp only
  generalize (if w.n = 0x000 ∧ tst w.v 15 then { x with uiovf := false } else x) = y at cleared ⊢
  split
  · exact writeCtxCsr_rctr _ _ _
  · split
    · exact cleared
    · exact (writeCtxCsr_rctr _ _ _).trans cleared

theorem settle_rctr (i : Issue) (x : Csrs) : (i.settle x).rctr = x.rctr := by
  have folded (ws : List CsrWrite) (y : Csrs) : (ws.foldl Csrs.written y).rctr = y.rctr := by
    induction ws generalizing y with
    | nil => rfl
    | cons w ws ih => exact (ih _).trans (written_rctr y w)
  exact folded _ _

theorem applyWrite_cur (w : CsrWrite) (m : Mach) : (applyWrite w m).cur = { m.cur with csr := m.cur.csr.written w } := by
  unfold applyWrite Csrs.written
  split
  · exact Mach.cur_modCur m _
  · have cleared : (if w.n = 0x000 ∧ tst w.v 15 then m.modCur fun c => { c with csr := { c.csr with uiovf := false } } else m).cur
        = { m.cur with csr := if w.n = 0x000 ∧ tst w.v 15 then { m.cur.csr with uiovf := false } else m.cur.csr } := by
      split
      · exact Mach.cur_modCur m _
      · rfl
    unfold writeCsrNow
    dsimp only
    generalize (if w.n = 0x000 ∧ tst w.v 15 then m.modCur fun c => { c with csr := { c.csr with uiovf := false } } else m) = k
      at cleared ⊢
    generalize (if w.n = 0x000 ∧ tst w.v 15 then { m.cur.csr with uiovf := false } else m.cur.csr) = x at cleared ⊢
    have user : k.user = !x.priv := by rw [Mach.user, cleared]
    simp only [user, Bool.not_eq_true']
    by_cases guest : x.priv = false
    · rw [if_pos guest, if_pos (.inl guest), cleared]
    · rw [if_neg guest]
      by_cases counter : 0x600 ≤ w.n
      · rw [if_pos counter, if_pos (.inr counter)]
        exact cleared
      · rw [if_neg counter, if_neg (by simp [guest, counter])]
        refine (Mach.cur_modCur _ _).trans ?_
        rw [show (k.setDie k.issue.d (writeDieCsr k k.issue.d w.n w.v (k.die k.issue.d))).cur = k.cur from rfl, cleared]

theorem withSettings_cur (m : Mach) : m.withSettings.cur = { m.cur with csr := { m.cur.csr with
    fmt := m.issue.newFmt.getD m.cur.csr.fmt, mode := m.issue.newMode.getD m.cur.csr.mode
    seed := m.issue.newSeed.getD m.cur.csr.seed } } := Mach.cur_modCur m _

theorem applySettings_cur (m : Mach) : (applySettings m).cur = { m.cur with csr := m.issue.settle m.cur.csr } := by
  have folded (ws : List CsrWrite) (k : Mach) :
      (ws.foldl (fun m w => applyWrite w m) k).cur = { k.cur with csr := ws.foldl Csrs.written k.cur.csr } := by
    induction ws generalizing k with
    | nil => rfl
    | cons w ws ih => rw [List.foldl_cons, ih, applyWrite_cur]; rfl
  have settled := folded m.issue.newCsr m.withSettings
  rw [withSettings_cur] at settled
  rw [applySettings_eq]
  generalize m.issue.newCsr.foldl (fun m w => applyWrite w m) m.withSettings = k at settled ⊢
  show k.cur = _
  rw [settled]
  rfl

/-- With no CSR write, the settings change the context's registers and the record alone. -/
theorem applySettings_of_no_writes (h : m.issue.newCsr = []) : (applySettings m).mem = m.mem
    ∧ (applySettings m).memChk = m.memChk ∧ (applySettings m).l2 = m.l2 ∧ (applySettings m).tasks = m.tasks
    ∧ (applySettings m).dies = m.dies := by
  rw [applySettings_eq, h]
  exact ⟨rfl, rfl, rfl, rfl, rfl⟩

theorem settle_of_no_writes {i : Issue} (h : i.newCsr = []) (x : Csrs) : (i.settle x).uiepc = x.uiepc := by
  rw [Issue.settle, h]
  rfl

/-! ### The end of a bundle -/

/-- A context as its bundle ends: the counter that the bundle leaves, and the marks of its issue (R155, R116). -/
def Ctx.ended (now : Nat) (i : Issue) (c : Ctx) : Ctx :=
  { c with csr := { c.csr with rctr := i.rctr.getD c.csr.rctr }, resume := none, stallServed := false, lateSince := none,
           lastIssue := now }

/-- The context at issue as its bundle ends, with the settings in force. -/
theorem ended_ctx (now : Nat) (m : Mach) : ((applySettings m).modCtx m.issue.ck (Ctx.ended now m.issue)).ctx m.issue.ck
    = { m.cur with
        csr := { m.issue.settle m.cur.csr with rctr := m.issue.rctr.getD m.cur.csr.rctr }, resume := none
        stallServed := false, lateSince := none, lastIssue := now } := by
  have cur := applySettings_cur m
  rw [Mach.cur, (applySettings_keeps m).1] at cur
  rw [Mach.ctx_modCtx_same, cur, Ctx.ended]
  dsimp only
  rw [settle_rctr]

theorem stepPc_csr (size : W64) (i : Issue) (c : Ctx) : (stepPc size i c).csr = c.csr := by
  unfold stepPc
  split <;> rfl

section going

variable {b : Bundle} (halt : m.issue.halt = false) (haltPend : m.cur.haltPend = false) (yield_ : m.issue.yield_ = false)
include halt haltPend yield_

theorem endBundle_goesOn (ret : m.issue.start.retPend = 0) : endBundle e b m =
    ((applySettings m).modCtx m.issue.ck (Ctx.ended e.clk.cycle m.issue)).modCtx m.issue.ck (stepPc b.size m.issue) := by
  have running : (((applySettings m).modCtx m.issue.ck (Ctx.ended e.clk.cycle m.issue)).ctx m.issue.ck).haltPend = false := by
    rw [ended_ctx, ← haltPend]
  unfold Ctx.ended at running ⊢
  unfold endBundle
  dsimp only
  rw [running, halt, yield_, ret]
  rfl

theorem endBundle_returns (ret : m.issue.start.retPend = 1) : endBundle e b m =
    returnFromInterrupt e m.issue.ck (e.clk.cycle + 1) (m.issue.start.pend.getD ((m.issue.settle m.cur.csr).uiepc.setWidth 64))
      ((((applySettings m).modCtx m.issue.ck (Ctx.ended e.clk.cycle m.issue)).modCtx m.issue.ck (stepPc b.size m.issue)).modCtx
        m.issue.ck fun c => { c with retPend := 0 }) := by
  have running : (((applySettings m).modCtx m.issue.ck (Ctx.ended e.clk.cycle m.issue)).ctx m.issue.ck).haltPend = false := by
    rw [ended_ctx, ← haltPend]
  have uiepc : ((((applySettings m).modCtx m.issue.ck (Ctx.ended e.clk.cycle m.issue)).modCtx m.issue.ck
      (stepPc b.size m.issue)).ctx m.issue.ck).csr.uiepc = (m.issue.settle m.cur.csr).uiepc := by
    rw [Mach.ctx_modCtx_same, stepPc_csr, ended_ctx]
  unfold Ctx.ended at running uiepc ⊢
  unfold endBundle
  dsimp only
  rw [running, halt, yield_, ret]
  simp only [Bool.or_self, Bool.false_eq_true, if_false, if_true]
  rw [uiepc]

end going

/-! ### Traces of an issued bundle -/

theorem traceIssue_of_untraced {d f : Nat} {addr : W64} {slots : List SlotRec} {preds : BitVec 8} {fault : Option Nat}
    (h : (m.die d).trcCtl % 4 = 0 ∨ (m.die d).trcStop = true
      ∨ (m.die d).trcCtl.testBit 28 = true ∧ (m.die d).trcCtl / 2 ^ 16 % 2 ^ 12 ≠ f) :
    traceIssue e d f addr slots preds fault m = m := by
  have untraced : traced (m.die d) f = false := by
    have field : fld (m.die d).trcCtl 27 16 = (m.die d).trcCtl / 2 ^ 16 % 2 ^ 12 := fld_eq _ _ _
    simp only [traced, tst_eq_testBit, field, Bool.and_eq_false_iff, Bool.or_eq_false_iff, Bool.not_eq_false']
    obtain off | stopped | ⟨chosen, other⟩ := h
    · exact .inl (.inl (by simp [off]))
    · exact .inl (.inr stopped)
    · exact .inr ⟨by simp [chosen], by simpa using other⟩
  simp only [traceIssue, untraced, Bool.not_false, if_true]

/-- A bundle traced in mode 2 whose turn has come is recorded (R410). -/
theorem traceIssue_of_turn {d f word : Nat} {addr : W64} {slots : List SlotRec} {preds : BitVec 8} {y : Die} {m2 : Mach}
    (hy : y = m.die d) (mode : y.trcCtl % 4 = 2) (running : y.trcStop = false)
    (chosen : y.trcCtl.testBit 28 = true → y.trcCtl / 2 ^ 16 % 2 ^ 12 = f)
    (turn : y.trcBundles % 2 ^ (y.trcCtl / 2 ^ 4 % 2 ^ 4) = 0) (en : y.trc.en = true) (room : y.trc.full = false)
    (hword : word = addr.toNat % 2 ^ 48 + 8 * 2 ^ 48 + 2 ^ 52)
    (written : ringWriteWith event e d y.trc (bytesOf word 8 ++ bytesOf (e.clk.cycle - y.trcLast) 8)
      (m.modDie d fun z => { z with trcBundles := y.trcBundles + 1, trcLast := e.clk.cycle }) = (true, m2)) :
    traceIssue e d f addr slots preds none m = m2.modDie d fun x => { x with trc := { x.trc with tail := x.trc.tail + 1 } } := by
  have isTraced : traced y f = true := by
    have field : fld y.trcCtl 27 16 = y.trcCtl / 2 ^ 16 % 2 ^ 12 := fld_eq _ _ _
    simp only [traced, tst_eq_testBit, field, mode, running, Bool.and_eq_true, Bool.or_eq_true, Bool.not_eq_true',
      beq_iff_eq]
    refine ⟨⟨by decide, trivial⟩, ?_⟩
    cases bit : y.trcCtl.testBit 28
    · exact .inl rfl
    · exact .inr (chosen bit)
  have field : fld y.trcCtl 7 4 = y.trcCtl / 2 ^ 4 % 2 ^ 4 := fld_eq _ _ _
  subst hy
  unfold traceIssue
  simp only [isTraced, Bool.not_true, Bool.false_eq_true, if_false, mode, field, turn, if_true, Option.isSome_none]
  unfold traceRecord traceWrite tracePut
  simp only [Mach.die_modDie_same, Mach.modDie_modDie, en, room, Bool.not_true, Bool.false_eq_true, if_false]
  have same : addr.toNat % 2 ^ 48 + 8 * 2 ^ 48 + b2n true * 2 ^ 52 + 0 * 2 ^ 53 = word := by
    rw [hword, b2n, if_pos rfl, Nat.one_mul, Nat.zero_mul, Nat.add_zero]
  rw [same, written]
  rfl

/-! ### A bundle that none of its slots stops -/

theorem issueBundle_going {ck : Nat} {b : Bundle} (out : (slotsDone e ck b m).issue.out = .going) :
    issueBundle e ck b m = endBundle e b (countBundle ck (taskKey (ctxDie ck) (m.ctx ck).frame) (!(m.ctx ck).csr.priv)
      (traceAs e ck (m.ctx ck) b none (slotsDone e ck b m))) := by
  unfold issueBundle
  dsimp only
  rw [actSlots_issued, out]
  rfl

/-- Counting a bundle changes the context's count and the task's charge. -/
theorem countBundle_keeps (ck tk : Nat) (user : Bool) (m : Mach) : (countBundle ck tk user m).issue = m.issue
    ∧ (countBundle ck tk user m).mem = m.mem ∧ (countBundle ck tk user m).memChk = m.memChk
    ∧ (countBundle ck tk user m).l2 = m.l2 ∧ (countBundle ck tk user m).dies = m.dies
    ∧ ∃ w, (countBundle ck tk user m).ctx ck = { m.ctx ck with wdCount := w } := by
  have charged : (m.charge tk bundleEnergy).beyondHome = m.beyondHome := charge_beyondHome m tk bundleEnergy
  have counted (k : Mach) : (k.modCtx ck fun c => { c with wdCount := if user then c.wdCount + 1 else c.wdCount }).ctx ck
      = { k.ctx ck with wdCount := if user then (k.ctx ck).wdCount + 1 else (k.ctx ck).wdCount } :=
    Mach.ctx_modCtx_same _ _ _
  have ctx : (m.charge tk bundleEnergy).ctx ck = m.ctx ck := by rw [Mach.ctx, ctxs_of_beyondHome charged]; rfl
  have dies : (m.charge tk bundleEnergy).dies = m.dies := by unfold Mach.charge; split <;> rfl
  refine ⟨show (m.charge tk bundleEnergy).issue = m.issue from issue_of_beyondHome charged, charge_mem m _ _,
    charge_memChk m _ _, charge_l2 m _ _, dies, _, (counted _).trans (by rw [ctx])⟩

theorem countBundle_energy {ck tk : Nat} (user : Bool) (live : (m.task tk).st ≠ .free) :
    ((countBundle ck tk user m).task tk).energy = (m.task tk).energy + 890000 := by
  rw [countBundle, Mach.task_modCtx, Mach.charge, if_neg live, Mach.task_modTask_same]
  rfl

end Sys2Proof.Machine
end

section
/-! PROOFS. BUNDLE_ISSUE of a bundle that none of its slots stops: the context afterwards, its charge and its trace record
(R41, R51, R403, R410), and the return from a user interrupt (R130). -/

namespace Sys2Proof.Machine

variable {s : State} {e : Env} {m : Mach}

theorem stepPc_pc (size : W64) (i : Issue) (c : Ctx) :
    (stepPc size i c).pc = (match i.start.pend with | some target => target | none => i.addr + size) := by
  unfold stepPc
  cases i.start.pend <;> rfl

theorem stepPc_pend (size : W64) (i : Issue) (c : Ctx) :
    (stepPc size i c).pend = (match i.start.pend with | some _ => none | none => i.pend) := by
  unfold stepPc
  cases i.start.pend <;> rfl

theorem stepPc_link (size : W64) (i : Issue) (c : Ctx) :
    (stepPc size i c).link = (match i.start.pend with | some _ => false | none => i.link) := by
  unfold stepPc
  cases i.start.pend <;> rfl

theorem stepPc_keeps (size : W64) (i : Issue) (c : Ctx) : (stepPc size i c).lastIssue = c.lastIssue
    ∧ (stepPc size i c).g = c.g ∧ (stepPc size i c).v = c.v ∧ (stepPc size i c).p = c.p
    ∧ (stepPc size i c).ports = c.ports ∧ (stepPc size i c).res = c.res ∧ (stepPc size i c).shadow = c.shadow
    ∧ (stepPc size i c).uiq = c.uiq ∧ (stepPc size i c).frame = c.frame := by
  unfold stepPc
  split <;> exact ⟨rfl, rfl, rfl, rfl, rfl, rfl, rfl, rfl, rfl⟩

/-- The machine that a bundle none of whose slots has stopped it leaves to its end: traced and counted. -/
def countedBundle (e : Env) (ck : Nat) (b : Bundle) (m : Mach) : Mach :=
  countBundle ck (taskKey (ctxDie ck) (m.ctx ck).frame) (!(m.ctx ck).csr.priv)
    (traceAs e ck (m.ctx ck) b none (slotsDone e ck b m))

theorem countedBundle_keeps (ck : Nat) (b : Bundle) (m : Mach) :
    (countedBundle e ck b m).issue = (slotsDone e ck b m).issue
      ∧ ∃ w, ((countedBundle e ck b m).ctx ck).beyondStores = { ((slotsDone e ck b m).ctx ck).beyondStores with wdCount := w } := by
  have traced : (traceAs e ck (m.ctx ck) b none (slotsDone e ck b m)).calm = (slotsDone e ck b m).calm := traceIssue_calm _ _ _ _ _ _ _
  obtain ⟨issue, -, -, -, -, w, ctx⟩ := countBundle_keeps ck (taskKey (ctxDie ck) (m.ctx ck).frame) (!(m.ctx ck).csr.priv)
    (traceAs e ck (m.ctx ck) b none (slotsDone e ck b m))
  exact ⟨issue.trans (issue_of_calm traced), w, (congrArg Ctx.beyondStores ctx).trans
    (congrArg (fun c : Ctx => { c with wdCount := w }) (ctx_of_calm traced ck))⟩

/-- The machine once the settings of a bundle have acted and its context is marked as having issued. -/
def Mach.endedAt (m : Mach) (ck now : Nat) : Mach := (applySettings m).modCtx ck (Ctx.ended now m.issue)

theorem endedAt_homes (m : Mach) (ck now : Nat) : (m.endedAt ck now).mem = (applySettings m).mem
    ∧ (m.endedAt ck now).memChk = (applySettings m).memChk ∧ (m.endedAt ck now).l2 = (applySettings m).l2
    ∧ (m.endedAt ck now).tasks = (applySettings m).tasks ∧ (m.endedAt ck now).dies = (applySettings m).dies := by
  unfold Mach.endedAt
  exact ⟨rfl, rfl, rfl, rfl, rfl⟩

section bundle

variable {d : Fin 16} {r : Fin 192} {ck : Nat} {b : Bundle} {m1 : Mach} (judged : s.Judged d.val r.val ck (.go b) m)
  (hm1 : m1 = slotsDone ⟨s.boot, s.clk⟩ ck b m) (out : m1.issue.out = .going) (halt : m1.issue.halt = false)
  (haltPend : (m1.ctx ck).haltPend = false) (yield_ : m1.issue.yield_ = false) (here : m1.issue.ck = ck)
include judged hm1 out halt haltPend yield_ here

omit judged out yield_ in
theorem counted_going : (countedBundle ⟨s.boot, s.clk⟩ ck b m).issue.ck = ck
    ∧ (countedBundle ⟨s.boot, s.clk⟩ ck b m).issue.halt = false
    ∧ (countedBundle ⟨s.boot, s.clk⟩ ck b m).cur.haltPend = false := by
  obtain ⟨issue, w, ctx⟩ := countedBundle_keeps (e := ⟨s.boot, s.clk⟩) ck b m
  rw [← hm1] at issue ctx
  rw [Mach.cur, issue, here]
  exact ⟨rfl, halt, (congrArg (·.haltPend) ctx).trans haltPend⟩

theorem bundleIssue_goesOn (ret : m1.issue.start.retPend = 0) : exec (.bundleIssue d r) s
    = .next { s with m := pickCur (coreKey d.val r.val)
                              (((countedBundle ⟨s.boot, s.clk⟩ ck b m).endedAt ck s.clk.cycle).modCtx ck
                                (stepPc b.size m1.issue)) } := by
  obtain ⟨issue, -⟩ := countedBundle_keeps (e := ⟨s.boot, s.clk⟩) ck b m
  obtain ⟨kck, khalt, khaltPend⟩ := counted_going hm1 halt haltPend here
  rw [bundleIssue_go judged, issueBundle_going (hm1 ▸ out)]
  rw [← hm1] at issue
  have ended := endBundle_goesOn (e := ⟨s.boot, s.clk⟩) (b := b) khalt khaltPend (issue ▸ yield_) (issue ▸ ret)
  rw [kck, issue] at ended
  rw [Mach.endedAt, issue]
  exact congrArg (fun n => Host.Outcome.next { s with m := pickCur (coreKey d.val r.val) n }) ended

omit judged out yield_ in
/-- The context as its bundle ends, but for its stores and its count of bundles. -/
theorem endedAt_ctx : ∃ c, c = ((countedBundle ⟨s.boot, s.clk⟩ ck b m).endedAt ck s.clk.cycle).ctx ck
    ∧ c.lastIssue = s.clk.cycle ∧ c.g = (m1.ctx ck).g ∧ c.v = (m1.ctx ck).v ∧ c.p = (m1.ctx ck).p
    ∧ c.ports = (m1.ctx ck).ports ∧ c.res = (m1.ctx ck).res ∧ c.shadow = (m1.ctx ck).shadow ∧ c.uiq = (m1.ctx ck).uiq
    ∧ c.frame = (m1.ctx ck).frame
    ∧ c.csr = { ((applySettings m1).ctx ck).csr with rctr := m1.issue.rctr.getD (m1.ctx ck).csr.rctr } := by
  obtain ⟨issue, w, ctx⟩ := countedBundle_keeps (e := ⟨s.boot, s.clk⟩) ck b m
  obtain ⟨kck, -, -⟩ := counted_going hm1 halt haltPend here
  have ended := ended_ctx s.clk.cycle (countedBundle ⟨s.boot, s.clk⟩ ck b m)
  rw [← hm1] at issue ctx
  have csr : ((applySettings m1).ctx ck).csr = m1.issue.settle (m1.ctx ck).csr := by
    have := applySettings_cur m1
    rw [Mach.cur, Mach.cur, (applySettings_keeps m1).1, here] at this
    rw [this]
  rw [Mach.cur, kck, issue] at ended
  refine ⟨_, rfl, ?_⟩
  rw [Mach.endedAt, issue, ended, csr]
  have same : ((countedBundle ⟨s.boot, s.clk⟩ ck b m).ctx ck).csr = (m1.ctx ck).csr := congrArg (·.csr) ctx
  rw [same]
  exact ⟨rfl, congrArg (·.g) ctx, congrArg (·.v) ctx, congrArg (·.p) ctx, congrArg (·.ports) ctx, congrArg (·.res) ctx,
    congrArg (·.shadow) ctx, congrArg (·.uiq) ctx, congrArg (·.frame) ctx, rfl⟩

omit judged out halt haltPend yield_ here in
/-- With no CSR write, the settings and the mark of issue leave memory, tasks and dies. -/
theorem endedAt_keeps (none_written : m1.issue.newCsr = []) (now : Nat) :
    ((countedBundle ⟨s.boot, s.clk⟩ ck b m).endedAt ck now).mem = (traceAs ⟨s.boot, s.clk⟩ ck (m.ctx ck) b none m1).mem
    ∧ ((countedBundle ⟨s.boot, s.clk⟩ ck b m).endedAt ck now).memChk
      = (traceAs ⟨s.boot, s.clk⟩ ck (m.ctx ck) b none m1).memChk
    ∧ ((countedBundle ⟨s.boot, s.clk⟩ ck b m).endedAt ck now).l2 = (traceAs ⟨s.boot, s.clk⟩ ck (m.ctx ck) b none m1).l2
    ∧ ((countedBundle ⟨s.boot, s.clk⟩ ck b m).endedAt ck now).dies = (traceAs ⟨s.boot, s.clk⟩ ck (m.ctx ck) b none m1).dies
    ∧ ((countedBundle ⟨s.boot, s.clk⟩ ck b m).endedAt ck now).tasks = (countedBundle ⟨s.boot, s.clk⟩ ck b m).tasks := by
  subst hm1
  obtain ⟨issue, -⟩ := countedBundle_keeps (e := ⟨s.boot, s.clk⟩) ck b m
  obtain ⟨mem, memChk, l2, tasks, dies⟩ := applySettings_of_no_writes (m := countedBundle ⟨s.boot, s.clk⟩ ck b m)
    (issue ▸ none_written)
  obtain ⟨-, cmem, cmemChk, cl2, cdies, -⟩ := countBundle_keeps ck (taskKey (ctxDie ck) (m.ctx ck).frame)
    (!(m.ctx ck).csr.priv) (traceAs ⟨s.boot, s.clk⟩ ck (m.ctx ck) b none (slotsDone ⟨s.boot, s.clk⟩ ck b m))
  obtain ⟨emem, ememChk, el2, etasks, edies⟩ := endedAt_homes (countedBundle ⟨s.boot, s.clk⟩ ck b m) ck now
  exact ⟨emem.trans (mem.trans cmem), ememChk.trans (memChk.trans cmemChk), el2.trans (l2.trans cl2),
    edies.trans (dies.trans cdies), etasks.trans tasks⟩

end bundle

end Sys2Proof.Machine
end

section
/-! PROOFS. The return from a user interrupt in the delay bundle of br.uiret (R130). -/

namespace Sys2Proof.Machine

variable {s : State} {e : Env} {m : Mach}

theorem chargeHub_home (ag : Agent) (bytes : Nat) (m : Mach) : (chargeHub e ag bytes m).l2 = m.l2
    ∧ (chargeHub e ag bytes m).mem = m.mem ∧ (chargeHub e ag bytes m).memChk = m.memChk := by
  unfold chargeHub
  split
  · exact ⟨rfl, rfl, rfl⟩
  · exact ⟨charge_l2 _ _ _, charge_mem _ _ _, charge_memChk _ _ _⟩

/-- Reading a task's frame leaves the contexts and the bundle at issue. -/
theorem readFrame_beyondHome (d f off n : Nat) (m : Mach) : (readFrame e d f off n m).2.2.beyondHome = m.beyondHome := by
  have folded (base : Nat) (l : List Nat) (p : List Byte × List Nat × Mach) : (l.foldl (fun p k =>
      let (g, m) := homeRead e ⟨0, d, f⟩ 0 ((base + 128 * k) / 128) p.2.2
      if g.sev = 3 then
        (p.1 ++ bytesOf (Config.freeLine m.seed).toNat 128, p.2.1 ++ [off + 128 * k], { m with seed := m.seed + 1 })
      else (p.1 ++ bytesOf g.data 128, p.2.1, m)) p).2.2.beyondHome = p.2.2.beyondHome := by
    induction l generalizing p with
    | nil => rfl
    | cons k l ih =>
      rw [List.foldl_cons, ih]
      have read := homeRead_beyondHome e ⟨0, d, f⟩ 0 ((base + 128 * k) / 128) p.2.2
      dsimp only
      split
      · exact (withSeed_beyondHome _ _).trans read
      · exact read
  exact (folded _ _ _).trans (chargeHub_beyondHome _ _ _ _)

/-- A clean line of a task's frame is read as it stands. -/
theorem readFrame_line {d f off : Nat} (clean : m.homeClean 0 (frameAddr m d f + off) = true) :
    (readFrame e d f off 128 m).1 = bytesOf (m.lineAt ((frameAddr m d f + off) / 128)) 128
      ∧ (readFrame e d f off 128 m).2.1 = [] := by
  obtain ⟨l2, mem, memChk⟩ := chargeHub_home (e := e) ⟨0, d, f⟩ 128 m
  have read := (homeRead_clean (e := e) (ag := ⟨0, d, f⟩) ((homeClean_congr l2 mem memChk _ _).trans clean)).1
  rw [lineAt_congr l2 mem] at read
  unfold readFrame
  rw [show ceilDiv 128 128 = 1 from rfl]
  simp only [List.range_one, List.foldl_cons, List.foldl_nil, Nat.mul_zero, Nat.add_zero]
  rw [read]
  exact ⟨rfl, rfl⟩

/-- The first byte of a field of bytes is its word's low byte. -/
theorem fieldAt_byte (x n : Nat) : BitVec.ofNat 8 (fieldAt (bytesOf x (n + 1)) 0 1) = byteN x 0 := by
  refine BitVec.eq_of_toNat_eq ?_
  simp [fieldAt, bytesOf, ofBytes, byteN]

/-- What a resumed context gets back: its ports, latches and results, and their marks. -/
theorem restoreFrom_ctx (ck x t : Nat) (m : Mach) : ∃ ports latches res bad,
    (restoreFrom e ck x t m).ctx ck = { m.ctx ck with ports := ports, latches := latches, res := res, bad := bad } := by
  have read := ctxs_of_beyondHome (readFrame_beyondHome (e := e) (ctxDie ck) (m.ctx ck).frame x 0x2900 m)
  have ctx : ((readFrame e (ctxDie ck) (m.ctx ck).frame x 0x2900 m).2.2).ctx ck = m.ctx ck := by rw [Mach.ctx, read]; rfl
  unfold restoreFrom
  dsimp only
  generalize readFrame e (ctxDie ck) (m.ctx ck).frame x 0x2900 m = q at ctx ⊢
  rw [Mach.ctx_modCtx_same, ctx]
  generalize List.filterMap _ (List.range 48) = ports
  generalize List.filterMap _ (List.range 19) = latches
  generalize shadowOf _ _ _ = res
  exact ⟨ports, latches, res, _, rfl⟩

/-- A context that has returned from a user interrupt (R130). -/
theorem returnFromInterrupt_ctx {ck t : Nat} {target : W64}
    (clean : m.homeClean 0 (frameAddr m (ctxDie ck) (m.ctx ck).frame + 0x6700) = true)
    (aligned : frameAddr m (ctxDie ck) (m.ctx ck).frame % 128 = 0) :
    ∃ c, (returnFromInterrupt e ck t target m).ctx ck = c ∧ c.csr = { (m.ctx ck).csr with inui := false } ∧ c.pc = target
      ∧ c.pend = none ∧ c.retPend = (m.ctx ck).retPend
      ∧ c.p = m.byteAt (frameAddr m (ctxDie ck) (m.ctx ck).frame + 0x6700) ||| 1
      ∧ c.g = (m.ctx ck).g ∧ c.shadow = (m.ctx ck).shadow ∧ c.v = (m.ctx ck).v ∧ c.uiq = (m.ctx ck).uiq := by
  obtain ⟨line, -⟩ := readFrame_line (e := e) clean
  have read := ctxs_of_beyondHome (readFrame_beyondHome (e := e) (ctxDie ck) (m.ctx ck).frame 0x6700 128 m)
  have ctx : ((readFrame e (ctxDie ck) (m.ctx ck).frame 0x6700 128 m).2.2).ctx ck = m.ctx ck := by rw [Mach.ctx, read]; rfl
  have preds : BitVec.ofNat 8 (fieldAt (readFrame e (ctxDie ck) (m.ctx ck).frame 0x6700 128 m).1 0 1)
      = m.byteAt (frameAddr m (ctxDie ck) (m.ctx ck).frame + 0x6700) := by
    rw [line, byteAt_eq, show (frameAddr m (ctxDie ck) (m.ctx ck).frame + 0x6700) % 128 = 0 by omega]
    exact fieldAt_byte _ 127
  unfold returnFromInterrupt
  rw [← preds]
  dsimp only
  generalize readFrame e (ctxDie ck) (m.ctx ck).frame 0x6700 128 m = q at ctx ⊢
  generalize hn : q.2.2.modCtx ck _ = k
  obtain ⟨ports, latches, res, bad, restored⟩ := restoreFrom_ctx (e := e) ck 0x4000 t k
  have here := congrArg (·.ctx ck) hn
  simp only [Mach.ctx_modCtx_same, ctx] at here
  refine ⟨_, restored, ?_⟩
  rw [← here]
  exact ⟨rfl, rfl, rfl, rfl, rfl, rfl, rfl, rfl, rfl⟩

end Sys2Proof.Machine
end

section
/-! PROOFS. The outcome of BUNDLE_ISSUE where no slot stops the bundle: the context goes on (R41, R51, R403, R410) or returns
from a user interrupt (R130). -/

namespace Sys2Proof.Machine

variable {s : State} {m : Mach} {d : Fin 16} {r : Fin 192} {ck : Nat} {b : Bundle} {m1 : Mach}
  (judged : s.Judged d.val r.val ck (.go b) m) (hm1 : m1 = slotsDone ⟨s.boot, s.clk⟩ ck b m)
  (out : m1.issue.out = .going) (halt : m1.issue.halt = false) (haltPend : (m1.ctx ck).haltPend = false)
  (yield_ : m1.issue.yield_ = false) (here : m1.issue.ck = ck)

/-- The machine that an issued bundle leaves once its context has gone on. -/
def wentOn (s : State) (ck : Nat) (b : Bundle) (m : Mach) (i : Issue) : Mach :=
  ((countedBundle ⟨s.boot, s.clk⟩ ck b m).endedAt ck s.clk.cycle).modCtx ck (stepPc b.size i)

include hm1 halt haltPend here in
theorem wentOn_ctx : ∃ c, c = (wentOn s ck b m m1.issue).ctx ck
    ∧ c.pc = (match m1.issue.start.pend with
              | some target => target
              | none => m1.issue.addr + BitVec.ofNat 64 (32 * (1 + b.lx)))
    ∧ c.pend = (match m1.issue.start.pend with | some _ => none | none => m1.issue.pend)
    ∧ c.link = (match m1.issue.start.pend with | some _ => false | none => m1.issue.link)
    ∧ c.lastIssue = s.clk.cycle
    ∧ c.g = (m1.ctx ck).g ∧ c.v = (m1.ctx ck).v ∧ c.p = (m1.ctx ck).p
    ∧ c.ports = (m1.ctx ck).ports ∧ c.res = (m1.ctx ck).res
    ∧ c.csr = { ((applySettings m1).ctx ck).csr with rctr := m1.issue.rctr.getD (m1.ctx ck).csr.rctr }
    ∧ c.shadow = (m1.ctx ck).shadow ∧ c.uiq = (m1.ctx ck).uiq ∧ c.frame = (m1.ctx ck).frame := by
  obtain ⟨c, hc, last, g, v, p, ports, res, shadow, uiq, frame, csr⟩ := endedAt_ctx hm1 halt haltPend here
  obtain ⟨last', g', v', p', ports', res', shadow', uiq', frame'⟩ := stepPc_keeps b.size m1.issue c
  refine ⟨_, rfl, ?_⟩
  rw [wentOn, Mach.ctx_modCtx_same, ← hc]
  exact ⟨stepPc_pc _ _ _, stepPc_pend _ _ _, stepPc_link _ _ _, last'.trans last, g'.trans g, v'.trans v, p'.trans p,
    ports'.trans ports, res'.trans res, (stepPc_csr _ _ _).trans csr, shadow'.trans shadow, uiq'.trans uiq,
    frame'.trans frame⟩

include hm1 in
/-- With no CSR write, the machine that has gone on has the traced bundle's memory and dies. -/
theorem wentOn_keeps (none_written : m1.issue.newCsr = []) (i : Issue) :
    (wentOn s ck b m i).mem = (traceAs ⟨s.boot, s.clk⟩ ck (m.ctx ck) b none m1).mem
    ∧ (wentOn s ck b m i).memChk = (traceAs ⟨s.boot, s.clk⟩ ck (m.ctx ck) b none m1).memChk
    ∧ (wentOn s ck b m i).l2 = (traceAs ⟨s.boot, s.clk⟩ ck (m.ctx ck) b none m1).l2
    ∧ (wentOn s ck b m i).dies = (traceAs ⟨s.boot, s.clk⟩ ck (m.ctx ck) b none m1).dies
    ∧ (wentOn s ck b m i).tasks = (countedBundle ⟨s.boot, s.clk⟩ ck b m).tasks :=
  endedAt_keeps hm1 none_written s.clk.cycle

include hm1 in
/-- An untraced bundle leaves memory and the trace ring, and charges its task (R403, R410). -/
theorem wentOn_untraced {y : Die} (hy : y = m1.die (ck / 768)) (none_written : m1.issue.newCsr = []) (i : Issue)
    (untraced : y.trcCtl % 4 = 0 ∨ y.trcStop = true
      ∨ y.trcCtl.testBit 28 = true ∧ y.trcCtl / 2 ^ 16 % 2 ^ 12 ≠ (m.ctx ck).frame) :
    (wentOn s ck b m i).mem = m1.mem ∧ (wentOn s ck b m i).memChk = m1.memChk ∧ (wentOn s ck b m i).l2 = m1.l2
    ∧ (wentOn s ck b m i).dies = m1.dies
    ∧ ((m1.task (taskKey (ck / 768) (m.ctx ck).frame)).st ≠ .free →
        ((wentOn s ck b m i).task (taskKey (ck / 768) (m.ctx ck).frame)).energy
          = (m1.task (taskKey (ck / 768) (m.ctx ck).frame)).energy + 890000) := by
  have same : traceAs ⟨s.boot, s.clk⟩ ck (m.ctx ck) b none m1 = m1 := traceIssue_of_untraced (hy ▸ untraced)
  obtain ⟨mem, memChk, l2, dies, tasks⟩ := wentOn_keeps hm1 none_written i
  rw [same] at mem memChk l2 dies
  refine ⟨mem, memChk, l2, dies, fun live => ?_⟩
  have charged := countBundle_energy (ck := ck) (!(m.ctx ck).csr.priv) live
  rw [Mach.task, tasks, countedBundle, ← hm1, same]
  exact charged

include hm1 in
/-- A bundle traced in mode 2 whose turn has come writes its record to the ring (R410). -/
theorem wentOn_traced {y : Die} {word : Nat} {m2 : Mach} (hy : y = m1.die (ck / 768)) (none_written : m1.issue.newCsr = [])
    (i : Issue) (mode : y.trcCtl % 4 = 2) (running : y.trcStop = false)
    (chosen : y.trcCtl.testBit 28 = true → y.trcCtl / 2 ^ 16 % 2 ^ 12 = (m.ctx ck).frame)
    (turn : y.trcBundles % 2 ^ (y.trcCtl / 2 ^ 4 % 2 ^ 4) = 0) (en : y.trc.en = true) (room : y.trc.full = false)
    (hword : word = (m.ctx ck).pc.toNat % 2 ^ 48 + 8 * 2 ^ 48 + 2 ^ 52)
    (written : ringWriteWith event ⟨s.boot, s.clk⟩ (ck / 768) y.trc
      (bytesOf word 8 ++ bytesOf (s.clk.cycle - y.trcLast) 8)
      (m1.modDie (ck / 768) fun z => { z with trcBundles := y.trcBundles + 1, trcLast := s.clk.cycle }) = (true, m2)) :
    (wentOn s ck b m i).mem = m2.mem
      ∧ ((wentOn s ck b m i).die (ck / 768)).trc.tail = (m2.die (ck / 768)).trc.tail + 1 := by
  obtain ⟨mem, -, -, dies, -⟩ := wentOn_keeps hm1 none_written i
  have recorded : traceAs ⟨s.boot, s.clk⟩ ck (m.ctx ck) b none m1
      = m2.modDie (ck / 768) fun x => { x with trc := { x.trc with tail := x.trc.tail + 1 } } :=
    traceIssue_of_turn hy mode running chosen turn en room hword written
  rw [recorded] at mem dies
  refine ⟨mem, ?_⟩
  rw [Mach.die, dies]
  exact congrArg (fun x : Die => x.trc.tail) (Mach.die_modDie_same m2 (ck / 768) _)

/-! ### The return from a user interrupt -/

include judged hm1 out halt haltPend yield_ here in
theorem bundleIssue_returns (ret : m1.issue.start.retPend = 1) (none_written : m1.issue.newCsr = []) :
    exec (.bundleIssue d r) s = s.nextWith (pickCur (coreKey d.val r.val)
      (returnFromInterrupt ⟨s.boot, s.clk⟩ ck (s.clk.cycle + 1)
        (m1.issue.start.pend.getD ((m1.ctx ck).csr.uiepc.setWidth 64))
        ((wentOn s ck b m m1.issue).modCtx ck fun c => { c with retPend := 0 }))) := by
  obtain ⟨issue, w, ctx⟩ := countedBundle_keeps (e := ⟨s.boot, s.clk⟩) ck b m
  obtain ⟨kck, khalt, khaltPend⟩ := counted_going hm1 halt haltPend here
  rw [bundleIssue_go judged, issueBundle_going (hm1 ▸ out)]
  rw [← hm1] at issue ctx
  have ended := endBundle_returns (e := ⟨s.boot, s.clk⟩) (b := b) khalt khaltPend (issue ▸ yield_) (issue ▸ ret)
  have uiepc : ((countedBundle ⟨s.boot, s.clk⟩ ck b m).ctx ck).csr.uiepc = (m1.ctx ck).csr.uiepc := congrArg (·.csr.uiepc) ctx
  rw [settle_of_no_writes (by rw [issue, none_written]), Mach.cur, kck, issue, uiepc] at ended
  rw [wentOn, Mach.endedAt, issue]
  exact congrArg (fun n => s.nextWith (pickCur (coreKey d.val r.val) n)) ended

include hm1 halt haltPend here in
/-- What a context that returns from a user interrupt has (R130). -/
theorem returned_ctx {t : Nat} {target : W64} (none_written : m1.issue.newCsr = [])
    (untraced : (m1.die (ck / 768)).trcCtl = 0)
    (clean : m1.homeClean 0 (frameAddr m1 (ck / 768) (m1.ctx ck).frame + 0x6700) = true)
    (aligned : frameAddr m1 (ck / 768) (m1.ctx ck).frame % 128 = 0) :
    ∃ c, (returnFromInterrupt ⟨s.boot, s.clk⟩ ck t target
        ((wentOn s ck b m m1.issue).modCtx ck fun c => { c with retPend := 0 })).ctx ck = c
      ∧ c.csr.inui = false ∧ c.pc = target ∧ c.pend = none ∧ c.retPend = 0
      ∧ c.p = m1.byteAt (frameAddr m1 (ck / 768) (m1.ctx ck).frame + 0x6700) ||| 1
      ∧ c.g = (m1.ctx ck).g ∧ c.shadow = (m1.ctx ck).shadow ∧ c.v = (m1.ctx ck).v ∧ c.uiq = (m1.ctx ck).uiq := by
  obtain ⟨c, hc, -, -, -, -, g, v, -, -, -, -, shadow, uiq, frame⟩ := wentOn_ctx hm1 halt haltPend here
  obtain ⟨mem, memChk, l2, dies, -⟩ := wentOn_untraced hm1 rfl none_written m1.issue (.inl (by rw [untraced]))
  generalize hk : (wentOn s ck b m m1.issue).modCtx ck _ = k
  have kctx : k.ctx ck = { c with retPend := 0 } := by rw [← hk, Mach.ctx_modCtx_same, ← hc]
  have kmem : k.mem = m1.mem := by rw [← hk]; exact mem
  have kmemChk : k.memChk = m1.memChk := by rw [← hk]; exact memChk
  have kl2 : k.l2 = m1.l2 := by rw [← hk]; exact l2
  have kframe : frameAddr k (ctxDie ck) (k.ctx ck).frame = frameAddr m1 (ck / 768) (m1.ctx ck).frame := by
    have kdies : k.dies = m1.dies := by rw [← hk]; exact dies
    rw [kctx, frameAddr, frameAddr, Mach.die, kdies, ← frame]
    rfl
  obtain ⟨c', hc', csr, pc, pend, ret, p, g', shadow', v', uiq'⟩ := returnFromInterrupt_ctx (e := ⟨s.boot, s.clk⟩)
    (t := t) (target := target) (by rw [kframe, homeClean_congr kl2 kmem kmemChk]; exact clean) (kframe ▸ aligned)
  rw [kctx] at csr ret g' shadow' v' uiq'
  rw [kframe, byteAt_eq, lineAt_congr kl2 kmem, ← byteAt_eq] at p
  exact ⟨c', hc', by rw [csr], pc, pend, ret, p, g'.trans g, shadow'.trans shadow, v'.trans v, uiq'.trans uiq⟩

end Sys2Proof.Machine
end

section
/-! PROOFS. The verdict on a bundle that issues: what preparing and fetching it leave, the faults that a fetch may have, and
the link of a call (R31, R125). -/

namespace Sys2Proof.Machine

variable {s : State} {e : Env} {m n : Mach}

/-! ### Preparing a context -/

/-- A resumed context restored and its fences settled: its place stays. -/
theorem prepare_keeps (ck : Nat) (m : Mach) : ((prepare e ck m).ctx ck).pc = (m.ctx ck).pc
    ∧ ((prepare e ck m).ctx ck).link = (m.ctx ck).link := by
  have settled (k : Mach) : ((settleFences e ck k).ctx ck).pc = (k.ctx ck).pc
      ∧ ((settleFences e ck k).ctx ck).link = (k.ctx ck).link := by
    have regs := registers_of_regs (settleFencesWith_regs false e ck k) ck
    exact ⟨congrArg (·.pc) regs, congrArg (·.link) regs⟩
  unfold prepare
  dsimp only
  split
  · obtain ⟨ports, latches, res, bad, restored⟩ := restoreFrom_ctx (e := e) ck 0x1000 e.clk.cycle m
    generalize restoreFrom e ck 0x1000 e.clk.cycle m = k at restored ⊢
    have resumed : ((k.modCtx ck fun c => { c with restore := false, lastIssue := e.clk.cycle - 1 }).ctx ck).pc = (m.ctx ck).pc
        ∧ ((k.modCtx ck fun c => { c with restore := false, lastIssue := e.clk.cycle - 1 }).ctx ck).link
          = (m.ctx ck).link := by
      rw [Mach.ctx_modCtx_same, restored]
      exact ⟨rfl, rfl⟩
    exact ⟨(settled _).1.trans resumed.1, (settled _).2.trans resumed.2⟩
  · exact settled m

/-! ### Fetching -/

theorem fetchBlock_beyondHome (d frame va : Nat) (m : Mach) : (fetchBlock e d frame va m).2.beyondHome = m.beyondHome := by
  unfold fetchBlock
  split
  · rfl
  · have walked : (walk e d va m).2.beyondHome = m.beyondHome := walkWith_beyondHome event_staysHome e d va m
    dsimp only
    split
    · exact walked
    · split
      · exact walked
      · exact (homeRead_beyondHome _ _ _ _ _).trans walked

theorem fetchMemory_beyondHome (d frame : Nat) (a : W64) (m : Mach) :
    (fetchMemory e d frame a m).2.beyondHome = m.beyondHome := by
  have folded (l : List Nat) (p : List FetchBlock × Mach) : (l.foldl (fun (p : List FetchBlock × Mach) k =>
      let (x, m) := fetchBlock e d frame (a.toNat + 32 * (k + 1)) p.2
      (p.1 ++ [x], m)) p).2.beyondHome = p.2.beyondHome := by
    induction l generalizing p with
    | nil => rfl
    | cons k l ih => exact (ih _).trans (fetchBlock_beyondHome d frame _ p.2)
  unfold fetchMemory
  split
  · rfl
  · split
    · rfl
    · dsimp only
      split
      · exact fetchBlock_beyondHome _ _ _ _
      · split
        · exact (folded _ _).trans (fetchBlock_beyondHome _ _ _ _)
        · split <;> exact (folded _ _).trans (fetchBlock_beyondHome _ _ _ _)

/-- What a core takes of what its memory holds and of an older bundle that it still holds (R214). -/
def takeFetched (core : Nat) (a : W64) (q : Fetched × Mach) : Fetched × Mach :=
  match bufferedBundle (q.2.core core) a.toNat with
  | some old =>
    if q.1.stale old then
      (if Config.fetchOld q.2.seed then Fetched.ok old else q.1, { q.2 with seed := q.2.seed + 1 })
    else (q.1, q.2)
  | none => (q.1, q.2)

/-- A core holds a bundle that it has fetched, whose blocks it has not held are charged. -/
def holdFetched (e : Env) (core frame : Nat) (a : W64) (q : Fetched × Mach) : Fetched × Mach :=
  match q.1 with
  | .ok bs =>
    let held := (q.2.core core).fetchBuf
    let new := (bs.zipIdx.filter fun p => held.find (a.toNat + 32 * p.2) != some p.1).length
    (q.1, (chargeHub e ⟨1, coreDie core, frame⟩ (32 * new) q.2).modCore core fun k =>
      { k with fetchBuf := bs.zipIdx.foldl (fun b p => b.put (a.toNat + 32 * p.2) p.1) k.fetchBuf })
  | _ => (q.1, q.2)

theorem fetch_eq (core frame : Nat) (a : W64) (m : Mach) : fetch e core frame a m
    = holdFetched e core frame a (takeFetched core a (fetchMemory e (coreDie core) frame a m)) := rfl

theorem takeFetched_keeps (core : Nat) (a : W64) (q : Fetched × Mach) :
    ((takeFetched core a q).1 = q.1 ∨ ∃ bs, (takeFetched core a q).1 = .ok bs) ∧ (takeFetched core a q).2.ctxs = q.2.ctxs := by
  unfold takeFetched
  cases bufferedBundle (q.2.core core) a.toNat with
  | none => exact ⟨.inl rfl, rfl⟩
  | some old =>
    dsimp only
    split
    · refine ⟨?_, rfl⟩
      dsimp only
      split
      · exact .inr ⟨old, rfl⟩
      · exact .inl rfl
    · exact ⟨.inl rfl, rfl⟩

theorem holdFetched_keeps (core frame : Nat) (a : W64) (q : Fetched × Mach) :
    (holdFetched e core frame a q).1 = q.1 ∧ (holdFetched e core frame a q).2.ctxs = q.2.ctxs := by
  obtain ⟨f, m⟩ := q
  cases f with
  | fault c => exact ⟨rfl, rfl⟩
  | absent va => exact ⟨rfl, rfl⟩
  | ok bs =>
    refine ⟨rfl, ?_⟩
    have charged (bytes : Nat) : (chargeHub e ⟨1, coreDie core, frame⟩ bytes m).ctxs = m.ctxs :=
      ctxs_of_beyondHome (chargeHub_beyondHome _ _ _ _)
    exact charged _

/-- A bundle comes from memory, or an older one that the core still holds does. -/
theorem fetch_of_memory (core frame : Nat) (a : W64) (m : Mach) :
    ((fetch e core frame a m).1 = (fetchMemory e (coreDie core) frame a m).1 ∨ ∃ bs, (fetch e core frame a m).1 = .ok bs)
      ∧ ∀ k, (fetch e core frame a m).2.ctx k = m.ctx k := by
  obtain ⟨taken, ctxs⟩ := takeFetched_keeps core a (fetchMemory e (coreDie core) frame a m)
  obtain ⟨held, ctxs'⟩ := holdFetched_keeps (e := e) core frame a (takeFetched core a (fetchMemory e (coreDie core) frame a m))
  rw [fetch_eq, held]
  refine ⟨taken, fun k => ?_⟩
  rw [Mach.ctx, ctxs', ctxs, ctxs_of_beyondHome (fetchMemory_beyondHome _ _ _ _)]
  rfl

/-! ### The verdict -/

theorem eq_of_ite_eq_of_ne {α : Type} {p : Prop} [Decidable p] {x y z : α} (h : (if p then x else y) = z) (hx : x ≠ z) : y = z := by
  split at h
  · exact absurd h hx
  · exact h

/-- A bundle that issues was fetched; what issues it then leaves the contexts but for their stores. -/
theorem judgeIssue_go {ck : Nat} {b : Bundle} (h : judgeIssue e ck m = (.go b, n)) : ∃ k bs,
    fetch e (ctxCore ck) (m.ctx ck).frame ((prepare e ck m).ctx ck).pc (prepare e ck m) = (.ok bs, k) ∧ b = bundleOf bs
      ∧ n.calm = (formLink e ck b k).calm := by
  unfold judgeIssue at h
  replace h := eq_of_ite_eq_of_ne h (by simp)
  dsimp only at h
  generalize fetch e (ctxCore ck) (m.ctx ck).frame ((prepare e ck m).ctx ck).pc (prepare e ck m) = q at h ⊢
  obtain ⟨f, k⟩ := q
  cases f with
  | fault c => dsimp only at h; split at h <;> simp at h
  | absent va => dsimp only at h; split at h <;> simp at h
  | ok bs =>
    dsimp only at h
    iterate 9 replace h := eq_of_ite_eq_of_ne h (by simp)
    simp only [Prod.mk.injEq, IssueVerdict.go.injEq] at h
    obtain ⟨rfl, rfl⟩ := h
    refine ⟨k, bs, rfl, rfl, ?_⟩
    split
    · exact writeBackAll_calm _ _ _ _
    · rfl

theorem formLink_link {ck : Nat} {b : Bundle} (called : (m.ctx ck).link = true) :
    ((formLink e ck b m).ctx ck).link = false ∧ ((formLink e ck b m).ctx ck).pc = (m.ctx ck).pc
      ∧ ({ latch := 12, value := ((m.ctx ck).pc + b.size).setWidth 512, due := e.clk.cycle, wait := .none, buf := [] } : Res)
        ∈ ((formLink e ck b m).ctx ck).res := by
  unfold formLink
  rw [if_pos called, Mach.ctx_modCtx_same]
  exact ⟨rfl, rfl, by simp⟩

/-- The link of a call is due as its delay bundle issues (R125). -/
theorem link_of_judged {d : Fin 16} {r : Fin 192} {ck : Nat} {b : Bundle} (judged : s.Judged d.val r.val ck (.go b) m)
    (called : ((pickCur (coreKey d.val r.val) s.m).ctx ck).link = true) : (m.ctx ck).link = false
      ∧ (m.ctx ck).pc = ((pickCur (coreKey d.val r.val) s.m).ctx ck).pc
      ∧ ({ latch := 12, value := ((m.ctx ck).pc + BitVec.ofNat 64 (32 * (1 + b.lx))).setWidth 512, due := s.clk.cycle,
           wait := .none, buf := [] } : Res) ∈ (m.ctx ck).res := by
  obtain ⟨-, -, -, verdict⟩ := judged
  obtain ⟨k, bs, fetched, -, calm⟩ := judgeIssue_go verdict
  obtain ⟨pc, link⟩ := prepare_keeps (e := ⟨s.boot, s.clk⟩) ck (pickCur (coreKey d.val r.val) s.m)
  have ctx := (fetch_of_memory (e := ⟨s.boot, s.clk⟩) (ctxCore ck) ((pickCur (coreKey d.val r.val) s.m).ctx ck).frame
    ((prepare ⟨s.boot, s.clk⟩ ck (pickCur (coreKey d.val r.val) s.m)).ctx ck).pc
    (prepare ⟨s.boot, s.clk⟩ ck (pickCur (coreKey d.val r.val) s.m))).2 ck
  rw [fetched] at ctx
  dsimp only at ctx
  obtain ⟨taken, place, due⟩ := formLink_link (e := ⟨s.boot, s.clk⟩) (b := b) (by rw [ctx, link, called])
  have kept := ctx_of_calm calm ck
  have mpc : (m.ctx ck).pc = (k.ctx ck).pc := (congrArg (·.pc) kept).trans place
  refine ⟨(congrArg (·.link) kept).trans taken, mpc.trans ((congrArg (·.pc) ctx).trans pc), ?_⟩
  rw [mpc]
  exact (congrArg (·.res) kept : (m.ctx ck).res = _) ▸ due

end Sys2Proof.Machine
end

section
/-! PROOFS. What memory gives a fetch: the faults of R31 in their order, and the blocks of a bundle (R30, R214). -/

namespace Sys2Proof.Machine

variable {e : Env} {m n : Mach} {d frame : Nat}

/-! ### One block -/

section block

variable {va : Nat} (within : va < 2 ^ 48)
include within

theorem fetchBlock_of_no_leaf (walked : walk e d va m = (none, n)) : fetchBlock e d frame va m = (⟨none, none⟩, n) := by
  unfold fetchBlock
  rw [if_neg (by omega), walked]

theorem fetchBlock_of_absent {p : Nat} {f : Leaf} (walked : walk e d va m = (some (p, f), n)) (absent : f.pr = false) :
    fetchBlock e d frame va m = (⟨some f, none⟩, n) := by
  unfold fetchBlock
  rw [if_neg (by omega), walked]
  simp only [absent, Bool.not_false, if_true]

theorem fetchBlock_of_read {p : Nat} {f : Leaf} {g : Got} {k : Mach} (walked : walk e d va m = (some (p, f), n))
    (present : f.pr = true) (read : homeRead e ⟨1, d, frame⟩ f.legend ((f.pa + va % 2 ^ 21) / 128) n = (g, k)) :
    fetchBlock e d frame va m = (⟨some f, if g.sev = 3 then none
      else some (BitVec.ofNat 256 (laneN g.data 256 ((f.pa + va % 2 ^ 21) % 128 / 32)))⟩, k) := by
  unfold fetchBlock
  rw [if_neg (by omega), walked]
  simp only [present, Bool.not_true, Bool.false_eq_true, if_false]
  rw [read]

end block

/-! ### A bundle's address and header -/

theorem fetchMemory_beyond {a : W64} (h : 2 ^ 48 ≤ a.toNat) : (fetchMemory e d frame a m).1 = .fault 5 := by
  have := a.isLt
  unfold fetchMemory
  rw [if_pos (by rw [fld_eq]; omega)]
  rfl

theorem fetchMemory_misaligned {a : W64} (within : a.toNat < 2 ^ 48) (h : a.toNat % 32 ≠ 0) :
    (fetchMemory e d frame a m).1 = .fault 3 := by
  unfold fetchMemory
  rw [if_neg (by rw [fld_eq]; omega), if_pos h]
  rfl

theorem blockWord_zero (b : BitVec 256) : (blockWord b 0).toNat = b.toNat % 2 ^ 32 := by
  simp [blockWord]

theorem decodeHeader_eq (b : BitVec 256) : decodeHeader (blockWord b 0) =
    if b.toNat % 2 ^ 32 / 2 ^ 30 = 2 ∧ b.toNat % 2 ^ 32 / 2 ^ 28 % 4 ≠ 3 ∧ b.toNat % 2 ^ 32 % 2 ^ 24 = 0 then
      some (b.toNat % 2 ^ 32 / 2 ^ 28 % 4, b.toNat % 2 ^ 32 / 2 ^ 24 % 16)
    else none := by
  have top : fld (b.toNat % 2 ^ 32) 31 30 = b.toNat % 2 ^ 32 / 2 ^ 30 := by rw [fld_eq]; omega
  unfold decodeHeader
  simp only [blockWord_zero, top, fld_eq]
  norm_num

theorem headerFault_ext {b : BitVec 256} (h : b.toNat % 2 ^ 32 / 2 ^ 30 = 3) : headerFault b = some 4 := by
  unfold headerFault
  rw [if_pos (by rw [fld_eq, blockWord_zero]; omega)]
  rfl

theorem headerFault_illegal {b : BitVec 256} (h : b.toNat % 2 ^ 32 / 2 ^ 30 < 2
    ∨ b.toNat % 2 ^ 32 / 2 ^ 30 = 2 ∧ (b.toNat % 2 ^ 32 / 2 ^ 28 % 4 = 3 ∨ b.toNat % 2 ^ 32 % 2 ^ 24 ≠ 0)) :
    headerFault b = some 2 := by
  have none_ : decodeHeader (blockWord b 0) = none := by rw [decodeHeader_eq, if_neg (by omega)]
  unfold headerFault
  rw [if_neg (by rw [fld_eq, blockWord_zero]; omega), none_]
  rfl

/-- A header that names no reserved value, with its number of extension blocks (R30). -/
theorem headerFault_of_header {b : BitVec 256} {lx : Nat} (lx2 : lx < 3) (h : b.toNat % 2 ^ 32 / 2 ^ 28 = 8 + lx)
    (zero : b.toNat % 2 ^ 32 % 2 ^ 24 = 0) : headerFault b = none ∧ extBlocks b = lx := by
  have some_ : decodeHeader (blockWord b 0) = some (lx, b.toNat % 2 ^ 32 / 2 ^ 24 % 16) := by
    rw [decodeHeader_eq, if_pos (by omega), show b.toNat % 2 ^ 32 / 2 ^ 28 % 4 = lx by omega]
  unfold headerFault extBlocks
  rw [if_neg (by rw [fld_eq, blockWord_zero]; omega), some_]
  exact ⟨rfl, rfl⟩

/-! ### The blocks of a bundle -/

section bundle

variable {a : W64} (within : a.toNat < 2 ^ 48) (aligned : a.toNat % 32 = 0)
include within aligned

theorem fetchMemory_headerFault {leaf : Option Leaf} {b : BitVec 256} {c : Nat}
    (block : fetchBlock e d frame a.toNat m = (⟨leaf, some b⟩, n)) (fault : headerFault b = some c) :
    (fetchMemory e d frame a m).1 = .fault c := by
  unfold fetchMemory
  rw [if_neg (by rw [fld_eq]; omega), if_neg (by omega), block]
  simp only [Option.bind_some, fault]

theorem fetchMemory_unread {leaf : Option Leaf} {f : Fetched} (block : fetchBlock e d frame a.toNat m = (⟨leaf, none⟩, n))
    (fault : FetchBlock.fault ⟨leaf, none⟩ a.toNat = some f) : (fetchMemory e d frame a m).1 = f := by
  unfold fetchMemory
  rw [if_neg (by rw [fld_eq]; omega), if_neg (by omega), block]
  simp [fault]

theorem fetchMemory_one {leaf : Option Leaf} {b : BitVec 256} (block : fetchBlock e d frame a.toNat m = (⟨leaf, some b⟩, n))
    (header : headerFault b = none) (ext : extBlocks b = 0) : (fetchMemory e d frame a m).1
      = (FetchBlock.fault ⟨leaf, some b⟩ a.toNat).getD (.ok [b]) := by
  unfold fetchMemory
  rw [if_neg (by rw [fld_eq]; omega), if_neg (by omega), block]
  simp only [Option.bind_some, header, Option.map_some, Option.getD_some, ext, List.range_zero, List.foldl_nil,
    List.any_nil, Bool.false_eq_true, if_false, List.zipIdx_singleton, List.findSome?_singleton, Nat.mul_zero, Nat.add_zero]
  cases FetchBlock.fault ⟨leaf, some b⟩ a.toNat <;> rfl

theorem fetchMemory_two {leaf : Option Leaf} {b y : BitVec 256} {x : FetchBlock} {k : Mach}
    (block : fetchBlock e d frame a.toNat m = (⟨leaf, some b⟩, n)) (header : headerFault b = none) (ext : extBlocks b = 1)
    (second : fetchBlock e d frame (a.toNat + 32) n = (x, k)) (bits : x.bits = some y) :
    (y.toNat % 2 ^ 32 ≠ 0xC0000000 → (fetchMemory e d frame a m).1 = .fault 2)
    ∧ (y.toNat % 2 ^ 32 = 0xC0000000 → FetchBlock.fault ⟨leaf, some b⟩ a.toNat = none →
        x.fault (a.toNat + 32) = none → (fetchMemory e d frame a m).1 = .ok [b, y]) := by
  have tag : (blockWord y 0 != extTag) = decide (y.toNat % 2 ^ 32 ≠ 0xC0000000) := by
    rw [Bool.eq_iff_iff, bne_iff_ne, decide_eq_true_iff, ← blockWord_zero, Ne, ← BitVec.toNat_inj]
    rfl
  unfold fetchMemory
  rw [if_neg (by rw [fld_eq]; omega), if_neg (by omega), block]
  simp only [Option.bind_some, header, Option.map_some, Option.getD_some, ext, List.range_one, List.foldl_cons,
    List.foldl_nil, Nat.zero_add, Nat.mul_one, second, List.nil_append, List.any_cons, List.any_nil, Bool.or_false, bits, tag,
    decide_eq_true_eq]
  refine ⟨fun other => ?_, fun same whole whole' => ?_⟩
  · rw [if_pos other]
    rfl
  · rw [if_neg (not_not_intro same)]
    simp [whole, whole', bits]

end bundle

end Sys2Proof.Machine
end

section
/-! PROOFS. A fetch from its translation on: absent and undeclared pages, poison, the header and the blocks (R30, R31,
R214). -/

namespace Sys2Proof.Machine

variable {e : Env} {m n : Mach} {d frame : Nat}

/-- The first word of a block of a line. -/
theorem block_word (data j : Nat) :
    (BitVec.ofNat 256 (laneN data 256 j)).toNat % 2 ^ 32 = data / 2 ^ (8 * (j * 32)) % 2 ^ 32 := by
  rw [BitVec.toNat_ofNat, Nat.mod_mod_of_dvd _ ⟨2 ^ 224, by norm_num⟩, laneN, Nat.mod_mod_of_dvd _ ⟨2 ^ 224, by norm_num⟩,
    Nat.shiftRight_eq_div_pow, show 256 * j = 8 * (j * 32) by omega]

section translated

variable {a : W64} (within : a.toNat < 2 ^ 48) (aligned : a.toNat % 32 = 0)
include within aligned

theorem fetchMemory_undeclared (walked : walk e d a.toNat m = (none, n)) : (fetchMemory e d frame a m).1 = .fault 6 :=
  fetchMemory_unread within aligned (fetchBlock_of_no_leaf within walked) rfl

section leaf

variable {p : Nat} {f : Leaf} (walked : walk e d a.toNat m = (some (p, f), n))
include walked

theorem fetchMemory_absent (absent : f.pr = false) :
    (f.x = false → (fetchMemory e d frame a m).1 = .fault 6) ∧ (f.x = true → (fetchMemory e d frame a m).1 = .absent a.toNat) := by
  have block := fetchBlock_of_absent (frame := frame) within walked absent
  refine ⟨fun x => fetchMemory_unread within aligned block ?_, fun x => fetchMemory_unread within aligned block ?_⟩
  · simp only [FetchBlock.fault, x, Bool.not_false, if_true]
    rfl
  · simp only [FetchBlock.fault, x, absent, Bool.not_true, Bool.not_false, Bool.false_eq_true, if_false, if_true]

variable {g : Got} {k : Mach} (present : f.pr = true)
  (read : homeRead e ⟨1, d, frame⟩ f.legend ((f.pa + a.toNat % 2 ^ 21) / 128) n = (g, k))
include present read

theorem fetchMemory_poison (high : g.sev = 3) (x : f.x = true) : (fetchMemory e d frame a m).1 = .fault 9 := by
  have block := fetchBlock_of_read (frame := frame) within walked present read
  rw [if_pos high] at block
  refine fetchMemory_unread within aligned block ?_
  simp only [FetchBlock.fault, x, present, Bool.not_true, Bool.false_eq_true, if_false, Option.isNone_none, if_true]
  rfl

variable {w : Nat} (hw : w = g.data / 2 ^ (8 * ((f.pa + a.toNat % 2 ^ 21) % 128 / 32 * 32)) % 2 ^ 32) (low : g.sev ≠ 3)
include hw low

omit aligned in
/-- The block at the address of a fetch, with its header. -/
theorem fetchBlock_word : ∃ b : BitVec 256, fetchBlock e d frame a.toNat m = (⟨some f, some b⟩, k) ∧ b.toNat % 2 ^ 32 = w := by
  have block := fetchBlock_of_read (frame := frame) within walked present read
  rw [if_neg low] at block
  exact ⟨_, block, (block_word _ _).trans hw.symm⟩

theorem fetchMemory_header :
    (w / 2 ^ 30 = 3 → (fetchMemory e d frame a m).1 = .fault 4)
    ∧ (w / 2 ^ 30 < 2 ∨ w / 2 ^ 30 = 2 ∧ (w / 2 ^ 28 % 4 = 3 ∨ w % 2 ^ 24 ≠ 0) → (fetchMemory e d frame a m).1 = .fault 2) := by
  obtain ⟨b, block, word⟩ := fetchBlock_word (frame := frame) within walked present read hw low
  subst word
  exact ⟨fun ext => fetchMemory_headerFault within aligned block (headerFault_ext ext),
    fun illegal => fetchMemory_headerFault within aligned block (headerFault_illegal illegal)⟩

theorem fetchMemory_single (header : w / 2 ^ 28 = 8) (zero : w % 2 ^ 24 = 0) :
    (f.x = false → (fetchMemory e d frame a m).1 = .fault 6)
    ∧ (f.x = true → ∃ block : BitVec 256, (fetchMemory e d frame a m).1 = .ok [block] ∧ block.toNat % 2 ^ 32 = w) := by
  obtain ⟨b, block, word⟩ := fetchBlock_word (frame := frame) within walked present read hw low
  subst word
  obtain ⟨legal, ext⟩ := headerFault_of_header (lx := 0) (by omega) header zero
  rw [fetchMemory_one within aligned block legal ext]
  refine ⟨fun x => ?_, fun x => ⟨b, ?_, rfl⟩⟩
  · simp only [FetchBlock.fault, x, Bool.not_false, if_true]
    rfl
  · simp [FetchBlock.fault, x, present]

theorem fetchMemory_double {x : FetchBlock} {j : Mach} (second : fetchBlock e d frame (a.toNat + 32) k = (x, j))
    (header : w / 2 ^ 28 = 9) (zero : w % 2 ^ 24 = 0) {y : BitVec 256} (bits : x.bits = some y) :
    (y.toNat % 2 ^ 32 ≠ 0xC0000000 → (fetchMemory e d frame a m).1 = .fault 2)
    ∧ ∀ l : Leaf, y.toNat % 2 ^ 32 = 0xC0000000 → x.leaf = some l → l.x = true → l.pr = true → f.x = true →
        ∃ block : BitVec 256, (fetchMemory e d frame a m).1 = .ok [block, y] ∧ block.toNat % 2 ^ 32 = w := by
  obtain ⟨b, block, word⟩ := fetchBlock_word (frame := frame) within walked present read hw low
  subst word
  obtain ⟨legal, ext⟩ := headerFault_of_header (lx := 1) (by omega) header zero
  obtain ⟨untagged, whole⟩ := fetchMemory_two within aligned block legal ext second bits
  refine ⟨untagged, fun l tagged leaf lx lpr fx => ⟨b, whole tagged ?_ ?_, rfl⟩⟩
  · simp [FetchBlock.fault, fx, present]
  · simp [FetchBlock.fault, leaf, lx, lpr, bits]

end leaf

end translated

end Sys2Proof.Machine
end

section
/-! PROOFS. A bundle that is not fetched: the start of its stop, and the suspension of a task on an absent page (R31, R119,
R214). -/

namespace Sys2Proof.Machine

variable {s : State} {e : Env} {m n : Mach}

/-! ### The start of the stop -/

theorem regain_registers (now : Nat) (c : Ctx) : (c.regain now).registers = c.registers := by
  unfold Ctx.regain
  split
  · split <;> rfl
  · rfl

/-- A context with that random counter (R155). -/
def Ctx.counting (w : BitVec 40) (c : Ctx) : Ctx := { c with csr := { c.csr with rctr := w } }

/-- Beginning a bundle lands and brings back what is due, and changes no register of the context but its counter. -/
theorem beginIssue_ctx (ck : Nat) (b : Bundle) (m : Mach) : ∃ w, ((beginIssue e ck b m).ctx ck).registers
    = (m.ctx ck).registers.counting w := by
  have began : ((beginIssue e ck b m).ctx ck) = (((m.modCtx ck fun c => (landDue (e.clk.cycle - 1) c).regain e.clk.cycle).modCtx ck
      fun y => { y with csr := { y.csr with rctr := (((landDue e.clk.cycle ((m.modCtx ck fun c =>
        (landDue (e.clk.cycle - 1) c).regain e.clk.cycle).ctx ck)).resume).bind (·.rctr)).getD y.csr.rctr } }).ctx ck) := rfl
  have landed := (regain_registers e.clk.cycle (landDue (e.clk.cycle - 1) (m.ctx ck))).trans
    (landDue_registers (e.clk.cycle - 1) (m.ctx ck))
  rw [Mach.ctx_modCtx_same, Mach.ctx_modCtx_same] at began
  generalize (landDue (e.clk.cycle - 1) (m.ctx ck)).regain e.clk.cycle = c at landed began
  rw [began]
  exact ⟨((landDue e.clk.cycle c).resume.bind (·.rctr)).getD c.csr.rctr, congrArg (Ctx.counting _) landed⟩

theorem startDone_registers (c : Ctx) : startDone c.registers = startDone c := rfl

/-- The bundle that is begun: its context, its address and its done slots. -/
theorem beginIssue_issue (ck : Nat) (b : Bundle) (m : Mach) : (beginIssue e ck b m).issue.ck = ck
    ∧ (beginIssue e ck b m).issue.addr = (m.ctx ck).pc
    ∧ (beginIssue e ck b m).issue.done = startDone (m.ctx ck) := by
  have landed := (landDue_registers e.clk.cycle ((landDue (e.clk.cycle - 1) (m.ctx ck)).regain e.clk.cycle)).trans
    ((regain_registers e.clk.cycle (landDue (e.clk.cycle - 1) (m.ctx ck))).trans
      (landDue_registers (e.clk.cycle - 1) (m.ctx ck)))
  have here : (beginIssue e ck b m).issue.ck = ctxKey (ctxDie ck) (ctxCore ck % 192) (ck % 4) := rfl
  have addr : (beginIssue e ck b m).issue.addr = (landDue e.clk.cycle ((m.modCtx ck fun c =>
      (landDue (e.clk.cycle - 1) c).regain e.clk.cycle).ctx ck)).pc := rfl
  have done : (beginIssue e ck b m).issue.done = startDone (landDue e.clk.cycle ((m.modCtx ck fun c =>
      (landDue (e.clk.cycle - 1) c).regain e.clk.cycle).ctx ck)) := rfl
  rw [Mach.ctx_modCtx_same] at addr done
  refine ⟨?_, addr.trans (congrArg (·.pc) landed), done.trans ?_⟩
  · rw [here, ctxKey_eq, ctxDie, ctxCore]
    omega
  · rw [← startDone_registers, landed, startDone_registers]

/-- What the stop of a fetch starts from. -/
theorem beginFetchStop_spec (ck : Nat) (m : Mach) : (beginFetchStop e ck m).1.addr = (m.ctx ck).pc
    ∧ (beginFetchStop e ck m).1.slot = 8 ∧ (beginFetchStop e ck m).1.done = startDone (m.ctx ck)
    ∧ (beginFetchStop e ck m).2.issue.ck = ck
    ∧ ∃ w, ((beginFetchStop e ck m).2.ctx ck).registers = (m.ctx ck).registers.counting w := by
  obtain ⟨here, addr, done⟩ := beginIssue_issue (e := { e with clk := { e.clk with cycle := (m.ctx ck).lastIssue + 1 } })
    ck {} m
  exact ⟨addr, rfl, done, here, beginIssue_ctx ck {} m⟩

/-! ### What a stop leaves of the tasks -/

theorem modCtx_steady (m : Mach) (k : Nat) (f : Ctx → Ctx) : (m.modCtx k f).steady = m.steady := rfl

theorem settleFencesWith_steady (all : Bool) (ck : Nat) (m : Mach) : (settleFencesWith all e ck m).steady = m.steady := by
  refine foldl_steady (fun m f => ?_) _ _
  split
  · exact (modCtx_steady _ _ _).trans (steady_of_calm (act_calm e ck f m))
  · rfl

theorem settleStores_steady (ck : Nat) (sel : PStore → Bool) (m : Mach) : (settleStores e ck sel m).steady = m.steady :=
  steady_of_calm (settleStores_calm e ck sel m)

theorem settleSent_steady (f : Fence) (m : Mach) : (settleSent e f m).steady = m.steady := by
  unfold settleSent
  split
  · exact foldl_steady (fun m p => settleStores_steady _ _ m) _ _
  · rfl

theorem finishFences_steady (ck : Nat) (m : Mach) : (finishFences e ck m).steady = m.steady := by
  unfold finishFences
  split
  · rfl
  · exact (settleFencesWith_steady _ _ _).trans
      ((foldl_steady (fun m f => settleSent_steady f m) _ _).trans (settleStores_steady ck _ m))

theorem stopInto_steady (ck x cs : Nat) (snaps : List W512) (m : Mach) : (stopInto e ck x cs snaps m).steady = m.steady := by
  have settled (k : Mach) : (settleForStop e ck k).steady = k.steady :=
    (steady_of_eq rfl rfl).trans (finishFences_steady ck k)
  exact (steady_of_eq rfl rfl).trans ((writeFrame_steady _ _ _ _ _ _ _).trans
    ((steady_of_eq rfl rfl).trans ((settled _).trans (steady_of_eq rfl rfl))))

theorem saveStruck_steady (ck : Nat) (b : Struck) (reason : Nat) (m : Mach) : (saveStruck e ck b reason m).steady = m.steady :=
  (writeFrame_steady _ _ _ _ _ _ _).trans ((stopInto_steady _ _ _ _ _).trans (steady_of_eq rfl rfl))

theorem saveFrame_steady (ck : Nat) (resumeAt : W64) (done : BitVec 8) (reason : Nat) (pend : Option W64) (preds : BitVec 8)
    (m : Mach) : (saveFrame e ck resumeAt done reason pend preds m).steady = m.steady := writeFrame_steady _ _ _ _ _ _ _

theorem dropSegment_steady (now ck : Nat) (m : Mach) : (dropSegment now ck m).steady = m.steady := by
  unfold dropSegment
  split
  · rfl
  · exact steady_of_eq rfl rfl

/-! ### What a stop leaves of the context's frame -/

theorem writeFrame_ctx (d f off : Nat) (bs : List Byte) (bad : List Nat) (m : Mach) (k : Nat) :
    (writeFrame e d f off bs bad m).ctx k = m.ctx k :=
  congrArg (fun cs => SMap.get ({} : Ctx) cs k) (ctxs_of_beyondHome (writeFrame_beyondHome _ _ _ _ _ _ _))

theorem stopInto_frame (ck x cs : Nat) (snaps : List W512) (m : Mach) :
    ((stopInto e ck x cs snaps m).ctx ck).frame = (m.ctx ck).frame :=
  congrArg (·.frame) (registers_of_regs (stopInto_regs e ck x cs snaps m) ck)

theorem modCtx_frame (m : Mach) (ck : Nat) {f : Ctx → Ctx} (hf : ∀ c, (f c).frame = c.frame := by intro; rfl) :
    ((m.modCtx ck f).ctx ck).frame = (m.ctx ck).frame := by rw [Mach.ctx_modCtx_same, hf]

theorem saveStruck_frame (ck : Nat) (b : Struck) (reason : Nat) (m : Mach) :
    ((saveStruck e ck b reason m).ctx ck).frame = (m.ctx ck).frame := by
  unfold saveStruck
  dsimp only
  rw [writeFrame_ctx, stopInto_frame, standCounter, modCtx_frame, modCtx_frame]

theorem saveFrame_frame (ck : Nat) (resumeAt : W64) (done : BitVec 8) (reason : Nat) (pend : Option W64) (preds : BitVec 8)
    (m : Mach) : ((saveFrame e ck resumeAt done reason pend preds m).ctx ck).frame = (m.ctx ck).frame :=
  congrArg (·.frame) (writeFrame_ctx _ _ _ _ _ _ _)

theorem dropSegment_frame (now ck : Nat) (m : Mach) : ((dropSegment now ck m).ctx ck).frame = (m.ctx ck).frame := by
  unfold dropSegment
  split
  · rfl
  next g _ =>
    show (((m.modCtx ck (rewindCtx now g)).modCtx ck fun c => { c with seg := none }).ctx ck).frame = (m.ctx ck).frame
    rw [modCtx_frame, modCtx_frame]

/-! ### Suspension on an absent page -/

/-- The task of a context awaits that page. -/
def Mach.Awaits (m : Mach) (ck f page : Nat) : Prop :=
  (m.ctx ck).frame = f ∧ (m.task (taskKey (ctxDie ck) f)).page = some page

theorem awaits_of_steady {ck f page : Nat} (h : m.Awaits ck f page) (frame : (n.ctx ck).frame = (m.ctx ck).frame)
    (steady : n.steady = m.steady) : n.Awaits ck f page :=
  ⟨frame.trans h.1, (congrArg (·.page) (task_of_steady steady _) : (n.task (taskKey (ctxDie ck) f)).page = _).trans h.2⟩

/-- A context that is freed leaves its task in that state, with what it awaits. -/
theorem freeContext_task {ck f page : Nat} (st : TaskSt) (h : m.Awaits ck f page) :
    ((freeContext e ck st m).task (taskKey (ctxDie ck) f)).st = st
      ∧ ((freeContext e ck st m).task (taskKey (ctxDie ck) f)).page = some page := by
  have calm : (settleAll e ck (writeBackPeers e (ctxCore ck) m)).calm = m.calm :=
    (settleStores_calm _ _ _ _).trans (writeBackAll_calm _ _ _ _)
  obtain ⟨frame, due⟩ := awaits_of_steady h (congrArg (·.frame) (ctx_of_calm calm ck) :) (steady_of_calm calm)
  have left (k : Mach) : ∀ j, ((if (k.core (ctxCore ck)).cur = some (ck % 4) then leaveCore ck k else k).task j) = k.task j := by
    intro j
    split <;> rfl
  unfold freeContext
  dsimp only
  generalize settleAll e ck (writeBackPeers e (ctxCore ck) m) = k at frame due ⊢
  rw [Mach.task_setCtx, left, frame, Mach.task_modTask_same]
  exact ⟨rfl, due⟩

/-- A task that is suspended with its frame written awaits what it did. -/
theorem suspended_task {ck f page : Nat} (resumeAt : W64) (done : BitVec 8) (reason : Nat) (pend : Option W64)
    (preds : BitVec 8) (st : TaskSt) (h : m.Awaits ck f page) :
    ((freeContext e ck st (saveFrame e ck resumeAt done reason pend preds m)).task (taskKey (ctxDie ck) f)).page = some page
      ∧ ((freeContext e ck st (saveFrame e ck resumeAt done reason pend preds m)).task (taskKey (ctxDie ck) f)).st = st :=
  (freeContext_task st (awaits_of_steady h (saveFrame_frame _ _ _ _ _ _ _) (saveFrame_steady _ _ _ _ _ _ _))).symm

theorem takePageFault_spec {ck : Nat} (gaddr : W64) (b : Struck) (outside : (m.ctx ck).csr.intrap = false) :
    ((takePageFault e ck gaddr b m).task (taskKey (ctxDie ck) (m.ctx ck).frame)).page = some (fld gaddr.toNat 47 21)
      ∧ (((takePageFault e ck gaddr b m).task (taskKey (ctxDie ck) (m.ctx ck).frame)).st = .waitPage
        ∨ ((takePageFault e ck gaddr b m).ctx ck).st = .page) := by
  have due : (m.modTask (taskKey (ctxDie ck) (m.ctx ck).frame) fun t => { t with page := some (fld gaddr.toNat 47 21) }).Awaits
      ck (m.ctx ck).frame (fld gaddr.toNat 47 21) := ⟨rfl, by rw [Mach.task_modTask_same]⟩
  unfold takePageFault
  rw [if_neg (by simp [outside])]
  dsimp only
  generalize (m.modTask (taskKey (ctxDie ck) (m.ctx ck).frame) fun t => { t with page := some (fld gaddr.toNat 47 21) }) = k
    at due ⊢
  split
  · have dropped := awaits_of_steady due (dropSegment_frame e.clk.cycle ck k) (dropSegment_steady e.clk.cycle ck k)
    have stopped := awaits_of_steady dropped (stopInto_frame (e := e) ck 0x1000 b.cs [] _)
      (stopInto_steady ck 0x1000 b.cs [] _)
    exact (suspended_task _ _ _ _ _ _ stopped).imp_right .inl
  · have saved := awaits_of_steady due (saveStruck_frame (e := e) ck b 3 k) (saveStruck_steady ck b 3 k)
    generalize saveStruck e ck b 3 k = l at saved ⊢
    have hidden (x : Resume) : (l.modCtx ck fun c => { c with hid := some x, resume := none }).Awaits ck (m.ctx ck).frame
        (fld gaddr.toNat 47 21) := awaits_of_steady saved (modCtx_frame l ck) (modCtx_steady _ _ _)
    split
    · exact (suspended_task _ _ _ _ _ _ (hidden _)).imp_right .inl
    · refine ⟨saved.2, .inr ?_⟩
      rw [leaveCore_ctx, Mach.ctx_modCtx_same]

end Sys2Proof.Machine
end

section
/-! PROOFS. BUNDLE_ISSUE of a bundle that is not fetched: the fault that it raises, or the suspension of its task (R31, R119,
R214); and the settlement of O2. -/

namespace Sys2Proof.Machine

variable {s : State} {e : Env} {m n : Mach}

/-! ### The causes of a fetch's faults -/

theorem headerFault_cause {b : BitVec 256} {c : Nat} (h : headerFault b = some c) : c ≠ Cause.checkMismatch := by
  unfold headerFault at h
  split at h
  · exact Option.some.inj h ▸ by decide
  · split at h
    · exact Option.some.inj h ▸ by decide
    · cases h

theorem blockFault_cause {b : FetchBlock} {va c : Nat} (h : b.fault va = some (.fault c)) : c ≠ Cause.checkMismatch := by
  have known {k : Nat} (hk : some (Fetched.fault k) = some (.fault c)) : k = c := Fetched.fault.inj (Option.some.inj hk)
  unfold FetchBlock.fault at h
  split at h
  · exact known h ▸ by decide
  · split at h
    · exact known h ▸ by decide
    · split at h
      · cases h
      · split at h
        · exact known h ▸ by decide
        · cases h

theorem fetchMemory_cause {d frame c : Nat} {a : W64} (h : (fetchMemory e d frame a m).1 = .fault c) :
    c ≠ Cause.checkMismatch := by
  unfold fetchMemory at h
  split at h
  · exact Fetched.fault.inj h ▸ by decide
  · split at h
    · exact Fetched.fault.inj h ▸ by decide
    · dsimp only at h
      split at h
      next k bad =>
        obtain ⟨b, -, fault⟩ := Option.bind_eq_some_iff.1 bad
        exact Fetched.fault.inj h ▸ headerFault_cause fault
      next =>
        split at h
        · exact Fetched.fault.inj h ▸ by decide
        · split at h
          next f bad =>
            obtain ⟨p, -, fault⟩ := List.exists_of_findSome?_eq_some bad
            have raised : f = .fault c := h
            exact blockFault_cause (raised ▸ fault)
          next => cases h

/-- A fetch never raises CHECK_MISMATCH. -/
theorem judgeIssue_cause {ck c : Nat} (h : judgeIssue e ck m = (.fault c, n)) : c ≠ Cause.checkMismatch := by
  unfold judgeIssue at h
  replace h := eq_of_ite_eq_of_ne h (by simp)
  dsimp only at h
  obtain ⟨fetched, -⟩ := fetch_of_memory (e := e) (ctxCore ck) (m.ctx ck).frame ((prepare e ck m).ctx ck).pc (prepare e ck m)
  generalize fetch e (ctxCore ck) (m.ctx ck).frame ((prepare e ck m).ctx ck).pc (prepare e ck m) = q at h fetched
  obtain ⟨f, k⟩ := q
  cases f with
  | fault x =>
    obtain same | ⟨bs, other⟩ := fetched
    · dsimp only at h
      have verdict := congrArg Prod.fst h
      dsimp only at verdict
      have raised := eq_of_ite_eq_of_ne verdict (by simp)
      exact IssueVerdict.fault.inj raised ▸ fetchMemory_cause same.symm
    · cases other
  | absent va => dsimp only at h; split at h <;> simp at h
  | ok bs =>
    dsimp only at h
    iterate 9 replace h := eq_of_ite_eq_of_ne h (by simp)
    simp at h

/-! ### The two stops of a fetch -/

section verdict

variable {d : Fin 16} {r : Fin 192} {ck : Nat}

theorem bundleIssue_absent {va : Nat} (h : s.Judged d.val r.val ck (.absent va) m) : exec (.bundleIssue d r) s
    = s.nextWith (pickCur (coreKey d.val r.val) (fetchAbsent ⟨s.boot, s.clk⟩ ck va m)) :=
  congrArg s.nextWith (onVerdict_judged _ h)

theorem bundleIssue_fault {cause : Nat} (h : s.Judged d.val r.val ck (.fault cause) m) : exec (.bundleIssue d r) s
    = s.nextWith (pickCur (coreKey d.val r.val) (fetchFault ⟨s.boot, s.clk⟩ ck cause m)) :=
  congrArg s.nextWith (onVerdict_judged _ h)

end verdict

variable {ck : Nat}

theorem fetchAbsent_suspends (va : Nat) (outside : (m.ctx ck).csr.intrap = false) :
    ((fetchAbsent e ck va m).task (taskKey (ck / 768) (m.ctx ck).frame)).page = some (va / 2 ^ 21 % 2 ^ 27)
      ∧ (((fetchAbsent e ck va m).task (taskKey (ck / 768) (m.ctx ck).frame)).st = .waitPage
        ∨ ((fetchAbsent e ck va m).ctx ck).st = .page) := by
  obtain ⟨-, -, -, -, w, ctx⟩ := beginFetchStop_spec (e := e) ck m
  unfold fetchAbsent
  generalize beginFetchStop e ck m = q at ctx ⊢
  obtain ⟨b, k⟩ := q
  dsimp only at ctx ⊢
  have outside' : (k.ctx ck).csr.intrap = false := (congrArg (·.csr.intrap) ctx).trans outside
  have frame : (k.ctx ck).frame = (m.ctx ck).frame := congrArg (·.frame) ctx
  rw [if_neg (by simp [outside'])]
  obtain ⟨page, st⟩ := takePageFault_spec (e := e) (w64 va) b outside'
  have calm := traceIssue_calm (e := e) (ctxDie ck) (k.ctx ck).frame b.addr [] 1 (some 8) (takePageFault e ck (w64 va) b k)
  have task := task_of_steady (steady_of_calm calm) (taskKey (ctxDie ck) (k.ctx ck).frame)
  rw [← frame]
  have number : fld (w64 va).toNat 47 21 = va / 2 ^ 21 % 2 ^ 27 := by
    rw [fld_eq, w64, BitVec.toNat_ofNat]
    omega
  refine ⟨(congrArg (·.page) task).trans (page.trans (congrArg some number)), st.imp ?_ ?_⟩
  · exact (congrArg (·.st) task).trans
  · exact (congrArg (·.st) (ctx_of_calm calm ck)).trans

theorem fetchFault_traps {cause : Nat} (known : cause ≠ Cause.checkMismatch) (outside : (m.ctx ck).csr.intrap = false) :
    ∃ c, (fetchFault e ck cause m).ctx ck = c ∧ c.csr.tcause = BitVec.ofNat 8 cause ∧ c.csr.tval = (m.ctx ck).src
      ∧ c.csr.tslot = 8 ∧ c.csr.tdone = 0 ∧ c.csr.tbundle = (m.ctx ck).pc ∧ c.csr.ppriv = (m.ctx ck).csr.priv
      ∧ c.csr.priv = true ∧ c.csr.intrap = true
      ∧ c.pc = ((fetchFault e ck cause m).die (ck / 768)).tvec.setWidth 64
      ∧ c.ports = [] ∧ c.latches = [] ∧ c.res = []
      ∧ c.g = (m.ctx ck).g ∧ c.v = (m.ctx ck).v ∧ c.p = (m.ctx ck).p := by
  obtain ⟨addr, slot, done, here, w, ctx⟩ := beginFetchStop_spec (e := e) ck (m.modCtx ck fun c => { c with resume := none })
  rw [Mach.ctx_modCtx_same] at addr done ctx
  unfold fetchFault
  generalize beginFetchStop e ck (m.modCtx ck fun c => { c with resume := none }) = q at addr slot done here ctx ⊢
  obtain ⟨b, k⟩ := q
  dsimp only at addr slot done here ctx ⊢
  have src : (k.ctx ck).src = (m.ctx ck).src := congrArg (·.src) ctx
  have cur : k.cur = k.ctx ck := by rw [Mach.cur, here]
  obtain ⟨issue, trapped⟩ := takeTrap_spec e (k.ctx ck).src b known
    (by rw [cur]; exact (congrArg (·.csr.intrap) ctx).trans outside)
  rw [here] at issue
  rw [here, cur] at trapped
  have calm := traceIssue_calm (e := e) (ctxDie ck) (k.ctx ck).frame b.addr [] 1 (some 8) (takeTrap e ck cause (k.ctx ck).src b k)
  have tvec := tvec_of_steady (steady_of_calm calm) (ck / 768)
  generalize takeTrap e ck cause (k.ctx ck).src b k = l at trapped issue calm tvec ⊢
  generalize traceIssue e (ctxDie ck) (k.ctx ck).frame b.addr [] 1 (some 8) l = n at calm tvec ⊢
  have kept := ctx_of_calm calm ck
  obtain ⟨htcause, htval, htslot, htdone, htbundle, hppriv, hpriv, hintrap, hpc, -, hports, hlatches, hres, hg, hv, hp, -⟩ :=
    trapped (l.ctx ck) (by rw [Mach.cur, issue, here])
  refine ⟨_, rfl, (congrArg (·.csr.tcause) kept).trans htcause, (congrArg (·.csr.tval) kept).trans (htval.trans src),
    (congrArg (·.csr.tslot) kept).trans (htslot.trans slot), (congrArg (·.csr.tdone) kept).trans (htdone.trans done),
    (congrArg (·.csr.tbundle) kept).trans (htbundle.trans addr),
    (congrArg (·.csr.ppriv) kept).trans (hppriv.trans (congrArg (·.csr.priv) ctx)), (congrArg (·.csr.priv) kept).trans hpriv,
    (congrArg (·.csr.intrap) kept).trans hintrap, (congrArg (·.pc) kept).trans (hpc.trans (by rw [tvec])),
    (congrArg (·.ports) kept).trans hports, (congrArg (·.latches) kept).trans hlatches, (congrArg (·.res) kept).trans hres,
    (congrArg (·.g) kept).trans (hg.trans (congrArg (·.g) ctx)), (congrArg (·.v) kept).trans (hv.trans (congrArg (·.v) ctx)),
    (congrArg (·.p) kept).trans (hp.trans (congrArg (·.p) ctx))⟩

end Sys2Proof.Machine
end

section
/-! PROOFS. The settlement of O2. -/

namespace Sys2Proof.Machine

variable {s : State}

theorem task_of_tasks {m n : Mach} (h : n.tasks = m.tasks) (k : Nat) : n.task k = m.task k := by rw [Mach.task, h]; rfl
theorem die_of_dies {m n : Mach} (h : n.dies = m.dies) (k : Nat) : n.die k = m.die k := by rw [Mach.die, h]; rfl

section issued

variable {d : Fin 16} {r : Fin 192} {ck : Nat} {b : Bundle} {m m1 : Mach} (judged : s.Judged d.val r.val ck (.go b) m)
  (hm1 : m1 = slotsDone ⟨s.boot, s.clk⟩ ck b m) (out : m1.issue.out = .going) (halt : m1.issue.halt = false)
  (haltPend : (m1.ctx ck).haltPend = false) (yield_ : m1.issue.yield_ = false) (here : m1.issue.ck = ck)
include judged hm1 out halt haltPend yield_ here

/-- The next state of a bundle that no slot stops, from which its context goes on. -/
theorem bundleIssue_wentOn (ret : m1.issue.start.retPend = 0) : ∃ t, exec (.bundleIssue d r) s = .next t
    ∧ t.m.ctx ck = (wentOn s ck b m m1.issue).ctx ck ∧ t.m.mem = (wentOn s ck b m m1.issue).mem
    ∧ (t.m.die (ck / 768)) = (wentOn s ck b m m1.issue).die (ck / 768)
    ∧ ∀ k, t.m.task k = (wentOn s ck b m m1.issue).task k := by
  obtain ⟨-, mem, -, -, tasks, dies, -⟩ := pickCur_keeps (coreKey d.val r.val) (wentOn s ck b m m1.issue)
  exact ⟨_, bundleIssue_goesOn judged hm1 out halt haltPend yield_ here ret, ctx_pickCur _ _ _, mem, die_of_dies dies _,
    task_of_tasks tasks⟩

/-- The next state of the delay bundle of a return from a user interrupt. -/
theorem bundleIssue_returned (ret : m1.issue.start.retPend = 1) (none_written : m1.issue.newCsr = [])
    (untraced : (m1.die (ck / 768)).trcCtl = 0)
    (clean : m1.homeClean 0 (frameAddr m1 (ck / 768) (m1.ctx ck).frame + 0x6700) = true)
    (aligned : frameAddr m1 (ck / 768) (m1.ctx ck).frame % 128 = 0) :
    ∃ t, exec (.bundleIssue d r) s = .next t
      ∧ (t.m.ctx ck).csr.inui = false
      ∧ (t.m.ctx ck).pc = m1.issue.start.pend.getD ((m1.ctx ck).csr.uiepc.setWidth 64)
      ∧ (t.m.ctx ck).pend = none ∧ (t.m.ctx ck).retPend = 0
      ∧ (t.m.ctx ck).p = m1.byteAt (frameAddr m1 (ck / 768) (m1.ctx ck).frame + 0x6700) ||| 1
      ∧ (t.m.ctx ck).g = (m1.ctx ck).g ∧ (t.m.ctx ck).shadow = (m1.ctx ck).shadow
      ∧ (t.m.ctx ck).v = (m1.ctx ck).v ∧ (t.m.ctx ck).uiq = (m1.ctx ck).uiq
      ∧ ∀ n, 112 ≤ n → n < 128 → (t.m.ctx ck).readG n = (m1.ctx ck).g.get 0 n := by
  obtain ⟨c, hc, inui, pc, pend, retPend, p, g, shadow, v, uiq⟩ := returned_ctx (t := s.clk.cycle + 1)
    (target := m1.issue.start.pend.getD ((m1.ctx ck).csr.uiepc.setWidth 64)) hm1 halt haltPend here none_written untraced
    clean aligned
  refine ⟨_, bundleIssue_returns judged hm1 out halt haltPend yield_ here ret none_written, ?_⟩
  have ctx := (ctx_pickCur (coreKey d.val r.val) ck _).trans hc
  rw [ctx]
  refine ⟨inui, pc, pend, retPend, p, g, shadow, v, uiq, fun n low _ => ?_⟩
  rw [Ctx.readG, if_neg (by omega), inui, g]
  rfl

end issued

/-- Settles O2: the end of a bundle that no slot stops, its return, the link of a call, the fetch and its two stops, each by
its own lemma. -/
theorem bundleIssueRunsItsSlots : Obligations.BundleIssueRunsItsSlots := by
  unfold Obligations.BundleIssueRunsItsSlots
  refine ⟨fun s d r ck b m m1 judged hm1 out halt haltPend yield_ here => ⟨fun ret => ?_, fun ret none_written untraced clean
    aligned => bundleIssue_returned judged hm1 out halt haltPend yield_ here ret none_written untraced clean aligned⟩,
    fun s d r ck b m judged called => link_of_judged judged called,
    fun e d frame a m m' l walked => ⟨fetchMemory_beyond, fun within odd => fetchMemory_misaligned within odd,
      fun within aligned => ⟨fun none_ => ?_, fun p f leaf => ?_⟩⟩,
    fun s d r ck m outside => ⟨fun va judged => ?_, fun cause judged => ?_⟩⟩
  · obtain ⟨t, next, ctx, mem, die, task⟩ := bundleIssue_wentOn judged hm1 out halt haltPend yield_ here ret
    obtain ⟨c, hc, pc, pend, link, last, g, v, p, ports, res, csr, -⟩ := wentOn_ctx hm1 halt haltPend here
    refine ⟨t, next, ?_⟩
    rw [ctx, ← hc]
    refine ⟨pc, pend, link, last, g, v, p, ports, res, csr, fun tk f y hf htk hy none_written => ⟨fun untraced => ?_,
      fun word m2 mode running chosen turn en room hword written => ?_⟩⟩
    · subst hf htk
      obtain ⟨mem', -, -, dies, energy⟩ := wentOn_untraced hm1 hy none_written m1.issue untraced
      refine ⟨mem.trans mem', ?_, fun live => ?_⟩
      · rw [die, die_of_dies dies, hy]
      · rw [task]
        exact energy live
    · subst hf
      obtain ⟨mem', tail⟩ := wentOn_traced hm1 hy none_written m1.issue mode running chosen turn en room hword written
      exact ⟨mem.trans mem', by rw [die, tail]⟩
  · subst none_
    exact fetchMemory_undeclared within aligned walked
  · subst leaf
    refine ⟨fun absent => (fetchMemory_absent within aligned walked absent).1,
      fun absent => (fetchMemory_absent within aligned walked absent).2, fun g m2 w read present hw =>
      ⟨fetchMemory_poison within aligned walked present read, fun low => ?_⟩⟩
    obtain ⟨ext, illegal⟩ := fetchMemory_header within aligned walked present read hw low
    exact ⟨ext, illegal, fun header zero => (fetchMemory_single within aligned walked present read hw low header zero).1,
      fun header zero => (fetchMemory_single within aligned walked present read hw low header zero).2,
      fun x m3 second header zero y bits => fetchMemory_double within aligned walked present read hw low second header zero bits⟩
  · obtain ⟨page, st⟩ := fetchAbsent_suspends (e := ⟨s.boot, s.clk⟩) va outside
    obtain ⟨-, -, -, -, tasks, -⟩ := pickCur_keeps (coreKey d.val r.val) (fetchAbsent ⟨s.boot, s.clk⟩ ck va m)
    refine ⟨_, bundleIssue_absent judged, ?_⟩
    rw [task_of_tasks tasks, ctx_pickCur]
    exact ⟨page, st⟩
  · have ⟨_, _, _, verdict⟩ := judged
    obtain ⟨c, hc, trapped⟩ := fetchFault_traps (e := ⟨s.boot, s.clk⟩) (judgeIssue_cause verdict) outside
    obtain ⟨-, -, -, -, -, dies, -⟩ := pickCur_keeps (coreKey d.val r.val) (fetchFault ⟨s.boot, s.clk⟩ ck cause m)
    refine ⟨_, bundleIssue_fault judged, ?_⟩
    rw [ctx_pickCur, hc, die_of_dies dies]
    exact trapped

end Sys2Proof.Machine
end
